-- ==== Sys2Proof/Word.lean ====
section
/-! DEFINITION. The word types of the PM6 and their plainest arithmetic (spec/07_numbers.md R164, R166). -/

namespace Sys2Proof

/-- A 64-bit operand value (R247). -/
abbrev Word := BitVec 64
/-- One byte of any storage space. -/
abbrev Byte := BitVec 8
/-- A 16-byte value (R73, R179). -/
abbrev Quad := BitVec 128
/-- A shape record or a vector temporary (R272). -/
abbrev Row := BitVec 512

end Sys2Proof
end

