-- ==== Sys2Proof/Config.lean ====
section
/-! DEFINITION. What the manual leaves open: free values without a body (log 2, 9 to 12), and the figures of
spec/00_scope.md R1 that every package shares. -/

namespace Sys2Proof.Config

/-- The free choice among steps that may come next (R215, R127; log 2). DESIGN CHOICE, safe. -/
opaque pick : Nat → Nat
/-- Cycles that pass during a step: the manual's timing is left out (log 1). DESIGN CHOICE, safe. -/
opaque elapsed : Nat → Nat
/-- A free bit: which of two values an unordered reader sees (R25, R277; log 10). DESIGN CHOICE, safe. -/
opaque freeBit : Nat → Nat → Bool
/-- A free number: a replacement victim, a draw of power (R30, R474; log 12). DESIGN CHOICE, safe. -/
opaque freeNat : Nat → Nat
/-- The SHA3-256 digest of a byte list (R122, R430; log 11). DESIGN CHOICE, safe. -/
opaque sha3 : List Byte → BitVec 256
/-- Whether the two signatures of a SIGN section verify for a digest against the image keys (R194; log 11). DESIGN CHOICE, safe. -/
opaque signatureVerifies : BitVec 256 → List Byte → Bool
/-- The hash of a transcript of SPDM messages (R477; log 11). DESIGN CHOICE, safe. -/
opaque transcriptHash : List Byte → BitVec 256
/-- The security processor's answer, given the measurements and the transcript hash that it signs, to a request (R477; log 11). DESIGN CHOICE,
safe. -/
opaque spdmAnswer : List (List Byte) → BitVec 256 → List Byte → List Byte
/-- The answer with an SLH-DSA signature over a transcript hash to a request (R477; log 11). DESIGN CHOICE, safe. -/
opaque slhDsaSignature : BitVec 256 → List Byte → List Byte
/-- The security processor's ROM, which is measured (R477; log 11). DESIGN CHOICE, safe. -/
opaque rom : List Byte
/-- The image keys, which are measured (R194, R477; log 11). DESIGN CHOICE, safe. -/
opaque imageKeys : List Byte
/-- The last resort of a special function whose enclosure never separates (R287; log 13). DESIGN CHOICE, safe. -/
opaque specialFallback : Nat → Nat → Nat → Nat

/-- The firmware image that the boot flash of root die A holds at a step (R475; log 8). DESIGN CHOICE, safe. -/
opaque bootFlash : Nat → List Byte
/-- Whether the RSA-3072 signature of a firmware image verifies against a key hash (R475; log 11). DESIGN CHOICE, safe. -/
opaque rsaVerifies : BitVec 256 → List Byte → Bool
/-- Whether its SLH-DSA-SHAKE-128s signature does (R475; log 11). DESIGN CHOICE, safe. -/
opaque slhVerifies : BitVec 256 → List Byte → Bool
/-- The version of a firmware image (R475, R478; log 8). DESIGN CHOICE, safe. -/
opaque firmwareVersion : List Byte → BitVec 32

/-- R1: compute dies of a package. -/
def dies : Nat := 12
/-- R1: physical beds of a die. -/
def bedsPerDie : Nat := 16
/-- R1: tiles of a bed. -/
def tilesPerBed : Nat := 4
/-- R1: elements of a tile. -/
def elemsPerTile : Nat := 16
/-- R54: L2 slices of a die, sets of a slice, ways of a set. -/
def l2Slices : Nat := 48
/-- R54: sets of a slice. -/
def l2Sets : Nat := 256
/-- R54: ways of a set. -/
def l2Ways : Nat := 16
/-- Cycles of the 2.4 GHz clock in one microsecond (R1). -/
def cyclesPerUs : Nat := 2400

end Sys2Proof.Config
end

