-- ==== Sys2Proof/Syntax.lean ====
section
/-! DEFINITION. The abstract syntax of the PM6: one constructor for every row of spec/opcode_table.json, that is the 184
instruction words of spec/10_instruction_formats.md R243 and the 101 steps of the part's other agents. -/

namespace Sys2Proof

/-- A slot of a consumer (R226): operands a, b, c and the ordering input p. -/
inductive Slot where | a | b | c | p
  deriving DecidableEq, Repr

/-- An enabled guard (R227). -/
structure Guard where
  sense : Bool
  pred : BitVec 4
  deriving DecidableEq, Repr

/-- A valid consumer target (R229). -/
structure Target where
  idx : BitVec 7
  slot : Slot
  deriving DecidableEq, Repr

/-- The fields every instruction word shares (R226): guards, targets, cache hint, scheduling control. -/
structure Head where
  ga : Option Guard
  gb : Option Guard
  t0 : Option Target
  t1 : Option Target
  ch : BitVec 2
  sctl : BitVec 2
  deriving DecidableEq, Repr

/-- Operation width (R233, R248). -/
inductive Width where | w64 | w32 | w16 | w8
  deriving DecidableEq, Repr

/-- Operand b of an ALU instruction: slot b, or the 11-bit immediate (R233, R249). -/
inductive OpB where | slot | imm (v : BitVec 11)
  deriving DecidableEq, Repr

/-- Storage spaces (R6). -/
inductive Space where | gl | ds | bs | ts | ls | ch
  deriving DecidableEq, Repr

/-- Scopes (R133). -/
inductive Scope where | element | tile | bed | die | package | pod
  deriving DecidableEq, Repr

/-- Access sizes of LD and ST (R235). -/
inductive Size where | b1 | b2 | b4 | b8
  deriving DecidableEq, Repr

/-- Sizes of the single-word atomics and ACAS (R235). -/
inductive ASize where | b4 | b8
  deriving DecidableEq, Repr

/-- An atomic either synchronises at a scope or carries .c (R310, R311). -/
inductive AMode where | sync (sc : Scope) | comb
  deriving DecidableEq, Repr

/-- Element types (R237). -/
inductive Ty where
  | f32 | f16 | bf16 | e4m3 | e5m2 | i8 | i16 | i32 | i64 | w8 | w16 | w32 | w64 | ds8 | bx128
  deriving DecidableEq, Repr

/-- Rounding modes (R167). -/
inductive Rm where | rne | rtz | rup | rdn
  deriving DecidableEq, Repr

/-- Fields of a shape record that SHSET and SHGET name (R279). -/
inductive ShField where | hdr | base | ext0 | str0 | ext1 | str1 | ext2 | str2 | ext3 | str3
  deriving DecidableEq, Repr

/-- Conditions of VCMP (R291). -/
inductive Cond where | eq | ne | lt | le | gt | ge | ord | unord
  deriving DecidableEq, Repr

/-- Where VSCALE takes its exponent (R289). -/
inductive ScaleBy where | shape (sh : BitVec 3) | slot
  deriving DecidableEq, Repr

/-- The pass of VQNT (R290): the scale pass, or the element pass with its shape of scales. -/
inductive QntPass where | scales | elements (sh : BitVec 3)
  deriving DecidableEq, Repr

/-- Source types of VQNT (R290). -/
inductive QntSrc where | f32 | f16 | bf16
  deriving DecidableEq, Repr

/-- A task slot of an element of a tile, the tile by its identifier (R363). -/
structure TaskRef where
  tile : Nat
  elem : Nat
  slot : Nat
  deriving DecidableEq, Repr

/-- An element of a tile. -/
structure ElemRef where
  tile : Nat
  elem : Nat
  deriving DecidableEq, Repr

/-- The operands of a pending step that is no instruction word: one constructor for each such row of the table. They name the
pending work the step performs, or carry the input from outside the part. -/
inductive Work where
  -- blocks, activations, messages (R200 to R218, R420)
  | blockFetch (t : TaskRef)
  | blockCommit (t : TaskRef)
  | blockQuiescentFault (t : TaskRef)
  | activationStart (e : ElemRef)
  | taskPromote (t : TaskRef)
  | messageArrive (pkt : Nat)
  | bindingFill (t : TaskRef)
  | longLatencyResult (req : Nat)
  | rnextServe (req : Nat)
  | stageWaiterServe (bed q : Nat)
  | sleepExpire (req : Nat)
  | tlwaitTimeout (req : Nat)
  | tlbumpComplete (ctx tl n : Nat)
  | spillTimeout (e : ElemRef) (vc : Nat)
  -- frontier (R379 to R387), loops (R210)
  | batchApply (pkt : Nat)
  | frontierResume (die : Nat)
  | notificationArrive (note : Nat)
  | batchAck (t : TaskRef) (batch : Nat)
  | loopAdmit (load loop : Nat)
  -- fabric (R437 to R446)
  | packetAccept (pkt : Nat)
  | linkDisable (router port : Nat)
  | reductionNodeArrive (pkt : Nat)
  | reductionTimeout (load group node : Nat) (key : Nat)
  -- homes, agents and links (R69 to R91, R78 to R82)
  | homeAtomic (req : Nat)
  | aenqAtHome (req : Nat)
  | achaseHop (req : Nat)
  | structLdsAtAgent (req : Nat)
  | structStsAtAgent (req : Nat)
  | structStclrAtAgent (req : Nat)
  | readerCancel (req : Nat)
  | wenqAtTarget (req : Nat)
  | wenqHeadWake (req : Nat)
  | wenqRingTimeout (req : Nat)
  | linkRequestArrive (req sent : Nat)
  | linkRetransmit (req : Nat)
  | linkTimeout (req : Nat)
  | replyEntryAgeOut (agent : Nat)
  | l2Access (req : Nat)
  | l2FillComplete (line : Nat)
  | pageWalk (die : Nat)
  | walkComplete (die miss : Nat)
  | settleBackground (line : Nat)
  -- upkeep of HBM and L2 (R63 to R68, R472)
  | hbmRefresh (stack : Nat) (repair : Option Nat)
  | hbmScrub (unit : Nat) (correctable : Bool)
  | l2Scrub (line : Nat) (correctable : Bool)
  | l2FrameSpare (die slice set way : Nat)
  | pseudoChannelSpare (stack pc : Nat)
  | pseudoChannelCopyDone (stack pc : Nat)
  | stackDegrade (stack pc : Nat)
  -- engine commands (R339 to R350, R361, R392)
  | copyStart (tile cx : Nat)
  | copyStep (tile cx : Nat)
  | followOnStart (tile cmd : Nat)
  | macroLoad (tile cmd : Nat)
  | scaleTokenAccept (tile cmd : Nat)
  | mmaStart (tile cmd : Nat)
  | mmaComplete (tile cmd : Nat)
  | macclrPerform (tile cmd : Nat)
  | macstPerform (tile cmd : Nat)
  | canopyLoad (tile : Nat)
  | canopyStore (tile : Nat)
  -- launches and scheduling (R412 to R429, R471)
  | launchDoorbell (ctx q : Nat) (count : BitVec 32)
  | launchTake (ctx q : Nat)
  | determinismChange (ctx q : Nat)
  | loadPlace (load : Nat)
  | loadDrain (load : Nat)
  | preemptStart (load : Nat)
  | preemptSave (load : Nat)
  | loadResume (load : Nat)
  | bedFail (die bed : Nat)
  | pullQueuePull (ctx k : Nat)
  | trapRecordDeliver (ctx : Nat)
  -- links and host (R455, R460, R41, R463, R450, R478)
  | laneFail (port : Nat)
  | planeFail (plane : Nat)
  | hostCxlMemRead (pa size : Nat)
  | hostCxlMemWrite (pa : Nat) (bytes : List Byte)
  | translationInvalidatePage (ctx : Nat) (ctl : Word)
  | translationInvalidateAll (ctx : Nat) (ctl : Word)
  | tensorInvalidate (ctx : Nat) (ctl : Word)
  | invalidationComplete (ctx : Nat)
  | contextCreate (ctx : Nat) (ctl : Word)
  | contextDestroy (ctx : Nat) (ctl : Word)
  | identWrite (v : Word)
  | killQueue (v : Word)
  | killContext (v : Word)
  | killComplete
  | dbgRefire
  | dbgKill
  | dbgRefireSuppress
  | warmReset
  | coldReset
  | registerWrite (offset : Nat) (v : Word)
  | spdmRequest (bytes : List Byte)
  | spdmSlhDsaRequest (bytes : List Byte)
  | doeDiscovery (bytes : List Byte)
  -- power (R474, R475), flits and snoops (R437, R60)
  | powerGrant (demand : List Nat) (rootDraw : Nat)
  | thermalThrottle (die : Nat)
  | thermalRecover (die : Nat)
  | thermalShutdown (die : Nat)
  | flitResend (router port : Nat)
  | hostSnoop (line : Nat)
  | powerLoss
  deriving DecidableEq, Repr

/-- The steps of the PM6: one constructor per row of spec/opcode_table.json. A step that is no instruction word
finds its operands in the machine's cursor. -/
inductive Instr where
  -- integer, address and logic (R251)
  | illg
  | add (h : Head) (w : Width) (b : OpB)
  | sub (h : Head) (w : Width) (b : OpB)
  | mul (h : Head) (w : Width) (b : OpB)
  | mulh (h : Head) (w : Width) (b : OpB)
  | mulhw (h : Head) (w : Width) (b : OpB)
  | div (h : Head) (w : Width) (b : OpB)
  | divw (h : Head) (w : Width) (b : OpB)
  | rem (h : Head) (w : Width) (b : OpB)
  | remw (h : Head) (w : Width) (b : OpB)
  | neg (h : Head) (w : Width)
  | abs (h : Head) (w : Width)
  | min (h : Head) (w : Width) (b : OpB)
  | max (h : Head) (w : Width) (b : OpB)
  | minw (h : Head) (w : Width) (b : OpB)
  | maxw (h : Head) (w : Width) (b : OpB)
  | and (h : Head) (w : Width) (b : OpB)
  | or (h : Head) (w : Width) (b : OpB)
  | xor (h : Head) (w : Width) (b : OpB)
  | andn (h : Head) (w : Width) (b : OpB)
  | not (h : Head) (w : Width)
  | shl (h : Head) (w : Width) (b : OpB)
  | shr (h : Head) (w : Width) (b : OpB)
  | sar (h : Head) (w : Width) (b : OpB)
  | rot (h : Head) (w : Width) (b : OpB)
  | clz (h : Head) (w : Width)
  | ctz (h : Head) (w : Width)
  | popc (h : Head) (w : Width)
  | brev (h : Head) (w : Width)
  | bfx (h : Head) (w : Width) (b : OpB)
  | bfxw (h : Head) (w : Width) (b : OpB)
  | bfi (h : Head) (w : Width) (b : OpB)
  | lea (h : Head) (w : Width) (b : OpB)
  | mov (h : Head)
  | movi (h : Head) (k : BitVec 19)
  | movhi (h : Head) (q : BitVec 2) (chunk : BitVec 16)
  | sel (h : Head) (w : Width) (b : OpB)
  | sext (h : Head) (w : Width)
  | zext (h : Head) (w : Width)
  -- tests (R256, R257)
  | teq (h : Head) (w : Width) (b : OpB) (pd : Option (BitVec 4))
  | tne (h : Head) (w : Width) (b : OpB) (pd : Option (BitVec 4))
  | tlt (h : Head) (w : Width) (b : OpB) (pd : Option (BitVec 4))
  | tle (h : Head) (w : Width) (b : OpB) (pd : Option (BitVec 4))
  | tltw (h : Head) (w : Width) (b : OpB) (pd : Option (BitVec 4))
  | tlew (h : Head) (w : Width) (b : OpB) (pd : Option (BitVec 4))
  | tbit (h : Head) (w : Width) (b : OpB) (pd : Option (BitVec 4))
  | tnul (h : Head) (vc : BitVec 5) (pd : Option (BitVec 4))
  -- block and task control (R258 to R271)
  | read (h : Head) (r : BitVec 5) (te : Bool)
  | write (h : Head) (r : BitVec 5)
  | nul (h : Head) (store : Bool) (n : BitVec 5)
  | br (h : Head) (off : BitVec 13)
  | brx (h : Head)
  | jtab (h : Head) (off : BitVec 13)
  | call (h : Head) (off : BitVec 13)
  | ret (h : Head)
  | exit (h : Head)
  | fan (h : Head) (t2 : Target) (t3 : Option Target)
  | stamp (h : Head) (k : BitVec 2)
  | lpin (h : Head)
  | lpnext (h : Head)
  | lpout (h : Head)
  | send (h : Head) (port : BitVec 5)
  | sends (h : Head) (port : BitVec 5)
  | msg (h : Head) (port : BitVec 5)
  | notify (h : Head) (vc : BitVec 5)
  | rnext (h : Head)
  | rsplit (h : Head)
  | yield (h : Head)
  -- shape and vector (R279 to R295)
  | shdef (h : Head) (sh : BitVec 3) (num : BitVec 10)
  | shset (h : Head) (sh : BitVec 3) (f : ShField)
  | shget (h : Head) (sh : BitVec 3) (f : ShField)
  | shadv (h : Head) (sh : BitVec 3) (d : BitVec 2)
  | vadd (h : Head) (d a b : BitVec 3) (ty : Ty) (rm : Rm) (sat : Bool)
  | vsub (h : Head) (d a b : BitVec 3) (ty : Ty) (rm : Rm) (sat : Bool)
  | vmul (h : Head) (d a b : BitVec 3) (ty : Ty) (rm : Rm) (sat : Bool)
  | vfma (h : Head) (d a b c : BitVec 3) (ty : Ty) (rm : Rm)
  | vfms (h : Head) (d a b c : BitVec 3) (ty : Ty) (rm : Rm)
  | vmin (h : Head) (d a b : BitVec 3) (ty : Ty)
  | vmax (h : Head) (d a b : BitVec 3) (ty : Ty)
  | vabs (h : Head) (d a : BitVec 3) (ty : Ty) (sat : Bool)
  | vneg (h : Head) (d a : BitVec 3) (ty : Ty) (sat : Bool)
  | vdiv (h : Head) (d a b : BitVec 3) (ty : Ty) (rm : Rm)
  | vsqrt (h : Head) (d a : BitVec 3) (ty : Ty) (rm : Rm)
  | vrcp (h : Head) (d a : BitVec 3) (ty : Ty) (rm : Rm)
  | vrsq (h : Head) (d a : BitVec 3) (ty : Ty) (rm : Rm)
  | vexp2 (h : Head) (d a : BitVec 3) (ty : Ty) (rm : Rm)
  | vlog2 (h : Head) (d a : BitVec 3) (ty : Ty) (rm : Rm)
  | vsin (h : Head) (d a : BitVec 3) (ty : Ty) (rm : Rm)
  | vcos (h : Head) (d a : BitVec 3) (ty : Ty) (rm : Rm)
  | vtanh (h : Head) (d a : BitVec 3) (ty : Ty) (rm : Rm)
  | vsigm (h : Head) (d a : BitVec 3) (ty : Ty) (rm : Rm)
  | vcvt (h : Head) (d a : BitVec 3) (dty sty : Ty) (rm : Rm)
  | vscale (h : Head) (d a : BitVec 3) (by_ : ScaleBy) (ty : Ty) (rm : Rm)
  | vqnt (h : Head) (d a : BitVec 3) (pass : QntPass) (ty : Ty) (sty : QntSrc) (rm : Rm)
  | vand (h : Head) (d a b : BitVec 3) (ty : Ty)
  | vor (h : Head) (d a b : BitVec 3) (ty : Ty)
  | vxor (h : Head) (d a b : BitVec 3) (ty : Ty)
  | vshl (h : Head) (d a b : BitVec 3) (ty : Ty)
  | vshr (h : Head) (d a b : BitVec 3) (ty : Ty)
  | vcmp (h : Head) (d a b : BitVec 3) (ty : Ty) (cond : Cond)
  | vselm (h : Head) (d a b m : BitVec 3) (ty : Ty)
  | vclamp (h : Head) (d a : BitVec 3) (ty : Ty)
  | vsum (h : Head) (a : BitVec 3) (ty : Ty) (opt : Bool)
  | vrmax (h : Head) (a : BitVec 3) (ty : Ty)
  | vrmin (h : Head) (a : BitVec 3) (ty : Ty)
  | vargmx (h : Head) (a : BitVec 3) (ty : Ty)
  | vdot (h : Head) (a b : BitVec 3) (ty : Ty) (opt : Bool)
  | vperm (h : Head) (d a b : BitVec 3) (ty : Ty)
  | vgath (h : Head) (d a b : BitVec 3) (ty : Ty)
  | vscat (h : Head) (d a b : BitVec 3) (ty : Ty)
  | vjoin (h : Head) (d a b : BitVec 3) (outer : Bool)
  | viota (h : Head) (d : BitVec 3) (ty : Ty) (rm : Rm)
  | vfill (h : Head) (d : BitVec 3) (ty : Ty)
  | vcopy (h : Head) (d a : BitVec 3) (ty : Ty)
  -- memory, atomic and synchronisation (R304 to R331)
  | ld (h : Head) (sp : Space) (sz : Size) (sx : Bool)
  | st (h : Head) (sp : Space) (sz : Size) (sid : BitVec 5)
  | ldp (h : Head) (sp : Space)
  | stp (h : Head) (sp : Space) (sid : BitVec 5)
  | pref (h : Head) (sp : Space)
  | flush (h : Head) (sp : Space)
  | inval (h : Head) (sp : Space)
  | lds (h : Head) (sp : Space) (wait : Bool)
  | sts (h : Head) (sp : Space)
  | stclr (h : Head) (sp : Space)
  | aadd (h : Head) (sp : Space) (sz : ASize) (m : AMode) (fp : Bool)
  | amin (h : Head) (sp : Space) (sz : ASize) (m : AMode)
  | amax (h : Head) (sp : Space) (sz : ASize) (m : AMode)
  | aminw (h : Head) (sp : Space) (sz : ASize) (m : AMode)
  | amaxw (h : Head) (sp : Space) (sz : ASize) (m : AMode)
  | aand (h : Head) (sp : Space) (sz : ASize) (m : AMode)
  | aor (h : Head) (sp : Space) (sz : ASize) (m : AMode)
  | axor (h : Head) (sp : Space) (sz : ASize) (m : AMode)
  | aswp (h : Head) (sp : Space) (sz : ASize) (m : AMode)
  | acas (h : Head) (sp : Space) (sz : ASize) (sc : Scope)
  | acasm (h : Head) (sp : Space) (n : BitVec 2) (vk : BitVec 2) (sc : Scope)
  | aenq (h : Head) (sp : Space) (sc : Scope)
  | achase (h : Head) (sp : Space)
  | abxa (h : Head) (sp : Space) (m : AMode)
  | wenq (h : Head)
  | otok (h : Head) (sc : Scope)
  | ojoin (h : Head)
  | fence (h : Head) (sc : Scope)
  | tlwait (h : Head) (tl : BitVec 4)
  | tlread (h : Head) (tl : BitVec 4)
  | tlbump (h : Head) (tl : BitVec 4)
  | snap (h : Head)
  | snacc (h : Head)
  | snrej (h : Head)
  | snqry (h : Head)
  | stgput (h : Head) (q : BitVec 4)
  | stgwait (h : Head) (q : BitVec 4)
  | stgclose (h : Head) (q : BitVec 4)
  -- copy, matrix and Canopy engines (R337 to R361)
  | cpy (h : Head) (tl : BitVec 4) (cx : BitVec 2) (ty : Ty) (start follow : Bool) (mask : BitVec 4)
  | cpyt (h : Head) (tl : BitVec 4) (cx : BitVec 2) (ty : Ty) (start follow : Bool) (mask : BitVec 4)
  | cpyg (h : Head) (tl : BitVec 4) (cx : BitVec 2) (ty : Ty) (start follow : Bool) (mask : BitVec 4)
  | cpys (h : Head) (tl : BitVec 4) (cx : BitVec 2) (ty : Ty) (start follow : Bool) (mask : BitVec 4)
  | cpysus (h : Head) (cx : BitVec 2)
  | cpyres (h : Head) (cx : BitVec 2)
  | mldb (h : Head) (tl : BitVec 4) (m : BitVec 3) (ty : Ty)
  | mscl (h : Head) (tl : BitVec 4)
  | mma (h : Head) (tl : BitVec 4) (acc : BitVec 2) (m : BitVec 3) (ty : Ty)
  | macrd (h : Head) (acc : BitVec 2)
  | macpk (h : Head) (acc : BitVec 2)
  | macclr (h : Head) (acc : BitVec 2)
  | macst (h : Head) (tl : BitVec 4) (acc : BitVec 2)
  | cnclr (h : Head) (e : BitVec 3)
  | cnfeed (h : Head) (e : BitVec 3)
  | cnmax (h : Head) (e m : BitVec 3)
  | cnsum (h : Head) (e m : BitVec 3)
  | cninf (h : Head) (e m : BitVec 3)
  | cnconj (h : Head) (e : BitVec 3)
  | cneval (h : Head) (e : BitVec 3)
  | cnmin (h : Head) (e : BitVec 3)
  | cnsimp (h : Head) (e : BitVec 3)
  | cnld (h : Head) (tl : BitVec 4) (e : BitVec 3)
  | cnst (h : Head) (tl : BitVec 4) (e : BitVec 3)
  | cninfo (h : Head) (e : BitVec 3)
  -- system (R363 to R368)
  | trap (h : Head) (code : BitVec 7)
  | eret (h : Head)
  | csrrd (h : Head) (csr : BitVec 12)
  | csrwr (h : Head) (csr : BitVec 12)
  | bkpt (h : Head) (code : BitVec 7)
  | sleep (h : Head)
  | perf (h : Head) (n : BitVec 12)
  -- blocks, activations, messages (R200 to R218, R420)
  | blockFetch
  | blockCommit
  | blockQuiescentFault
  | activationStart
  | taskPromote
  | messageArrive
  | bindingFill
  | longLatencyResult
  | rnextServe
  | stageWaiterServe
  | sleepExpire
  | tlwaitTimeout
  | tlbumpComplete
  | spillTimeout
  -- frontier (R379 to R387), loops (R210)
  | batchApply
  | frontierResume
  | notificationArrive
  | batchAck
  | loopAdmit
  -- fabric (R437 to R446)
  | packetAccept
  | linkDisable
  | reductionNodeArrive
  | reductionTimeout
  -- homes, agents and links (R69 to R91, R78 to R82)
  | homeAtomic
  | aenqAtHome
  | achaseHop
  | structLdsAtAgent
  | structStsAtAgent
  | structStclrAtAgent
  | readerCancel
  | wenqAtTarget
  | wenqHeadWake
  | wenqRingTimeout
  | linkRequestArrive
  | linkRetransmit
  | linkTimeout
  | replyEntryAgeOut
  | l2Access
  | l2FillComplete
  | pageWalk
  | walkComplete
  | settleBackground
  -- upkeep of HBM and L2 (R63 to R68, R472)
  | hbmRefresh
  | hbmScrub
  | l2Scrub
  | l2FrameSpare
  | pseudoChannelSpare
  | pseudoChannelCopyDone
  | stackDegrade
  -- engine commands (R339 to R350, R361, R392)
  | copyStart
  | copyStep
  | followOnStart
  | macroLoad
  | scaleTokenAccept
  | mmaStart
  | mmaComplete
  | macclrPerform
  | macstPerform
  | canopyLoad
  | canopyStore
  -- launches and scheduling (R412 to R429, R471)
  | launchDoorbell
  | launchTake
  | determinismChange
  | loadPlace
  | loadDrain
  | preemptStart
  | preemptSave
  | loadResume
  | bedFail
  | pullQueuePull
  | trapRecordDeliver
  -- links and host (R455, R460, R41, R463, R450, R478)
  | laneFail
  | planeFail
  | hostCxlMemRead
  | hostCxlMemWrite
  | translationInvalidatePage
  | translationInvalidateAll
  | tensorInvalidate
  | invalidationComplete
  | contextCreate
  | contextDestroy
  | identWrite
  | killQueue
  | killContext
  | killComplete
  | dbgRefire
  | dbgKill
  | dbgRefireSuppress
  | warmReset
  | coldReset
  | registerWrite
  | spdmRequest
  | spdmSlhDsaRequest
  | doeDiscovery
  -- power (R474, R475), flits and snoops (R437, R60)
  | powerGrant
  | thermalThrottle
  | thermalRecover
  | thermalShutdown
  | flitResend
  | hostSnoop
  | powerLoss
  deriving DecidableEq, Repr

end Sys2Proof
end

