-- ==== Sys2Proof/WellFormed.lean ====
section
/-! DEFINITION. Well-formedness of an instruction: the rules of R227, R229, R232 to R240, R244 that the types of
Sys2Proof/Syntax.lean do not already say, each with a name (spec/10_instruction_formats.md). -/

namespace Sys2Proof

/-- Why an instruction word raises ILLEGAL_OP at fetch (R244). -/
inductive IllFormed where
  | unallocated   -- an opcode outside R243
  | guardField    -- a guard that breaks R227
  | targetField   -- a target that breaks R229, or stands on an instruction with no result
  | cacheHint     -- a non-zero CH outside classes M, X, A, S, D and E (R232)
  | spaceCode     -- SP 110 or 111 (R7)
  | sizeCode      -- a reserved or disallowed SZ (R235)
  | scopeCode     -- SC 110 or 111 (R133)
  | typeCode      -- a TY the mnemonic does not allow (R237)
  | fixedField    -- a field fixed at zero that is not zero (R233 to R240)
  | optionField   -- a C, OPT, RM, AUX or MOD value the mnemonic does not allow
  | storeId       -- an ST or STP SID of 24 or above
  | csrNumber     -- a CSR number outside R363, or a write of a read-only one
  deriving DecidableEq, Repr

/-- The three type groups of R281. -/
def Ty.isF : Ty → Bool | .f32 | .f16 | .bf16 => true | _ => false
/-- Signed integer types i8 to i64 (R281). -/
def Ty.isI : Ty → Bool | .i8 | .i16 | .i32 | .i64 => true | _ => false
/-- Unsigned integer types w8 to w64 (R281). -/
def Ty.isW : Ty → Bool | .w8 | .w16 | .w32 | .w64 => true | _ => false
/-- Element size in bytes (R281). -/
def Ty.bytes : Ty → Nat
  | .e4m3 | .e5m2 | .i8 | .w8 | .ds8 => 1
  | .f16 | .bf16 | .i16 | .w16 => 2
  | .f32 | .i32 | .w32 => 4
  | .i64 | .w64 => 8
  | .bx128 => 16

/-- R227, R229, R232: the shared fields, given whether the instruction has a result and may carry a cache hint. -/
def Head.ill (h : Head) (result hint : Bool) : Option IllFormed :=
  if h.gb.isSome && h.ga.isNone then some .guardField
  else if !result && (h.t0.isSome || h.t1.isSome) then some .targetField
  else if !hint && h.ch != 0 then some .cacheHint
  else none

/-- Adds a check to the checks before it: the first failure decides. -/
def IllFormed.andAlso (x : Option IllFormed) (ok : Bool) (e : IllFormed) : Option IllFormed :=
  match x with
  | some r => some r
  | none => if ok then none else some e

/-- The CSR numbers of R363. -/
def csrReadable (n : BitVec 12) : Bool :=
  n.toNat ∈ [0x001, 0x002, 0x003, 0x010, 0x011, 0x012, 0x013, 0x014, 0x020, 0x021, 0x022, 0x023, 0x024, 0x025]

/-- The CSR numbers R363 lets CSRWR name. -/
def csrWritable (n : BitVec 12) : Bool := n.toNat ∈ [0x001, 0x002]

/-- R288: the pairs of types VCVT allows, destination first. -/
def vcvtPair (d s : Ty) : Bool :=
  match d, s with
  | .ds8, _ => false
  | .bx128, s => s == .f32
  | d, .bx128 => d == .f32
  | d, .ds8 => d.isF
  | _, _ => true

/-- RM is RNE wherever the entry gives no rounding (R236). -/
def Rm.fixed (rm : Rm) (rounds : Bool) : Bool := rounds || rm == .rne

/-- The first reason an instruction word is ill formed (R244), or none. A step that is no instruction word, and ILLG, are
well formed (R369 makes ILLG raise ILLEGAL_OP at fetch). -/
def Instr.ill : Instr → Option IllFormed
  | .illg => none
  | .add h _ _ => h.ill true false
  | .sub h _ _ => h.ill true false
  | .mul h _ _ => h.ill true false
  | .mulh h _ _ => h.ill true false
  | .mulhw h _ _ => h.ill true false
  | .div h _ _ => h.ill true false
  | .divw h _ _ => h.ill true false
  | .rem h _ _ => h.ill true false
  | .remw h _ _ => h.ill true false
  | .neg h _ => h.ill true false
  | .abs h _ => h.ill true false
  | .min h _ _ => h.ill true false
  | .max h _ _ => h.ill true false
  | .minw h _ _ => h.ill true false
  | .maxw h _ _ => h.ill true false
  | .and h _ _ => h.ill true false
  | .or h _ _ => h.ill true false
  | .xor h _ _ => h.ill true false
  | .andn h _ _ => h.ill true false
  | .not h _ => h.ill true false
  | .shl h _ _ => h.ill true false
  | .shr h _ _ => h.ill true false
  | .sar h _ _ => h.ill true false
  | .rot h _ _ => h.ill true false
  | .clz h _ => h.ill true false
  | .ctz h _ => h.ill true false
  | .popc h _ => h.ill true false
  | .brev h _ => h.ill true false
  | .bfx h _ _ => h.ill true false
  | .bfxw h _ _ => h.ill true false
  | .bfi h _ _ => h.ill true false
  | .lea h _ _ => h.ill true false
  | .mov h => h.ill true false
  | .movi h _ => h.ill true false
  | .movhi h _ _ => h.ill true false
  | .sel h _ _ => h.ill true false
  | .sext h _ => h.ill true false
  | .zext h _ => h.ill true false
  | .teq h _ _ _ => h.ill true false
  | .tne h _ _ _ => h.ill true false
  | .tlt h _ _ _ => h.ill true false
  | .tle h _ _ _ => h.ill true false
  | .tltw h _ _ _ => h.ill true false
  | .tlew h _ _ _ => h.ill true false
  | .tbit h _ _ _ => h.ill true false
  | .tnul h _ _ => h.ill true false
  | .read h _ _ => h.ill true false
  | .write h _ => h.ill false false
  | .nul h _ _ => h.ill false false
  | .br h _ => h.ill false false
  | .brx h => h.ill false false
  | .jtab h _ => h.ill false false
  | .call h _ => h.ill true false
  | .ret h => h.ill false false
  | .exit h => h.ill false false
  | .fan h _ _ => h.ill true false
  | .stamp h _ => h.ill true false
  | .lpin h => h.ill false false
  | .lpnext h => h.ill false false
  | .lpout h => h.ill false false
  | .send h _ => h.ill false false
  | .sends h _ => h.ill false false
  | .msg h _ => h.ill false false
  | .notify h _ => h.ill false false
  | .rnext h => h.ill true false
  | .rsplit h => h.ill false false
  | .yield h => h.ill false false
  | .shdef h _ _ => h.ill false false
  | .shset h _ _ => h.ill false false
  | .shget h _ _ => h.ill true false
  | .shadv h _ _ => h.ill false false
  | .vadd h _ _ _ ty rm sat => IllFormed.andAlso (IllFormed.andAlso (h.ill true true) (ty.isF || ty.isI || ty.isW) .typeCode) (rm.fixed ty.isF && !(sat && ty.isF)) .optionField
  | .vsub h _ _ _ ty rm sat => IllFormed.andAlso (IllFormed.andAlso (h.ill true true) (ty.isF || ty.isI || ty.isW) .typeCode) (rm.fixed ty.isF && !(sat && ty.isF)) .optionField
  | .vmul h _ _ _ ty rm sat => IllFormed.andAlso (IllFormed.andAlso (h.ill true true) (ty.isF || ty.isI || ty.isW) .typeCode) (rm.fixed ty.isF && !(sat && ty.isF)) .optionField
  | .vfma h _ _ _ _ ty _ => IllFormed.andAlso (h.ill true true) (ty.isF) .typeCode
  | .vfms h _ _ _ _ ty _ => IllFormed.andAlso (h.ill true true) (ty.isF) .typeCode
  | .vmin h _ _ _ ty => IllFormed.andAlso (h.ill true true) (ty.isF || ty.isI || ty.isW) .typeCode
  | .vmax h _ _ _ ty => IllFormed.andAlso (h.ill true true) (ty.isF || ty.isI || ty.isW) .typeCode
  | .vabs h _ _ ty sat => IllFormed.andAlso (IllFormed.andAlso (h.ill true true) (ty.isF || ty.isI) .typeCode) (!(sat && ty.isF)) .optionField
  | .vneg h _ _ ty sat => IllFormed.andAlso (IllFormed.andAlso (h.ill true true) (ty.isF || ty.isI) .typeCode) (!(sat && ty.isF)) .optionField
  | .vdiv h _ _ _ ty _ => IllFormed.andAlso (h.ill true true) (ty.isF) .typeCode
  | .vsqrt h _ _ ty _ => IllFormed.andAlso (h.ill true true) (ty.isF) .typeCode
  | .vrcp h _ _ ty rm => IllFormed.andAlso (IllFormed.andAlso (h.ill true true) (ty.isF) .typeCode) (rm.fixed (ty != .f32)) .optionField
  | .vrsq h _ _ ty rm => IllFormed.andAlso (IllFormed.andAlso (h.ill true true) (ty.isF) .typeCode) (rm.fixed (ty != .f32)) .optionField
  | .vexp2 h _ _ ty rm => IllFormed.andAlso (IllFormed.andAlso (h.ill true true) (ty.isF) .typeCode) (rm.fixed (ty != .f32)) .optionField
  | .vlog2 h _ _ ty rm => IllFormed.andAlso (IllFormed.andAlso (h.ill true true) (ty.isF) .typeCode) (rm.fixed (ty != .f32)) .optionField
  | .vsin h _ _ ty rm => IllFormed.andAlso (IllFormed.andAlso (h.ill true true) (ty.isF) .typeCode) (rm.fixed (ty != .f32)) .optionField
  | .vcos h _ _ ty rm => IllFormed.andAlso (IllFormed.andAlso (h.ill true true) (ty.isF) .typeCode) (rm.fixed (ty != .f32)) .optionField
  | .vtanh h _ _ ty rm => IllFormed.andAlso (IllFormed.andAlso (h.ill true true) (ty.isF) .typeCode) (rm.fixed (ty != .f32)) .optionField
  | .vsigm h _ _ ty rm => IllFormed.andAlso (IllFormed.andAlso (h.ill true true) (ty.isF) .typeCode) (rm.fixed (ty != .f32)) .optionField
  | .vcvt h _ _ dty sty rm => IllFormed.andAlso (IllFormed.andAlso (h.ill true true) (vcvtPair dty sty) .typeCode) (rm.fixed (dty != .bx128)) .optionField
  | .vscale h _ _ _ ty _ => IllFormed.andAlso (h.ill true true) (ty.isF) .typeCode
  | .vqnt h _ _ pass ty _ rm => IllFormed.andAlso (IllFormed.andAlso (h.ill true true) (ty == .e4m3 || ty == .e5m2 || ty == .i8 || ty == .ds8) .typeCode) (rm.fixed (ty != .ds8 && pass != .scales)) .optionField
  | .vand h _ _ _ ty => IllFormed.andAlso (h.ill true true) (ty.isI || ty.isW) .typeCode
  | .vor h _ _ _ ty => IllFormed.andAlso (h.ill true true) (ty.isI || ty.isW) .typeCode
  | .vxor h _ _ _ ty => IllFormed.andAlso (h.ill true true) (ty.isI || ty.isW) .typeCode
  | .vshl h _ _ _ ty => IllFormed.andAlso (h.ill true true) (ty.isI || ty.isW) .typeCode
  | .vshr h _ _ _ ty => IllFormed.andAlso (h.ill true true) (ty.isI || ty.isW) .typeCode
  | .vcmp h _ _ _ ty _ => IllFormed.andAlso (h.ill true true) (ty.isF || ty.isI || ty.isW) .typeCode
  | .vselm h _ _ _ _ _ => h.ill true true
  | .vclamp h _ _ ty => IllFormed.andAlso (h.ill true true) (ty.isF || ty.isI || ty.isW) .typeCode
  | .vsum h _ ty opt => IllFormed.andAlso (IllFormed.andAlso (h.ill true true) (ty.isF || ty.isI || ty.isW) .typeCode) (!(opt && ty == .f32)) .optionField
  | .vrmax h _ ty => IllFormed.andAlso (h.ill true true) (ty.isF || ty.isI || ty.isW) .typeCode
  | .vrmin h _ ty => IllFormed.andAlso (h.ill true true) (ty.isF || ty.isI || ty.isW) .typeCode
  | .vargmx h _ ty => IllFormed.andAlso (h.ill true true) ((ty.isF || ty.isI || ty.isW) && ty.bytes ≤ 4) .typeCode
  | .vdot h _ _ ty opt => IllFormed.andAlso (IllFormed.andAlso (h.ill true true) (ty.isF || ty.isI || ty.isW) .typeCode) (!(opt && ty == .f32)) .optionField
  | .vperm h _ _ _ _ => h.ill true true
  | .vgath h _ _ _ _ => h.ill true true
  | .vscat h _ _ _ _ => h.ill true true
  | .vjoin h _ _ _ _ => h.ill true true
  | .viota h _ ty rm => IllFormed.andAlso (IllFormed.andAlso (h.ill true true) (ty.isF || ty.isI || ty.isW) .typeCode) (rm.fixed ty.isF) .optionField
  | .vfill h _ _ => h.ill true true
  | .vcopy h _ _ _ => h.ill true true
  | .ld h _ _ _ => h.ill true true
  | .st h _ _ sid => IllFormed.andAlso (h.ill true true) (sid.toNat < 24) .storeId
  | .ldp h _ => h.ill true true
  | .stp h _ sid => IllFormed.andAlso (h.ill true true) (sid.toNat < 24) .storeId
  | .pref h _ => h.ill true true
  | .flush h _ => h.ill true true
  | .inval h _ => h.ill true true
  | .lds h _ _ => h.ill true true
  | .sts h _ => h.ill true true
  | .stclr h _ => h.ill true true
  | .aadd h _ sz m fp => IllFormed.andAlso (IllFormed.andAlso (h.ill true true) (!fp || sz == .b4) .sizeCode) (!(fp && m == .comb)) .optionField
  | .amin h _ _ _ => h.ill true true
  | .amax h _ _ _ => h.ill true true
  | .aminw h _ _ _ => h.ill true true
  | .amaxw h _ _ _ => h.ill true true
  | .aand h _ _ _ => h.ill true true
  | .aor h _ _ _ => h.ill true true
  | .axor h _ _ _ => h.ill true true
  | .aswp h _ _ _ => h.ill true true
  | .acas h _ _ _ => h.ill true true
  | .acasm h _ n _ _ => IllFormed.andAlso (h.ill true true) (n != 3) .optionField
  | .aenq h _ _ => h.ill true true
  | .achase h _ => h.ill true true
  | .abxa h _ _ => h.ill true true
  | .wenq h => h.ill true true
  | .otok h _ => h.ill true false
  | .ojoin h => h.ill true false
  | .fence h _ => h.ill true false
  | .tlwait h _ => h.ill true false
  | .tlread h _ => h.ill true false
  | .tlbump h _ => h.ill false false
  | .snap h => h.ill true false
  | .snacc h => h.ill true false
  | .snrej h => h.ill true false
  | .snqry h => h.ill true false
  | .stgput h _ => h.ill true false
  | .stgwait h _ => h.ill true false
  | .stgclose h _ => h.ill true false
  | .cpy h _ _ _ _ _ _ => h.ill false true
  | .cpyt h _ _ _ _ _ _ => h.ill false true
  | .cpyg h _ _ _ _ _ _ => h.ill false true
  | .cpys h _ _ _ _ _ _ => h.ill false true
  | .cpysus h _ => h.ill false true
  | .cpyres h _ => h.ill false true
  | .mldb h _ _ ty => IllFormed.andAlso (h.ill false true) (ty == .i8 || ty == .ds8 || ty == .e4m3) .typeCode
  | .mscl h _ => h.ill false true
  | .mma h _ _ _ ty => IllFormed.andAlso (h.ill false true) (ty == .i8 || ty == .e4m3) .typeCode
  | .macrd h _ => h.ill true false
  | .macpk h _ => h.ill true false
  | .macclr h _ => h.ill false false
  | .macst h _ _ => h.ill false true
  | .cnclr h _ => h.ill false false
  | .cnfeed h _ => h.ill false false
  | .cnmax h _ _ => h.ill false false
  | .cnsum h _ _ => h.ill false false
  | .cninf h _ _ => h.ill false false
  | .cnconj h _ => h.ill false false
  | .cneval h _ => h.ill true false
  | .cnmin h _ => h.ill true false
  | .cnsimp h _ => h.ill false false
  | .cnld h _ _ => h.ill false true
  | .cnst h _ _ => h.ill false true
  | .cninfo h _ => h.ill true false
  | .trap h _ => h.ill true false
  | .eret h => h.ill false false
  | .csrrd h n => IllFormed.andAlso (h.ill true false) (csrReadable n) .csrNumber
  | .csrwr h n => IllFormed.andAlso (h.ill false false) (csrWritable n) .csrNumber
  | .bkpt h _ => h.ill true false
  | .sleep h => h.ill true false
  | .perf h _ => h.ill true false
  | .blockFetch => none
  | .blockCommit => none
  | .blockQuiescentFault => none
  | .activationStart => none
  | .taskPromote => none
  | .messageArrive => none
  | .bindingFill => none
  | .longLatencyResult => none
  | .rnextServe => none
  | .stageWaiterServe => none
  | .sleepExpire => none
  | .tlwaitTimeout => none
  | .tlbumpComplete => none
  | .spillTimeout => none
  | .batchApply => none
  | .frontierResume => none
  | .notificationArrive => none
  | .batchAck => none
  | .loopAdmit => none
  | .packetAccept => none
  | .linkDisable => none
  | .reductionNodeArrive => none
  | .reductionTimeout => none
  | .homeAtomic => none
  | .aenqAtHome => none
  | .achaseHop => none
  | .structLdsAtAgent => none
  | .structStsAtAgent => none
  | .structStclrAtAgent => none
  | .readerCancel => none
  | .wenqAtTarget => none
  | .wenqHeadWake => none
  | .wenqRingTimeout => none
  | .linkRequestArrive => none
  | .linkRetransmit => none
  | .linkTimeout => none
  | .replyEntryAgeOut => none
  | .l2Access => none
  | .l2FillComplete => none
  | .pageWalk => none
  | .walkComplete => none
  | .settleBackground => none
  | .hbmRefresh => none
  | .hbmScrub => none
  | .l2Scrub => none
  | .l2FrameSpare => none
  | .pseudoChannelSpare => none
  | .pseudoChannelCopyDone => none
  | .stackDegrade => none
  | .copyStart => none
  | .copyStep => none
  | .followOnStart => none
  | .macroLoad => none
  | .scaleTokenAccept => none
  | .mmaStart => none
  | .mmaComplete => none
  | .macclrPerform => none
  | .macstPerform => none
  | .canopyLoad => none
  | .canopyStore => none
  | .launchDoorbell => none
  | .launchTake => none
  | .determinismChange => none
  | .loadPlace => none
  | .loadDrain => none
  | .preemptStart => none
  | .preemptSave => none
  | .loadResume => none
  | .bedFail => none
  | .pullQueuePull => none
  | .trapRecordDeliver => none
  | .laneFail => none
  | .planeFail => none
  | .hostCxlMemRead => none
  | .hostCxlMemWrite => none
  | .translationInvalidatePage => none
  | .translationInvalidateAll => none
  | .tensorInvalidate => none
  | .invalidationComplete => none
  | .contextCreate => none
  | .contextDestroy => none
  | .identWrite => none
  | .killQueue => none
  | .killContext => none
  | .killComplete => none
  | .dbgRefire => none
  | .dbgKill => none
  | .dbgRefireSuppress => none
  | .warmReset => none
  | .coldReset => none
  | .registerWrite => none
  | .spdmRequest => none
  | .spdmSlhDsaRequest => none
  | .doeDiscovery => none
  | .powerGrant => none
  | .thermalThrottle => none
  | .thermalRecover => none
  | .thermalShutdown => none
  | .flitResend => none
  | .hostSnoop => none
  | .powerLoss => none

/-- A well-formed instruction. -/
def Instr.wf (i : Instr) : Bool := i.ill.isNone

end Sys2Proof
end

