-- ==== Sys2Proof/Decode.lean ====
section
/-! DEFINITION. The decoder and the encoder of instruction words and block headers, from the tables of
spec/10_instruction_formats.md R222, R226, R233 to R240 and the opcode map R243. -/

namespace Sys2Proof

/-- The n bits of a word from bit lo up (R4). -/
def bits (lo n : Nat) (w : BitVec k) : BitVec n := w.extractLsb' lo n

/-- One bit of a word. -/
def bit (i : Nat) (w : BitVec k) : Bool := w.getLsbD i

/-- Goes on if the condition holds, else fails with the reason. -/
def need (ok : Bool) (e : IllFormed) (k : Except IllFormed α) : Except IllFormed α :=
  if ok then k else .error e

/-- Slot codes of R226. -/
def Slot.ofBits (b : BitVec 2) : Slot :=
  if b == 0 then .a else if b == 1 then .b else if b == 2 then .c else .p
/-- Slot codes of R226. -/
def Slot.toBits : Slot → BitVec 2 | .a => 0 | .b => 1 | .c => 2 | .p => 3

/-- SZ of the ALU format (R233). -/
def Width.ofBits (b : BitVec 2) : Width :=
  if b == 0 then .w64 else if b == 1 then .w32 else if b == 2 then .w16 else .w8
/-- SZ of the ALU format (R233). -/
def Width.toBits : Width → BitVec 2 | .w64 => 0 | .w32 => 1 | .w16 => 2 | .w8 => 3

/-- Rounding codes (R167). -/
def Rm.ofBits (b : BitVec 2) : Rm :=
  if b == 0 then .rne else if b == 1 then .rtz else if b == 2 then .rup else .rdn
/-- Rounding codes (R167). -/
def Rm.toBits : Rm → BitVec 2 | .rne => 0 | .rtz => 1 | .rup => 2 | .rdn => 3

/-- Space codes (R6); 110 and 111 are reserved (R7). -/
def Space.ofBits (b : BitVec 3) : Option Space :=
  if b == 0 then some .gl else if b == 1 then some .ds else if b == 2 then some .bs
  else if b == 3 then some .ts else if b == 4 then some .ls else if b == 5 then some .ch else none
/-- Space codes (R6). -/
def Space.toBits : Space → BitVec 3 | .gl => 0 | .ds => 1 | .bs => 2 | .ts => 3 | .ls => 4 | .ch => 5

/-- Scope codes (R133); 110 and 111 are reserved. -/
def Scope.ofBits (b : BitVec 3) : Option Scope :=
  if b == 0 then some .element else if b == 1 then some .tile else if b == 2 then some .bed
  else if b == 3 then some .die else if b == 4 then some .package else if b == 5 then some .pod else none
/-- Scope codes (R133). -/
def Scope.toBits : Scope → BitVec 3
  | .element => 0 | .tile => 1 | .bed => 2 | .die => 3 | .package => 4 | .pod => 5

/-- Type codes (R237); 0xF is reserved. -/
def Ty.ofBits (b : BitVec 4) : Option Ty :=
  [Ty.f32, .f16, .bf16, .e4m3, .e5m2, .i8, .i16, .i32, .i64, .w8, .w16, .w32, .w64, .ds8, .bx128][b.toNat]?
/-- Type codes (R237). -/
def Ty.toBits : Ty → BitVec 4
  | .f32 => 0 | .f16 => 1 | .bf16 => 2 | .e4m3 => 3 | .e5m2 => 4 | .i8 => 5 | .i16 => 6 | .i32 => 7 | .i64 => 8
  | .w8 => 9 | .w16 => 10 | .w32 => 11 | .w64 => 12 | .ds8 => 13 | .bx128 => 14

/-- Size codes of LD and ST (R235). -/
def Size.ofBits (b : BitVec 3) : Option Size :=
  if b == 0 then some .b1 else if b == 1 then some .b2 else if b == 2 then some .b4
  else if b == 3 then some .b8 else none
/-- Size codes of LD and ST (R235). -/
def Size.toBits : Size → BitVec 3 | .b1 => 0 | .b2 => 1 | .b4 => 2 | .b8 => 3

/-- Size codes of the single-word atomics (R235). -/
def ASize.ofBits (b : BitVec 3) : Option ASize :=
  if b == 2 then some .b4 else if b == 3 then some .b8 else none
/-- Size codes of the single-word atomics (R235). -/
def ASize.toBits : ASize → BitVec 3 | .b4 => 2 | .b8 => 3

/-- Field codes of SHSET and SHGET; 10 to 15 are reserved (R279). -/
def ShField.ofBits (b : BitVec 4) : Option ShField :=
  [ShField.hdr, .base, .ext0, .str0, .ext1, .str1, .ext2, .str2, .ext3, .str3][b.toNat]?
/-- Field codes of SHSET and SHGET (R279). -/
def ShField.toBits : ShField → BitVec 4
  | .hdr => 0 | .base => 1 | .ext0 => 2 | .str0 => 3 | .ext1 => 4 | .str1 => 5 | .ext2 => 6 | .str2 => 7
  | .ext3 => 8 | .str3 => 9

/-- Condition codes of VCMP (R291). -/
def Cond.ofBits (b : BitVec 3) : Cond :=
  if b == 0 then .eq else if b == 1 then .ne else if b == 2 then .lt else if b == 3 then .le
  else if b == 4 then .gt else if b == 5 then .ge else if b == 6 then .ord else .unord
/-- Condition codes of VCMP (R291). -/
def Cond.toBits : Cond → BitVec 3
  | .eq => 0 | .ne => 1 | .lt => 2 | .le => 3 | .gt => 4 | .ge => 5 | .ord => 6 | .unord => 7

/-- Source codes of VQNT; 11 is reserved (R290). -/
def QntSrc.ofBits (b : BitVec 2) : Option QntSrc :=
  if b == 0 then some .f32 else if b == 1 then some .f16 else if b == 2 then some .bf16 else none
/-- Source codes of VQNT (R290). -/
def QntSrc.toBits : QntSrc → BitVec 2 | .f32 => 0 | .f16 => 1 | .bf16 => 2

/-- A guard of R226: six bits, all zero when it is not enabled (R227). -/
def decodeGuard (g : BitVec 6) : Except IllFormed (Option Guard) :=
  if bit 5 g then .ok (some ⟨bit 4 g, bits 0 4 g⟩) else need (g == 0) .guardField (.ok none)

/-- A target of R226: ten bits, all zero when it is not valid (R229). -/
def decodeTarget (t : BitVec 10) : Except IllFormed (Option Target) :=
  if bit 9 t then .ok (some ⟨bits 2 7 t, Slot.ofBits (bits 0 2 t)⟩) else need (t == 0) .targetField (.ok none)

/-- The fields every instruction word shares (R226). -/
def decodeHead (w : Word) : Except IllFormed Head :=
  match decodeGuard (bits 49 6 w), decodeGuard (bits 43 6 w), decodeTarget (bits 33 10 w), decodeTarget (bits 23 10 w) with
  | .ok ga, .ok gb, .ok t0, .ok t1 => .ok ⟨ga, gb, t0, t1, bits 21 2 w, bits 19 2 w⟩
  | .error e, _, _, _ => .error e
  | _, .error e, _, _ => .error e
  | _, _, .error e, _ => .error e
  | _, _, _, .error e => .error e

/-- Operand b of the ALU format (R233, R249): bit 16 and the immediate. -/
def decodeOpB (o : BitVec 19) (k : OpB → Except IllFormed Instr) : Except IllFormed Instr :=
  if bit 16 o then k (.imm (bits 0 11 o)) else need (bits 0 11 o == 0) .fixedField (k .slot)

/-- An ALU instruction that is no test: PE and PD are zero (R233). -/
def decodeAlu2 (f : Width → OpB → Instr) (o : BitVec 19) : Except IllFormed Instr :=
  need (bits 11 5 o == 0) .fixedField (decodeOpB o fun b => .ok (f (Width.ofBits (bits 17 2 o)) b))

/-- An ALU instruction of one operand: everything but SZ is zero (R233). -/
def decodeAlu1 (f : Width → Instr) (o : BitVec 19) : Except IllFormed Instr :=
  need (bits 0 17 o == 0) .fixedField (.ok (f (Width.ofBits (bits 17 2 o))))

/-- PE and PD of a test (R233, R256). -/
def decodePd (o : BitVec 19) (k : Option (BitVec 4) → Except IllFormed Instr) : Except IllFormed Instr :=
  if bit 15 o then k (some (bits 11 4 o)) else need (bits 11 4 o == 0) .fixedField (k none)

/-- A test with two operands (R256). -/
def decodeTest (f : Width → OpB → Option (BitVec 4) → Instr) (o : BitVec 19) : Except IllFormed Instr :=
  decodePd o fun pd => decodeOpB o fun b => .ok (f (Width.ofBits (bits 17 2 o)) b pd)

/-- The operand field is all zero. -/
def decodeNone (i : Instr) (o : BitVec 19) : Except IllFormed Instr := need (o == 0) .fixedField (.ok i)

/-- CTL with a register, port or channel in RG and nothing else (R239). -/
def decodeRg (f : BitVec 5 → Instr) (o : BitVec 19) : Except IllFormed Instr :=
  need (bits 0 14 o == 0) .fixedField (.ok (f (bits 14 5 o)))

/-- CTL with a block offset and nothing else (R239). -/
def decodeOff (f : BitVec 13 → Instr) (o : BitVec 19) : Except IllFormed Instr :=
  need (bits 13 6 o == 0) .fixedField (.ok (f (bits 0 13 o)))

/-- FAN lays its field out in its own way (R239, R265). -/
def decodeFan (f : Target → Option Target → Instr) (o : BitVec 19) : Except IllFormed Instr :=
  let t2 : Target := ⟨bits 12 7 o, Slot.ofBits (bits 10 2 o)⟩
  if bit 0 o then .ok (f t2 (some ⟨bits 3 7 o, Slot.ofBits (bits 1 2 o)⟩))
  else need (bits 0 10 o == 0) .targetField (.ok (f t2 none))

/-- Fields of the SHP format (R236). -/
def shD (o : BitVec 19) : BitVec 3 := bits 16 3 o
/-- Source a of the SHP format. -/
def shA (o : BitVec 19) : BitVec 3 := bits 13 3 o
/-- Source b of the SHP format. -/
def shB (o : BitVec 19) : BitVec 3 := bits 10 3 o
/-- Rounding mode of the SHP format. -/
def shRm (o : BitVec 19) : Rm := Rm.ofBits (bits 4 2 o)
/-- AUX of the SHP format. -/
def shAux (o : BitVec 19) : BitVec 4 := bits 0 4 o

/-- TY of the SHP and ENG formats (R237). -/
def decodeTy (o : BitVec 19) (k : Ty → Except IllFormed Instr) : Except IllFormed Instr :=
  match Ty.ofBits (bits 6 4 o) with
  | some ty => k ty
  | none => .error .typeCode

/-- SP of the MEM format (R235). -/
def decodeSp (o : BitVec 19) (k : Space → Except IllFormed Instr) : Except IllFormed Instr :=
  match Space.ofBits (bits 16 3 o) with
  | some sp => k sp
  | none => .error .spaceCode

/-- SC of the MEM format, where it is significant (R235). -/
def decodeSc (o : BitVec 19) (k : Scope → Except IllFormed Instr) : Except IllFormed Instr :=
  match Scope.ofBits (bits 10 3 o) with
  | some sc => k sc
  | none => .error .scopeCode

/-- SC and C of an atomic: SC is zero with .c (R311). -/
def decodeMode (o : BitVec 19) (k : AMode → Except IllFormed Instr) : Except IllFormed Instr :=
  if bit 9 o then need (bits 10 3 o == 0) .fixedField (k .comb) else decodeSc o fun sc => k (.sync sc)

/-- SZ of LD and ST (R235). -/
def decodeSize (o : BitVec 19) (k : Size → Except IllFormed Instr) : Except IllFormed Instr :=
  match Size.ofBits (bits 13 3 o) with
  | some sz => k sz
  | none => .error .sizeCode

/-- SZ of a single-word atomic (R235). -/
def decodeASize (o : BitVec 19) (k : ASize → Except IllFormed Instr) : Except IllFormed Instr :=
  match ASize.ofBits (bits 13 3 o) with
  | some sz => k sz
  | none => .error .sizeCode

/-- Some field of the word has the value the format fixes for the mnemonic. -/
def fixed (lo n v : Nat) (o : BitVec 19) (k : Except IllFormed Instr) : Except IllFormed Instr :=
  need (bits lo n o == BitVec.ofNat n v) .fixedField k

/-- A single-word atomic other than AADD (R310). -/
def decodeAtomic (f : Space → ASize → AMode → Instr) (o : BitVec 19) : Except IllFormed Instr :=
  fixed 0 9 0 o (decodeSp o fun sp => decodeASize o fun sz => decodeMode o fun m => .ok (f sp sz m))

/-- A vector instruction with a destination and a source, and RM (R285, R287). -/
def decodeV2rm (f : BitVec 3 → BitVec 3 → Ty → Rm → Instr) (o : BitVec 19) : Except IllFormed Instr :=
  fixed 10 3 0 o (fixed 0 4 0 o (decodeTy o fun ty => .ok (f (shD o) (shA o) ty (shRm o))))

/-- A vector instruction with a destination and two sources, RM zero, AUX zero. -/
def decodeV3 (f : BitVec 3 → BitVec 3 → BitVec 3 → Ty → Instr) (o : BitVec 19) : Except IllFormed Instr :=
  fixed 0 6 0 o (decodeTy o fun ty => .ok (f (shD o) (shA o) (shB o) ty))

/-- Adds, subtracts and multiplies: RM and the sat bit (R285, R286). -/
def decodeV3rmSat (f : BitVec 3 → BitVec 3 → BitVec 3 → Ty → Rm → Bool → Instr) (o : BitVec 19) : Except IllFormed Instr :=
  fixed 1 3 0 o (decodeTy o fun ty => .ok (f (shD o) (shA o) (shB o) ty (shRm o) (bit 0 o)))

/-- VFMA and VFMS: AUX names shape c (R285). -/
def decodeFma (f : BitVec 3 → BitVec 3 → BitVec 3 → BitVec 3 → Ty → Rm → Instr) (o : BitVec 19) : Except IllFormed Instr :=
  fixed 3 1 0 o (decodeTy o fun ty => .ok (f (shD o) (shA o) (shB o) (bits 0 3 o) ty (shRm o)))

/-- A reduction of one source (R292). -/
def decodeRed (f : BitVec 3 → Ty → Instr) (o : BitVec 19) : Except IllFormed Instr :=
  fixed 16 3 0 o (fixed 10 3 0 o (fixed 0 6 0 o (decodeTy o fun ty => .ok (f (shA o) ty))))

/-- An engine instruction that issues no command and uses CX only (R332). -/
def decodeCx (f : BitVec 2 → Instr) (o : BitVec 19) : Except IllFormed Instr :=
  fixed 15 4 0 o (fixed 0 13 0 o (.ok (f (bits 13 2 o))))

/-- A copy command (R337). -/
def decodeCopy (f : BitVec 4 → BitVec 2 → Ty → Bool → Bool → BitVec 4 → Instr) (o : BitVec 19) : Except IllFormed Instr :=
  fixed 10 3 0 o (decodeTy o fun ty => .ok (f (bits 15 4 o) (bits 13 2 o) ty (bit 5 o) (bit 4 o) (bits 0 4 o)))

/-- A Canopy instruction of class L on one register (R354). -/
def decodeCan1 (f : BitVec 3 → Instr) (o : BitVec 19) : Except IllFormed Instr :=
  fixed 13 6 0 o (fixed 0 10 0 o (.ok (f (bits 10 3 o))))

/-- A Canopy instruction of two registers (R354). -/
def decodeCan2 (f : BitVec 3 → BitVec 3 → Instr) (o : BitVec 19) : Except IllFormed Instr :=
  fixed 13 6 0 o (fixed 3 7 0 o (.ok (f (bits 10 3 o) (bits 0 3 o))))

/-- A Canopy memory command (R361). -/
def decodeCanMem (f : BitVec 4 → BitVec 3 → Instr) (o : BitVec 19) : Except IllFormed Instr :=
  fixed 13 2 0 o (fixed 0 10 0 o (.ok (f (bits 15 4 o) (bits 10 3 o))))

/-- Opcodes 0x000 to 0x03F: ALU and IMM formats (R233, R234), opcode map R243. -/
def decodeAlu (op : Nat) (h : Head) (o : BitVec 19) : Except IllFormed Instr :=
  match op with
  | 0x001 => decodeAlu2 (.add h) o
  | 0x002 => decodeAlu2 (.sub h) o
  | 0x003 => decodeAlu2 (.mul h) o
  | 0x004 => decodeAlu2 (.mulh h) o
  | 0x005 => decodeAlu2 (.mulhw h) o
  | 0x006 => decodeAlu2 (.div h) o
  | 0x007 => decodeAlu2 (.divw h) o
  | 0x008 => decodeAlu2 (.rem h) o
  | 0x009 => decodeAlu2 (.remw h) o
  | 0x00A => decodeAlu1 (.neg h) o
  | 0x00B => decodeAlu1 (.abs h) o
  | 0x00C => decodeAlu2 (.min h) o
  | 0x00D => decodeAlu2 (.max h) o
  | 0x00E => decodeAlu2 (.minw h) o
  | 0x00F => decodeAlu2 (.maxw h) o
  | 0x010 => decodeAlu2 (.and h) o
  | 0x011 => decodeAlu2 (.or h) o
  | 0x012 => decodeAlu2 (.xor h) o
  | 0x013 => decodeAlu2 (.andn h) o
  | 0x014 => decodeAlu1 (.not h) o
  | 0x015 => decodeAlu2 (.shl h) o
  | 0x016 => decodeAlu2 (.shr h) o
  | 0x017 => decodeAlu2 (.sar h) o
  | 0x018 => decodeAlu2 (.rot h) o
  | 0x019 => decodeAlu1 (.clz h) o
  | 0x01A => decodeAlu1 (.ctz h) o
  | 0x01B => decodeAlu1 (.popc h) o
  | 0x01C => decodeAlu1 (.brev h) o
  | 0x01D => decodeAlu2 (.bfx h) o
  | 0x01E => decodeAlu2 (.bfxw h) o
  | 0x01F => decodeAlu2 (.bfi h) o
  | 0x020 => decodeAlu2 (.lea h) o
  | 0x021 => decodeNone (.mov h) o
  | 0x022 => .ok (.movi h o)
  | 0x023 => fixed 18 1 0 o (.ok (.movhi h (bits 16 2 o) (bits 0 16 o)))
  | 0x024 => decodeAlu2 (.sel h) o
  | 0x025 => decodeAlu1 (.sext h) o
  | 0x026 => decodeAlu1 (.zext h) o
  | _ => .error .unallocated

/-- Opcodes 0x040 to 0x05F: tests (R233), opcode map R243. -/
def decodeTest' (op : Nat) (h : Head) (o : BitVec 19) : Except IllFormed Instr :=
  match op with
  | 0x040 => decodeTest (.teq h) o
  | 0x041 => decodeTest (.tne h) o
  | 0x042 => decodeTest (.tlt h) o
  | 0x043 => decodeTest (.tle h) o
  | 0x044 => decodeTest (.tltw h) o
  | 0x045 => decodeTest (.tlew h) o
  | 0x046 => decodeTest (.tbit h) o
  | 0x047 => fixed 16 3 1 o (need (bits 5 6 o == 0) .fixedField (decodePd o fun pd => .ok (.tnul h (bits 0 5 o) pd)))
  | _ => .error .unallocated

/-- Opcodes 0x060 to 0x07F: CTL format (R239), opcode map R243. -/
def decodeCtl (op : Nat) (h : Head) (o : BitVec 19) : Except IllFormed Instr :=
  match op with
  | 0x060 => fixed 0 13 0 o (.ok (.read h (bits 14 5 o) (bit 13 o)))
  | 0x061 => decodeRg (.write h) o
  | 0x062 => fixed 0 13 0 o (.ok (.nul h (bit 13 o) (bits 14 5 o)))
  | 0x063 => decodeOff (.br h) o
  | 0x064 => decodeNone (.brx h) o
  | 0x065 => decodeOff (.jtab h) o
  | 0x066 => decodeOff (.call h) o
  | 0x067 => decodeNone (.ret h) o
  | 0x068 => decodeNone (.exit h) o
  | 0x069 => decodeFan (.fan h) o
  | 0x06A => fixed 0 14 0 o (fixed 16 3 0 o (.ok (.stamp h (bits 14 2 o))))
  | 0x06B => decodeNone (.lpin h) o
  | 0x06C => decodeNone (.lpnext h) o
  | 0x06D => decodeNone (.lpout h) o
  | 0x06E => decodeRg (.send h) o
  | 0x06F => decodeRg (.sends h) o
  | 0x070 => decodeRg (.msg h) o
  | 0x071 => decodeRg (.notify h) o
  | 0x072 => decodeNone (.rnext h) o
  | 0x073 => decodeNone (.rsplit h) o
  | 0x074 => decodeNone (.yield h) o
  | _ => .error .unallocated

/-- Opcodes 0x080 to 0x0FF: SHP format (R236), opcode map R243. -/
def decodeShp (op : Nat) (h : Head) (o : BitVec 19) : Except IllFormed Instr :=
  match op with
  | 0x080 => fixed 0 6 0 o (.ok (.shdef h (shD o) (bits 6 10 o)))
  | 0x081 => fixed 4 12 0 o (match ShField.ofBits (shAux o) with | some f => .ok (.shset h (shD o) f) | none => .error .optionField)
  | 0x082 => fixed 4 12 0 o (match ShField.ofBits (shAux o) with | some f => .ok (.shget h (shD o) f) | none => .error .optionField)
  | 0x083 => fixed 2 14 0 o (.ok (.shadv h (shD o) (bits 0 2 o)))
  | 0x084 => decodeV3rmSat (.vadd h) o
  | 0x085 => decodeV3rmSat (.vsub h) o
  | 0x086 => decodeV3rmSat (.vmul h) o
  | 0x087 => decodeFma (.vfma h) o
  | 0x088 => decodeFma (.vfms h) o
  | 0x089 => decodeV3 (.vmin h) o
  | 0x08A => decodeV3 (.vmax h) o
  | 0x08B => fixed 10 3 0 o (fixed 1 5 0 o (decodeTy o fun ty => .ok (.vabs h (shD o) (shA o) ty (bit 0 o))))
  | 0x08C => fixed 10 3 0 o (fixed 1 5 0 o (decodeTy o fun ty => .ok (.vneg h (shD o) (shA o) ty (bit 0 o))))
  | 0x08D => fixed 0 4 0 o (decodeTy o fun ty => .ok (.vdiv h (shD o) (shA o) (shB o) ty (shRm o)))
  | 0x08E => decodeV2rm (.vsqrt h) o
  | 0x08F => decodeV2rm (.vrcp h) o
  | 0x090 => decodeV2rm (.vrsq h) o
  | 0x091 => decodeV2rm (.vexp2 h) o
  | 0x092 => decodeV2rm (.vlog2 h) o
  | 0x093 => decodeV2rm (.vsin h) o
  | 0x094 => decodeV2rm (.vcos h) o
  | 0x095 => decodeV2rm (.vtanh h) o
  | 0x096 => decodeV2rm (.vsigm h) o
  | 0x097 => fixed 10 3 0 o (decodeTy o fun ty => match Ty.ofBits (shAux o) with | some sty => .ok (.vcvt h (shD o) (shA o) ty sty (shRm o)) | none => .error .typeCode)
  | 0x098 => fixed 1 3 0 o (decodeTy o fun ty => if bit 0 o then fixed 10 3 0 o (.ok (.vscale h (shD o) (shA o) .slot ty (shRm o))) else .ok (.vscale h (shD o) (shA o) (.shape (shB o)) ty (shRm o)))
  | 0x099 => fixed 2 1 0 o (decodeTy o fun ty => match QntSrc.ofBits (bits 0 2 o) with | some q => if bit 3 o then fixed 10 3 0 o (.ok (.vqnt h (shD o) (shA o) .scales ty q (shRm o))) else .ok (.vqnt h (shD o) (shA o) (.elements (shB o)) ty q (shRm o)) | none => .error .optionField)
  | 0x09A => decodeV3 (.vand h) o
  | 0x09B => decodeV3 (.vor h) o
  | 0x09C => decodeV3 (.vxor h) o
  | 0x09D => decodeV3 (.vshl h) o
  | 0x09E => decodeV3 (.vshr h) o
  | 0x09F => fixed 3 3 0 o (decodeTy o fun ty => .ok (.vcmp h (shD o) (shA o) (shB o) ty (Cond.ofBits (bits 0 3 o))))
  | 0x0A0 => fixed 3 3 0 o (decodeTy o fun ty => .ok (.vselm h (shD o) (shA o) (shB o) (bits 0 3 o) ty))
  | 0x0A1 => fixed 10 3 0 o (fixed 0 6 0 o (decodeTy o fun ty => .ok (.vclamp h (shD o) (shA o) ty)))
  | 0x0A2 => fixed 16 3 0 o (fixed 10 3 0 o (fixed 1 5 0 o (decodeTy o fun ty => .ok (.vsum h (shA o) ty (bit 0 o)))))
  | 0x0A3 => decodeRed (.vrmax h) o
  | 0x0A4 => decodeRed (.vrmin h) o
  | 0x0A5 => decodeRed (.vargmx h) o
  | 0x0A6 => fixed 16 3 0 o (fixed 1 5 0 o (decodeTy o fun ty => .ok (.vdot h (shA o) (shB o) ty (bit 0 o))))
  | 0x0A7 => decodeV3 (.vperm h) o
  | 0x0A8 => decodeV3 (.vgath h) o
  | 0x0A9 => decodeV3 (.vscat h) o
  | 0x0AA => fixed 1 5 0 o (need (bits 6 4 o == 11) .typeCode (.ok (.vjoin h (shD o) (shA o) (shB o) (bit 0 o))))
  | 0x0AB => fixed 10 6 0 o (fixed 0 4 0 o (decodeTy o fun ty => .ok (.viota h (shD o) ty (shRm o))))
  | 0x0AC => fixed 10 6 0 o (fixed 0 6 0 o (decodeTy o fun ty => .ok (.vfill h (shD o) ty)))
  | 0x0AD => fixed 10 3 0 o (fixed 0 6 0 o (decodeTy o fun ty => .ok (.vcopy h (shD o) (shA o) ty)))
  | _ => .error .unallocated

/-- Opcodes 0x100 to 0x13F: MEM format (R235), opcode map R243. -/
def decodeMem (op : Nat) (h : Head) (o : BitVec 19) : Except IllFormed Instr :=
  match op with
  | 0x100 => fixed 1 12 0 o (decodeSp o fun sp => decodeSize o fun sz => .ok (.ld h sp sz (bit 0 o)))
  | 0x101 => fixed 0 4 0 o (fixed 9 4 0 o (decodeSp o fun sp => decodeSize o fun sz => .ok (.st h sp sz (bits 4 5 o))))
  | 0x102 => need (bits 13 3 o == 4) .sizeCode (fixed 0 13 0 o (decodeSp o fun sp => .ok (.ldp h sp)))
  | 0x103 => need (bits 13 3 o == 4) .sizeCode (fixed 0 4 0 o (fixed 9 4 0 o (decodeSp o fun sp => .ok (.stp h sp (bits 4 5 o)))))
  | 0x104 => fixed 0 16 0 o (decodeSp o fun sp => .ok (.pref h sp))
  | 0x105 => fixed 0 16 0 o (decodeSp o fun sp => .ok (.flush h sp))
  | 0x106 => fixed 0 16 0 o (decodeSp o fun sp => .ok (.inval h sp))
  | 0x107 => need (bits 13 3 o == 3) .sizeCode (fixed 1 12 0 o (decodeSp o fun sp => .ok (.lds h sp (bit 0 o))))
  | 0x108 => need (bits 13 3 o == 3) .sizeCode (fixed 0 13 0 o (decodeSp o fun sp => .ok (.sts h sp)))
  | 0x109 => need (bits 13 3 o == 3) .sizeCode (fixed 0 13 0 o (decodeSp o fun sp => .ok (.stclr h sp)))
  | 0x10A => fixed 1 8 0 o (decodeSp o fun sp => decodeASize o fun sz => decodeMode o fun m => .ok (.aadd h sp sz m (bit 0 o)))
  | 0x10B => decodeAtomic (.amin h) o
  | 0x10C => decodeAtomic (.amax h) o
  | 0x10D => decodeAtomic (.aminw h) o
  | 0x10E => decodeAtomic (.amaxw h) o
  | 0x10F => decodeAtomic (.aand h) o
  | 0x110 => decodeAtomic (.aor h) o
  | 0x111 => decodeAtomic (.axor h) o
  | 0x112 => decodeAtomic (.aswp h) o
  | 0x113 => fixed 0 10 0 o (decodeSp o fun sp => decodeASize o fun sz => decodeSc o fun sc => .ok (.acas h sp sz sc))
  | 0x114 => need (bits 13 3 o == 3) .sizeCode (fixed 4 6 0 o (decodeSp o fun sp => decodeSc o fun sc => .ok (.acasm h sp (bits 0 2 o) (bits 2 2 o) sc)))
  | 0x115 => need (bits 13 3 o == 3) .sizeCode (fixed 0 10 0 o (decodeSp o fun sp => decodeSc o fun sc => .ok (.aenq h sp sc)))
  | 0x116 => need (bits 13 3 o == 3) .sizeCode (fixed 0 13 0 o (decodeSp o fun sp => .ok (.achase h sp)))
  | 0x117 => need (bits 13 3 o == 4) .sizeCode (fixed 0 9 0 o (decodeSp o fun sp => decodeMode o fun m => .ok (.abxa h sp m)))
  | 0x118 => decodeNone (.wenq h) o
  | 0x119 => fixed 13 6 0 o (fixed 0 10 0 o (decodeSc o fun sc => .ok (.otok h sc)))
  | 0x11A => decodeNone (.ojoin h) o
  | 0x11B => fixed 13 6 0 o (fixed 0 10 0 o (decodeSc o fun sc => .ok (.fence h sc)))
  | 0x11C => fixed 4 15 0 o (.ok (.tlwait h (bits 0 4 o)))
  | 0x11D => fixed 4 15 0 o (.ok (.tlread h (bits 0 4 o)))
  | 0x11E => fixed 4 15 0 o (.ok (.tlbump h (bits 0 4 o)))
  | 0x11F => decodeNone (.snap h) o
  | 0x120 => decodeNone (.snacc h) o
  | 0x121 => decodeNone (.snrej h) o
  | 0x122 => decodeNone (.snqry h) o
  | 0x123 => fixed 4 15 0 o (.ok (.stgput h (bits 0 4 o)))
  | 0x124 => fixed 4 15 0 o (.ok (.stgwait h (bits 0 4 o)))
  | 0x125 => fixed 4 15 0 o (.ok (.stgclose h (bits 0 4 o)))
  | _ => .error .unallocated

/-- Opcodes 0x140 to 0x17F: ENG format (R238), opcode map R243. -/
def decodeEng (op : Nat) (h : Head) (o : BitVec 19) : Except IllFormed Instr :=
  match op with
  | 0x140 => decodeCopy (.cpy h) o
  | 0x141 => decodeCopy (.cpyt h) o
  | 0x142 => decodeCopy (.cpyg h) o
  | 0x143 => decodeCopy (.cpys h) o
  | 0x144 => decodeCx (.cpysus h) o
  | 0x145 => decodeCx (.cpyres h) o
  | 0x146 => fixed 10 5 0 o (fixed 3 3 0 o (decodeTy o fun ty => .ok (.mldb h (bits 15 4 o) (bits 0 3 o) ty)))
  | 0x147 => fixed 0 15 0 o (.ok (.mscl h (bits 15 4 o)))
  | 0x148 => fixed 10 3 0 o (fixed 3 3 0 o (decodeTy o fun ty => .ok (.mma h (bits 15 4 o) (bits 13 2 o) (bits 0 3 o) ty)))
  | 0x149 => decodeCx (.macrd h) o
  | 0x14A => decodeCx (.macpk h) o
  | 0x14B => decodeCx (.macclr h) o
  | 0x14C => fixed 0 13 0 o (.ok (.macst h (bits 15 4 o) (bits 13 2 o)))
  | 0x14D => decodeCan1 (.cnclr h) o
  | 0x14E => decodeCan1 (.cnfeed h) o
  | 0x14F => decodeCan2 (.cnmax h) o
  | 0x150 => decodeCan2 (.cnsum h) o
  | 0x151 => decodeCan2 (.cninf h) o
  | 0x152 => decodeCan1 (.cnconj h) o
  | 0x153 => decodeCan1 (.cneval h) o
  | 0x154 => decodeCan1 (.cnmin h) o
  | 0x155 => decodeCan1 (.cnsimp h) o
  | 0x156 => decodeCanMem (.cnld h) o
  | 0x157 => decodeCanMem (.cnst h) o
  | 0x158 => decodeCan1 (.cninfo h) o
  | _ => .error .unallocated

/-- Opcodes 0x180 to 0x1FF: SYS format (R240), opcode map R243. -/
def decodeSys (op : Nat) (h : Head) (o : BitVec 19) : Except IllFormed Instr :=
  match op with
  | 0x180 => fixed 7 12 0 o (.ok (.trap h (bits 0 7 o)))
  | 0x181 => decodeNone (.eret h) o
  | 0x182 => fixed 0 7 0 o (.ok (.csrrd h (bits 7 12 o)))
  | 0x183 => fixed 0 7 0 o (.ok (.csrwr h (bits 7 12 o)))
  | 0x184 => fixed 7 12 0 o (.ok (.bkpt h (bits 0 7 o)))
  | 0x185 => decodeNone (.sleep h) o
  | 0x186 => fixed 0 7 0 o (.ok (.perf h (bits 7 12 o)))
  | _ => .error .unallocated

/-- Decodes by opcode (R243, R244). -/
def decodeOp (op : Nat) (h : Head) (o : BitVec 19) : Except IllFormed Instr :=
  if op < 0x040 then decodeAlu op h o
  else if op < 0x060 then decodeTest' op h o
  else if op < 0x080 then decodeCtl op h o
  else if op < 0x100 then decodeShp op h o
  else if op < 0x140 then decodeMem op h o
  else if op < 0x180 then decodeEng op h o
  else decodeSys op h o

/-- Decodes an instruction word, or names why it raises ILLEGAL_OP at fetch (R244). ILLG is the all-zero word (R369). -/
def decodeWord (w : Word) : Except IllFormed Instr :=
  if w == 0 then .ok .illg
  else match decodeHead w with
    | .error e => .error e
    | .ok h =>
      match decodeOp (bits 55 9 w).toNat h (bits 0 19 w) with
      | .error e => .error e
      | .ok i => match i.ill with
        | some e => .error e
        | none => .ok i

/-- A word's bytes in the order the hardware stores them: lowest address first (R164). -/
def bytesOfWord (w : BitVec k) (n : Nat) : List Byte := (List.range n).map fun i => bits (8 * i) 8 w

/-- The number that a little-endian byte list holds (R164). -/
def natOfBytes : List Byte → Nat
  | [] => 0
  | b :: bs => b.toNat + 256 * natOfBytes bs

/-- Decodes an instruction word from its eight bytes in memory order (R221). -/
def decodeBytes (bs : List Byte) : Except IllFormed Instr := decodeWord (BitVec.ofNat 64 (natOfBytes (bs.take 8)))

/-- The instruction read from a word whose bits are numbered as the opcode table numbers them (the host's fixed name):
the word is laid out in bytes and given to the decoder. -/
def decodeTableWord (nbits w : Nat) : Option Instr :=
  match decodeBytes (bytesOfWord (BitVec.ofNat 64 (w % 2 ^ nbits)) 8) with
  | .ok i => some i
  | .error _ => none

/-- Guard bits of R226. -/
def encodeGuard : Option Guard → BitVec 6
  | none => 0
  | some g => (1 : BitVec 1) ++ BitVec.ofBool g.sense ++ g.pred

/-- Target bits of R226. -/
def encodeTarget : Option Target → BitVec 10
  | none => 0
  | some t => (1 : BitVec 1) ++ t.idx ++ t.slot.toBits

/-- An instruction word from its opcode, its head and its operand field (R226). -/
def encodeRaw (op : Nat) (h : Head) (o : BitVec 19) : Word :=
  BitVec.ofNat 9 op ++ encodeGuard h.ga ++ encodeGuard h.gb ++ encodeTarget h.t0 ++ encodeTarget h.t1 ++ h.ch ++ h.sctl ++ o

/-- ALU operand field of an instruction that is no test (R233). -/
def encAlu2 (w : Width) : OpB → BitVec 19
  | .slot => w.toBits ++ (0 : BitVec 17)
  | .imm v => w.toBits ++ (1 : BitVec 1) ++ (0 : BitVec 5) ++ v

/-- ALU operand field of a test (R233, R256). -/
def encTest (w : Width) (b : OpB) (pd : Option (BitVec 4)) : BitVec 19 :=
  let p : BitVec 5 := match pd with
    | none => 0
    | some n => (1 : BitVec 1) ++ n
  match b with
  | .slot => w.toBits ++ (0 : BitVec 1) ++ p ++ (0 : BitVec 11)
  | .imm v => w.toBits ++ (1 : BitVec 1) ++ p ++ v

/-- SHP operand field (R236). -/
def encShp (d a b : BitVec 3) (ty : BitVec 4) (rm : Rm) (aux : BitVec 4) : BitVec 19 :=
  d ++ a ++ b ++ ty ++ rm.toBits ++ aux

/-- MEM operand field (R235). -/
def encMem (sp : Space) (sz sc : BitVec 3) (c : Bool) (sid : BitVec 5) (opt : BitVec 4) : BitVec 19 :=
  sp.toBits ++ sz ++ sc ++ BitVec.ofBool c ++ sid ++ opt

/-- SC and C of an atomic (R311). -/
def encAtomic (sp : Space) (sz : BitVec 3) (m : AMode) (opt : BitVec 4) : BitVec 19 :=
  match m with
  | .sync sc => encMem sp sz sc.toBits false 0 opt
  | .comb => encMem sp sz 0 true 0 opt

/-- ENG operand field (R238). -/
def encEng (tl : BitVec 4) (cx : BitVec 2) (er : BitVec 3) (ty : BitVec 4) (sc fo : Bool) (mod : BitVec 4) : BitVec 19 :=
  tl ++ cx ++ er ++ ty ++ BitVec.ofBool sc ++ BitVec.ofBool fo ++ mod

/-- CTL operand field (R239). -/
def encCtl (rg : BitVec 5) (te : Bool) (off : BitVec 13) : BitVec 19 := rg ++ BitVec.ofBool te ++ off

/-- FAN operand field (R239). -/
def encFan (t2 : Target) (t3 : Option Target) : BitVec 19 :=
  match t3 with
  | none => t2.idx ++ t2.slot.toBits ++ (0 : BitVec 10)
  | some t => t2.idx ++ t2.slot.toBits ++ t.idx ++ t.slot.toBits ++ (1 : BitVec 1)

/-- One-bit AUX. -/
def auxBit (b : Bool) : BitVec 4 := (0 : BitVec 3) ++ BitVec.ofBool b

/-- The words of a well-formed instruction, from the same tables; none for a step that is no instruction word. -/
def encode : Instr → Option Word
  | .illg => some 0
  | .add h w b => some (encodeRaw 0x001 h (encAlu2 w b))
  | .sub h w b => some (encodeRaw 0x002 h (encAlu2 w b))
  | .mul h w b => some (encodeRaw 0x003 h (encAlu2 w b))
  | .mulh h w b => some (encodeRaw 0x004 h (encAlu2 w b))
  | .mulhw h w b => some (encodeRaw 0x005 h (encAlu2 w b))
  | .div h w b => some (encodeRaw 0x006 h (encAlu2 w b))
  | .divw h w b => some (encodeRaw 0x007 h (encAlu2 w b))
  | .rem h w b => some (encodeRaw 0x008 h (encAlu2 w b))
  | .remw h w b => some (encodeRaw 0x009 h (encAlu2 w b))
  | .neg h w => some (encodeRaw 0x00A h (encAlu2 w .slot))
  | .abs h w => some (encodeRaw 0x00B h (encAlu2 w .slot))
  | .min h w b => some (encodeRaw 0x00C h (encAlu2 w b))
  | .max h w b => some (encodeRaw 0x00D h (encAlu2 w b))
  | .minw h w b => some (encodeRaw 0x00E h (encAlu2 w b))
  | .maxw h w b => some (encodeRaw 0x00F h (encAlu2 w b))
  | .and h w b => some (encodeRaw 0x010 h (encAlu2 w b))
  | .or h w b => some (encodeRaw 0x011 h (encAlu2 w b))
  | .xor h w b => some (encodeRaw 0x012 h (encAlu2 w b))
  | .andn h w b => some (encodeRaw 0x013 h (encAlu2 w b))
  | .not h w => some (encodeRaw 0x014 h (encAlu2 w .slot))
  | .shl h w b => some (encodeRaw 0x015 h (encAlu2 w b))
  | .shr h w b => some (encodeRaw 0x016 h (encAlu2 w b))
  | .sar h w b => some (encodeRaw 0x017 h (encAlu2 w b))
  | .rot h w b => some (encodeRaw 0x018 h (encAlu2 w b))
  | .clz h w => some (encodeRaw 0x019 h (encAlu2 w .slot))
  | .ctz h w => some (encodeRaw 0x01A h (encAlu2 w .slot))
  | .popc h w => some (encodeRaw 0x01B h (encAlu2 w .slot))
  | .brev h w => some (encodeRaw 0x01C h (encAlu2 w .slot))
  | .bfx h w b => some (encodeRaw 0x01D h (encAlu2 w b))
  | .bfxw h w b => some (encodeRaw 0x01E h (encAlu2 w b))
  | .bfi h w b => some (encodeRaw 0x01F h (encAlu2 w b))
  | .lea h w b => some (encodeRaw 0x020 h (encAlu2 w b))
  | .mov h => some (encodeRaw 0x021 h (0))
  | .movi h k => some (encodeRaw 0x022 h (k))
  | .movhi h q c => some (encodeRaw 0x023 h ((0 : BitVec 1) ++ q ++ c))
  | .sel h w b => some (encodeRaw 0x024 h (encAlu2 w b))
  | .sext h w => some (encodeRaw 0x025 h (encAlu2 w .slot))
  | .zext h w => some (encodeRaw 0x026 h (encAlu2 w .slot))
  | .teq h w b pd => some (encodeRaw 0x040 h (encTest w b pd))
  | .tne h w b pd => some (encodeRaw 0x041 h (encTest w b pd))
  | .tlt h w b pd => some (encodeRaw 0x042 h (encTest w b pd))
  | .tle h w b pd => some (encodeRaw 0x043 h (encTest w b pd))
  | .tltw h w b pd => some (encodeRaw 0x044 h (encTest w b pd))
  | .tlew h w b pd => some (encodeRaw 0x045 h (encTest w b pd))
  | .tbit h w b pd => some (encodeRaw 0x046 h (encTest w b pd))
  | .tnul h vc pd => some (encodeRaw 0x047 h (encTest .w64 (.imm ((0 : BitVec 6) ++ vc)) pd))
  | .read h r te => some (encodeRaw 0x060 h (encCtl r te 0))
  | .write h r => some (encodeRaw 0x061 h (encCtl r false 0))
  | .nul h st n => some (encodeRaw 0x062 h (encCtl n st 0))
  | .br h off => some (encodeRaw 0x063 h (encCtl 0 false off))
  | .brx h => some (encodeRaw 0x064 h (0))
  | .jtab h off => some (encodeRaw 0x065 h (encCtl 0 false off))
  | .call h off => some (encodeRaw 0x066 h (encCtl 0 false off))
  | .ret h => some (encodeRaw 0x067 h (0))
  | .exit h => some (encodeRaw 0x068 h (0))
  | .fan h t2 t3 => some (encodeRaw 0x069 h (encFan t2 t3))
  | .stamp h k => some (encodeRaw 0x06A h (encCtl ((0 : BitVec 3) ++ k) false 0))
  | .lpin h => some (encodeRaw 0x06B h (0))
  | .lpnext h => some (encodeRaw 0x06C h (0))
  | .lpout h => some (encodeRaw 0x06D h (0))
  | .send h n => some (encodeRaw 0x06E h (encCtl n false 0))
  | .sends h n => some (encodeRaw 0x06F h (encCtl n false 0))
  | .msg h n => some (encodeRaw 0x070 h (encCtl n false 0))
  | .notify h n => some (encodeRaw 0x071 h (encCtl n false 0))
  | .rnext h => some (encodeRaw 0x072 h (0))
  | .rsplit h => some (encodeRaw 0x073 h (0))
  | .yield h => some (encodeRaw 0x074 h (0))
  | .shdef h sh n => some (encodeRaw 0x080 h (sh ++ n ++ (0 : BitVec 6)))
  | .shset h sh f => some (encodeRaw 0x081 h (sh ++ (0 : BitVec 12) ++ f.toBits))
  | .shget h sh f => some (encodeRaw 0x082 h (sh ++ (0 : BitVec 12) ++ f.toBits))
  | .shadv h sh d => some (encodeRaw 0x083 h (sh ++ (0 : BitVec 14) ++ d))
  | .vadd h d a b ty rm sat => some (encodeRaw 0x084 h (encShp d a b ty.toBits rm (auxBit sat)))
  | .vsub h d a b ty rm sat => some (encodeRaw 0x085 h (encShp d a b ty.toBits rm (auxBit sat)))
  | .vmul h d a b ty rm sat => some (encodeRaw 0x086 h (encShp d a b ty.toBits rm (auxBit sat)))
  | .vfma h d a b c ty rm => some (encodeRaw 0x087 h (encShp d a b ty.toBits rm ((0 : BitVec 1) ++ c)))
  | .vfms h d a b c ty rm => some (encodeRaw 0x088 h (encShp d a b ty.toBits rm ((0 : BitVec 1) ++ c)))
  | .vmin h d a b ty => some (encodeRaw 0x089 h (encShp d a b ty.toBits .rne 0))
  | .vmax h d a b ty => some (encodeRaw 0x08A h (encShp d a b ty.toBits .rne 0))
  | .vabs h d a ty sat => some (encodeRaw 0x08B h (encShp d a 0 ty.toBits .rne (auxBit sat)))
  | .vneg h d a ty sat => some (encodeRaw 0x08C h (encShp d a 0 ty.toBits .rne (auxBit sat)))
  | .vdiv h d a b ty rm => some (encodeRaw 0x08D h (encShp d a b ty.toBits rm 0))
  | .vsqrt h d a ty rm => some (encodeRaw 0x08E h (encShp d a 0 ty.toBits rm 0))
  | .vrcp h d a ty rm => some (encodeRaw 0x08F h (encShp d a 0 ty.toBits rm 0))
  | .vrsq h d a ty rm => some (encodeRaw 0x090 h (encShp d a 0 ty.toBits rm 0))
  | .vexp2 h d a ty rm => some (encodeRaw 0x091 h (encShp d a 0 ty.toBits rm 0))
  | .vlog2 h d a ty rm => some (encodeRaw 0x092 h (encShp d a 0 ty.toBits rm 0))
  | .vsin h d a ty rm => some (encodeRaw 0x093 h (encShp d a 0 ty.toBits rm 0))
  | .vcos h d a ty rm => some (encodeRaw 0x094 h (encShp d a 0 ty.toBits rm 0))
  | .vtanh h d a ty rm => some (encodeRaw 0x095 h (encShp d a 0 ty.toBits rm 0))
  | .vsigm h d a ty rm => some (encodeRaw 0x096 h (encShp d a 0 ty.toBits rm 0))
  | .vcvt h d a dty sty rm => some (encodeRaw 0x097 h (encShp d a 0 dty.toBits rm sty.toBits))
  | .vscale h d a (.shape b) ty rm => some (encodeRaw 0x098 h (encShp d a b ty.toBits rm 0))
  | .vscale h d a .slot ty rm => some (encodeRaw 0x098 h (encShp d a 0 ty.toBits rm 1))
  | .vqnt h d a (.elements b) ty q rm => some (encodeRaw 0x099 h (encShp d a b ty.toBits rm ((0 : BitVec 2) ++ q.toBits)))
  | .vqnt h d a .scales ty q rm => some (encodeRaw 0x099 h (encShp d a 0 ty.toBits rm ((2 : BitVec 2) ++ q.toBits)))
  | .vand h d a b ty => some (encodeRaw 0x09A h (encShp d a b ty.toBits .rne 0))
  | .vor h d a b ty => some (encodeRaw 0x09B h (encShp d a b ty.toBits .rne 0))
  | .vxor h d a b ty => some (encodeRaw 0x09C h (encShp d a b ty.toBits .rne 0))
  | .vshl h d a b ty => some (encodeRaw 0x09D h (encShp d a b ty.toBits .rne 0))
  | .vshr h d a b ty => some (encodeRaw 0x09E h (encShp d a b ty.toBits .rne 0))
  | .vcmp h d a b ty c => some (encodeRaw 0x09F h (encShp d a b ty.toBits .rne ((0 : BitVec 1) ++ c.toBits)))
  | .vselm h d a b m ty => some (encodeRaw 0x0A0 h (encShp d a b ty.toBits .rne ((0 : BitVec 1) ++ m)))
  | .vclamp h d a ty => some (encodeRaw 0x0A1 h (encShp d a 0 ty.toBits .rne 0))
  | .vsum h a ty opt => some (encodeRaw 0x0A2 h (encShp 0 a 0 ty.toBits .rne (auxBit opt)))
  | .vrmax h a ty => some (encodeRaw 0x0A3 h (encShp 0 a 0 ty.toBits .rne 0))
  | .vrmin h a ty => some (encodeRaw 0x0A4 h (encShp 0 a 0 ty.toBits .rne 0))
  | .vargmx h a ty => some (encodeRaw 0x0A5 h (encShp 0 a 0 ty.toBits .rne 0))
  | .vdot h a b ty opt => some (encodeRaw 0x0A6 h (encShp 0 a b ty.toBits .rne (auxBit opt)))
  | .vperm h d a b ty => some (encodeRaw 0x0A7 h (encShp d a b ty.toBits .rne 0))
  | .vgath h d a b ty => some (encodeRaw 0x0A8 h (encShp d a b ty.toBits .rne 0))
  | .vscat h d a b ty => some (encodeRaw 0x0A9 h (encShp d a b ty.toBits .rne 0))
  | .vjoin h d a b outer => some (encodeRaw 0x0AA h (encShp d a b Ty.w32.toBits .rne (auxBit outer)))
  | .viota h d ty rm => some (encodeRaw 0x0AB h (encShp d 0 0 ty.toBits rm 0))
  | .vfill h d ty => some (encodeRaw 0x0AC h (encShp d 0 0 ty.toBits .rne 0))
  | .vcopy h d a ty => some (encodeRaw 0x0AD h (encShp d a 0 ty.toBits .rne 0))
  | .ld h sp sz sx => some (encodeRaw 0x100 h (encMem sp sz.toBits 0 false 0 (auxBit sx)))
  | .st h sp sz sid => some (encodeRaw 0x101 h (encMem sp sz.toBits 0 false sid 0))
  | .ldp h sp => some (encodeRaw 0x102 h (encMem sp 4 0 false 0 0))
  | .stp h sp sid => some (encodeRaw 0x103 h (encMem sp 4 0 false sid 0))
  | .pref h sp => some (encodeRaw 0x104 h (encMem sp 0 0 false 0 0))
  | .flush h sp => some (encodeRaw 0x105 h (encMem sp 0 0 false 0 0))
  | .inval h sp => some (encodeRaw 0x106 h (encMem sp 0 0 false 0 0))
  | .lds h sp wait => some (encodeRaw 0x107 h (encMem sp 3 0 false 0 (auxBit wait)))
  | .sts h sp => some (encodeRaw 0x108 h (encMem sp 3 0 false 0 0))
  | .stclr h sp => some (encodeRaw 0x109 h (encMem sp 3 0 false 0 0))
  | .aadd h sp sz m fp => some (encodeRaw 0x10A h (encAtomic sp sz.toBits m (auxBit fp)))
  | .amin h sp sz m => some (encodeRaw 0x10B h (encAtomic sp sz.toBits m 0))
  | .amax h sp sz m => some (encodeRaw 0x10C h (encAtomic sp sz.toBits m 0))
  | .aminw h sp sz m => some (encodeRaw 0x10D h (encAtomic sp sz.toBits m 0))
  | .amaxw h sp sz m => some (encodeRaw 0x10E h (encAtomic sp sz.toBits m 0))
  | .aand h sp sz m => some (encodeRaw 0x10F h (encAtomic sp sz.toBits m 0))
  | .aor h sp sz m => some (encodeRaw 0x110 h (encAtomic sp sz.toBits m 0))
  | .axor h sp sz m => some (encodeRaw 0x111 h (encAtomic sp sz.toBits m 0))
  | .aswp h sp sz m => some (encodeRaw 0x112 h (encAtomic sp sz.toBits m 0))
  | .acas h sp sz sc => some (encodeRaw 0x113 h (encMem sp sz.toBits sc.toBits false 0 0))
  | .acasm h sp n vk sc => some (encodeRaw 0x114 h (encMem sp 3 sc.toBits false 0 (vk ++ n)))
  | .aenq h sp sc => some (encodeRaw 0x115 h (encMem sp 3 sc.toBits false 0 0))
  | .achase h sp => some (encodeRaw 0x116 h (encMem sp 3 0 false 0 0))
  | .abxa h sp m => some (encodeRaw 0x117 h (encAtomic sp 4 m 0))
  | .wenq h => some (encodeRaw 0x118 h (0))
  | .otok h sc => some (encodeRaw 0x119 h (encMem .gl 0 sc.toBits false 0 0))
  | .ojoin h => some (encodeRaw 0x11A h (0))
  | .fence h sc => some (encodeRaw 0x11B h (encMem .gl 0 sc.toBits false 0 0))
  | .tlwait h n => some (encodeRaw 0x11C h (encMem .gl 0 0 false 0 n))
  | .tlread h n => some (encodeRaw 0x11D h (encMem .gl 0 0 false 0 n))
  | .tlbump h n => some (encodeRaw 0x11E h (encMem .gl 0 0 false 0 n))
  | .snap h => some (encodeRaw 0x11F h (0))
  | .snacc h => some (encodeRaw 0x120 h (0))
  | .snrej h => some (encodeRaw 0x121 h (0))
  | .snqry h => some (encodeRaw 0x122 h (0))
  | .stgput h n => some (encodeRaw 0x123 h (encMem .gl 0 0 false 0 n))
  | .stgwait h n => some (encodeRaw 0x124 h (encMem .gl 0 0 false 0 n))
  | .stgclose h n => some (encodeRaw 0x125 h (encMem .gl 0 0 false 0 n))
  | .cpy h tl cx ty st fo mask => some (encodeRaw 0x140 h (encEng tl cx 0 ty.toBits st fo mask))
  | .cpyt h tl cx ty st fo mask => some (encodeRaw 0x141 h (encEng tl cx 0 ty.toBits st fo mask))
  | .cpyg h tl cx ty st fo mask => some (encodeRaw 0x142 h (encEng tl cx 0 ty.toBits st fo mask))
  | .cpys h tl cx ty st fo mask => some (encodeRaw 0x143 h (encEng tl cx 0 ty.toBits st fo mask))
  | .cpysus h cx => some (encodeRaw 0x144 h (encEng 0 cx 0 0 false false 0))
  | .cpyres h cx => some (encodeRaw 0x145 h (encEng 0 cx 0 0 false false 0))
  | .mldb h tl m ty => some (encodeRaw 0x146 h (encEng tl 0 0 ty.toBits false false ((0 : BitVec 1) ++ m)))
  | .mscl h tl => some (encodeRaw 0x147 h (encEng tl 0 0 0 false false 0))
  | .mma h tl acc m ty => some (encodeRaw 0x148 h (encEng tl acc 0 ty.toBits false false ((0 : BitVec 1) ++ m)))
  | .macrd h cx => some (encodeRaw 0x149 h (encEng 0 cx 0 0 false false 0))
  | .macpk h cx => some (encodeRaw 0x14A h (encEng 0 cx 0 0 false false 0))
  | .macclr h cx => some (encodeRaw 0x14B h (encEng 0 cx 0 0 false false 0))
  | .macst h tl acc => some (encodeRaw 0x14C h (encEng tl acc 0 0 false false 0))
  | .cnclr h er => some (encodeRaw 0x14D h (encEng 0 0 er 0 false false 0))
  | .cnfeed h er => some (encodeRaw 0x14E h (encEng 0 0 er 0 false false 0))
  | .cnmax h er m => some (encodeRaw 0x14F h (encEng 0 0 er 0 false false ((0 : BitVec 1) ++ m)))
  | .cnsum h er m => some (encodeRaw 0x150 h (encEng 0 0 er 0 false false ((0 : BitVec 1) ++ m)))
  | .cninf h er m => some (encodeRaw 0x151 h (encEng 0 0 er 0 false false ((0 : BitVec 1) ++ m)))
  | .cnconj h er => some (encodeRaw 0x152 h (encEng 0 0 er 0 false false 0))
  | .cneval h er => some (encodeRaw 0x153 h (encEng 0 0 er 0 false false 0))
  | .cnmin h er => some (encodeRaw 0x154 h (encEng 0 0 er 0 false false 0))
  | .cnsimp h er => some (encodeRaw 0x155 h (encEng 0 0 er 0 false false 0))
  | .cnld h tl er => some (encodeRaw 0x156 h (encEng tl 0 er 0 false false 0))
  | .cnst h tl er => some (encodeRaw 0x157 h (encEng tl 0 er 0 false false 0))
  | .cninfo h er => some (encodeRaw 0x158 h (encEng 0 0 er 0 false false 0))
  | .trap h code => some (encodeRaw 0x180 h ((0 : BitVec 12) ++ code))
  | .eret h => some (encodeRaw 0x181 h (0))
  | .csrrd h n => some (encodeRaw 0x182 h (n ++ (0 : BitVec 7)))
  | .csrwr h n => some (encodeRaw 0x183 h (n ++ (0 : BitVec 7)))
  | .bkpt h code => some (encodeRaw 0x184 h ((0 : BitVec 12) ++ code))
  | .sleep h => some (encodeRaw 0x185 h (0))
  | .perf h n => some (encodeRaw 0x186 h (n ++ (0 : BitVec 7)))
  | .blockFetch => none
  | .blockCommit => none
  | .blockQuiescentFault => none
  | .activationStart => none
  | .taskPromote => none
  | .messageArrive => none
  | .bindingFill => none
  | .longLatencyResult => none
  | .rnextServe => none
  | .stageWaiterServe => none
  | .sleepExpire => none
  | .tlwaitTimeout => none
  | .tlbumpComplete => none
  | .spillTimeout => none
  | .batchApply => none
  | .frontierResume => none
  | .notificationArrive => none
  | .batchAck => none
  | .loopAdmit => none
  | .packetAccept => none
  | .linkDisable => none
  | .reductionNodeArrive => none
  | .reductionTimeout => none
  | .homeAtomic => none
  | .aenqAtHome => none
  | .achaseHop => none
  | .structLdsAtAgent => none
  | .structStsAtAgent => none
  | .structStclrAtAgent => none
  | .readerCancel => none
  | .wenqAtTarget => none
  | .wenqHeadWake => none
  | .wenqRingTimeout => none
  | .linkRequestArrive => none
  | .linkRetransmit => none
  | .linkTimeout => none
  | .replyEntryAgeOut => none
  | .l2Access => none
  | .l2FillComplete => none
  | .pageWalk => none
  | .walkComplete => none
  | .settleBackground => none
  | .hbmRefresh => none
  | .hbmScrub => none
  | .l2Scrub => none
  | .l2FrameSpare => none
  | .pseudoChannelSpare => none
  | .pseudoChannelCopyDone => none
  | .stackDegrade => none
  | .copyStart => none
  | .copyStep => none
  | .followOnStart => none
  | .macroLoad => none
  | .scaleTokenAccept => none
  | .mmaStart => none
  | .mmaComplete => none
  | .macclrPerform => none
  | .macstPerform => none
  | .canopyLoad => none
  | .canopyStore => none
  | .launchDoorbell => none
  | .launchTake => none
  | .determinismChange => none
  | .loadPlace => none
  | .loadDrain => none
  | .preemptStart => none
  | .preemptSave => none
  | .loadResume => none
  | .bedFail => none
  | .pullQueuePull => none
  | .trapRecordDeliver => none
  | .laneFail => none
  | .planeFail => none
  | .hostCxlMemRead => none
  | .hostCxlMemWrite => none
  | .translationInvalidatePage => none
  | .translationInvalidateAll => none
  | .tensorInvalidate => none
  | .invalidationComplete => none
  | .contextCreate => none
  | .contextDestroy => none
  | .identWrite => none
  | .killQueue => none
  | .killContext => none
  | .killComplete => none
  | .dbgRefire => none
  | .dbgKill => none
  | .dbgRefireSuppress => none
  | .warmReset => none
  | .coldReset => none
  | .registerWrite => none
  | .spdmRequest => none
  | .spdmSlhDsaRequest => none
  | .doeDiscovery => none
  | .powerGrant => none
  | .thermalThrottle => none
  | .thermalRecover => none
  | .thermalShutdown => none
  | .flitResend => none
  | .hostSnoop => none
  | .powerLoss => none

/-- The block header (R222), its fields as the element uses them. -/
structure Header where
  nm1 : BitVec 7
  nst : BitVec 6
  exit : BitVec 3
  waved : Bool
  trapEmpty : Bool
  noPreempt : Bool
  reserved : BitVec 13
  smask : BitVec 32
  wmask : BitVec 32
  pdelta : BitVec 16
  scount : BitVec 16
  deriving DecidableEq, Repr

/-- Decodes a header from its 128 bits (R222); the reserved bits [108:96] are kept for the check of R225. -/
def decodeHeader (w : Quad) : Header :=
  { nm1 := bits 121 7 w, nst := bits 115 6 w, exit := bits 112 3 w, waved := bit 111 w, trapEmpty := bit 110 w,
    noPreempt := bit 109 w, reserved := bits 96 13 w, smask := bits 64 32 w, wmask := bits 32 32 w,
    pdelta := bits 16 16 w, scount := bits 0 16 w }

/-- Encodes a header (R222). -/
def encodeHeader (h : Header) : Quad :=
  h.nm1 ++ h.nst ++ h.exit ++ BitVec.ofBool h.waved ++ BitVec.ofBool h.trapEmpty ++ BitVec.ofBool h.noPreempt ++ h.reserved
    ++ h.smask ++ h.wmask ++ h.pdelta ++ h.scount

/-- The ordering classes of R147. -/
inductive OrderClass where | L | M | X | A | S | D | O | T | C | E | N
  deriving DecidableEq, Repr

end Sys2Proof
end

