-- ==== Sys2Proof/Machine/State.lean ====
section
/-! DEFINITION. The state of the machine as plain data: everything spec/ gives the PM6 (INVENTORY.md, heading State), the
fault and refusal reasons, and the state after cold reset. A table lists the keys that differ from their reset value. -/

namespace Sys2Proof.Machine

/-- A finite map as a list of pairs; an unlisted key has the default of its reader. -/
abbrev Table (κ α : Type) := List (κ × α)

/-- All storage the part addresses, one byte a cell, in one canonical form (Ops.lean gives the keys and the form). -/
abbrev Memory := List Host.Cell

/-- Fault codes (R466). -/
inductive FCode where
  | illegalOp | blockFormat | emptyRead | priv | pageFault | perm | align | addrRange | structRewrite
  | shadowExhausted | snapDepth | envelopeOverflow | frontierFull | uncorrectable | engineFault | softwareTrap
  deriving DecidableEq, Repr

/-- Access kinds of a fault record (R467); a fetch is also the access of a configuration fill (R39). -/
inductive Acc where | read | write | atomic | fetch
  deriving DecidableEq, Repr

/-- What an access does with a page (R21, R22, R306, R39). -/
inductive Use where | read | write | atomic | structRead | structWrite | cache | fetch
  deriving DecidableEq, Repr

/-- A translation fault: code, cause of R36 and DETAIL, and the failing unit that a walk or the read of a descriptor met (R65). -/
structure XFault where
  code : FCode
  cause : Nat
  detail : Nat := 0
  unit : Nat := 0
  far : Bool := false    -- that unit lies in another package (R467)
  deriving DecidableEq, Repr

/-- Who asks a die for a translation (R31, R32): an instruction of a block, a command of a tile's engine (units 0 to 3 the copy
contexts, 4 matrix, 5 Canopy), or an operation that an agent performs. -/
inductive Asker where
  | instr (t : TaskRef) (serial idx : Nat)
  | engine (tile unit id : Nat)
  | op (id : Nat)
  deriving DecidableEq, Repr

/-- A stamp (R199, R207): its depth, the epoch c0 and the loop coordinates, which are 0 beyond the depth. -/
structure Stamp where
  depth : Nat := 0
  c0 : Nat := 0
  c1 : Nat := 0
  c2 : Nat := 0
  c3 : Nat := 0
  deriving DecidableEq, Repr

/-- A reference to an access: the block that fired it and its instruction index (R298). -/
structure Ref where
  serial : Nat
  idx : Nat
  store : Bool
  deriving DecidableEq, Repr

/-- An ordering token (R129): its scope, the accesses it waits for, and the blocks whose earlier blocks a FENCE waits for. -/
structure Token where
  scope : Scope := .pod
  refs : List Ref := []
  fences : List Nat := []
  deriving DecidableEq, Repr

/-- What a consumer slot holds: a value, the access it refers to, and a token (R298, R319). -/
structure SlotVal where
  v : Word
  ref : Option Ref := none
  tok : Option Token := none
  deriving DecidableEq, Repr

/-- What fills an empty register later (R241): a result of a pending operation, or the release of a token. -/
inductive Due where
  | result (req : Nat) (second : Bool)
  | token (t : Token)
  deriving DecidableEq, Repr

/-- A register x0 to x31 with its full/empty bit (R2, R241). -/
structure Reg where
  v : Word := 0
  full : Bool := false
  due : Option Due := none
  deriving DecidableEq, Repr

/-- A fault record, field by field (R467). -/
structure Record where
  code : FCode
  cause : Nat := 0
  kind : Nat := 0
  index : Nat := 0
  link : Bool := false
  acc : Acc := .read
  ctx : Nat := 0
  detail : Nat := 0
  unit : Nat := 0
  handle : Nat := 0
  addr : Nat := 0
  stamp : Stamp := {}
  auxA : Nat := 0
  auxB : Nat := 0
  time : Nat := 0
  epoch : Nat := 0       -- the faulting launch's epoch, which stamps the message that carries the record (R468)
  born : Nat := 0        -- the cycle in which it came to its trap queue (R469)
  deriving DecidableEq, Repr

/-- A gl line an access touches, with what its translation gives (R17, R23, R28, R55). -/
structure LineUse where
  line : Nat          -- pod physical address of the 2 KiB line
  va : Nat
  mtype : Nat
  cls : Nat
  tid : Nat
  ms : Bool
  tile : Nat
  epoch : Nat := 0    -- the epoch attached at the issuing die (R105)
  entry : Nat := 0    -- physical address of the leaf entry (R19)
  hint : Nat := 0     -- the instruction's cache hint (R232)
  deriving DecidableEq, Repr

/-- A store a block has produced (R216): its identifier, the bytes it writes by memory key, and payload bytes it writes (R10). -/
structure StoreRec where
  idx : Nat
  sid : Nat
  bytes : List (Nat × Byte)
  lines : List LineUse := []
  chan : List (Nat × Nat × Byte) := []
  wait : Option Token := none
  deriving DecidableEq, Repr

/-- Loop instructions on the send stamp (R267). -/
inductive StampOp where | inn | next | out
  deriving DecidableEq, Repr

/-- A follow-on matrix command of a copy (R341). -/
inductive Follow where
  | mma (acc m : Nat) (ty : Ty) (a4 : Bool) (row0 tag : Nat)
  | mldb (m : Nat) (ty : Ty) (scale : Row)
  deriving DecidableEq, Repr

/-- What an engine command does, its shapes as read when it fired (R333, R337 to R350, R361). -/
inductive EngOp where
  | copy (form : Nat) (d a x : Row) (ty : Ty) (mask : Nat) (start : Option (Nat × Nat)) (follow : Option Follow)
  | mldb (m : Nat) (ty : Ty) (b scale : Row)
  | mscl (scale : Row) (tile tag : Nat)
  | mma (acc m : Nat) (ty : Ty) (a : Row) (a4 : Bool) (row0 tag : Nat)
  | macclr (acc mode : Nat)
  | macst (acc row0 : Nat) (d : Row)
  | cnld (e : Nat) (shape : Row)
  | cnst (e : Nat) (shape : Row)
  deriving DecidableEq, Repr

/-- State of an engine command (R335). -/
inductive CmdState where | waiting | running | suspended | failed
  deriving DecidableEq, Repr

/-- A scale token (R346). -/
structure ScaleTok where
  m : Nat
  tag : Nat
  bytes : List Byte
  deriving DecidableEq, Repr

/-- A queued engine command with the context and the mode values it carries (R334, R364). -/
structure Cmd where
  id : Nat
  op : EngOp
  tl : Nat := 0
  num : Nat := 0
  ctx : Nat := 0
  load : Nat := 0
  task : Option TaskRef := none
  ftz : Bool := false
  state : CmdState := .waiting
  suspend : Bool := false   -- CPYSUS asked for a stop at the end of the step (R342)
  prog : Nat := 0
  code : Option FCode := none
  cause : Nat := 0
  tok : Option ScaleTok := none
  hint : Nat := 0              -- the instruction's cache hint (R232, R332)
  copyOf : Option Nat := none  -- a follow-on: the copy it waits for (R341)
  ready : Bool := true
  after : Option Token := none
  sent : Bool := false         -- the writes of its step have been sent (R125)
  rows : List (List Nat) := []  -- an MMA's row buffer (R391), or the image that a CNST has read of its register (R361)
  counts : List Nat := []      -- K-blocks of the row under way that have entered each column (R400)
  fail : Option Record := none -- the failure of a later line, with which it ends once the lines before are written (R37)
  deriving DecidableEq, Repr

/-- What takes effect at commit, in instruction-index order (R216, R276). -/
inductive Defer where
  | shdef (sh num : Nat)
  | shset (sh : Nat) (f : ShField) (v : Word)
  | shadv (sh d : Nat) (v : Word)
  | stamp (op : StampOp)
  | send (port : Nat) (payload : List Byte)
  | notify (vc : Nat)
  | rsplit (hi : Word)
  | stgput (q : Nat) (v : Word) (req : Nat)
  | stgclose (q : Nat)
  | tlbump (tl : Nat)
  | csrwr (n : Nat) (v : Word)
  | eret (handle action value : Word)
  | engine (unit : Nat) (c : Cmd)
  | cpysus (cx : Nat)
  | cpyres (unit cx tile : Nat) (discard : Bool)
  | snapOpen (handle : Nat)
  deriving DecidableEq, Repr

/-- The product of one register of the write mask (R216, R241). -/
inductive RegProd where
  | null
  | value (v : SlotVal)
  deriving DecidableEq, Repr

/-- The branch a block produced (R219): the next block address, or the end of the activation. -/
inductive Next where
  | block (addr : Nat)
  | yield
  | exit
  deriving DecidableEq, Repr

/-- A write into the working copy of a vector temporary (R277): writer, temporary, byte offset, byte, and the bytes of its element. -/
structure VtWrite where
  idx : Nat
  vt : Nat
  off : Nat
  byte : Byte
  unit : Nat
  deriving DecidableEq, Repr

/-- Where an element lies (R274): in a temporary, in storage, in a message, or nowhere (R294). -/
inductive ELoc where
  | vt (n off : Nat)
  | mem (key : Nat) (use : Option LineUse)
  | ch (key : Nat)
  | nowhere
  deriving DecidableEq, Repr

/-- A vector instruction under way (R282, R283): the indices it has read (R294), and the elements of its operands a, b, c and d that have
passed their checks. -/
structure VWork where
  index : List Nat := []
  a : List ELoc := []
  b : List ELoc := []
  c : List ELoc := []
  d : List ELoc := []
  deriving DecidableEq, Repr

/-- A segment of an envelope (R352). -/
structure Seg where
  slope : BitVec 32
  icpt : BitVec 32
  tag : BitVec 16
  right : BitVec 32
  deriving DecidableEq, Repr

/-- An envelope register (R352); the lost mark of R410. -/
structure Env where
  xlo : BitVec 32 := 0xFF800000
  xhi : BitVec 32 := 0x7F800000
  segs : List Seg := []
  lost : Bool := false
  deriving DecidableEq, Repr

/-- One block in flight (R215 to R218). -/
structure Firing where
  serial : Nat
  addr : Nat
  hdr : Header
  words : List Word
  slots : Table (Nat × Nat) SlotVal := []      -- (instruction, slot code) to what arrived (R231)
  preds : Table Nat Bool := []
  fired : List Nat := []
  regs : Table Nat RegProd := []
  stores : List StoreRec := []
  nulls : List Nat := []
  branch : Option Next := none
  defer : List (Nat × Defer) := []
  vt : List VtWrite := []
  vwork : Table Nat VWork := []                -- vector instructions under way
  canopy : Table Nat (Env × Bool) := []        -- working copies and whether written (R353)
  cnBy : Table Nat Nat := []                   -- last instruction that wrote the working copy
  fpmode : Word := 0
  cntol : BitVec 32 := 0
  wave : Nat := 0                              -- the block's first sequence number (R224)
  used : List Nat := []                        -- virtual pages, VA[55:16], whose translations it has used (R42)
  issued : List Nat := []                      -- instructions that wait, or have waited, for a translation (R31, R35)
  suppress : Option Word := none               -- ERET action 2 and its slot c (R366)
  fault : Option Record := none
  deriving DecidableEq, Repr

/-- A replay store entry (R301): instruction, both results, and the old words of ACASM. -/
structure Replay where
  idx : Nat
  r0 : Word
  r1 : Word
  olds : List Word := []
  deriving DecidableEq, Repr

/-- A location of a load (R370, R382): the logical bed, tile, element and virtual channel. -/
structure Place where
  bed : Nat
  tile : Nat
  elem : Nat
  vc : Nat
  deriving DecidableEq, Repr

/-- A key of the tracker (R370). -/
structure Key where
  req : Bool
  place : Place
  stamp : Stamp
  deriving DecidableEq, Repr

/-- A message: its tag (R199), payload, the load it belongs to, and the contributions a reduced message stands for (R446). -/
structure Msg where
  ctx : Nat
  stamp : Stamp
  payload : List Byte
  load : Nat
  elem : Nat := 0
  vc : Nat
  count : Nat := 1
  until_ : Nat := 0     -- the cycle at which its spill timer expires while it is held, 0 for never (R443, R447)
  port : Option Nat := none   -- while it is held, the input port of the last router whose buffer it stands in (R447)
  bad : Bool := false
  deriving DecidableEq, Repr

/-- A notification (R384). -/
structure Note where
  load : Nat
  task : TaskRef
  place : Place
  stamp : Stamp
  count : Nat
  deriving DecidableEq, Repr

/-- A batch that an acknowledgement goes to (R381): one of a task, by its number, or a merged one. -/
inductive AckTo where
  | task (t : TaskRef) (n : Nat)
  | merged (batch : Nat)
  deriving DecidableEq, Repr

/-- A progress batch (R377) or the packet that carries several (R381). -/
structure Batch where
  load : Nat
  deltas : List (Key × Int)
  ack : Option AckTo := none                    -- what its acknowledgement goes to
  decs : List (Key × Nat) := []                 -- decrements among the deltas, kept through merging (R386, R387)
  asks : List (Key × TaskRef) := []             -- who made each request (R384)
  deriving DecidableEq, Repr

/-- A pending or running activation (R200). -/
structure Activation where
  stamp : Stamp
  msgs : List Msg := []
  note : Option Note := none
  since : Nat := 0          -- the cycle since which it pends with its task not Active (R420)
  unacked : List Nat := []
  held : List Batch := []   -- the last batch, held until the earlier ones are acknowledged (R379)
  after : List Nat := []    -- the writes it must not precede (R137)
  deriving DecidableEq, Repr

/-- States of a task (R200). -/
inductive Phase where | unbound | idle | ready | active | parked | swapped | exited
  deriving DecidableEq, Repr

/-- A task slot of an element (R200, R212, R241, R272). -/
structure Task where
  phase : Phase := .unbound
  ctx : Nat := 0
  launch : Nat := 0
  load : Nat := 0
  number : Nat := 0                 -- its place in the load's list of tasks
  gen : Nat := 0
  code : List Word := []            -- instruction store, 64-bit words (R221)
  waved : Bool := false
  regs : List Reg := List.replicate 32 {}
  sh : List Row := List.replicate 8 0
  vt : List Row := List.replicate 4 0
  flights : List Firing := []       -- oldest first, at most two (R218)
  fetch : Option Nat := none        -- the block address to fetch next
  parked : Option (Firing × Record) := none
  act : Option Activation := none
  pending : List Activation := []
  dropped : List Activation := []   -- activations a drain has abandoned (R424)
  ended : List Activation := []     -- ended activations whose last batch waits for acknowledgements (R379)
  replay : List Replay := []
  seq : Nat := 0                    -- running wave sequence number (R224)
  promoted : Option Nat := none     -- when it was promoted (R420)
  cut : Bool := false               -- its activation has cut its element's sub-interval (R271)
  refire : Option Word := none      -- ERET action 2 for the next fetch (R366)
  acts : Nat := 0                   -- activations started since placement
  stored : List (Nat × Nat × List (Nat × Byte)) := []  -- committed stores at level 2: issue key, activation index, bytes (R430)
  deriving DecidableEq, Repr

/-- A write that an agent makes for a list operation or a WENQ (R74, R91): where, what, and the translation, context and virtual address
under which it is made. -/
structure Leg where
  key : Nat
  bytes : List Byte
  use : Option LineUse
  ctx : Nat
  va : Nat
  deriving DecidableEq, Repr

/-- What a pending operation does (R300, R70, R84, R91). -/
inductive Op where
  | load (size : Nat) (sx : Bool)
  | pair
  | vload (keys : List Nat)
  | chwrite (bytes : List (Nat × Nat × Byte))
  | store (bytes : List (Nat × Byte))
  | atomic (f : Nat) (size : Nat) (v cmp : Nat) (comb fp ftz : Bool)
  | acasm (n vk : Nat) (cmp new : List Word)
  | aenq (h n nPa : Nat) (nUse : Option LineUse)
  | achase (left off : Nat) (hops : Nat)
  | lds (wait : Bool)
  | sts (v : Word)
  | stclr (n : Nat)
  | wenq (off : Nat) (payload : List Byte) (go : Option Nat)   -- the descriptor read, once the ring has room (R91)
  | legs (home : Nat) (todo : List Leg) (value : Word)   -- the writes left of an AENQ or a WENQ whose agent stands at home, and its value (R74, R91)
  | flush
  | inval
  | tlwait (tl : Nat) (n : Word) (limit : Nat)
  | stgwait (bed q : Nat)
  | stgput (bed q : Nat)
  | rnext
  | sleep (count : Nat)
  | tlbump (tl num : Nat)
  | macrd (acc index : Nat) (waits : List Nat)
  deriving DecidableEq, Repr

/-- The answer of an operation: two results, or the fault its block takes. -/
structure Answer where
  r0 : Word := 0
  r1 : Word := 0
  olds : List Word := []
  fail : Option Record := none
  deriving DecidableEq, Repr

/-- The identifier of a request over a Sladom link (R78). -/
structure LinkId where
  package : Nat
  unit : Nat
  seq : Nat
  deriving DecidableEq, Repr

/-- An operation sent and not yet delivered (R241, R300). -/
structure Req where
  id : Nat
  op : Op
  task : Option TaskRef := none
  eng : Option (Nat × Nat × Nat) := none   -- an engine's line access: tile, unit and command
  serial : Nat := 0
  idx : Nat := 0
  ctx : Nat := 0
  load : Nat := 0
  loc : Nat := 0                   -- memory key: a pod physical address for gl
  va : Nat := 0
  use : Option LineUse := none
  start : Nat := 0                 -- cycle it was sent
  wait : Option Token := none
  order : Nat := 0                 -- wave number (R132), 0 when not waved
  act : Nat := 0                   -- the activation it belongs to: wave numbers start again in the next one (R224)
  link : Option LinkId := none
  retries : Nat := 0
  held : Bool := false             -- held at a full ring, or for a fill of its line (R91, R57)
  came : Nat := 0                  -- the step at which its service began or it was held, counted from 1 (R57)
  arrived : Nat := 0               -- the step at which it came to its home, counted from 1: arrival order at a line (R69)
  sent : Nat := 0                  -- its place in the order in which requests set out over links (R453)
  via : Nat := 0                   -- the retry count of the request over a link that its reply answers (R453)
  back : Bool := false             -- its reply has come back over the mesh (R432)
  got : List (Nat × Byte) := []    -- bytes of a read whose other 8-byte parts are still to be read (R48)
  answer : Option Answer := none   -- set when performed
  deriving DecidableEq, Repr

/-- A frame of an L2 slice with its tag record (R54, R55). -/
structure Frame where
  die : Nat
  slice : Nat
  set : Nat
  way : Nat
  st : Nat
  cls : Nat
  snp : Bool
  epoch : Nat
  ctx : Nat
  tid : Nat
  sln : Nat
  tile : Nat
  deriving DecidableEq, Repr

/-- A structure word that is not EMPTY (R83). -/
inductive SWord where
  | deferred (readers : List Nat)
  | full (v : Word)
  deriving DecidableEq, Repr

/-- A leaf translation (R17, R30). -/
structure Leaf where
  pa : Nat
  size : Nat            -- page size in bytes
  level : Nat
  mtype : Nat
  cls : Nat
  tid : Nat
  p : Bool
  w : Bool
  x : Bool
  entry : Nat           -- physical address of the entry
  dirty : Bool
  deriving DecidableEq, Repr

/-- A line of a die's translation cache (R30). -/
structure TcEntry where
  die : Nat
  ctx : Nat
  page : Nat            -- virtual address of the page
  leaf : Leaf
  deriving DecidableEq, Repr

/-- A table pointer in a walk cache (R30). -/
structure WcEntry where
  die : Nat
  ctx : Nat
  level : Nat
  page : Nat
  next : Nat
  deriving DecidableEq, Repr

/-- A waiter of an outstanding miss (R31, R32): who asked, for which address, to do what. -/
structure Waiter where
  who : Asker
  va : Nat
  use : Use
  deriving DecidableEq, Repr

/-- An entry of a die's miss-coalescing table (R31). -/
structure Miss where
  id : Nat
  die : Nat
  ctx : Nat
  page : Nat            -- VA[55:16]
  use : Use             -- the access that made the entry: its walk checks and marks for it (R20)
  walking : Bool
  waiters : List Waiter
  deriving DecidableEq, Repr

/-- A snapshot's range-table entry (R101); unlisted slots are invalid. -/
structure Range where
  depth : Nat
  parent : Option Nat
  epoch : Nat
  held : Bool
  base : Nat            -- VA[55:16]
  len : Nat             -- in 64 KiB units
  gen : Nat
  deriving DecidableEq, Repr

/-- States of an epoch value (R103); a value never taken is not listed. -/
inductive EpState where | free | opened | merging | rejecting | retiring | held
  deriving DecidableEq, Repr

/-- An epoch-table entry (R103). -/
structure Epoch where
  state : EpState
  parent : Nat
  pend : Nat
  deriving DecidableEq, Repr

/-- A shadow's record (R105, R107): its line, context, owner, prior epoch, and the pool line that holds the old image. -/
structure Shadow where
  line : Nat
  ctx : Nat
  owner : Nat
  prior : Nat
  slot : Nat
  deriving DecidableEq, Repr

/-- A timeline counter (R140): its value, the number last given, and the numbers completed beyond the value. -/
structure Timeline where
  value : Nat := 0
  given : Nat := 0
  done : List Nat := []
  deriving DecidableEq, Repr

/-- A launch queue (R412, R414). -/
structure LaunchQ where
  valid : Bool := false
  prio : Nat := 0
  log2n : Nat := 0
  lqbase : Nat := 0
  cqbase : Nat := 0
  head : Nat := 0
  bell : Nat := 0        -- packets written, as the doorbell gives it
  done : Nat := 0        -- completions written
  level : Nat := 0
  deriving DecidableEq, Repr

/-- A pull queue (R457, R458). -/
structure PullQ where
  valid : Bool := false
  lq : Nat := 0
  log2n : Nat := 0
  src : Nat := 0
  taddr : Nat := 0
  head : Nat := 0
  stopped : Bool := false
  deriving DecidableEq, Repr

/-- The invalidation registers of a context's doorbell page (R41) and what a running invalidation waits for (R42). -/
structure Inval where
  addr : Word := 0
  ctl : Word := 0
  busy : Bool := false
  blocks : List Nat := []
  deriving DecidableEq, Repr

/-- A context (R462, R463): descriptor words as read at launch, snapshots, timelines, modes, queues. -/
structure Ctx where
  live : Bool := false
  busy : Bool := false
  ptw : Word := 0
  ttw : Word := 0
  snapw : Word := 0
  dlbase : Nat := 0
  dllog2n : Nat := 0
  ovbase : Nat := 0
  ovn : Nat := 0
  ten : Bool := false
  ttile : Nat := 0
  telem : Nat := 0
  ranges : Table Nat Range := []
  gens : Table Nat Nat := []
  epochs : Table Nat Epoch := []
  tls : List Timeline := List.replicate 16 {}
  fpmode : Word := 0
  cntol : BitVec 32 := 0
  old : Word × BitVec 32 := (0, 0)          -- csr.fpmode and csr.cntol, each before its last write (R364)
  inval : Inval := {}
  lqs : List LaunchQ := List.replicate 16 {}
  pqs : List PullQ := List.replicate 8 {}
  traps : List Record := []
  deriving DecidableEq, Repr

/-- A copy context of a tile (R335, R340): its commands, oldest first. -/
structure CopyCtx where
  cmds : List Cmd := []
  deriving DecidableEq, Repr

/-- A macro of the matrix engine (R345, R390): type, cells by row and column, scales and lsbs by K-block and column. -/
structure Macro where
  valid : Bool := false
  ty : Ty := .i8
  cells : List Int := []
  scales : List Nat := []
  lsbs : List Int := []
  nan : List Bool := []
  loaded : Option (Nat × Row × Row) := none   -- load record (R402): context and shapes
  deriving DecidableEq, Repr

/-- An accumulator (R348): FP32 mode with bits, or integer mode with 48-bit values. -/
structure Accum where
  fp : Bool := true
  live : Bool := false       -- named by a matrix command since placement (R402)
  elems : Table Nat Int := []
  clamped : List Nat := []   -- integer elements that are clamped (R178)
  deriving DecidableEq, Repr

/-- A tile: engines, accumulators, envelopes, counters (R334 to R352, R368). -/
structure Tile where
  copies : List CopyCtx := List.replicate 4 {}
  matrix : List Cmd := []
  macros : List Macro := List.replicate 8 {}
  accs : List Accum := List.replicate 4 {}
  scale : List ScaleTok := []
  envs : List Env := List.replicate 8 {}
  canopy : List Cmd := []
  turn : Nat := 0
  hits : Word := 0
  misses : Word := 0
  copied : Word := 0
  planes : Word := 0
  canopied : Word := 0
  deriving DecidableEq, Repr

/-- A stage queue of a bed (R328). -/
structure Stage where
  vals : List (Word × List Nat) := []   -- with the putting block's writes that are still to be performed (R137)
  owner : Option (Nat × Nat) := none  -- load and operator
  closed : Bool := false
  closing : List Nat := []              -- writes of the block whose STGCLOSE closed it that are still to be performed (R137)
  waiters : List Nat := []
  deriving DecidableEq, Repr

/-- A virtual channel of an element: queue, messages held at the router, spill state (R204, R447, R448). -/
structure Vc where
  queue : List Msg := []
  held : List Msg := []
  spilled : Bool := false
  ring : List Msg := []     -- records written and not yet delivered; their bytes stand in memory too
  ringBase : Option Nat := none   -- pod physical address of the overflow ring
  ringHead : Nat := 0
  deriving DecidableEq, Repr

/-- An element: channels, matching store, binding store, counters (R204, R206, R212, R368). -/
structure Elem where
  vcs : Table Nat Vc := []
  store : List (Nat × Stamp × List Nat) := []    -- slot, tag, channels arrived
  unmatched : List (Nat × Stamp × Nat) := []     -- arrivals a full store left unmatched: slot, tag, channel
  bound : List Nat := []                         -- slots whose binding is in the store, least recently used first
  last : Nat := 0                                -- slot started last (round robin of R420)
  blocks : Word := 0
  instrs : Word := 0
  faults : Word := 0
  busy : Word := 0                               -- cycles with an instruction ready
  sent : Word := 0
  spills : Word := 0
  modes : Table Nat (Word × BitVec 32) := []     -- its copies of csr.fpmode and csr.cntol, by context (R364)
  overlays : List (Nat × Nat) := []              -- overlay blocks in its instruction store, least recently used first: slot and address (R212)
  deriving DecidableEq, Repr

/-- Summaries of channels and paths (R371). -/
structure Summary where
  k : Nat := 0
  a : Nat := 0
  v : List Nat := []
  deriving DecidableEq, Repr

/-- Where a channel comes from (R198, R468). -/
inductive ChanSrc where
  | start
  | trap
  | task (number : Nat)
  deriving DecidableEq, Repr

/-- A channel of a load's configuration (R190, R440). -/
structure ChanCfg where
  src : ChanSrc
  place : Place
  task : Nat              -- receiving task's number
  size : Nat
  summary : Summary
  depth : Nat
  group : Option (Nat × Nat) := none   -- reduction group and contributor number
  circuit : Option Nat := none         -- the slot in which its messages leave their sender's router on a circuit (R435)
  deriving DecidableEq, Repr

/-- A task of a load's configuration (R190, R212). -/
structure TaskCfg where
  op : Nat
  bed : Nat
  tile : Nat
  elem : Nat
  slot : Nat
  waved : Bool
  code : List Word
  page : Nat := 0         -- virtual page of the CONFIG or OVERLAY section that holds its binding (R212)
  overlay : Bool := false -- that is of OVERLAY: not filled at placement (R190)
  blocks : List (Nat × Nat × Nat) := []   -- its overlay blocks: address, length in bytes, virtual page (R190, R212)
  inputs : List Nat       -- virtual channels
  ports : List Nat        -- channel numbers, by output port
  sums : List (Nat × Nat × Summary)   -- input channel number, output port, task summary (R373)
  deriving DecidableEq, Repr

/-- An operator of a load's configuration (R190). -/
structure OpCfg where
  bed : Nat
  tile : Nat
  elems : List Nat
  range : Bool
  deriving DecidableEq, Repr

/-- A loop (R210, R211): bound, its three channels and the channels of its body. -/
structure LoopCfg where
  k : Nat
  ingress : Nat
  feedback : Nat
  egress : Nat
  body : List Nat
  deriving DecidableEq, Repr

/-- Reduction operations (R440). -/
inductive RedOp where | fadd | fmax | iadd | imax | wmax
  deriving DecidableEq, Repr

/-- A reduction group (R440). -/
structure GroupCfg where
  op : RedOp
  seq : Bool
  size : Nat
  members : List Nat      -- channel numbers in contributor order
  deriving DecidableEq, Repr

/-- A slot-table claim (R436): router (die × 64 + n) or link end, slot, output, input. -/
structure Claim where
  router : Nat
  slot : Nat
  out : Nat
  inp : Nat
  deriving DecidableEq, Repr

/-- The configuration of a fabric load (R190, R376, R418, R422). -/
structure LoadCfg where
  beds : Nat
  clear : Bool
  dsBase : Nat
  dsLen : Nat
  ops : List OpCfg := []
  tasks : List TaskCfg := []
  chans : List ChanCfg := []
  loops : List LoopCfg := []
  groups : List GroupCfg := []
  claims : List Claim := []
  combs : List (Nat × Nat × Nat × Nat) := []        -- circuits of .c requests (R435): bed, tile, home router, slot
  cells : List (Nat × Place × List Summary) := []   -- summary table: channel, notifiable location, summaries (R376)
  preemptible : Bool := false
  named : List (Nat × Nat × Nat × Bool) := []   -- bed, tile, how many accumulators the tile's code names, whether it has a matrix command (R403)
  pages : List (List Nat) := []   -- virtual pages of the CONFIG section that hold each bed's configuration (R39, R194)
  deriving DecidableEq, Repr

/-- Conditions of a sequencing row (R190). -/
inductive SeqWhen where
  | always
  | ifz (va : Nat)
  | ifnz (va : Nat)
  deriving DecidableEq, Repr

/-- What the sections of an image hold, whose layout the spec does not give (R194; log 7): fabric loads, shape table and sequencing rows. -/
structure Image where
  loads : List LoadCfg
  shapes : List Row
  rows : List (Nat × Nat × SeqWhen)
  deriving DecidableEq, Repr

/-- A launch in flight (R412 to R415). -/
structure Launch where
  id : Nat
  ctx : Nat
  queue : Nat
  tag : Word
  epoch : Nat
  args : List Byte
  image : Nat              -- virtual address
  level : Nat
  killed : Bool := false   -- a KILL, the end of its context or a warm reset ends it (R478)
  lost : Bool := false     -- lost a circuit or ran on a substituted bed (R438, R471)
  digest : List (List Byte) := []
  deriving DecidableEq, Repr

/-- Phases of a load (R196, R424). -/
inductive LoadPhase where | waiting | placed | draining | saved
  deriving DecidableEq, Repr

/-- A tracker entry (R382), its load named by number. -/
structure Entry where
  key : Key
  dlv : Bool := false
  count : Int := 0
  dcnt : Nat := 0
  who : List TaskRef := []    -- the requesting tasks, one for each undelivered request (R384)
  deriving DecidableEq, Repr

/-- The loop-bound element of a loop (R210, R387). -/
structure LoopState where
  loop : Nat
  flight : List (Stamp × Nat × Nat) := []   -- stamp, messages admitted, decrements applied
  waiting : List Msg := []
  dead : List (Stamp × Nat) := []           -- messages that ended before they were admitted: decrements still to come
  deriving DecidableEq, Repr

/-- A reduction node's stamp slot (R442, R444). -/
structure RedNode where
  group : Nat
  node : Nat
  stamp : Stamp
  a : Option (List (BitVec 32) × Nat × Bool) := none   -- elements, mask of included contributors, FTZ
  b : Option (List (BitVec 32) × Nat × Bool) := none
  until_ : Nat := 0     -- the cycle at which it forwards one child alone (R443, R444)
  sent : Bool := false
  deriving DecidableEq, Repr

/-- What is kept of a pre-empted task: for the digest of a launch of level 2 the activations started and the committed stores (R122, R430), and
whether the activation it starts again has cut its element's sub-interval (R271). -/
structure SavedRun where
  task : Nat
  acts : Nat
  cut : Bool := false
  stored : List (Nat × Nat × List (Nat × Byte))
  deriving DecidableEq, Repr

/-- The state of a pre-empted load (R426). -/
structure Saved where
  tasks : List (Nat × Phase) := []
  runs : List SavedRun := []
  entries : List Entry := []
  loops : List LoopState := []
  held : List Batch := []
  copies : List (Nat × Nat × CopyCtx) := []     -- logical bed × 4 + tile, context
  matrix : List (Nat × List Accum × List ScaleTok × List Macro) := []
  stages : List (Nat × Nat × Stage) := []
  ranges : List (Nat × Nat × Nat × Nat × Bool) := []
  back : List (Nat × Msg) := []                 -- backing queues (R213): channel number and message, in order
  rings : List (Nat × Nat) := []                -- overflow rings kept (R448): channel number and address
  notes : List (Nat × Activation) := []         -- abandoned notification activations, by task number
  dies : List Nat := []
  beds : List Nat := []
  hold : List Nat := []                         -- spares held for it, to which its configuration has moved (R471)
  deriving DecidableEq, Repr

/-- A fabric load of a launch (R196). -/
structure Load where
  id : Nat
  launch : Nat
  ctx : Nat
  number : Nat             -- its number in the image
  cfg : LoadCfg
  shapes : List Row := []
  phase : LoadPhase := .waiting
  beds : List Nat := []    -- physical beds, die × 16 + bed, by the load's bed number
  gen : Nat := 0
  prio : Nat := 0
  since : Nat := 0
  entries : List Entry := []
  held : List Batch := []
  suspended : Bool := false
  loops : List LoopState := []
  nodes : List RedNode := []
  ranges : List (Nat × Nat × Nat × Nat × Bool) := []   -- operator, element number, lo, hi, closed (R270)
  resumed : Bool := false
  saved : Option Saved := none
  claims : List Claim := []
  first : Bool := false    -- the first load of its launch, not yet placed
  fls : Nat := 0           -- its slot in the tracker table of its home die (R382)
  reloads : List (Nat × Nat) := []   -- MLDBs that its resume runs again before any block fires: tile and command (R404)
  stay : Bool := false     -- resumes on the beds its saved state names (R416, R471)
  deriving DecidableEq, Repr

/-- What a packet on the mesh carries (R432). -/
inductive Payload where
  | message (m : Msg)
  | note (n : Note)
  | batch (b : Batch)
  | ack (t : TaskRef) (n : Nat)
  | contribution (group node : Nat) (child : Bool) (stamp : Stamp) (elems : List (BitVec 32)) (mask : Nat) (ftz : Bool)
  | request (req : Nat)
  | reply (req : Nat)
  | ackSplit (batch : Nat)      -- an acknowledgement on its way to the combine record of a merged batch (R381)
  deriving DecidableEq, Repr

/-- A packet in the custody of a router (R437): its network, place and destination. -/
structure Packet where
  id : Nat
  net : Nat
  load : Nat := 0
  at_ : Nat             -- router, die × 64 + n
  inp : Nat := 0        -- input port
  dest : Nat            -- router
  route : List Nat := []
  payload : Payload
  src : Nat := 0           -- the router it started from
  by_ : Option TaskRef := none  -- the task that sent it, for a message (R204)
  recs : List Nat := []    -- merges made while it stands where it stands: their combine records (R93)
  fresh : Bool := true     -- it has not yet been looked at for a merge where it stands
  buffered : Bool := false -- it has an entry of its output port's wait buffer (R92, R93)
  out : Nat := 0           -- the step at which it left its last router for what takes it, counted from 1; 0 before
  lost : Option Nat := none -- it stands for the notice that no route carries it on to this router, on its way to its source (R438)
  slot : Option Nat := none -- a circuit flit: the slot in which it leaves where it stands (R435)
  due : Nat := 0           -- and the cycle at which it leaves
  after : List Nat := []   -- writes of the sending block that must be performed before it leaves (R137)
  deriving DecidableEq, Repr

/-- A combine record (R93): the merged operation, its members in order, and the first one's value. -/
structure Combine where
  merged : Nat
  first : Nat
  second : Nat
  port : Nat            -- the output port where they merged (Packet.outPort)
  circuit : Bool := false -- it takes one of the port's entries for circuit traffic (R97, R439)
  left : Bool := false  -- the merged request has departed from the port, and the record holds an entry
  v : Nat
  deriving DecidableEq, Repr

/-- A combine record of two batches that merged at a port (R381). -/
structure BatchRec where
  merged : Nat
  first : Option AckTo
  second : Option AckTo
  port : Nat
  left : Bool := false
  deriving DecidableEq, Repr

/-- A reply-table entry of an agent (R79). -/
structure ReplyEntry where
  agent : Nat           -- package × 1,024 + die × 24 + agent
  link : LinkId
  req : Nat
  first : Nat           -- the cycle of the request's first issue
  born : Nat
  done : Option Answer := none
  deriving DecidableEq, Repr

/-- An event record of the black-box ring (R473). -/
structure Event where
  kind : Nat
  src : Nat := 12
  ctx : Nat := 0
  addr : Nat := 0
  data : Nat := 0
  time : Nat := 0
  seq : Nat := 0
  deriving DecidableEq, Repr

/-- The management registers that hold a value (R478). -/
structure Mgmt where
  ident : Word := 0
  ctxbase : Word := 0
  lrsv : Word := 0
  fabtmr : Word := 0x00320014
  pwrcap : Word := 3400
  imgpol : Word := 0
  dbgctl : Word := 0
  dbgq : Word := 0
  dbgres : Word := 0
  bootstat : Word := 0
  kill : Word := 0
  killing : List Nat := []                 -- launches a KILL waits for
  resetting : Bool := false                -- a warm reset has begun (R476)
  bbidx : Word := 0
  dbgsel : Word := 0
  deriving DecidableEq, Repr

/-- Beds: failed or substituted (R471, R482). -/
structure BedMap where
  fuse : List Nat := List.replicate 12 15       -- physical number of the spare by die, as the fuses give it
  used : List (Nat × Nat) := []                 -- die and physical number of the bed its spare has replaced
  out : List Nat := []                          -- beds disabled, die × 16 + bed
  deriving DecidableEq, Repr

/-- Spares of memory arrays (R67, R68). -/
structure Spares where
  frames : Table (Nat × Nat) Nat := []          -- die and slice to frames spared
  dead : List (Nat × Nat × Nat × Nat) := []     -- frames disabled
  errors : Table Nat (List Nat) := []           -- cycles of correctable errors, by array, for an hour
  counts : Table Nat Nat := []                  -- correctable-error counters (R64)
  copying : List (Nat × Nat) := []              -- stack and pseudo-channel being copied
  spared : List (Nat × Nat) := []
  failed : List (Nat × Nat) := []               -- degraded pseudo-channels
  rows : List (Nat × Nat) := []                 -- rows repaired: stack and unit
  tested : List (Nat × Nat) := []               -- rows that a self-test has spared: 32 KiB part of a local array and row (R67)
  deriving DecidableEq, Repr

/-- Ports, lanes and planes of the Sladom links (R453 to R456). -/
structure Ports where
  lanes : List Nat := []        -- ports with a spare lane in use
  disabled : List Nat := []
  links : List (Nat × Nat) := []   -- router links disabled: router and port
  fails : Table (Nat × Nat) Nat := []   -- failed sends of the flit at a router's port
  deriving DecidableEq, Repr

/-- Power and temperature (R474). -/
structure Power where
  grants : List (Nat × Nat) := List.replicate 12 (0, 1)   -- watts, as fractions
  hot : List Nat := []
  stopped : Bool := false
  on : Bool := true
  booted : Bool := true
  since : Nat := 0           -- the cycle of the last cold reset (R473)
  deriving DecidableEq, Repr

/-- The security processor (R475, R477): the fuses that the ROM checks the firmware against, the firmware it has read, and its Data Object
Exchange capability. The spec does not say what the fuses hold (log 8) nor which messages a transcript takes in (log 11). -/
structure Security where
  rollback : Nat := 0              -- the fused rollback counter
  rsaKey : BitVec 256 := 0         -- the fused hash of the RSA-3072 key
  slhKey : BitVec 256 := 0         -- the fused hash of the SLH-DSA key
  firmware : List Byte := []       -- the image last read from the boot flash
  sent : List Byte := []           -- what the host has written to the write mailbox
  answers : List (List Byte) := [] -- data objects for the host, oldest first
  failed : Bool := false           -- DOE Error of the status register
  transcript : List Byte := []     -- the SPDM messages exchanged
  signed : BitVec 256 := 0         -- the transcript hash of the last answer
  deriving DecidableEq, Repr

/-- What the step acts on: for an instruction word a task, its block (0 oldest) and the instruction index; for any other step
the pending work. -/
structure Cursor where
  task : TaskRef := ⟨0, 0, 0⟩
  which : Nat := 0
  idx : Nat := 0
  work : Option Work := none
  deriving DecidableEq, Repr

/-- Why the machine stops; none of the spec's own faults is here, since those are states. -/
inductive Fault where
  /-- step raises it when the instruction it selected is not an instruction word the fetch checks would accept; a block
  that R244 refuses never fires, so no run reaches it. Safe: the machine stops where the part has no such state. -/
  | notAnInstruction
  deriving DecidableEq, Repr

/-- Why an instruction has no meaning here. -/
inductive Refusal where
  /-- An arm of exec whose instruction has no meaning yet. Safe: nothing is claimed of it. -/
  | notModelled (mnemonic : String)
  deriving DecidableEq, Repr

/-- The state of one PM6 package, with the pod's memory by pod physical address. -/
structure State where
  agenda : List Work
  cur : Cursor
  tick : Nat
  nextId : Nat
  cycle : Nat
  timeBase : Nat
  perfBase : Nat
  mem : Memory
  l2mem : Memory
  hostmem : Memory
  bad : List Nat
  frames : List Frame
  plru : Table (Nat × Nat × Nat) Nat
  marks : Table Nat (Nat × Nat)
  hostLines : List Nat
  hostBias : List Nat
  words : Table Nat SWord
  tc : List TcEntry
  wc : List WcEntry
  tdc : List (Nat × Nat × Nat)
  misses : List Miss
  tports : List (Nat × Asker)
  xfaults : List (Asker × Nat × XFault)
  shadows : List Shadow
  reqs : List Req
  replies : List ReplyEntry
  combines : List Combine
  batchRecs : List BatchRec
  circuits : Table (Nat × Nat) Nat
  served : Table Nat Nat
  packets : List Packet
  ctxs : Table Nat Ctx
  tasks : Table TaskRef Task
  elems : Table ElemRef Elem
  tiles : Table Nat Tile
  stages : Table (Nat × Nat) Stage
  loads : List Load
  launches : List Launch
  images : Table (Nat × Nat) Image
  placements : Nat
  turns : Table Nat Nat
  claims : List Claim
  mgmt : Mgmt
  beds : BedMap
  spares : Spares
  ports : Ports
  power : Power
  ring : List Event
  ringSeq : Nat
  sec : Security
  hostRead : Option (List Byte)
  hostAbort : Bool
  cfgCache : Table Nat (List Nat)
  noRetry : Nat
  deriving DecidableEq, Repr

/-- The machine right after cold reset: every level zero (R51), L2 invalid, no context, every register at its reset value.
A register to which the spec gives no reset value takes the value of logs 3 to 8. -/
def State.reset : State :=
  { agenda := [], cur := {}, tick := 0, nextId := 1, cycle := 0, timeBase := 0, perfBase := 0, mem := [], l2mem := [], hostmem := [],
    bad := [], frames := [], plru := [], marks := [], hostLines := [], hostBias := [], words := [],
    tc := [], wc := [], tdc := [], misses := [], tports := [], xfaults := [], shadows := [], reqs := [], replies := [], combines := [], batchRecs := [], circuits := [], served := [], packets := [],
    ctxs := [], tasks := [], elems := [], tiles := [], stages := [], loads := [], launches := [], images := [],
    placements := 0, turns := [], claims := [], mgmt := {}, beds := {}, spares := {}, ports := {}, power := {}, ring := [{ kind := 0x0E }],
    ringSeq := 1,
    sec := {}, hostRead := none, hostAbort := false, cfgCache := [], noRetry := 0 }

end Sys2Proof.Machine
end

