-- ==== Sys2Proof/Machine/Store.lean ====
section
/-! DEFINITION. Tables, storage in its canonical form, addresses (spec/01_address_spaces.md R6, R12 to R14; spec/02_storage_levels.md R54,
R62), time and events, and the accessors of the tables of State. -/

namespace Sys2Proof.Machine

/-- The value of a key, or the default of an unlisted key. -/
def Table.get [DecidableEq κ] (t : Table κ α) (k : κ) (d : α) : α :=
  match t with
  | [] => d
  | (j, v) :: r => if j = k then v else Table.get r k d

/-- The value of a listed key. -/
def Table.find [DecidableEq κ] (t : Table κ α) (k : κ) : Option α :=
  match t with
  | [] => none
  | (j, v) :: r => if j = k then some v else Table.find r k

/-- Gives a key a value, in its place if it is listed. -/
def Table.put [DecidableEq κ] (t : Table κ α) (k : κ) (v : α) : Table κ α :=
  match t with
  | [] => [(k, v)]
  | (j, w) :: r => if j = k then (k, v) :: r else (j, w) :: Table.put r k v

/-- Removes a key. -/
def Table.erase [DecidableEq κ] (t : Table κ α) (k : κ) : Table κ α := t.filter fun e => decide (e.1 ≠ k)

/-- Replaces the n-th element by a function of it. -/
def listMod (l : List α) (n : Nat) (f : α → α) : List α :=
  match l, n with
  | [], _ => []
  | x :: r, 0 => f x :: r
  | x :: r, n + 1 => x :: listMod r n f

/-! Storage. Reading an unlisted key gives 0 (R51, R83; log 3). -/

/-- The byte at a key. -/
def Memory.read (m : Memory) (a : Nat) : Byte :=
  match m with
  | [] => 0
  | (k, b) :: r => if a < k then 0 else if a = k then b else Memory.read r a

/-- Writes one byte and keeps the canonical form. -/
def Memory.write (m : Memory) (a : Nat) (b : Byte) : Memory :=
  match m with
  | [] => if b = 0 then [] else [(a, b)]
  | (k, c) :: r =>
    if a < k then (if b = 0 then (k, c) :: r else (a, b) :: (k, c) :: r)
    else if a = k then (if b = 0 then r else (a, b) :: r)
    else (k, c) :: Memory.write r a b

/-- The canonical form above a bound: keys rising strictly, no byte that equals what an unlisted key reads as. -/
def Memory.wfFrom (m : Memory) (lo : Nat) : Bool :=
  match m with
  | [] => true
  | (k, b) :: r => decide (lo ≤ k) && decide (b ≠ 0) && Memory.wfFrom r (k + 1)

/-- The canonical form of a memory. -/
def Memory.wf (m : Memory) : Bool := m.wfFrom 0

/-- The cells of a memory in [a, a + n). -/
def Memory.slice (m : Memory) (a n : Nat) : Memory := m.filter fun c => decide (a ≤ c.1) && decide (c.1 < a + n)

/-- A memory without its cells in [a, a + n). -/
def Memory.drop (m : Memory) (a n : Nat) : Memory := m.filter fun c => !(decide (a ≤ c.1) && decide (c.1 < a + n))

/-- Writes a list of cells, the first first. -/
def Memory.writeAll (m : Memory) (l : List (Nat × Byte)) : Memory :=
  match l with
  | [] => m
  | (a, b) :: r => Memory.writeAll (m.write a b) r

/-- First key of each kind of storage: gl keys are pod physical addresses (R12), 52 bits. -/
def dsKey : Nat := 2 ^ 52
/-- Keys of bed-shared memory. -/
def bsKey : Nat := 2 ^ 53
/-- Keys of tile scratchpads. -/
def tsKey : Nat := 2 ^ 54
/-- Keys of lane slices. -/
def lsKey : Nat := 2 ^ 55

/-- The key of a local offset, for an element of a tile (R6): die = tile / 64, bed = tile / 4 (R363). -/
def localKey (sp : Space) (tile elem off : Nat) : Nat :=
  match sp with
  | .gl => off
  | .ds => dsKey + tile / 64 * 2 ^ 26 + off
  | .bs => bsKey + tile / 4 * 2 ^ 23 + off
  | .ts => tsKey + tile * 2 ^ 20 + off
  | .ls => lsKey + (tile * 16 + elem) * 2 ^ 15 + off
  | .ch => 0

/-- The local offset of a key that is not global memory (R6). -/
def localOffset (key : Nat) : Nat :=
  if lsKey ≤ key then (key - lsKey) % 2 ^ 15 else if tsKey ≤ key then (key - tsKey) % 2 ^ 20
  else if bsKey ≤ key then (key - bsKey) % 2 ^ 23 else (key - dsKey) % 2 ^ 26

/-- A key of global memory. -/
def isGl (key : Nat) : Bool := key < dsKey

/-- R12: the package of a pod physical address. -/
def paPackage (pa : Nat) : Nat := pa / 2 ^ 43
/-- R13: the address within the package. -/
def paOffset (pa : Nat) : Nat := pa % 2 ^ 43
/-- R13: HBM of its package. -/
def paIsHbm (pa : Nat) : Bool := paOffset pa < 0x018000000000
/-- R13: the host memory window. -/
def paIsHost (pa : Nat) : Bool := 0x060000000000 ≤ paOffset pa
/-- R14: the home die of an HBM line. -/
def homeDie (pa : Nat) : Nat := paOffset pa / 2048 % 12
/-- R14, R54: the stack line number of an HBM line. -/
def stackLine (pa : Nat) : Nat := paOffset pa / 2048 / 12
/-- R54: the slice of a stack line. -/
def l2Slice (k : Nat) : Nat := k % 48
/-- R54: the set of a stack line. -/
def l2Set (k : Nat) : Nat := k / 48 % 256
/-- R62: the home agent of an HBM line, as die × 24 + agent. -/
def homeAgent (pa : Nat) : Nat := homeDie pa * 24 + stackLine pa % 24
/-- R14: the pod physical address of a stack's line in the package of a line. -/
def lineAt (package die k : Nat) : Nat := package * 2 ^ 43 + (k * 12 + die) * 2048
/-- The 2 KiB line of a pod physical address. -/
def lineOf (pa : Nat) : Nat := pa / 2048 * 2048

/-- Bits [hi:lo] of a number. -/
def field (v hi lo : Nat) : Nat := v / 2 ^ lo % 2 ^ (hi + 1 - lo)

/-- The keys of n bytes. -/
def keysOf (key n : Nat) : List Nat := (List.range n).map (key + ·)

/-- R12, R478: the package number of IDENT. -/
def State.package (s : State) : Nat := s.mgmt.ident.toNat % 512
/-- Whether a key lies in another package (R12). -/
def State.remote (s : State) (key : Nat) : Bool := isGl key && paPackage key != s.package

/-- R12, R478: the pod size of IDENT. -/
def State.podSize (s : State) : Nat := s.mgmt.ident.toNat / 2 ^ 16 % 512 + 1

/-- R453: the plane of the n-th sending of a request to a pod physical address. -/
def planeOf (pa n : Nat) : Nat := (pa / 2048 + n) % 48

/-- R453, R455, R456: no port is left on the planes that a read of another package's line may travel, or on the one of a write. -/
def State.linkDown (s : State) (key : Nat) (write : Bool) : Bool :=
  isGl key && paPackage key != s.package && (List.range (if write then 1 else 5)).all fun n => decide (planeOf key n ∈ s.ports.disabled)

/-- R53, R55: the frame that holds a line of this package. -/
def State.frameOf (s : State) (pa : Nat) : Option Frame :=
  if isGl pa && paIsHbm pa && paPackage pa == s.package then
    s.frames.find? fun f => f.st != 0 && f.die == homeDie pa && f.sln == stackLine pa
  else none

/-- Whether the L2 holds the line of an address (R57). -/
def State.held (s : State) (pa : Nat) : Bool := (s.frameOf pa).isSome

/-- Whether the host-line cache holds the 64-byte line of an address (R60). -/
def State.hostHeld (s : State) (pa : Nat) : Bool := isGl pa && paIsHost pa && decide (pa / 64 ∈ s.hostLines)

/-- The byte an access reads at its home (R57): the L2's line, the host-line cache's line, or the storage itself. R25 leaves open which value
a load returns of a page that mappings of different types name: this one, whatever the mapping, and never a structure word's (log 46).
DESIGN CHOICE. -/
def State.byte (s : State) (key : Nat) : Byte :=
  if s.held key then s.l2mem.read key else if s.hostHeld key then s.hostmem.read key else s.mem.read key

/-- Writes a byte at its home (R57). -/
def State.setByte (s : State) (key : Nat) (b : Byte) : State :=
  if s.held key then { s with l2mem := s.l2mem.write key b }
  else if s.hostHeld key then { s with hostmem := s.hostmem.write key b }
  else { s with mem := s.mem.write key b }

/-- n bytes from a key up. -/
def State.bytes (s : State) (key : Nat) : Nat → List Byte
  | 0 => []
  | n + 1 => s.byte key :: State.bytes s (key + 1) n

/-- A little-endian number of n bytes (R164). -/
def State.num (s : State) (key n : Nat) : Nat := natOfBytes (s.bytes key n)

/-- The n low bytes of a number, little-endian (R164). -/
def bytesOfNat : Nat → Nat → List Byte
  | 0, _ => []
  | n + 1, v => BitVec.ofNat 8 (v % 256) :: bytesOfNat n (v / 256)

/-- Pairs bytes with rising keys. -/
def placeBytes (key : Nat) : List Byte → List (Nat × Byte)
  | [] => []
  | b :: r => (key, b) :: placeBytes (key + 1) r

/-- Writes cells at their homes, the first first. -/
def State.setBytes (s : State) : List (Nat × Byte) → State
  | [] => s
  | (k, b) :: r => State.setBytes (s.setByte k b) r

/-- Writes a number of n bytes, little-endian. -/
def State.setNum (s : State) (key n v : Nat) : State := s.setBytes (placeBytes key (bytesOfNat n v))

/-- R472, R62: a line of a pseudo-channel that has failed in a degraded stack. -/
def State.degraded (s : State) (key : Nat) : Bool :=
  isGl key && paIsHbm key && paPackage key == s.package && decide ((homeDie key, stackLine key % 192) ∈ s.spares.failed)

/-- R65: the 64-byte units of global memory that n bytes from a key up lie in. -/
def unitsFrom (key n : Nat) : List Nat := (List.range ((key + n + 63) / 64 - key / 64)).map fun i => (key / 64 + i) * 64

/-- R65, R472: a failing unit among n bytes from a key up: one that an error has met, or one of a line whose pseudo-channel has failed. -/
def State.badIn (s : State) (key : Nat) (n : Nat) : Option Nat :=
  match s.bad.find? fun u => decide (u < key + n) && decide (key < u + (if isGl u then 64 else 8)) with
  | some u => some u
  | none => if s.spares.failed.isEmpty then none else (unitsFrom key n).find? s.degraded

/-! Time and events. -/

/-- R451: the pod time base in nanoseconds, from the 2.4 GHz cycle counter: the count since pod bring-up, and before it since reset. -/
def State.podtime (s : State) : Nat := (s.cycle - s.timeBase) * 5 / 12

/-- Posts a step to come. -/
def State.post (s : State) (i : Work) : State := { s with agenda := s.agenda ++ [i] }

/-- Posts steps to come. -/
def State.postAll (s : State) (l : List Work) : State := { s with agenda := s.agenda ++ l }

/-- R473: of more than 4,096 records the oldest goes. -/
def lastEvents (l : List Event) : List Event := if 4096 < l.length then l.tail else l

/-- R473, R450: TIME of an event: the pod time base, or nanoseconds since power-on before pod bring-up. -/
def State.eventTime (s : State) : Nat := if s.mgmt.ident.getLsbD 63 then s.podtime else (s.cycle - s.power.since) * 5 / 12

/-- R473: an event as it is recorded now. -/
def State.eventNow (s : State) (kind src ctx addr data : Nat) : Event :=
  { kind := kind, src := src, ctx := ctx, addr := addr % 2 ^ 64, data := data % 2 ^ 64, time := s.eventTime, seq := s.ringSeq % 2 ^ 32 }

/-- R473: records an event in the black-box ring of 4,096, the oldest overwritten. -/
def State.event (s : State) (kind src ctx addr data : Nat) : State :=
  { s with ring := lastEvents (s.ring ++ [s.eventNow kind src ctx addr data]), ringSeq := s.ringSeq + 1 }

/-- A number no earlier operation has. -/
def State.newId (s : State) : Nat × State := (s.nextId, { s with nextId := s.nextId + 1 })

/-! Accessors of the tables. -/

/-- The task of a slot. -/
def State.task (s : State) (t : TaskRef) : Task := s.tasks.get t {}
/-- Replaces a task. -/
def State.setTask (s : State) (t : TaskRef) (x : Task) : State := { s with tasks := s.tasks.put t x }
/-- Changes a task. -/
def State.modTask (s : State) (t : TaskRef) (f : Task → Task) : State := s.setTask t (f (s.task t))
/-- An element. -/
def State.elem (s : State) (e : ElemRef) : Elem := s.elems.get e {}
/-- Changes an element. -/
def State.modElem (s : State) (e : ElemRef) (f : Elem → Elem) : State := { s with elems := s.elems.put e (f (s.elem e)) }
/-- A tile. -/
def State.tile (s : State) (n : Nat) : Tile := s.tiles.get n {}
/-- Changes a tile. -/
def State.modTile (s : State) (n : Nat) (f : Tile → Tile) : State := { s with tiles := s.tiles.put n (f (s.tile n)) }
/-- A context. -/
def State.ctx (s : State) (n : Nat) : Ctx := s.ctxs.get n {}
/-- Changes a context. -/
def State.modCtx (s : State) (n : Nat) (f : Ctx → Ctx) : State := { s with ctxs := s.ctxs.put n (f (s.ctx n)) }
/-- A stage queue of a bed. -/
def State.stage (s : State) (bed q : Nat) : Stage := s.stages.get (bed, q) {}
/-- Changes a stage queue. -/
def State.modStage (s : State) (bed q : Nat) (f : Stage → Stage) : State :=
  { s with stages := s.stages.put (bed, q) (f (s.stage bed q)) }
/-- A load. -/
def State.load (s : State) (id : Nat) : Option Load := s.loads.find? fun l => l.id == id
/-- Changes a load. -/
def State.modLoad (s : State) (id : Nat) (f : Load → Load) : State :=
  { s with loads := s.loads.map fun (l : Load) => if l.id = id then f l else l }
/-- A launch in flight. -/
def State.launch (s : State) (id : Nat) : Option Launch := s.launches.find? fun l => l.id == id
/-- A pending operation. -/
def State.req (s : State) (id : Nat) : Option Req := s.reqs.find? fun r => r.id == id
/-- Changes a pending operation. -/
def State.modReq (s : State) (id : Nat) (f : Req → Req) : State :=
  { s with reqs := s.reqs.map fun r => if r.id = id then f r else r }
/-- Forgets a pending operation. -/
def State.dropReq (s : State) (id : Nat) : State := { s with reqs := s.reqs.filter fun r => decide (r.id ≠ id) }
/-- A packet on the mesh. -/
def State.packet (s : State) (id : Nat) : Option Packet := s.packets.find? fun p => p.id == id

/-- The element of a task slot. -/
def elemOf (t : TaskRef) : ElemRef := ⟨t.tile, t.elem⟩
/-- R363: the die of a tile. -/
def dieOf (tile : Nat) : Nat := tile / 64
/-- R363: the bed of a tile, as die × 16 + physical bed. -/
def bedOf (tile : Nat) : Nat := tile / 4

/-- R363: the handle of a task. -/
def State.handle (s : State) (t : TaskRef) : Nat :=
  let k := s.task t
  t.tile + t.elem * 2 ^ 10 + t.slot * 2 ^ 14 + k.ctx * 2 ^ 17 + k.gen * 2 ^ 32

/-- R363: the task slot of a handle. -/
def handleTask (h : Nat) : TaskRef := ⟨h % 1024, h / 2 ^ 10 % 16, h / 2 ^ 14 % 8⟩

/-- The flight a cursor names. -/
def Task.flight (k : Task) (which : Nat) : Option Firing := k.flights[which]?

/-- Changes a block in flight. -/
def State.modFlight (s : State) (t : TaskRef) (which : Nat) (f : Firing → Firing) : State :=
  s.modTask t fun k => { k with flights := listMod k.flights which f }

/-- The activation's stamp (R266). -/
def Task.stamp (k : Task) : Stamp := match k.act with
  | some a => a.stamp
  | none => {}

/-- The message matched to the running activation on a channel (R201). -/
def Task.matched (k : Task) (vc : Nat) : Option Msg := match k.act with
  | some a => a.msgs.find? fun m => m.vc == vc
  | none => none

/-- The configuration of the load a task belongs to. -/
def State.loadOf (s : State) (t : TaskRef) : Option Load := s.load (s.task t).load

/-- The configuration entry of a task. -/
def State.taskCfg (s : State) (t : TaskRef) : Option TaskCfg := match s.loadOf t with
  | some l => l.cfg.tasks[(s.task t).number]?
  | none => none

/-- The operator a task carries out, named by its load (R196). -/
def State.operator (s : State) (t : TaskRef) : Nat × Nat := match s.taskCfg t with
  | some c => ((s.task t).load, c.op)
  | none => ((s.task t).load, 0)

/-- R468: the number of the task that receives the trap channel of a load. -/
def LoadCfg.trapTask (c : LoadCfg) : Option Nat := match c.chans.find? fun h => h.src == .trap with
  | some h => some h.task
  | none => none

/-- R366, R468: a task of its context's trap operator. -/
def State.isTrapTask (s : State) (t : TaskRef) : Bool := match s.loadOf t with
  | some l => match l.cfg.trapTask, l.cfg.tasks[(s.task t).number]? with
    | some n, some c => match l.cfg.tasks[n]? with
      | some d => d.op == c.op
      | none => false
    | _, _ => false
  | none => false

/-- Word 0 of a fault record (R467). -/
def FCode.num : FCode → Nat
  | .illegalOp => 1 | .blockFormat => 2 | .emptyRead => 3 | .priv => 4 | .pageFault => 5 | .perm => 6 | .align => 7
  | .addrRange => 8 | .structRewrite => 9 | .shadowExhausted => 10 | .snapDepth => 11 | .envelopeOverflow => 12
  | .frontierFull => 13 | .uncorrectable => 14 | .engineFault => 15 | .softwareTrap => 16
/-- Access codes of R467. -/
def Acc.num : Acc → Nat | .read => 0 | .write => 1 | .atomic => 2 | .fetch => 3

/-- R467: bits [63:0] of a fault record. -/
def Record.word0 (r : Record) : Nat :=
  r.code.num + r.cause * 2 ^ 8 + r.kind * 2 ^ 13 + r.index * 2 ^ 16 + r.link.toNat * 2 ^ 23 + r.acc.num * 2 ^ 24
    + r.ctx * 2 ^ 26 + r.detail * 2 ^ 32 + r.unit * 2 ^ 40
/-- The 80-bit issue key of a stamp (R207). -/
def Stamp.issue (t : Stamp) : Nat := ((t.c0 * 2 ^ 16 + t.c1) * 2 ^ 16 + t.c2) * 2 ^ 16 + t.c3
/-- R467: the 64 bytes of a fault record. -/
def Record.bytes (r : Record) : List Byte :=
  bytesOfNat 8 r.word0 ++ bytesOfNat 8 r.handle ++ bytesOfNat 8 r.addr
    ++ bytesOfNat 16 (r.stamp.issue + r.stamp.depth * 2 ^ 80) ++ bytesOfNat 8 r.auxA ++ bytesOfNat 8 r.auxB ++ bytesOfNat 8 r.time

end Sys2Proof.Machine
end

