-- ==== Sys2Proof/Machine/Lines.lean ====
section
/-! DEFINITION. Lines of global memory at their home: snapshot epochs, settlement and the push before a write (spec/04_snapshots.md R103
to R114), the L2 (spec/02_storage_levels.md R53 to R60), the host-line cache (R60), and the writing of bytes at their homes. -/

namespace Sys2Proof.Machine

/-! Epochs, settlement, pushes. -/

/-- R103: an epoch value is open. -/
def Ctx.epochOpen (c : Ctx) (e : Nat) : Bool := match c.epochs.find e with
  | some x => x.state == .opened
  | none => false

/-- R103: the enclosing epoch, 0 if outermost. -/
def Ctx.epochParent (c : Ctx) (e : Nat) : Nat := match c.epochs.find e with
  | some x => x.parent
  | none => 0

/-- R103: epoch values that may return to free. -/
def Ctx.freeable (c : Ctx) (e : Nat × Epoch) : Bool :=
  e.2.state != .opened && e.2.state != .held && e.2.state != .free && e.2.pend == 0
    && !(c.epochs.any fun o => o.2.state != .free && o.2.parent == e.1)

/-- R103: returns the values that may return to free, until none is left; a chain is at most 255 long. A free value's entry keeps its
PARENT, which a write that was sent under the value and arrives late still passes to (R105, R117). -/
def Ctx.sweep (c : Ctx) : Nat → Ctx
  | 0 => c
  | n + 1 => Ctx.sweep { c with epochs := c.epochs.map fun e => if c.freeable e then (e.1, { e.2 with state := .free }) else e } n

/-- Changes the shadows an epoch owns. -/
def Ctx.addPend (c : Ctx) (e : Nat) (d : Int) : Ctx :=
  { c with epochs := c.epochs.map fun x => if x.1 = e then (x.1, { x.2 with pend := (x.2.pend + d).toNat }) else x }

/-- R104: the EPOCH of a line and the owning context, in its tag or its metadata bits. -/
def State.mark (s : State) (line : Nat) : Nat × Nat := s.marks.get line (0, 0)

/-- R104, R105: sets the EPOCH of a line and its owning context; the tag of a line that carries an epoch names the owning context. -/
def State.setMark (s : State) (line epoch ctx : Nat) : State :=
  let s := if epoch = 0 then { s with marks := s.marks.erase line } else { s with marks := s.marks.put line (epoch, ctx) }
  { s with frames := s.frames.map fun f =>
      if f.st ≠ 0 ∧ f.die = homeDie line ∧ f.sln = stackLine line ∧ paPackage line = s.package then
        { f with epoch := epoch, ctx := if epoch = 0 then f.ctx else ctx } else f }

/-- Copies 2 KiB between two lines of one memory, to a line of another. -/
def copyLine (src dst : Memory) (from_ to_ : Nat) : Memory :=
  (dst.drop to_ 2048).writeAll ((src.slice from_ 2048).map fun c => (c.1 - from_ + to_, c.2))

/-- R65, R472: the failing units of a line; every unit of a failed pseudo-channel's line fails. -/
def State.badUnits (s : State) (line : Nat) : List Nat :=
  if s.degraded line then (List.range 32).map fun i => line + 64 * i
  else s.bad.filter fun u => decide (line ≤ u) && decide (u < line + 2048)

/-- R65, R114: failing units travel with a line's image. -/
def State.copyBad (s : State) (from_ to_ : Nat) : List Nat :=
  (s.bad.filter fun u => !(decide (to_ ≤ u) && decide (u < to_ + 2048))) ++ (s.badUnits from_).map fun u => u - from_ + to_

/-- R65: a line has a failing unit. -/
def State.lineBad (s : State) (line : Nat) : Bool := s.degraded line || s.bad.any fun u => decide (line ≤ u) && decide (u < line + 2048)

/-- R57, R65: writes a frame's line back to HBM; failing units stay failing. -/
def State.writeBack (s : State) (line : Nat) : State := { s with mem := copyLine s.l2mem s.mem line line }

/-- Marks the frame of a line. -/
def State.modFrame (s : State) (line : Nat) (f : Frame → Frame) : State :=
  { s with frames := s.frames.map fun x =>
      if x.st ≠ 0 ∧ x.die = homeDie line ∧ x.sln = stackLine line ∧ paPackage line = s.package then f x else x }

/-- R57: drops a line from the L2, written back. -/
def State.dropLine (s : State) (line : Nat) : State :=
  if s.held line then
    let s := s.writeBack line
    { s with
      l2mem := s.l2mem.drop line 2048
      frames := s.frames.filter fun x => !(x.die == homeDie line && x.sln == stackLine line) }
  else s

/-- R55, R66: a line whose bytes have changed is dirty, or failed while a unit of it fails. -/
def State.soil (s : State) (line : Nat) : State := s.modFrame line fun f => { f with st := if s.lineBad line then 3 else 2 }

/-- R113: the shadow of a line that an epoch owns. -/
def State.shadowOf (s : State) (line ctx owner : Nat) : Option Shadow :=
  s.shadows.find? fun h => h.line == line && h.ctx == ctx && h.owner == owner

/-- Frees a shadow and takes it off its owner's count. -/
def State.freeShadow (s : State) (h : Shadow) : State :=
  let s := { s with shadows := s.shadows.filter fun x => decide (x ≠ h) }
  s.modCtx h.ctx fun c => (c.addPend h.owner (-1)).sweep 255

/-- R113, R114: the image goes back into the line with its failing units; a line that the L2 holds is dirty. -/
def State.restoreLine (s : State) (h : Shadow) : State :=
  let bad := s.copyBad h.slot h.line
  let s := if s.held h.line then { s with l2mem := copyLine s.mem s.l2mem h.slot h.line }
    else { s with mem := copyLine s.mem s.mem h.slot h.line }
  ({ s with bad := bad } : State).soil h.line

/-- R113: one turn of the settlement loop, for a line of EPOCH e that is not open. -/
def State.settleOnce (s : State) (line ctx e : Nat) : State :=
  let c := s.ctx ctx
  match c.epochs.find e, s.shadowOf line ctx e with
  | some x, some h => match x.state with
    | .merging =>
      if h.prior = x.parent then (s.setMark line x.parent ctx).freeShadow h
      else
        let s := { s with shadows := s.shadows.map fun k => if k = h then { k with owner := x.parent } else k }
        (s.modCtx ctx fun c => ((c.addPend x.parent 1).addPend e (-1)).sweep 255).setMark line x.parent ctx
    | .rejecting => ((s.restoreLine h).setMark line h.prior ctx).freeShadow h
    | _ => (s.setMark line 0 0).freeShadow h
  | some x, none => s.setMark line (if x.state = .merging then x.parent else 0) ctx
  | none, _ => s.setMark line 0 0

/-- R113: the settlement loop; each turn moves the line to an older epoch or to 0. -/
def State.settleLoop (s : State) (line : Nat) : Nat → State
  | 0 => s
  | n + 1 =>
    let m := s.mark line
    if m.1 = 0 ∨ (s.ctx m.2).epochOpen m.1 then s else State.settleLoop (s.settleOnce line m.2 m.1) line n

/-- R113: settles a line before an access to it is served. -/
def State.settle (s : State) (line : Nat) : State := s.settleLoop line 256

/-- R113: the background settlement of a line: a shadow still there whose owner is not open is superseded, and is freed. -/
def State.settleBack (s : State) (line : Nat) : State :=
  let s := s.settle line
  (s.shadows.filter fun h => h.line == line && !(s.ctx h.ctx).epochOpen h.owner).foldl State.freeShadow s

/-- R105: passes over epochs that are not open, to the enclosing snapshot. -/
def Ctx.openEpoch (c : Ctx) : Nat → Nat → Nat
  | 0, _ => 0
  | n + 1, e => if e = 0 ∨ c.epochOpen e then e else Ctx.openEpoch c n (c.epochParent e)

/-- R105 NestedIn: an epoch lies inside another. -/
def Ctx.nestedIn (c : Ctx) : Nat → Nat → Nat → Bool
  | 0, _, _ => false
  | n + 1, a, e => a != 0 && (c.epochParent a == e || Ctx.nestedIn c n (c.epochParent a) e)

/-- R107: slots of a stack in a context's pool. -/
def Ctx.poolSlots (c : Ctx) : Nat := field c.snapw.toNat 62 50 * 1024

/-- R107: the pool line of a stack's slot. -/
def State.poolLine (s : State) (ctx stack n : Nat) : Nat :=
  let b := field (s.ctx ctx).snapw.toNat 42 21 * 1024
  s.package * 2 ^ 43 + (b + (stack + 12 - b % 12) % 12 + 12 * n) * 2048

/-- R105: a free slot of a stack; AllocShadow names none of several, the model takes the lowest (log 46). DESIGN CHOICE. -/
def State.freeSlot (s : State) (ctx stack : Nat) : Option Nat :=
  let used := (s.shadows.filter fun h => h.ctx == ctx && homeDie h.line == stack).map (·.slot)
  ((List.range (min (used.length + 1) (s.ctx ctx).poolSlots)).map (s.poolLine ctx stack)).find? fun p => decide (p ∉ used)

/-- R107: a line of the shadow pool of a context of this package. -/
def State.isPool (s : State) (line : Nat) : Bool :=
  paPackage line == s.package && s.ctxs.any fun c =>
    let w := c.2.snapw.toNat
    let n := paOffset line / 2048
    field w 63 63 == 1 && decide (field w 42 21 * 1024 ≤ n) && decide (n < field w 42 21 * 1024 + 12 * c.2.poolSlots)

/-- R105 PushCheck, on a settled line: the state after the push, or none when the pool has no slot (R108). -/
def State.push (s : State) (line ctx epoch : Nat) : Option State :=
  let c := s.ctx ctx
  let e := c.openEpoch 256 epoch
  let m := s.mark line
  if e = 0 then some s
  else if m.1 = e ∨ (m.1 ≠ 0 ∧ c.nestedIn 256 m.1 e) then some s
  else match s.freeSlot ctx (homeDie line) with
    | none => none
    | some p =>
      let s := s.dropLine p
      let s := { s with
        mem := copyLine (if s.held line then s.l2mem else s.mem) s.mem line p
        bad := s.copyBad line p
        shadows := s.shadows ++ [(⟨line, ctx, e, m.1, p⟩ : Shadow)] }
      some ((s.modCtx ctx fun c => c.addPend e 1).setMark line e ctx)

/-- R100, R105: the epoch the issuing die attaches to a write: the innermost open snapshot of the context that covers it. -/
def State.attachEpoch (s : State) (ctx va mtype pa : Nat) : Nat :=
  if mtype ≠ 1 ∨ paPackage pa ≠ s.package then 0
  else
    let hit := (s.ctx ctx).ranges.filter fun r =>
      !r.2.held && decide (r.2.base ≤ va / 2 ^ 16) && decide (va / 2 ^ 16 < r.2.base + r.2.len)
    (hit.foldl (fun (b : Nat × Nat) r => if b.1 ≤ r.2.depth then (r.2.depth + 1, r.2.epoch) else b) (0, 0)).2

/-- R102: the handle of a range-table slot. -/
def Range.handle (r : Range) (slot : Nat) : Nat := r.gen * 32 + slot

/-- R108: the fault of a push that finds no slot. -/
def State.exhausted (s : State) (line ctx epoch va : Nat) (acc : Acc) : Record :=
  let c := s.ctx ctx
  let e := c.openEpoch 256 epoch
  let h := match c.ranges.find? fun r => r.2.epoch == e with
    | some r => r.2.handle r.1
    | none => 0
  { code := .shadowExhausted, addr := va, auxA := h, auxB := homeDie line, acc := acc }

/-! The L2 (R53 to R60). -/

/-- R54: the way that tree pseudo-LRU names: each bit names the half to replace next. -/
def plruWay (bits : Nat) : Nat :=
  let go (node : Nat) : Nat := node * 2 + (if bits.testBit node then 1 else 0)
  go (go (go (go 1))) - 16

/-- One bit of the tree on the path to a way. -/
def plruBit (bits node : Nat) (right : Bool) : Nat :=
  if right then bits ||| 2 ^ node else if bits.testBit node then bits ^^^ 2 ^ node else bits

/-- R54, R56: points the tree away from a way (most recently used), or at it (least recently used). -/
def plruTouch (bits way : Nat) (mru : Bool) : Nat :=
  let n1 := 2 + way / 8
  let n2 := 2 * n1 + way / 4 % 2
  let n3 := 2 * n2 + way / 2 % 2
  let set (b node : Nat) (dir : Bool) : Nat := plruBit b node (dir != mru)
  set (set (set (set bits 1 (way / 8 % 2 == 1)) n1 (way / 4 % 2 == 1)) n2 (way / 2 % 2 == 1)) n3 (way % 2 == 1)

/-- R54: touches a way of a set. -/
def State.touch (s : State) (die slice set way : Nat) (mru : Bool) : State :=
  { s with plru := s.plru.put (die, slice, set) (plruTouch (s.plru.get (die, slice, set) 0) way mru) }

/-- R54, R67: the way a line takes: a way of the set that is not disabled and is free, else the one pseudo-LRU names. R54 names neither
which of several free ways is taken nor what a disabled way does to the tree: the lowest free way, and the lowest way in use when
the tree names a disabled one (log 46). DESIGN CHOICE. -/
def State.victim (s : State) (die slice set : Nat) : Option Nat :=
  let alive := (List.range 16).filter fun w => decide ((die, slice, set, w) ∉ s.spares.dead)
  let used := (s.frames.filter fun f => f.st != 0 && f.die == die && f.slice == slice && f.set == set).map (·.way)
  match alive.find? fun w => decide (w ∉ used) with
  | some w => some w
  | none =>
    let w := plruWay (s.plru.get (die, slice, set) 0)
    if w ∈ alive then some w else alive.head?

/-- R232: the class under which a miss is treated: the page's, or the one a cache hint names. -/
def LineUse.missClass (u : LineUse) : Nat := if u.hint = 1 ∨ u.hint = 2 then u.hint else u.cls

/-- R56, R57, R104: allocates a line of this package's HBM under its class, evicting a victim; the tag's EPOCH and owning context are
restored from the line's metadata bits. -/
def State.allocate (s : State) (u : LineUse) (ctx : Nat) : State :=
  let die := homeDie u.line
  let k := stackLine u.line
  match s.victim die (l2Slice k) (l2Set k) with
  | none => s
  | some w =>
    let s := match s.frames.find? fun f => f.st != 0 && f.die == die && f.slice == l2Slice k && f.set == l2Set k && f.way == w with
      | some f => s.dropLine (lineAt s.package die f.sln)
      | none => s
    let f : Frame :=
      { die := die, slice := l2Slice k, set := l2Set k, way := w, st := if s.lineBad u.line then 3 else 1, cls := u.cls,
        snp := u.mtype == 1, epoch := (s.mark u.line).1, ctx := if (s.mark u.line).1 = 0 then ctx else (s.mark u.line).2, tid := u.tid, sln := k, tile := u.tile % 2 ^ 32 }
    ({ s with l2mem := copyLine s.mem s.l2mem u.line u.line, frames := s.frames ++ [f] } : State).touch die (l2Slice k) (l2Set k) w
      (u.missClass != 1 && u.hint != 3)

/-- R53, R58, R60, R107: a line the home L2 of this package may hold. -/
def State.cacheable (s : State) (u : LineUse) : Bool :=
  paIsHbm u.line && paPackage u.line == s.package && !u.ms && u.mtype != 2 && u.mtype != 4 && !s.isPool u.line

/-- R56, R232: an access that misses allocates. -/
def State.allocates (s : State) (u : LineUse) : Bool := s.cacheable u && !s.held u.line && decide (u.missClass < 2)

/-- R54, R232: an access hits: the line is the most recently used, or with hint 11 the least. -/
def State.hit (s : State) (u : LineUse) : State := match s.frameOf u.line with
  | some f => s.touch f.die f.slice f.set f.way (u.hint != 3)
  | none => s

/-- R368: an L2 access of a tile, as a hit or a miss. -/
def State.countL2 (s : State) (tile : Nat) (u : LineUse) : State :=
  if !s.cacheable u then s
  else if s.held u.line then s.modTile tile fun t => { t with hits := t.hits + 1 }
  else s.modTile tile fun t => { t with misses := t.misses + 1 }

/-- R60: the host-line cache takes a 64-byte line; a full one gives its oldest line back to the host first. -/
def State.hostFill (s : State) (pa : Nat) : State :=
  let l := pa / 64
  if !paIsHost pa || paPackage pa != s.package || decide (l ∈ s.hostLines) then s
  else
    let s := if s.hostLines.length < 16384 then s else match s.hostLines with
      | o :: r => { s with mem := (s.mem.drop (o * 64) 64).writeAll (s.hostmem.slice (o * 64) 64), hostmem := s.hostmem.drop (o * 64) 64, hostLines := r }
      | [] => s
    { s with hostmem := (s.hostmem.drop (l * 64) 64).writeAll (s.mem.slice (l * 64) 64), hostLines := s.hostLines ++ [l] }

/-- R60: a 64-byte line leaves the host-line cache, written back. -/
def State.hostDrop (s : State) (l : Nat) : State :=
  if l ∈ s.hostLines then
    { s with mem := (s.mem.drop (l * 64) 64).writeAll (s.hostmem.slice (l * 64) 64), hostmem := s.hostmem.drop (l * 64) 64,
             hostLines := s.hostLines.filter fun x => decide (x ≠ l) }
  else s

/-- R113, R460: what the home does before it serves an access to a line: settlement, and for a host-shared line the recall of
the host's copy. -/
def State.prepare (s : State) (u : LineUse) : State :=
  let s := if paPackage u.line = s.package ∧ paIsHbm u.line then s.settle u.line else s
  if u.mtype = 3 then { s with hostBias := s.hostBias.filter fun l => decide (l ≠ u.line) } else s

/-- A fill of a line is under way (R57). -/
def State.filling (s : State) (line : Nat) : Bool := s.agenda.any fun w => w == Work.l2FillComplete line

/-- R56, R57: an access meets its line: allocated on a miss, touched on a hit. -/
def State.meet (s : State) (ctx : Nat) (u : LineUse) : State := if s.allocates u then s.allocate u ctx else s.hit u

/-- R56, R57, R60: an access of a tile that takes these bytes of a line at once: settled, counted, and met in the L2 or the host-line
cache. -/
def State.meetLine (s : State) (tile ctx : Nat) (u : LineUse) (keys : List Nat) : State :=
  let s := ((s.prepare u).countL2 tile u).meet ctx u
  if u.mtype = 4 then ((keys.map fun k => k / 64 * 64).eraseDups).foldl State.hostFill s else s

/-- R65: a unit of an error is wholly written by cells. -/
def coversUnit (cells : List (Nat × Byte)) (u : Nat) : Bool :=
  (List.range (if isGl u then 64 else 8)).all fun i => cells.any fun c => c.1 == u + i

/-- R89: bytes of a waiting WENQ's HEAD. -/
def Req.waitsOn (r : Req) (k : Nat) : Bool := match r.op with
  | .wenq _ _ _ => r.held && decide (r.loc + 8 ≤ k) && decide (k < r.loc + 16)
  | _ => false

/-- R458: the pull queues whose tail word these cells write. -/
def State.pullsOf (s : State) (cells : List (Nat × Byte)) : List Work :=
  s.ctxs.flatMap fun c => (c.2.pqs.zipIdx.filter fun q => q.1.valid &&
      cells.any fun x => decide (q.1.taddr ≤ x.1) && decide (x.1 < q.1.taddr + 8)).map fun q => Work.pullQueuePull c.1 q.2

/-- The lines of global memory that these keys lie on. -/
def linesOf (keys : List Nat) : List Nat := ((keys.filter isGl).map lineOf).eraseDups

/-- R65, R66: the units that cells wholly write become good, and the frames of their lines are dirty. -/
def State.madeGood (s : State) (cells : List (Nat × Byte)) : State :=
  let s := if s.bad.isEmpty then s else { s with bad := s.bad.filter fun u => !coversUnit cells u }
  (linesOf (cells.map (·.1))).foldl State.soil s

/-- Cells written at their homes (R57, R65, R66): the frame becomes dirty, units wholly written become good, a WENQ that
waits on HEAD wakes (R91), and a raised tail word signals the scheduler (R458). -/
def State.commitBytes (s : State) (cells : List (Nat × Byte)) : State :=
  let s := (s.setBytes cells).madeGood cells
  let wakes := (s.reqs.filter fun r => cells.any fun c => r.waitsOn c.1).map fun r => Work.wenqHeadWake r.id
  s.postAll (wakes ++ s.pullsOf cells)

/-- R113, R460: what a home does before it serves an access at a physical address by an agent of the part itself: each line is settled, and the
host's copy of it is recalled. -/
def State.deviceMeet (s : State) (lines : List Nat) : State :=
  let s := lines.foldl State.settle s
  { s with hostBias := s.hostBias.filter fun l => decide (l ∉ lines) }

/-- R113, R460: what an agent of the part itself writes at physical addresses. -/
def State.deviceWrite (s : State) (cells : List (Nat × Byte)) : State := (s.deviceMeet (linesOf (cells.map (·.1)))).commitBytes cells

/-- R113: a number at a physical address as the home serves it, the line settled. -/
def State.seen (s : State) (key n : Nat) : Nat := (s.settle (lineOf key)).num key n

/-- R113: bytes at a physical address as the home serves them. -/
def State.seenBytes (s : State) (key n : Nat) : List Byte := ((linesOf (keysOf key n)).foldl State.settle s).bytes key n

end Sys2Proof.Machine
end

