-- ==== Sys2Proof/Machine/Ops.lean ====
section
/-! DEFINITION. The named operations over tasks and their records: raising a fault, taking it (parking the task and sending its
record), and the return from it (ERET). The operations over memory are in Store.lean and Lines.lean. -/

namespace Sys2Proof.Machine

/-! Raising a fault, taking it, and the return from it. -/

/-- R35: of the faults of a block, the record keeps the one with the lowest instruction index. -/
def lowerFault (old : Option Record) (r : Record) : Option Record :=
  match old with
  | none => some r
  | some o => if r.index < o.index then some r else some o

/-- R413: the epoch of a launch. -/
def State.epochOf (s : State) (launch : Nat) : Nat := match s.launch launch with
  | some l => l.epoch
  | none => 0

/-- The epoch of the launch whose load stands on a tile. -/
def State.epochAt (s : State) (tile : Nat) : Nat := match s.loads.find? fun l => decide (bedOf tile ∈ l.beds) with
  | some l => s.epochOf l.launch
  | none => 0

/-- Completes a record with what the block and the task give (R467). -/
def State.fillRecord (s : State) (t : TaskRef) (r : Record) : Record :=
  { r with ctx := (s.task t).ctx, handle := s.handle t, stamp := (s.task t).stamp, time := s.podtime, epoch := s.epochOf (s.task t).launch }

/-- R35: an instruction of a block in flight has faulted. -/
def State.raise (s : State) (t : TaskRef) (which : Nat) (r : Record) : State :=
  let s := if r.code == .uncorrectable then s.event 0x01 (dieOf t.tile) (s.task t).ctx r.addr r.word0 else s
  s.modFlight t which fun f => { f with fault := lowerFault f.fault (s.fillRecord t r) }

/-- R331, R421: every queue of the task's bed that is bound to its operator closes; waiters are served by their own step. -/
def State.closeStages (s : State) (t : TaskRef) : State :=
  let own := s.operator t
  let bed := bedOf t.tile
  let shut := s.stages.filter fun e => e.1.1 == bed && e.2.owner == some own && !e.2.closed
  { s with
    stages := s.stages.map fun e => if e.1.1 = bed ∧ e.2.owner = some own then (e.1, { e.2 with closed := true }) else e
    agenda := s.agenda ++ shut.map fun e => Work.stageWaiterServe bed e.1.2 }

/-- An operation that keeps a faulted block from parking: what its instructions have sent and not finished (R35). STGPUT and
a draw that waits for the commit hold nothing up, for they act at or after the commit. -/
def Req.holds (r : Req) : Bool := match r.op with
  | .stgput _ _ => false
  | .rnext => r.answer.isSome
  | .store _ => false
  | .tlbump _ _ => false
  | _ => true

/-- R469: a record enters a trap queue behind those of earlier cycles, and among those of its own cycle by ascending HANDLE. -/
def queueTrap (l : List Record) (r : Record) : List Record :=
  let n := l.length - (l.reverse.takeWhile fun x => x.born == r.born && decide (r.handle < x.handle)).length
  l.take n ++ r :: l.drop n

/-- R469: places a record in its context's trap queue, or only in the black-box ring. -/
def State.sendRecord (s : State) (r : Record) (ownTrap : Bool) : State :=
  let c := s.ctx r.ctx
  if c.ten && c.traps.length < 64 && !ownTrap then
    s.modCtx r.ctx fun c => { c with traps := queueTrap c.traps { r with born := s.cycle } }
  else s.event 0x07 (dieOf (r.handle % 1024)) r.ctx r.addr r.word0

/-- R478: writes a record to the debug queue, a ring of 64 records, and advances its tail. -/
def State.debugRecord (s : State) (r : Record) : State :=
  let base := s.package * 2 ^ 43 + s.mgmt.dbgq.toNat / 2 ^ 12 % 2 ^ 31 * 2 ^ 12
  let tail := s.mgmt.dbgq.toNat / 2 ^ 48
  let s := s.deviceWrite (placeBytes (base + tail % 64 * 64) r.bytes)
  { s with mgmt := { s.mgmt with dbgq := BitVec.ofNat 64 (s.mgmt.dbgq.toNat % 2 ^ 48 + (tail + 1) % 2 ^ 16 * 2 ^ 48) } }

/-- R470: a drain is cancelled: the load goes on, the activations it abandoned pend again from now on, the copies it suspended wait again, and
its backing queues deliver. -/
def State.cancelDrain (s : State) (id : Nat) : State := match s.load id with
  | none => s
  | some l =>
    if l.phase ≠ .draining then s
    else
      let on (tile : Nat) : Bool := decide (bedOf tile ∈ l.beds)
      let wake (c : Cmd) : Cmd := if c.state = .suspended ∧ c.suspend then { c with state := .waiting, suspend := false } else c
      let rings := (s.elems.filter fun e => on e.1.tile).flatMap fun e =>
        (e.2.vcs.filter fun v => !v.2.ring.isEmpty).map fun v => Work.spillTimeout e.1 v.1
      let starts := (s.tiles.filter fun t => on t.1).flatMap fun t => (List.range 4).map fun cx => Work.copyStart t.1 cx
      let back (k : Task) : Task :=
        { k with pending := (k.dropped.map fun (a : Activation) => { a with since := s.cycle }) ++ k.pending, dropped := [], phase := if k.phase = .idle ∧ k.dropped ≠ [] then .ready else k.phase }
      { s with
        loads := s.loads.map fun (l : Load) => if l.id = id then { l with phase := .placed } else l
        tasks := s.tasks.map fun x => if x.2.load = id then (x.1, back x.2) else x
        tiles := s.tiles.map fun t =>
          if on t.1 then (t.1, { t.2 with copies := t.2.copies.map fun (x : CopyCtx) => { x with cmds := x.cmds.map wake } }) else t
        agenda := s.agenda ++ starts ++ rings }

/-- An instruction of one of these blocks of a task asks for a translation. -/
def Asker.ofBlocks (w : Asker) (t : TaskRef) (serials : List Nat) : Bool := match w with
  | .instr x n _ => x == t && decide (n ∈ serials)
  | _ => false

/-- A vector's line that has been read for a block (R282). -/
def Req.readFor (r : Req) (t : TaskRef) (serials : List Nat) : Bool := r.task == some t && decide (r.serial ∈ serials) && r.answer.isSome && match r.op with
  | .vload _ => true
  | _ => false

/-- The waits for translations of these blocks of a task, and the lines read for them, end with them. -/
def State.forgetBlocks (s : State) (t : TaskRef) (serials : List Nat) : State :=
  { s with
    reqs := s.reqs.filter fun r => !r.readFor t serials
    misses := s.misses.map fun (m : Miss) => { m with waiters := m.waiters.filter fun w => !w.who.ofBlocks t serials }
    tports := s.tports.filter fun x => !x.2.ofBlocks t serials
    xfaults := s.xfaults.filter fun x => !x.1.ofBlocks t serials }

/-- Taking a block fault (R35, R217, R200): nothing of the block commits; the block is kept for re-fire; a successor is
discarded; the task parks; its operator's stage queues close (R331); a drain of the load is cancelled (R470); the record
goes to the trap operator, or to the host's debug queue for a breakpoint it enables (R365). -/
def State.park (s : State) (t : TaskRef) (f : Firing) (r : Record) (breakpoint : Bool) : State :=
  let k := s.task t
  let gone := k.flights.map (·.serial)
  let own := s.isTrapTask t
  let s := s.setTask t { k with phase := .parked, flights := [], fetch := none, parked := some (f, r), seq := if k.waved then f.wave - f.hdr.pdelta.toNat else k.seq }
  let s := ({ s with reqs := s.reqs.filter fun q => !(q.task == some t && decide (q.serial ∈ gone)) } : State).forgetBlocks t gone
  let s := ((s.cancelDrain k.load).closeStages t).modElem (elemOf t) fun e => { e with faults := e.faults + 1 }
  if breakpoint && s.mgmt.dbgctl.getLsbD k.ctx then s.debugRecord r else s.sendRecord r own

/-- Whether the instruction at an index of a block is BKPT (R365). -/
def Firing.isBkpt (f : Firing) (idx : Nat) : Bool := match f.words[idx]? with
  | some w => bits 55 9 w == 0x184
  | none => false

/-- R35: the oldest block in flight parks its task once its fault is raised, every operation it sent has finished, and every
instruction that waits for a translation has gone on. -/
def State.takeFault (s : State) (t : TaskRef) : State :=
  match (s.task t).flights with
  | [] => s
  | f :: _ => match f.fault with
    | none => s
    | some r =>
      if (s.reqs.any fun q => q.task == some t && q.serial == f.serial && q.holds) || (f.issued.any fun i => !decide (i ∈ f.fired)) then s
      else s.park t f r (r.code == .softwareTrap && f.isBkpt r.index)

/-- Raises a fault at the cursor's instruction and takes it when the block allows. -/
def State.faultHere (s : State) (r : Record) : State :=
  let c := s.cur
  (s.raise c.task c.which { r with index := c.idx }).takeFault c.task

/-- R366: the parked task of a context that a handle names. -/
def State.parkedAt (s : State) (ctx h : Nat) : Option TaskRef :=
  let t := handleTask h
  if (s.task t).phase == .parked && (s.task t).ctx == ctx && s.handle t == h then some t else none

/-- Return from a fault, actions 0 and 2 (R366, R302): the parked block is fetched again from its start; its replay entries
stay; action 2 suppresses traps in that firing. -/
def State.refire (s : State) (t : TaskRef) (suppress : Option Word) : State :=
  s.modTask t fun k => match k.parked with
    | some (f, _) => { k with phase := .active, parked := none, fetch := some f.addr, refire := suppress }
    | none => k

end Sys2Proof.Machine
end

