-- ==== Sys2Proof/Machine/Translate.lean ====
section
/-! DEFINITION. Address spaces and translation (spec/01_address_spaces.md): the bounds of local spaces, the page tables, the
tensor table, the die's translation caches, and the checks of an access in the order of R33. -/

namespace Sys2Proof.Machine

/-- The access kind a fault record names (R36). -/
def Use.acc : Use → Acc
  | .read => .read | .write => .write | .atomic => .atomic | .structRead => .read | .structWrite => .write
  | .cache => .read | .fetch => .fetch

/-- A translation fault other than of a failing unit (R36). -/
def xfault (code : FCode) (cause detail : Nat) : XFault := { code := code, cause := cause, detail := detail }

/-- R65, R467: the fault of an access whose walk or tensor descriptor meets a failing unit. -/
def State.badWord (s : State) (u : Nat) : XFault := { code := .uncorrectable, cause := 0, unit := u, far := s.remote u }

/-- R65, R113: a failing unit among n bytes of a line as the home serves it: settled first. -/
def State.badSeen (s : State) (key n : Nat) : Option Nat := if s.bad.isEmpty && s.spares.failed.isEmpty then none else (s.settle (lineOf key)).badIn key n

/-- R15: the lowest virtual address bit that indexes a level. -/
def levelShift (lvl : Nat) : Nat := if lvl = 3 then 35 else if lvl = 2 then 30 else if lvl = 1 then 21 else 16
/-- R15: the index of a virtual address at a level. -/
def levelIndex (va lvl : Nat) : Nat :=
  if lvl = 3 then field va 55 35 else if lvl = 2 then field va 34 30 else if lvl = 1 then field va 29 21 else field va 20 16

/-- R16, R18: a well-formed table pointer. -/
def pointerOk (e lvl : Nat) : Bool := field e 63 52 == 0 && field e 7 2 == 0 && lvl != 0

/-- R17, R18, R21: a well-formed leaf. -/
def leafOk (e lvl : Nat) : Bool :=
  let pa := field e 51 16 * 2 ^ 16
  let mt := field e 59 57
  field e 63 60 == 0 && decide (mt ≤ 4) && field e 3 2 != 3 && pa % 2 ^ levelShift lvl == 0
    && (if mt = 4 then paIsHost pa else paIsHbm pa) && (if mt = 2 ∨ mt = 4 then field e 15 4 == 0 else true)

/-- R40: where the entry of a tensor stands. -/
def State.tensorAt (s : State) (ctx tid : Nat) : Nat := field (s.ctx ctx).ttw.toNat 51 12 * 2 ^ 12 + 32 * tid

/-- R26: a tensor descriptor as its home serves it (R113). -/
def State.readTensor (s : State) (ctx tid : Nat) : Nat := s.seen (s.tensorAt ctx tid) 32

/-- R26 to R28: tile extents and extents of a descriptor. -/
def tensorTe (d n : Nat) : Nat := field d (227 + 4 * n) (224 + 4 * n)
/-- R26: the extent of a dimension. -/
def tensorExt (d n : Nat) : Nat := field d (31 + 32 * n) (32 * n)
/-- R28: tiles along a dimension. -/
def tensorTiles (d n : Nat) : Nat := (tensorExt d n + 2 ^ tensorTe d n - 1) / 2 ^ tensorTe d n
/-- R28: bytes a tensor occupies. -/
def tensorSize (d : Nat) : Nat := 2048 * tensorTiles d 0 * tensorTiles d 1 * tensorTiles d 2 * tensorTiles d 3
/-- R26: BASE. -/
def tensorBase (d : Nat) : Nat := field d 183 128
/-- R26: the MS bit. -/
def tensorMs (d : Nat) : Bool := field d 254 254 == 1
/-- R27: a valid tensor entry. R26 says that BASE[15:0] must be 0 and R27 does not list it among the conditions: the model takes an entry
that breaks it for a bad tensor (log 46). DESIGN CHOICE. -/
def tensorOk (d : Nat) : Bool :=
  let dims := [0, 1, 2, 3]
  field d 255 255 == 1 && field d 249 240 == 0 && field d 223 184 == 0 && tensorBase d % 2 ^ 16 == 0
    && tensorTe d 0 + tensorTe d 1 + tensorTe d 2 + tensorTe d 3 + field d 253 252 == 11
    && dims.all (fun n => decide (n ≤ field d 251 250) || (tensorExt d n == 1 && tensorTe d n == 0))
    && dims.all (fun n => decide (1 ≤ tensorExt d n))

/-- R30: the die's cached descriptor of a tensor. -/
def State.tdcHit (s : State) (die ctx tid : Nat) : Option Nat :=
  (s.tdc.find? fun e => e.1 == die * 64 + ctx && e.2.1 == tid).map (·.2.2)

/-- R30: the descriptor of a tensor as the die's cache or the table gives it; TID 0 is the flat tensor (R26). -/
def State.tensor (s : State) (die ctx tid : Nat) : Nat := (s.tdcHit die ctx tid).getD (s.readTensor ctx tid)

/-- R23, R27, R40, R65: the fault a page's tensor number raises, at a walk and at every use of a cached translation (R36). -/
def State.tensorFault (s : State) (die ctx tid mtype level : Nat) : Option XFault :=
  if tid = 0 then none
  else if field (s.ctx ctx).ttw.toNat 63 52 + 1 ≤ tid then some (xfault .pageFault 3 level)
  else match (if (s.tdcHit die ctx tid).isSome then none else s.badSeen (s.tensorAt ctx tid) 32) with
    | some u => some (s.badWord u)
    | none =>
      if !tensorOk (s.tensor die ctx tid) then some (xfault .pageFault 3 level)
      else if mtype = 1 && tensorMs (s.tensor die ctx tid) then some (xfault .pageFault 2 level)
      else none

/-- R20 to R22: the memory type and the permission of an access, in this order. -/
def Leaf.fault (l : Leaf) (u : Use) : Option XFault :=
  let type := match u with
    | .read | .write | .fetch => l.mtype != 2
    | .atomic => l.mtype != 2 && l.mtype != 4
    | .structRead | .structWrite => l.mtype == 2
    | .cache => true
  let perm := match u with
    | .read | .structRead | .cache => l.p
    | .write | .atomic | .structWrite => l.w
    | .fetch => l.x
  if !type then some (xfault .perm 5 l.level) else if !perm then some (xfault .perm 4 l.level) else none

/-- Uses that write through the page (R17, R19). -/
def Use.writes : Use → Bool | .write | .atomic | .structWrite => true | _ => false

/-- R19: an atomic OR on a page-table entry, at its home agent; the L2 gives the line up first, as for every operation that always
runs in the agent (R59). -/
def State.orEntry (s : State) (entry bits : Nat) : State :=
  let s := (s.settle (lineOf entry)).dropLine (lineOf entry)
  s.commitBytes (placeBytes entry (bytesOfNat 8 (s.num entry 8 ||| bits)))

/-- R20: a walker's read of an entry goes through the L2 as a flat-tensor line of the normal class. A walker has no virtual address
for the line: TILE takes its physical address (log 46). DESIGN CHOICE. -/
def State.walkerMeets (s : State) (ctx a : Nat) : State :=
  let u : LineUse := { line := lineOf a, va := a, mtype := 0, cls := 0, tid := 0, ms := false, tile := field a 42 11 }
  ((s.deviceMeet [u.line]).prepare u).meet ctx u

/-- What a walk answers: the leaf and the table pointers it read (R30), or the fault. -/
abbrev Walked := Except XFault (Leaf × List WcEntry)

/-- R17: the fields of a leaf entry. -/
def leafOf (e lvl a : Nat) (dirty : Bool) : Leaf :=
  { pa := field e 51 16 * 2 ^ 16, size := 2 ^ levelShift lvl, level := lvl, mtype := field e 59 57, cls := field e 3 2, tid := field e 15 4,
    p := field e 52 52 == 1, w := field e 53 53 == 1, x := field e 54 54 == 1, entry := a, dirty := dirty }

/-- R20: the walk from the table at tbl, levels n − 1 down to 0, for an access. The leaf's tensor is checked as part of the translation,
then its type and permission (R33); then A, and for a write D, is set if it is not set already. -/
def State.walkFrom (s : State) (die ctx va : Nat) (u : Use) : Nat → Nat → List WcEntry → Walked × State
  | 0, _, _ => (.error (xfault .pageFault 1 0), s)
  | lvl + 1, tbl, seen =>
    let a := tbl + 8 * levelIndex va lvl
    let s := s.walkerMeets ctx a
    let e := s.num a 8
    match s.badIn a 8 with
    | some u => (.error (s.badWord u), s)
    | none =>
    if e % 4 = 1 then
      if pointerOk e lvl then
        State.walkFrom s die ctx va u lvl (field e 51 8 * 2 ^ 8)
          (⟨die, ctx, lvl, va / 2 ^ levelShift lvl, field e 51 8 * 2 ^ 8⟩ :: seen)
      else (.error (xfault .pageFault 1 lvl), s)
    else if e % 4 = 2 then
      if leafOk e lvl then
        let l := leafOf e lvl a (field e 56 56 == 1 || u.writes)
        let s := if l.tid = 0 then s else s.deviceMeet [lineOf (s.tensorAt ctx l.tid)]
        match s.tensorFault die ctx l.tid l.mtype lvl, l.fault u with
        | some x, _ => (.error x, s)
        | none, some x => (.error x, s)
        | none, none =>
          (.ok (l, seen), if field e 55 55 = 0 ∨ (u.writes ∧ field e 56 56 = 0) then s.orEntry a (2 ^ 55 + if u.writes then 2 ^ 56 else 0) else s)
      else (.error (xfault .pageFault 1 lvl), s)
    else (.error (xfault .pageFault (if e % 4 = 0 then 0 else 1) lvl), s)

/-- R30: the walk cache's pointer for a level. -/
def State.walkHit (s : State) (die ctx va lvl : Nat) : Option Nat :=
  (s.wc.find? fun e => e.die == die && e.ctx == ctx && e.level == lvl && e.page == va / 2 ^ levelShift lvl).map (·.next)

/-- R20, R30, R40: a walk, from the deepest table the walk cache knows. -/
def State.walk (s : State) (die ctx va : Nat) (u : Use) : Walked × State :=
  let w := (s.ctx ctx).ptw.toNat
  if field w 63 63 = 0 then (.error (xfault .pageFault 0 3), s)
  else match s.walkHit die ctx va 1 with
    | some n => s.walkFrom die ctx va u 1 n []
    | none => match s.walkHit die ctx va 2 with
      | some n => s.walkFrom die ctx va u 2 n []
      | none => match s.walkHit die ctx va 3 with
        | some n => s.walkFrom die ctx va u 3 n []
        | none => s.walkFrom die ctx va u 4 (field w 51 24 * 2 ^ 24) []

/-- R30: adds an entry to a cache of a given size; a full cache loses an entry of its own choice (log 12). -/
def cachePush (size pick : Nat) (l : List α) (x : α) : List α :=
  if l.length < size then l ++ [x] else l.eraseIdx (pick % l.length) ++ [x]

/-- R30: puts a translation into the die's cache, its pointers into the walk cache and its descriptor into the tensor cache. -/
def State.fillTc (s : State) (die ctx va : Nat) (l : Leaf) (ptrs : List WcEntry) : State :=
  let mine := s.tc.filter fun e => e.die == die
  let rest := s.tc.filter fun e => e.die != die
  let e : TcEntry := ⟨die, ctx, va / l.size * l.size, l⟩
  let wcMine := ptrs.foldl (cachePush 512 (Config.freeNat s.tick)) (s.wc.filter fun e => e.die == die)
  let tdc := if l.tid = 0 ∨ s.tdc.any (fun d => d.1 == die * 64 + ctx && d.2.1 == l.tid) then s.tdc
    else cachePush 256 (Config.freeNat s.tick) (s.tdc.filter fun d => d.1 / 64 == die) (die * 64 + ctx, l.tid, s.readTensor ctx l.tid)
      ++ s.tdc.filter fun d => d.1 / 64 != die
  { s with tc := rest ++ cachePush 16384 (Config.freeNat s.tick) mine e, wc := (s.wc.filter fun e => e.die != die) ++ wcMine, tdc := tdc }

/-- R30: the cached translation of an address. -/
def State.tcHit (s : State) (die ctx va : Nat) : Option Leaf :=
  (s.tc.find? fun e => e.die == die && e.ctx == ctx && e.page == va / e.leaf.size * e.leaf.size).map (·.leaf)

/-- R28, R29: the tile of an address and whether its line is memory-side; a byte at or beyond the tensor's end belongs to the flat
tensor. The spec says nothing of a byte of the page below BASE, which the model takes for the flat tensor's too (log 46). DESIGN CHOICE. -/
def State.lineUse (s : State) (die ctx va : Nat) (l : Leaf) : LineUse :=
  let pa := l.pa + va % l.size
  let d := s.tensor die ctx l.tid
  let flat : LineUse :=
    { line := lineOf pa, va := va, mtype := l.mtype, cls := l.cls, tid := 0, ms := false, tile := field va 42 11, entry := l.entry }
  if l.tid ≠ 0 ∧ tensorBase d ≤ va ∧ va < tensorBase d + tensorSize d then
    { flat with tid := l.tid, ms := tensorMs d, tile := (va - tensorBase d) / 2048 }
  else flat

/-- R12, R33: an address beyond the pod. R12 says of the package's own number both that it is local and, at or above the pod size, that
it raises ADDR_RANGE: the model takes it for local (log 46). DESIGN CHOICE. -/
def State.beyondPod (s : State) (pa : Nat) : Bool := paPackage pa != s.package && decide (s.podSize ≤ paPackage pa)

/-- What the checks of an access give: the key of its first byte and, for gl, its line; a translation still to come; a fault. -/
inductive Chk where
  | ok (key : Nat) (use : Option LineUse)
  | miss (va : Nat)
  | bad (x : XFault)
  deriving DecidableEq, Repr

/-- Steps 3 to 5 of R33 for a translation at hand; R40: none serves a context whose translation is not enabled. -/
def State.checkLeaf (s : State) (die ctx va : Nat) (u : Use) (l : Leaf) : Chk :=
  if (s.ctx ctx).ptw.getLsbD 63 = false then .bad (xfault .pageFault 0 3)
  else match s.tensorFault die ctx l.tid l.mtype l.level, l.fault u with
  | some x, _ => .bad x
  | none, some x => .bad x
  | none, none =>
    let pa := l.pa + va % l.size
    if s.beyondPod pa then .bad (xfault .addrRange 7 0) else .ok pa (some (s.lineUse die ctx va l))

/-- R33 for a gl address whose translation is cached or not. -/
def State.checkGl (s : State) (die ctx : Nat) (addr : Word) (align : Nat) (u : Use) : Chk :=
  let va := addr.toNat
  if 2 ^ 56 ≤ va then .bad (xfault .addrRange 7 0)
  else if va % align ≠ 0 then .bad (xfault .align 0 0)
  else match s.tcHit die ctx va with
    | some l => s.checkLeaf die ctx va u l
    | none => .miss va

/-- R6, R8: the bytes a local space holds. -/
def spaceSize : Space → Nat
  | .gl => 2 ^ 56 | .ds => 2 ^ 26 | .bs => 2 ^ 23 | .ts => 2 ^ 20 | .ls => 2 ^ 15 | .ch => 2 ^ 13

/-- R8, R9, R47, R50 in the order of R33, for a local space other than ch. -/
def checkLocal (sp : Space) (tile elem : Nat) (addr : Word) (size align : Nat) (u : Use) : Chk :=
  let a := addr.toNat
  if spaceSize sp < a + size then .bad (xfault .addrRange 7 0)
  else if a % align ≠ 0 then .bad (xfault .align 0 0)
  else match u with
    | .structRead | .structWrite => .bad (xfault .perm 5 0)
    | _ =>
      if u == .atomic && sp == .ls then .bad (xfault .perm 5 0)
      else if sp == .ds && decide (0x03000000 < a + size) then .bad (xfault .perm 6 0)
      else .ok (localKey sp tile elem a) none

/-- R212: the virtual channels a task takes its inputs from. -/
def State.inputs (s : State) (t : TaskRef) : List Nat := match s.taskCfg t with
  | some c => c.inputs
  | none => []

/-- R10: the checks of a ch access. -/
def State.checkCh (s : State) (t : TaskRef) (addr : Word) (size align : Nat) (u : Use) : Chk :=
  let a := addr.toNat
  if 2 ^ 13 ≤ a ∨ 256 < a % 256 + size then .bad (xfault .addrRange 7 0)
  else if a % align ≠ 0 then .bad (xfault .align 0 0)
  else match u with
    | .read | .write => if a / 256 ∈ s.inputs t then .ok a none else .bad (xfault .perm 6 0)
    | _ => .bad (xfault .perm 5 0)

/-! Waiting for a translation (R31, R32). -/

/-- The block the cursor names. -/
def State.here (s : State) : Option Firing := (s.task s.cur.task).flight s.cur.which

/-- The instruction at the cursor as one that asks for a translation. -/
def State.asker (s : State) : Asker := .instr s.cur.task (match s.here with | some f => f.serial | none => 0) s.cur.idx

/-- One that asks is still there to be served: its instruction has not fired, its engine has a command, its operation no answer. -/
def State.asks (s : State) : Asker → Bool
  | .instr t n i => (s.task t).flights.any fun f => f.serial == n && !decide (i ∈ f.fired)
  | .engine tile unit id =>
    let k := s.tile tile
    (if unit < 4 then (k.copies.getD unit {}).cmds else if unit = 4 then k.matrix else k.canopy).any fun c => c.id == id && c.state != .failed
  | .op id => s.reqs.any fun r => r.id == id && r.answer.isNone

/-- The translation port an access goes through: the one of its tile; an agent has none. -/
def Asker.port : Asker → Option Nat
  | .instr t _ _ => some t.tile
  | .engine tile _ _ => some tile
  | .op _ => none

/-- R31: an earlier request is held at the tile's port, and this one waits behind it. -/
def State.portHeld (s : State) (w : Asker) : Bool := match w.port with
  | none => false
  | some n => match s.tports.find? fun x => x.1 == n && s.asks x.2 with
    | some x => x.2 != w
    | none => false

/-- R31: joins the requests held at a tile's port, behind them. -/
def State.holdAtPort (s : State) (w : Asker) : State := match w.port with
  | none => s
  | some n => if (n, w) ∈ s.tports then s else { s with tports := (s.tports.filter fun x => s.asks x.2) ++ [(n, w)] }

/-- R31: a miss joins the entry of its context and VA[55:16], or takes a free entry of the die's 1,024; with none free it is held at
its tile's port. -/
def State.queueMiss (s : State) (die ctx : Nat) (w : Waiter) : State :=
  let page := w.va / 2 ^ 16
  if s.portHeld w.who then s.holdAtPort w.who
  else if s.misses.any fun m => m.die == die && m.ctx == ctx && m.page == page then
    { s with
      misses := s.misses.map fun m =>
        if m.die = die ∧ m.ctx = ctx ∧ m.page = page ∧ w ∉ m.waiters then { m with waiters := m.waiters ++ [w] } else m
      tports := s.tports.filter fun x => decide (x.2 ≠ w.who) }
  else if (s.misses.filter fun m => m.die == die).length < 1024 then
    let (id, s) := s.newId
    ({ s with misses := s.misses ++ [(⟨id, die, ctx, page, w.use, false, [w]⟩ : Miss)]
              tports := s.tports.filter fun x => decide (x.2 ≠ w.who) } : State).post (.pageWalk die)
  else s.holdAtPort w.who

/-- Whether one that asks waits for a walk (R31). -/
def State.waitsForWalk (s : State) (w : Asker) : Bool := s.misses.any fun m => m.waiters.any fun x => x.who == w

/-- R33: the checks of one access of a task's block; behind a request held at the tile's port it waits (R31). -/
def State.check (s : State) (t : TaskRef) (sp : Space) (addr : Word) (size align : Nat) (u : Use) : Chk :=
  match sp with
  | .gl => match s.checkGl (dieOf t.tile) (s.task t).ctx addr align u with
    | .ok k l => if s.portHeld s.asker then .miss addr.toNat else .ok k l
    | c => c
  | .ch => s.checkCh t addr size align u
  | _ => checkLocal sp t.tile t.elem addr size align u

/-- R19: the first write through an entry sets D at the entry, and in the die's cached translation; what the cache holds as dirty is
not set again. -/
def State.markDirty (s : State) (die ctx : Nat) (u : LineUse) : State :=
  let mine (e : TcEntry) : Bool := e.die == die && e.ctx == ctx && e.leaf.entry == u.entry && e.page == u.va / e.leaf.size * e.leaf.size
  match s.tc.find? mine with
  | some e =>
    if e.leaf.dirty then s
    else
      let s := s.orEntry u.entry (2 ^ 56)
      { s with tc := s.tc.map fun e => if mine e then { e with leaf := { e.leaf with dirty := true } } else e }
  | none => s.orEntry u.entry (2 ^ 56)

/-- A translation made at once, for the scheduler and the managers (R30, R39): the cache, or a walk; and D for a write. -/
def State.checkNow (s : State) (die ctx va : Nat) (u : Use) : Chk × State :=
  let mark (c : Chk) (s : State) : Chk × State := match c with
    | .ok k (some x) => (.ok k (some x), if u.writes then s.markDirty die ctx x else s)
    | c => (c, s)
  if 2 ^ 56 ≤ va then (.bad (xfault .addrRange 7 0), s)
  else match s.tcHit die ctx va with
    | some l => mark (s.checkLeaf die ctx va u l) s
    | none => match s.walk die ctx va u with
      | (.error x, s) => (.bad x, s)
      | (.ok (l, ptrs), s) =>
        let s := s.fillTc die ctx va l ptrs
        mark (s.checkLeaf die ctx va u l) s

/-- A translation for an engine, an agent or a prefetch (R30 to R32, R37, R74, R75, R91): the cache; else the fault that a walk has
left for it; else it waits for a walk as a block's instruction does. -/
def State.checkFor (s : State) (die ctx va : Nat) (u : Use) (w : Asker) : Chk × State :=
  if 2 ^ 56 ≤ va then (.bad (xfault .addrRange 7 0), s)
  else match s.xfaults.find? fun x => x.1 == w && x.2.1 == va / 2 ^ 16 with
    | some x => (.bad x.2.2, { s with xfaults := s.xfaults.filter fun y => decide (y.1 ≠ w) })
    | none =>
      if s.waitsForWalk w then (.miss va, s)
      else if s.portHeld w then (.miss va, s.holdAtPort w)
      else match s.tcHit die ctx va with
        | some l => (s.checkLeaf die ctx va u l, s)
        | none => (.miss va, s.queueMiss die ctx ⟨w, va, u⟩)

/-- One that asks has no more use for a translation. -/
def State.forgetAsker (s : State) (w : Asker) : State :=
  { s with
    misses := s.misses.map fun (m : Miss) => { m with waiters := m.waiters.filter fun x => x.who != w }
    tports := s.tports.filter fun x => x.2 != w
    xfaults := s.xfaults.filter fun x => x.1 != w }

/-- The record of a failed access check (R36, R467); of a failing unit that the translation met, the unit's address and the access's. -/
def XFault.record (x : XFault) (u : Use) (addr : Nat) : Record :=
  if x.code = .uncorrectable then { code := x.code, acc := u.acc, link := x.far, addr := x.unit, auxB := addr }
  else { code := x.code, cause := x.cause, detail := x.detail, acc := u.acc, addr := addr }

end Sys2Proof.Machine
end

