-- ==== Sys2Proof/Machine/Operands.lean ====
section
/-! DEFINITION. How an instruction of a block takes its operands and delivers its results: guards, consumer slots, the
ordering input p, tokens, the order of a task's own accesses (spec/10_instruction_formats.md R226 to R231,
spec/09_execution_model.md R215 to R218, spec/05_memory_order.md R129 to R132). -/

namespace Sys2Proof.Machine

/-- The code of a slot (R226). -/
def Slot.num : Slot → Nat | .a => 0 | .b => 1 | .c => 2 | .p => 3

/-- R226, R239: the valid targets of an instruction word, FAN's further ones included. -/
def targetsOf (w : Word) : List (Nat × Nat) :=
  (if bit 42 w then [((bits 35 7 w).toNat, (bits 33 2 w).toNat)] else [])
    ++ (if bit 32 w then [((bits 25 7 w).toNat, (bits 23 2 w).toNat)] else [])
    ++ (if bits 55 9 w == 0x069 then
          [((bits 12 7 w).toNat, (bits 10 2 w).toNat)] ++ (if bit 0 w then [((bits 3 7 w).toNat, (bits 1 2 w).toNat)] else [])
        else [])

/-- R243: the ordering class of a word, an atomic's by its C bit. -/
def classOf (w : Word) : OrderClass :=
  let op := (bits 55 9 w).toNat
  if op < 0x06E then .L
  else if op < 0x080 then .C
  else if op < 0x084 then .L
  else if op < 0x104 then .M
  else if op < 0x107 then .X
  else if op < 0x10A then .D
  else if op < 0x113 ∨ op = 0x117 then (if bit 9 w then .A else .S)
  else if op < 0x119 then .S
  else if op < 0x11C then .O
  else if op < 0x11F then .T
  else if op < 0x123 then .N
  else if op < 0x140 then .C
  else if op < 0x149 then .E
  else if op = 0x14C ∨ op = 0x156 ∨ op = 0x157 then .E
  else .L

/-- R224: a word that takes a wave sequence number. -/
def wavedClass (w : Word) : Bool := match classOf w with | .M | .X | .A | .S | .D => true | _ => false
/-- R224: a word of class M that may store: ST, STP, and the vector instructions with a destination. -/
def storeWord (w : Word) : Bool :=
  let op := (bits 55 9 w).toNat
  op == 0x101 || op == 0x103 || (decide (0x084 ≤ op) && decide (op < 0x0AE) && !(decide (0x0A2 ≤ op) && decide (op < 0x0A7)))

/-- R272: the operand is a temporary. -/
def shVt (r : Row) : Bool := bit 508 r

/-- R256: the predicate a test writes. -/
def testPred (w : Word) : Option Nat :=
  let op := (bits 55 9 w).toNat
  if 0x040 ≤ op ∧ op < 0x048 ∧ bit 15 w then some (bits 11 4 w).toNat else none

/-- R282: a vector word reads a source in storage, its shape registers as they stand. -/
def vecReads (sh : List Row) (w : Word) : Bool :=
  let op := (bits 55 9 w).toNat
  let mem (n : Nat) : Bool := !shVt (sh.getD n 0)
  let a := mem (bits 13 3 w).toNat
  let b := mem (bits 10 3 w).toNat
  if op < 0x084 ∨ 0x0AE ≤ op ∨ op = 0x0AB ∨ op = 0x0AC then false
  else if op < 0x08B ∨ op = 0x08D ∨ (0x09A ≤ op ∧ op < 0x0A1) ∨ (0x0A6 ≤ op ∧ op < 0x0AB) then
    a || b || ((op == 0x087 || op == 0x088 || op == 0x0A0) && mem (bits 0 3 w).toNat)
  else a || (op == 0x098 && !bit 0 w && b) || (op == 0x099 && !bit 3 w && b)

/-- R132: a word whose memory events are stores alone. -/
def onlyStores (sh : List Row) (w : Word) : Bool := storeWord w && !vecReads sh w

/-- R227: an enabled guard is satisfied. -/
def Firing.guardOk (f : Firing) : Option Guard → Bool
  | none => true
  | some g => f.preds.find g.pred.toNat == some g.sense
/-- R215, R227: an enabled guard has failed, so the instruction never fires. -/
def Firing.guardDead (f : Firing) : Option Guard → Bool
  | none => false
  | some g => f.preds.find g.pred.toNat == some (!g.sense)

/-- The guards of a word. -/
def guardsOf (w : Word) : Option Guard × Option Guard :=
  ((if bit 54 w then some ⟨bit 53 w, bits 49 4 w⟩ else none), (if bit 48 w then some ⟨bit 47 w, bits 43 4 w⟩ else none))

/-- R132, R224: an instruction has fired, or is known not to fire. -/
def Firing.decided (f : Firing) (idx : Nat) (w : Word) : Bool :=
  decide (idx ∈ f.fired) || f.guardDead (guardsOf w).1 || f.guardDead (guardsOf w).2

/-- R230: some target of the block names slot p of an instruction. -/
def Firing.pNamed (f : Firing) (idx : Nat) : Bool := f.words.any fun w => decide ((idx, 3) ∈ targetsOf w)

/-- The operands of a firing. -/
structure Opnds where
  a : SlotVal := ⟨0, none, none⟩
  b : SlotVal := ⟨0, none, none⟩
  c : SlotVal := ⟨0, none, none⟩
  p : SlotVal := ⟨0, none, none⟩
  deriving DecidableEq, Repr

/-- What stands in a slot the form uses. -/
def Firing.slot (f : Firing) (idx slot : Nat) (used : Bool) : Option SlotVal :=
  if used then f.slots.find (idx, slot) else some ⟨0, none, none⟩

/-- R215, R227, R230: the operands of an instruction that may fire. -/
def Firing.ready (f : Firing) (idx : Nat) (h : Head) (ua ub uc : Bool) : Option Opnds :=
  if idx ∈ f.fired then none
  else if !(f.guardOk h.ga && f.guardOk h.gb) then none
  else match f.slot idx 0 ua, f.slot idx 1 ub, f.slot idx 2 uc, f.slot idx 3 (f.pNamed idx) with
    | some a, some b, some c, some p => some ⟨a, b, c, p⟩
    | _, _, _, _ => none

/-- R215: the operands at the cursor, for an instruction of class L or O. -/
def State.operands (s : State) (h : Head) (ua ub uc : Bool) : Option Opnds := match s.here with
  | some f => f.ready s.cur.idx h ua ub uc
  | none => none

/-- R231: a value reaches a slot; a second one makes the block fault BLOCK_FORMAT. -/
def Firing.arrive (f : Firing) (idx slot : Nat) (v : SlotVal) : Firing :=
  match f.slots.find (idx, slot) with
  | none => { f with slots := f.slots.put (idx, slot) v }
  | some _ => { f with fault := lowerFault f.fault { code := .blockFormat, index := idx } }

/-- R229: delivers to one target. -/
def Firing.send (f : Firing) : Option Target → SlotVal → Firing
  | none, _ => f
  | some t, v => f.arrive t.idx.toNat (Slot.num t.slot) v

/-- R229, R298: target 0 and target 1 of a word that has fired. -/
def Firing.deliver (f : Firing) (h : Head) (v0 v1 : SlotVal) : Firing := (f.send h.t0 v0).send h.t1 v1

/-- A plain value. -/
def plain (v : Word) : SlotVal := ⟨v, none, none⟩

/-- Fills in what only the task gives of a fault that a delivery raised; one raised before has its time already. -/
def State.fixFault (s : State) (t : TaskRef) (which : Nat) : State :=
  s.modFlight t which fun f => { f with fault := f.fault.map fun r => if r.time = 0 then s.fillRecord t r else r }

/-- R231, R35: a fault that a delivery of the cursor's instruction raised is taken when the block allows. -/
def State.afterDelivery (s : State) : State := match s.here with
  | some f => if f.fault.isSome then (s.fixFault s.cur.task s.cur.which).takeFault s.cur.task else s
  | none => s

/-- The instruction at the cursor fires: it is marked, counted (counter 2 of R368), and delivers two values. -/
def State.fire (s : State) (h : Head) (v0 v1 : SlotVal) : State :=
  let c := s.cur
  let s := s.modFlight c.task c.which fun f => ({ f with fired := c.idx :: f.fired } : Firing).deliver h v0 v1
  (s.modElem (elemOf c.task) fun e => { e with instrs := e.instrs + 1 }).afterDelivery

/-- Fires with one result for both targets. -/
def State.fire1 (s : State) (h : Head) (v : Word) : State := s.fire h (plain v) (plain v)

/-- The instruction at the cursor fires with nothing to deliver now. -/
def State.fire0 (s : State) : State :=
  let c := s.cur
  (s.modFlight c.task c.which fun f => { f with fired := c.idx :: f.fired }).modElem (elemOf c.task)
    fun e => { e with instrs := e.instrs + 1 }

/-- Marks the instruction fired and raises its fault (R35). -/
def State.fireFault (s : State) (r : Record) : State := s.fire0.faultHere r

/-- R276, R300: what takes effect at commit. -/
def State.atCommit (s : State) (d : Defer) : State :=
  s.modFlight s.cur.task s.cur.which fun f => { f with defer := f.defer ++ [(s.cur.idx, d)] }

/-! Tokens and perform points. -/

/-- R124: operations that are memory events. -/
def Req.event (r : Req) : Bool := match r.op with
  | .load _ _ | .pair | .vload _ | .store _ | .atomic _ _ _ _ _ _ _ | .acasm _ _ _ _ | .aenq _ _ _ _ | .achase _ _ _ | .lds _ | .sts _
  | .stclr _ | .wenq _ _ _ | .legs _ _ _ => true
  | _ => false

/-- R125, R135: a referenced access is performed: its store's block has committed, and no answer of it is outstanding. -/
def State.performed (s : State) (t : TaskRef) (r : Ref) : Bool :=
  !(r.store && (s.task t).flights.any fun f => f.serial == r.serial)
    && !(s.reqs.any fun q => q.task == some t && q.serial == r.serial && q.idx == r.idx && q.answer.isNone)

/-- R129, R321: every memory event of the task's blocks before a given one is performed. -/
def State.fenced (s : State) (t : TaskRef) (serial : Nat) : Bool :=
  !((s.task t).flights.any fun f => decide (f.serial < serial))
    && !(s.reqs.any fun q => q.task == some t && decide (q.serial < serial) && q.event && q.answer.isNone)

/-- R129: a token is released. -/
def State.released (s : State) (t : TaskRef) (k : Token) : Bool :=
  k.refs.all (s.performed t) && k.fences.all (s.fenced t)

/-- What a token still waits for among the task's operations. -/
def State.tokenReqs (s : State) (t : TaskRef) (k : Token) : List Nat :=
  (s.reqs.filter fun q => q.task == some t && q.answer.isNone
    && ((k.refs.any fun x => x.serial == q.serial && x.idx == q.idx) || q.event && k.fences.any fun n => decide (q.serial < n))).map (·.id)

/-- A value without a token, or with a released one. -/
def State.tokenFree (s : State) (t : TaskRef) (v : SlotVal) : Bool := match v.tok with
  | none => true
  | some k => s.released t k

/-! The order of a task's own accesses. -/

/-- Keys of the payloads of a task's matched messages, which are no storage (R10). -/
def chKey : Nat := 2 ^ 56

/-- The keys an operation reads or writes. -/
def Req.keys (r : Req) : List Nat := match r.op with
  | .load n _ => keysOf r.loc n
  | .pair => keysOf r.loc 16
  | .store b => b.map (·.1)
  | .atomic _ n _ _ _ _ _ => keysOf r.loc n
  | .acasm n _ _ _ => keysOf r.loc (8 * n)
  | .aenq _ _ nPa _ => keysOf r.loc 16 ++ keysOf nPa 8
  | .vload l => l
  | .chwrite l => l.map fun b => chKey + b.1 * 256 + b.2.1
  | .wenq _ _ _ => keysOf r.loc 32
  | .legs home todo _ => keysOf home 8 ++ todo.flatMap fun l => keysOf l.key l.bytes.length
  | .lds _ | .sts _ => keysOf r.loc 8
  | .stclr n => keysOf r.loc (8 * n)
  | _ => []

/-- Operations that write (R124). -/
def Req.writes (r : Req) : Bool := match r.op with
  | .store _ | .atomic _ _ _ _ _ _ _ | .acasm _ _ _ _ | .aenq _ _ _ _ | .sts _ | .stclr _ | .wenq _ _ _ | .legs _ _ _ | .chwrite _ => true
  | _ => false

/-- A store of a block. -/
def Req.isStore (r : Req) : Bool := match r.op with | .store _ => true | _ => false

/-- A chase, whose hops to come are not known (R75). -/
def Req.chases (r : Req) : Bool := match r.op with | .achase _ _ _ => true | _ => false

/-- Two lists of keys meet. -/
def meets (x y : List Nat) : Bool := x.any fun k => decide (k ∈ y)

/-- R131: an earlier block of the task still has a write of these bytes to perform. -/
def State.behindWrite (s : State) (t : TaskRef) (serial : Nat) (keys : List Nat) : Bool :=
  s.reqs.any fun q => q.task == some t && decide (q.serial < serial) && q.writes && q.answer.isNone && meets q.keys keys

/-- R131, R218: the previous block, still in flight, lets a read of these bytes be performed: its accesses are all decided, none of
its stores takes these bytes, none of its accesses of them is outstanding, and none of its chases has hops to come. -/
def State.clearOfPrevious (s : State) (t : TaskRef) (which : Nat) (keys : List Nat) : Bool :=
  if which = 0 then true
  else match (s.task t).flights with
    | f :: _ =>
      (f.words.zipIdx.all fun w => !wavedClass w.1 || f.decided w.2 w.1)
        && !(f.stores.any fun r => meets (r.bytes.map (·.1)) keys)
        && !(s.reqs.any fun q => q.task == some t && q.serial == f.serial && q.event && q.answer.isNone && (q.chases || meets q.keys keys))
    | [] => true

/-- R224: the wave number of an instruction. -/
def Firing.waveNumber (f : Firing) (idx : Nat) : Nat :=
  f.wave + ((f.words.take idx).filter wavedClass).length

/-- R132: a lower-numbered operation that an operation must follow in its waved task: of an earlier block of the same activation, or of
its own block; an operation that is performed before its block commits does not follow the block's own stores. -/
def Req.waveBefore (q : Req) (task : Option TaskRef) (act serial order : Nat) (store : Bool) : Bool :=
  q.task == task && q.order != 0 && q.act == act && q.event && q.answer.isNone
    && (decide (q.serial < serial) || (q.serial == serial && decide (q.order < order) && (store || !q.isStore)))

/-- R132: in a waved task, the accesses of lower numbers that a read or an RMW of the block follows are performed or decided. A read
waits until every lower-numbered access is decided; one that takes nothing from the store buffer (RMW, LDS and the like) does not
wait for what only stores. The previous block in flight has no store that is still to be performed. -/
def State.waveOk (s : State) (t : TaskRef) (which idx : Nat) (rmw : Bool) : Bool :=
  let k := s.task t
  if !k.waved then true
  else match k.flight which with
    | none => true
    | some f =>
      (f.words.zipIdx.all fun w => !(decide (w.2 < idx) && wavedClass w.1) || f.decided w.2 w.1 || (rmw && onlyStores k.sh w.1))
        && !(s.reqs.any fun q => q.waveBefore (some t) k.acts f.serial (f.waveNumber idx) false)
        && (which == 0 || match k.flights with
              | g :: _ => (g.words.zipIdx.all fun w => !wavedClass w.1 || g.decided w.2 w.1) && g.stores.isEmpty
              | [] => true)

/-! R136, R330: the block that a STGWAIT's value feeds. -/

/-- What an instruction feeds: through targets, or through the predicate its test writes. -/
def Firing.feeds (f : Firing) (i : Nat) : List Nat := match f.words[i]? with
  | none => []
  | some w =>
    (targetsOf w).map (·.1) ++ match testPred w with
      | none => []
      | some p => (f.words.zipIdx.filter fun v =>
          ((guardsOf v.1).1.toList ++ (guardsOf v.1).2.toList).any fun g => g.pred.toNat == p).map (·.2)

/-- What a set of instructions feeds in n steps. -/
def Firing.fedBy (f : Firing) : Nat → List Nat → List Nat
  | 0, l => l
  | n + 1, l => Firing.fedBy f n ((l ++ l.flatMap f.feeds).eraseDups)

/-- A STGWAIT of a block whose value has not returned, and that may still fire or has fired. -/
def State.stagePending (s : State) (t : TaskRef) (f : Firing) (w : Word × Nat) : Bool :=
  bits 55 9 w.1 == 0x124 && !(f.guardDead (guardsOf w.1).1 || f.guardDead (guardsOf w.1).2)
    && (!decide (w.2 ∈ f.fired) || s.reqs.any fun q => q.task == some t && q.serial == f.serial && q.idx == w.2 && q.answer.isNone)

/-- The register a word READs (R242). -/
def readOf (w : Word) : Option Nat := if bits 55 9 w == 0x060 then some (bits 14 5 w).toNat else none
/-- R259: the register a WRITE names. -/
def writeOf (w : Word) : Option Nat := if bits 55 9 w == 0x061 then some (bits 14 5 w).toNat else none

/-- R259: an instruction of a block is a WRITE of one of these registers. -/
def Firing.writesOne (f : Firing) (regs : List Nat) (i : Nat) : Bool := match f.words[i]? with
  | some w => match writeOf w with
    | some n => decide (n ∈ regs)
    | none => false
  | none => false

/-- R136, R330: the block that a STGWAIT's value feeds, through targets or a register, makes its accesses after the value has
returned; an access on which the STGWAIT itself depends does not wait for it. A STGWAIT that feeds nothing of its own block but WRITEs lets
the block commit before the value returns (R216, R241): the value feeds the blocks that read those registers. -/
def State.stageClear (s : State) (t : TaskRef) (which idx : Nat) : Bool :=
  let k := s.task t
  match k.flight which with
  | none => true
  | some f =>
    let reads := f.words.filterMap readOf
    (f.words.zipIdx.all fun w => !s.stagePending t f w || (f.feeds w.2).all (f.writesOne (List.range 32))
        || decide (w.2 ∈ f.fedBy f.words.length (f.feeds idx)))
      && (reads.all fun n => match k.regs[n]? with
          | some x => match x.due with
            | some (.result id _) => !(s.reqs.any fun q => q.id == id && match q.op with | .stgwait _ _ => true | _ => false)
            | _ => true
          | none => true)
      && (which == 0 || match k.flights with
            | g :: _ => g.words.zipIdx.all fun w => !s.stagePending t g w || !(g.fedBy g.words.length (g.feeds w.2)).any (g.writesOne reads)
            | [] => true)

/-- R131, R132, R136: the order that an access of the cursor's instruction must wait for whatever its address. -/
def State.orderOk (s : State) (rmw : Bool) : Bool :=
  s.waveOk s.cur.task s.cur.which s.cur.idx rmw && s.stageClear s.cur.task s.cur.which s.cur.idx

/-- The last byte written to a key in a list of cells. -/
def lastWrite (l : List (Nat × Byte)) (key : Nat) (d : Option Byte) : Option Byte :=
  match l with
  | [] => d
  | (k, b) :: r => lastWrite r key (if k = key then some b else d)

/-- R132: the byte that the store buffer forwards to a waved read: the highest-numbered store below it in its own block; those of
earlier blocks are performed by then. -/
def State.forwarded (s : State) (t : TaskRef) (which idx key : Nat) : Option Byte :=
  let k := s.task t
  if !k.waved then none
  else match k.flight which with
    | none => none
    | some f => ((List.range idx).foldl (fun (d : Option Byte) i =>
        (f.stores.filter fun r => r.idx == i).foldl (fun d r => lastWrite r.bytes key d) d) none)

/-- The byte a block's read takes. -/
def State.readByte (s : State) (t : TaskRef) (which idx key : Nat) : Byte := (s.forwarded t which idx key).getD (s.byte key)

/-- R35: a block whose fault is raised fires no more, but for instructions that have already asked for a translation. -/
def Firing.stopped (f : Firing) (idx : Nat) : Bool := f.fault.isSome && !decide (idx ∈ f.issued)

/-- R215, R230, R300: the operands of an instruction that makes reads: its block has not stopped (R35), the token in slot p is
released, and it waits for no walk. -/
def State.operandsRead (s : State) (h : Head) (ua ub uc : Bool) : Option Opnds := match s.here with
  | some f =>
    if f.stopped s.cur.idx || s.waitsForWalk s.asker then none
    else match f.ready s.cur.idx h ua ub uc with
      | some o => if s.tokenFree s.cur.task o.p then some o else none
      | none => none
  | none => none

/-- R300, R130: the operands of an instruction sent before commit that writes: the previous block has committed. -/
def State.operandsSent (s : State) (h : Head) (ua ub uc : Bool) : Option Opnds :=
  if s.cur.which = 0 then s.operandsRead h ua ub uc else none

/-- The operands of an instruction that acts at commit, or stores: it fires whatever its token, which its store carries. -/
def State.operandsStore (s : State) (h : Head) (ua ub uc : Bool) : Option Opnds := match s.here with
  | some f => if f.stopped s.cur.idx || s.waitsForWalk s.asker then none else f.ready s.cur.idx h ua ub uc
  | none => none

/-- The instruction at the cursor has begun to act, and goes on when its block stops (R35). -/
def State.begun (s : State) : State :=
  let c := s.cur
  s.modFlight c.task c.which fun f => { f with issued := if c.idx ∈ f.issued then f.issued else c.idx :: f.issued }

/-- The instruction at the cursor is under way and has to wait for a translation. -/
def State.waitWalk (s : State) (va : Nat) (u : Use) : State :=
  (s.queueMiss (dieOf s.cur.task.tile) (s.task s.cur.task).ctx ⟨s.asker, va, u⟩).begun

/-- The reference an access of the cursor's instruction gives to its values (R298). -/
def State.refHere (s : State) (store : Bool) : Option Ref := match s.here with
  | some f => some ⟨f.serial, s.cur.idx, store⟩
  | none => none

/-- R302: the replay entry the cursor's instruction holds. -/
def State.replayHere (s : State) : Option Replay := (s.task s.cur.task).replay.find? fun r => r.idx == s.cur.idx

/-- R301: records a replay entry. -/
def State.keepReplay (s : State) (t : TaskRef) (r : Replay) : State :=
  s.modTask t fun k => { k with replay := k.replay ++ [r] }

/-- R42: the cursor's block has used the translation of an address. -/
def State.usePage (s : State) (va : Nat) : State :=
  s.modFlight s.cur.task s.cur.which fun f => { f with used := if va / 2 ^ 16 ∈ f.used then f.used else va / 2 ^ 16 :: f.used }

/-- An operation of the cursor's instruction is sent. -/
def State.queueReq (s : State) (op : Op) (key va : Nat) (use : Option LineUse) : Nat × State :=
  match s.here with
  | none => (0, s)
  | some f =>
    let c := s.cur
    let k := s.task c.task
    let (id, s) := s.newId
    let s := if use.isSome then s.usePage va else s
    let r : Req :=
      { id := id, op := op, task := some c.task, serial := f.serial, idx := c.idx, ctx := k.ctx, load := k.load,
        loc := key, va := va, use := use, start := s.cycle,
        order := if k.waved then f.waveNumber c.idx else 0, act := k.acts }
    (id, { s with reqs := s.reqs ++ [r] })

/-- Sends an operation of the cursor's instruction; the instruction has fired and its results come later. -/
def State.sendReq (s : State) (op : Op) (key va : Nat) (use : Option LineUse) : Nat × State :=
  let x := s.queueReq op key va use
  (x.1, if s.here.isSome then x.2.fire0 else x.2)

end Sys2Proof.Machine
end

