-- ==== Sys2Proof/Machine/Flags.lean ====
section
/-! DEFINITION. The one-bit results of the part: block predicates (spec/10_instruction_formats.md R228), the flush-to-zero
bit of csr.fpmode (R171), and the status words of R299. There is no flag register. -/

namespace Sys2Proof.Machine

/-- R228, R256: a test writes bit 0 of its result to a predicate; a second write makes the block fault BLOCK_FORMAT. -/
def Firing.setPred (f : Firing) (idx : Nat) : Option (BitVec 4) → Bool → Firing
  | none, _ => f
  | some p, v => match f.preds.find p.toNat with
    | none => { f with preds := f.preds.put p.toNat v }
    | some _ => { f with fault := lowerFault f.fault { code := .blockFormat, index := idx, detail := p.toNat } }

/-- A test fires: it writes its predicate and delivers 1 or 0. -/
def State.fireTest (s : State) (h : Head) (pd : Option (BitVec 4)) (v : Bool) : State :=
  (s.modFlight s.cur.task s.cur.which fun f => f.setPred s.cur.idx pd v).fire1 h (if v then 1 else 0)

/-- R171, R364: the FTZ bit a block sampled. -/
def Firing.ftz (f : Firing) : Bool := f.fpmode.getLsbD 0

/-- R299: status words. -/
def statusOk : Word := 0
/-- R299 EMPTY. -/
def statusEmpty : Word := 1
/-- R299 CLOSED. -/
def statusClosed : Word := 2
/-- R299 QFAULT. -/
def statusQfault : Word := 3
/-- R299 TIMEOUT. -/
def statusTimeout : Word := 4
/-- R299 REPLAY_UNKNOWN. -/
def statusUnknown : Word := 5

end Sys2Proof.Machine
end

