-- ==== Sys2Proof/Machine/Float.lean ====
section
/-! DEFINITION. Number formats (spec/07_numbers.md R165 to R173): exact values, rounding applied once, NaN rules, FTZ, the
conversions, and BX128 (R179). A floating-point number is its bits; arithmetic is on exact rationals. -/

namespace Sys2Proof.Machine

/-- A floating-point format (R165). -/
structure Fmt where
  eb : Nat
  mb : Nat
  bias : Nat
  e4m3 : Bool := false
  deriving DecidableEq, Repr

/-- FP32. -/
def fp32 : Fmt := ⟨8, 23, 127, false⟩
/-- FP16. -/
def fp16 : Fmt := ⟨5, 10, 15, false⟩
/-- BF16. -/
def bf16F : Fmt := ⟨8, 7, 127, false⟩
/-- FP8 E4M3: no infinity, one NaN pattern. -/
def e4m3F : Fmt := ⟨4, 3, 7, true⟩
/-- FP8 E5M2. -/
def e5m2F : Fmt := ⟨5, 2, 15, false⟩

/-- The format of a floating-point type. -/
def fmtOf : Ty → Fmt | .f16 => fp16 | .bf16 => bf16F | .e4m3 => e4m3F | .e5m2 => e5m2F | _ => fp32

/-- Width of a format in bits. -/
def Fmt.width (f : Fmt) : Nat := 1 + f.eb + f.mb
/-- The sign's weight. -/
def Fmt.signBit (f : Fmt) : Nat := 2 ^ (f.eb + f.mb)
/-- The exponent field of all ones. -/
def Fmt.expAll (f : Fmt) : Nat := 2 ^ f.eb - 1
/-- The exponent of the smallest normal (R165). -/
def Fmt.emin (f : Fmt) : Int := 1 - (f.bias : Int)
/-- Bits of the largest finite magnitude (R165). -/
def Fmt.maxFinite (f : Fmt) : Nat := if f.e4m3 then 0x7E else f.expAll * 2 ^ f.mb - 1
/-- Bits of positive infinity (R165); E4M3 has none and takes its largest finite (R168). -/
def Fmt.infBits (f : Fmt) : Nat := if f.e4m3 then 0x7E else f.expAll * 2 ^ f.mb
/-- The canonical quiet NaN (R165). -/
def Fmt.canonNan (f : Fmt) : Nat := if f.e4m3 then 0x7F else f.expAll * 2 ^ f.mb + 2 ^ (f.mb - 1)

/-- A decoded value: a NaN, an infinity, or a signed magnitude n / d (R165). -/
inductive FV where
  | nan
  | inf (neg : Bool)
  | rat (neg : Bool) (n d : Nat)
  deriving DecidableEq, Repr

/-- m × 2^e as a fraction. -/
def dyad (neg : Bool) (m : Nat) (e : Int) : FV :=
  if 0 ≤ e then .rat neg (m * 2 ^ e.toNat) 1 else .rat neg m (2 ^ (-e).toNat)

/-- The sign of a bit pattern. -/
def Fmt.neg (f : Fmt) (v : Nat) : Bool := v / f.signBit % 2 == 1
/-- The mantissa field. -/
def Fmt.mant (f : Fmt) (v : Nat) : Nat := v % 2 ^ f.mb
/-- The exponent field. -/
def Fmt.expo (f : Fmt) (v : Nat) : Nat := v / 2 ^ f.mb % 2 ^ f.eb
/-- R165: a NaN pattern. -/
def Fmt.isNan (f : Fmt) (v : Nat) : Bool :=
  if f.e4m3 then v % 128 == 127 else f.expo v == f.expAll && f.mant v != 0
/-- R165: a subnormal pattern. -/
def Fmt.isSub (f : Fmt) (v : Nat) : Bool := f.expo v == 0 && f.mant v != 0

/-- R171: FTZ on an input or a rounded result. -/
def Fmt.flush (f : Fmt) (ftz : Bool) (v : Nat) : Nat := if ftz && f.isSub v then v / f.signBit % 2 * f.signBit else v

/-- R165: the value of a pattern. -/
def Fmt.value (f : Fmt) (v : Nat) : FV :=
  if f.isNan v then .nan
  else if !f.e4m3 && f.expo v == f.expAll then .inf (f.neg v)
  else if f.expo v = 0 then dyad (f.neg v) (f.mant v) (f.emin - f.mb)
  else dyad (f.neg v) (2 ^ f.mb + f.mant v) ((f.expo v : Int) - f.bias - f.mb)

/-- R169: quieting. -/
def Fmt.quiet (f : Fmt) (v : Nat) : Nat := if f.e4m3 then v else v ||| 2 ^ (f.mb - 1)

/-- R167: rounds a fraction to an integer by mode; neg is the sign of the number. -/
def roundNat (rm : Rm) (neg : Bool) (n d : Nat) : Nat :=
  let q := n / d
  let r := n % d
  let up := match rm with
    | .rne => decide (d < 2 * r) || (2 * r == d && q % 2 == 1)
    | .rtz => false
    | .rup => !neg && r != 0
    | .rdn => neg && r != 0
  if up then q + 1 else q

/-- n / d × 2^k as a fraction. -/
def scaleFrac (n d : Nat) (k : Int) : Nat × Nat := if 0 ≤ k then (n * 2 ^ k.toNat, d) else (n, d * 2 ^ (-k).toNat)

/-- The floor of log2 of a positive fraction. -/
def log2Frac (n d : Nat) : Int :=
  let l : Int := (Nat.log2 n : Int) - Nat.log2 d
  let (a, b) := scaleFrac n d (-l)
  if a < b then l - 1 else l

/-- R168: overflow by mode. -/
def Fmt.overflow (f : Fmt) (rm : Rm) (neg : Bool) : Nat :=
  (if neg then f.signBit else 0) + match rm with
    | .rne => f.infBits
    | .rtz => f.maxFinite
    | .rup => if neg then f.maxFinite else f.infBits
    | .rdn => if neg then f.infBits else f.maxFinite

/-- R167, R168, R171: a value rounded once to a format. -/
def Fmt.round (f : Fmt) (rm : Rm) (ftz : Bool) (v : FV) : Nat :=
  match v with
  | .nan => f.canonNan
  | .inf neg => (if neg then f.signBit else 0) + f.infBits
  | .rat neg n d =>
    let sign := if neg then f.signBit else 0
    if n = 0 then sign
    else
      let q := max (log2Frac n d) f.emin - f.mb
      let (a, b) := scaleFrac n d (-q)
      let k := roundNat rm neg a b
      -- k × 2^q with k at most 2^(mb+1)
      let field := if k < 2 ^ f.mb then k
        else if k < 2 ^ (f.mb + 1) then ((q + f.mb + f.bias).toNat) * 2 ^ f.mb + (k - 2 ^ f.mb)
        else ((q + f.mb + f.bias).toNat + 1) * 2 ^ f.mb
      if f.maxFinite < field then f.overflow rm neg else f.flush ftz (sign + field)

/-- R169, R171, R172, R284: an operation on patterns of one format: the first NaN operand quieted, else the exact result
rounded once, an invalid operation giving the canonical NaN. -/
def Fmt.op (f : Fmt) (rm : Rm) (ftz : Bool) (xs : List Nat) (g : List FV → FV) : Nat :=
  let xs := xs.map (f.flush ftz)
  match xs.find? f.isNan with
  | some v => f.quiet v
  | none => f.round rm ftz (g (xs.map f.value))

/-- The negated value. -/
def FV.negate : FV → FV
  | .nan => .nan
  | .inf s => .inf (!s)
  | .rat s n d => .rat (!s) n d

/-- R170, R172: the exact sum, the sign of an exact zero by mode. -/
def FV.add (rm : Rm) : FV → FV → FV
  | .rat s n d, .rat t m e =>
    let x : Int := (if s then -((n * e : Nat) : Int) else ((n * e : Nat) : Int)) + (if t then -((m * d : Nat) : Int) else ((m * d : Nat) : Int))
    if x = 0 then (if n = 0 ∧ m = 0 ∧ s = t then .rat s 0 1 else .rat (rm == .rdn) 0 1)
    else .rat (decide (x < 0)) x.natAbs (d * e)
  | .inf s, .inf t => if s = t then .inf s else .nan
  | .inf s, .rat _ _ _ => .inf s
  | .rat _ _ _, .inf t => .inf t
  | _, _ => .nan

/-- R172: the exact product. -/
def FV.mul : FV → FV → FV
  | .rat s n d, .rat t m e => .rat (s != t) (n * m) (d * e)
  | .inf s, .inf t => .inf (s != t)
  | .inf s, .rat t m _ => if m = 0 then .nan else .inf (s != t)
  | .rat s n _, .inf t => if n = 0 then .nan else .inf (s != t)
  | _, _ => .nan

/-- R172: the exact quotient. -/
def FV.div : FV → FV → FV
  | .rat s n d, .rat t m e => if m = 0 then (if n = 0 then .nan else .inf (s != t)) else .rat (s != t) (n * e) (d * m)
  | .inf _, .inf _ => .nan
  | .inf s, .rat t _ _ => .inf (s != t)
  | .rat s _ _, .inf t => .rat (s != t) 0 1
  | _, _ => .nan

/-- The integer square root, bit by bit from 2^(k−1) down. -/
def isqrtFrom (n : Nat) : Nat → Nat → Nat
  | 0, r => r
  | k + 1, r => if (r + 2 ^ k) * (r + 2 ^ k) ≤ n then isqrtFrom n k (r + 2 ^ k) else isqrtFrom n k r

/-- The square root; an inexact one is replaced by a fraction between the same two numbers of 64 bits and more. -/
def FV.sqrt : FV → FV
  | .rat s n d =>
    if n = 0 then .rat s 0 1
    else if s then .nan
    else
      let k := 80 + Nat.log2 d
      let x := n * 4 ^ k / d
      let r := isqrtFrom x (Nat.log2 x / 2 + 1) 0
      if r * r * d = n * 4 ^ k then .rat false r (2 ^ k) else .rat false (2 * r + 1) (2 ^ (k + 1))
  | .inf false => .inf false
  | _ => .nan

/-- a + b (R170, R284). -/
def Fmt.add (f : Fmt) (rm : Rm) (ftz : Bool) (a b : Nat) : Nat :=
  f.op rm ftz [a, b] fun l => (l.getD 0 .nan).add rm (l.getD 1 .nan)
/-- a − b is a + (−b) (R170). -/
def Fmt.sub (f : Fmt) (rm : Rm) (ftz : Bool) (a b : Nat) : Nat :=
  f.op rm ftz [a, b] fun l => (l.getD 0 .nan).add rm (l.getD 1 .nan).negate
/-- a × b. -/
def Fmt.mul (f : Fmt) (rm : Rm) (ftz : Bool) (a b : Nat) : Nat :=
  f.op rm ftz [a, b] fun l => (l.getD 0 .nan).mul (l.getD 1 .nan)
/-- a / b. -/
def Fmt.div (f : Fmt) (rm : Rm) (ftz : Bool) (a b : Nat) : Nat :=
  f.op rm ftz [a, b] fun l => (l.getD 0 .nan).div (l.getD 1 .nan)
/-- √a. -/
def Fmt.sqrt (f : Fmt) (rm : Rm) (ftz : Bool) (a : Nat) : Nat :=
  f.op rm ftz [a] fun l => (l.getD 0 .nan).sqrt
/-- a × b + c or a × b − c, rounded once. -/
def Fmt.fma (f : Fmt) (rm : Rm) (ftz minus : Bool) (a b c : Nat) : Nat :=
  f.op rm ftz [a, b, c] fun l =>
    ((l.getD 0 .nan).mul (l.getD 1 .nan)).add rm (if minus then (l.getD 2 .nan).negate else l.getD 2 .nan)

/-- A value below another; −0 below +0 when zeros is true (R170), equal otherwise (R291). -/
def FV.lt (zeros : Bool) : FV → FV → Bool
  | .inf s, .inf t => s && !t
  | .inf s, .rat _ _ _ => s
  | .rat _ _ _, .inf t => !t
  | .rat s n d, .rat t m e =>
    if n = 0 ∧ m = 0 then zeros && s && !t
    else
      let x : Int := if s then -((n * e : Nat) : Int) else ((n * e : Nat) : Int)
      let y : Int := if t then -((m * d : Nat) : Int) else ((m * d : Nat) : Int)
      decide (x < y)
  | _, _ => false

/-- R170: the minimum or maximum of two patterns; a NaN wins by R169. -/
def Fmt.minmax (f : Fmt) (ftz max : Bool) (a b : Nat) : Nat :=
  let a := f.flush ftz a
  let b := f.flush ftz b
  if f.isNan a then f.quiet a else if f.isNan b then f.quiet b
  else if max then (if (f.value a).lt true (f.value b) then b else a)
  else (if (f.value b).lt true (f.value a) then b else a)

/-- R169: a NaN converted to another format. -/
def Fmt.convNan (src dst : Fmt) (v : Nat) : Nat :=
  let sign := if src.neg v then dst.signBit else 0
  if dst.e4m3 then sign + 0x7F
  else
    let m := src.mant v
    let p := if src.mb ≤ dst.mb then m * 2 ^ (dst.mb - src.mb) else m / 2 ^ (src.mb - dst.mb)
    dst.quiet (sign + dst.expAll * 2 ^ dst.mb + p)

/-- R173: float to float. -/
def Fmt.conv (src dst : Fmt) (rm : Rm) (ftz : Bool) (v : Nat) : Nat :=
  let v := src.flush ftz v
  if src.isNan v then src.convNan dst v else dst.round rm ftz (src.value v)

/-- R166: the range of an integer type. -/
def intRange (t : Ty) : Int × Int :=
  let w := t.bytes * 8
  if t.isW then (0, 2 ^ w - 1) else (-(2 ^ (w - 1)), 2 ^ (w - 1) - 1)

/-- R166: saturation. -/
def saturate (t : Ty) (v : Int) : Int := max (intRange t).1 (min (intRange t).2 v)

/-- The integer a pattern of an integer type stands for. -/
def intOf (t : Ty) (v : Nat) : Int :=
  let w := t.bytes * 8
  let v := v % 2 ^ w
  if t.isI && decide (2 ^ (w - 1) ≤ v) then (v : Int) - 2 ^ w else v

/-- The pattern of an integer in w bits. -/
def patOf (w : Nat) (v : Int) : Nat := (v % 2 ^ w).toNat

/-- A value rounded to an integer by mode (R173). -/
def FV.toInt (rm : Rm) : FV → Int
  | .rat s n d => if s then -(roundNat rm true n d : Int) else roundNat rm false n d
  | _ => 0

/-- R173: float to integer. -/
def Fmt.toIntTy (f : Fmt) (rm : Rm) (ftz : Bool) (t : Ty) (v : Nat) : Nat :=
  match f.value (f.flush ftz v) with
  | .nan => 0
  | .inf s => patOf (t.bytes * 8) (if s then (intRange t).1 else (intRange t).2)
  | x => patOf (t.bytes * 8) (saturate t (x.toInt rm))

/-- An integer as an exact value. -/
def FV.ofInt (v : Int) : FV := .rat (decide (v < 0)) v.natAbs 1

/-- R173: integer to float. -/
def Fmt.ofInt (f : Fmt) (rm : Rm) (ftz : Bool) (v : Int) : Nat := f.round rm ftz (FV.ofInt v)

/-- A value times 2^k, exactly. -/
def FV.scale (k : Int) : FV → FV
  | .rat s n d => .rat s (scaleFrac n d k).1 (scaleFrac n d k).2
  | x => x

/-- R174: 64 × the unscaled value of a DS8 byte, −128 to 128. -/
def ds8Int (v : Nat) : Int :=
  let t (s c : Nat) : Int := if c = 0 then 0 else if s = 1 then -(2 ^ (7 - c) : Nat) else (2 ^ (7 - c) : Nat)
  t (v / 128 % 2) (v / 16 % 8) + t (v / 8 % 2) (v % 8)

/-- R179: an FP32 value converted to BX128 with a block exponent; infinities and NaN convert to 0 (R288). -/
def toBx (ftz : Bool) (e : Int) (v : Nat) : Nat := match fp32.value (fp32.flush ftz v) with
  | .rat s n d =>
    let (a, b) := scaleFrac n d (100 - e)
    patOf 128 (if s then -(roundNat .rne s a b : Int) else roundNat .rne s a b)
  | _ => 0

/-- R179: a BX128 value converted to FP32. -/
def ofBx (rm : Rm) (ftz : Bool) (e : Int) (v : Nat) : Nat :=
  let q : Int := if 2 ^ 127 ≤ v then (v : Int) - 2 ^ 128 else v
  fp32.round rm ftz ((FV.ofInt q).scale (e - 100))

end Sys2Proof.Machine
end

