-- ==== Sys2Proof/Machine/Control.lean ====
section
/-! DEFINITION. Registers, branches, fan-out, stamps, messages, notifications and iteration ranges
(spec/11_scalar_control_ops.md R258 to R271). -/

namespace Sys2Proof.Machine

/-- R212, R382: the location of a virtual channel of a task's element, by the load's bed number. -/
def State.placeOf (s : State) (t : TaskRef) (vc : Nat) : Place := match s.loadOf t with
  | some l => ⟨l.beds.idxOf (bedOf t.tile), t.tile % 4, t.elem, vc⟩
  | none => ⟨0, t.tile % 4, t.elem, vc⟩

/-- R268: the channel of an output port of a task, with its number. -/
def State.portChan (s : State) (t : TaskRef) (port : Nat) : Option (Nat × ChanCfg) := match s.loadOf t, s.taskCfg t with
  | some l, some c => match c.ports[port]? with
    | some n => (l.cfg.chans[n]?).map fun h => (n, h)
    | none => none
  | _, _ => none

/-- R270: whether a task belongs to a range operator. -/
def State.inRange (s : State) (t : TaskRef) : Bool := match s.loadOf t, s.taskCfg t with
  | some l, some c => match l.cfg.ops[c.op]? with
    | some o => o.range
    | none => false
  | _, _ => false

/-- R217: the product of a register; a second one makes the block fault BLOCK_FORMAT. -/
def State.produce (s : State) (n : Nat) (p : RegProd) : State := match s.here with
  | none => s
  | some f => match f.regs.find n with
    | some _ => s.fireFault { code := .blockFormat, detail := n }
    | none => (s.modFlight s.cur.task s.cur.which fun f => { f with regs := f.regs.put n p }).fire0

/-- READ (R242, R258): the register file, or the value the previous block has produced; a trapping READ of an empty register
faults EMPTY_READ, any other waits. -/
def execRead (h : Head) (r : BitVec 5) (te : Bool) (s : State) : Host.Outcome State Fault Refusal :=
  let n := r.toNat
  let k := s.task s.cur.task
  match s.operands h false false false, s.here with
  | some _, some f =>
    let file : State :=
      match k.regs[n]? with
      | some x =>
        if x.full || (match x.due with | some (.token q) => s.released s.cur.task q | _ => false) then s.fire1 h x.v
        else if te || f.hdr.trapEmpty then s.fireFault { code := .emptyRead, detail := n }
        else s
      | none => s
    if s.cur.which = 0 then .next file
    else match k.flights with
      | g :: _ =>
        if g.hdr.wmask.getLsbD n then match g.regs.find n with
          | some (.value v) => if v.tok.isNone then .next (s.fire1 h v.v) else .next s
          | some .null => .next file
          | none => .next s
        else .next file
      | [] => .next file
  | _, _ => .next s

/-- WRITE (R259): slot a becomes the product of xN; it takes effect at commit. -/
def execWrite (h : Head) (r : BitVec 5) (s : State) : Host.Outcome State Fault Refusal :=
  match s.operands h true false false with
  | some o => .next (s.produce r.toNat (.value { o.a with ref := none }))
  | none => .next s

/-- R236: store identifier 24 + k stands for a temporary when sh k names one. -/
def Task.sidVt (k : Task) (sid : Nat) : Bool := decide (24 ≤ sid) && (k.sh.getD (sid - 24) 0).getLsbD 508

/-- NUL (R260): a declared register or store identifier without a value. -/
def execNul (h : Head) (store : Bool) (n : BitVec 5) (s : State) : Host.Outcome State Fault Refusal :=
  match s.operands h false false false, s.here with
  | some _, some f =>
    if !store then .next (s.produce n.toNat .null)
    else if decide (24 ≤ n.toNat) && s.cur.which != 0 then .next s
    else if (s.task s.cur.task).sidVt n.toNat then .next s.fire0
    else if decide (n.toNat ∈ f.nulls) || f.stores.any (fun r => r.sid == n.toNat) then
      .next (s.fireFault { code := .blockFormat, detail := n.toNat })
    else .next (s.modFlight s.cur.task s.cur.which fun f => { f with nulls := n.toNat :: f.nulls }).fire0
  | _, _ => .next s

/-- R221, R261: the code size of a task in bytes. -/
def Task.codeSize (k : Task) : Nat := k.code.length * 8

/-- R261: the checks of a branch target. -/
def Task.targetFault (k : Task) (t : Word) : Option Record :=
  if t.toNat % 16 ≠ 0 then some { code := .align, addr := t.toNat }
  else if k.codeSize ≤ t.toNat then some { code := .addrRange, addr := t.toNat }
  else none

/-- R217, R218: a branch fires: a second one faults; the named block is fetched at once. -/
def State.branch (s : State) (n : Next) : State := match s.here with
  | none => s
  | some f => match f.branch with
    | some _ => s.fireFault { code := .blockFormat }
    | none =>
      let s := s.modFlight s.cur.task s.cur.which fun f => { f with branch := some n }
      let s := match n with
        | .block a => s.modTask s.cur.task fun k => { k with fetch := some a }
        | _ => s
      s.fire0

/-- R261: a branch to a computed block address. -/
def State.branchTo (s : State) (t : Word) : State := match (s.task s.cur.task).targetFault t with
  | some r => s.fireFault r
  | none => s.branch (.block t.toNat)

/-- R239: this block's address plus 16 × OFF. -/
def Firing.offset (f : Firing) (off : BitVec 13) : Word := BitVec.ofNat 64 f.addr + off.signExtend 64 * 16

/-- BR (R261). -/
def execBr (h : Head) (off : BitVec 13) (s : State) : Host.Outcome State Fault Refusal :=
  match s.operands h false false false, s.here with
  | some _, some f => .next (s.branchTo (f.offset off))
  | _, _ => .next s

/-- BRX (R261). -/
def execBrx (h : Head) (s : State) : Host.Outcome State Fault Refusal :=
  match s.operands h true false false with
  | some o => .next (s.branchTo o.a.v)
  | none => .next s

/-- RET (R261, R262): checked as BRX. -/
def execRet (h : Head) (s : State) : Host.Outcome State Fault Refusal :=
  match s.operands h true false false with
  | some o => .next (s.branchTo o.a.v)
  | none => .next s

/-- R65: the fault of a read that finds a failing unit. -/
def uncorrectable (unit va : Nat) (acc : Acc) : Record :=
  if isGl unit then { code := .uncorrectable, addr := unit, auxB := va, acc := acc }
  else { code := .uncorrectable, addr := localOffset unit, acc := acc }

/-- R262: the address of the block that follows. -/
def Firing.returnAddr (f : Firing) : Nat := f.addr + (16 + 8 * f.words.length + 15) / 16 * 16

/-- CALL (R261, R262): the branch, and the return address as its result. -/
def execCall (h : Head) (off : BitVec 13) (s : State) : Host.Outcome State Fault Refusal :=
  match s.operands h false false false, s.here with
  | some _, some f =>
    match (s.task s.cur.task).targetFault (f.offset off), f.branch with
    | some r, _ => .next (s.fireFault r)
    | none, some _ => .next (s.fireFault { code := .blockFormat })
    | none, none =>
      let s := s.modFlight s.cur.task s.cur.which fun f => { f with branch := some (.block (f.offset off).toNat) }
      let s := s.modTask s.cur.task fun k => { k with fetch := some (f.offset off).toNat }
      .next (s.fire1 h (BitVec.ofNat 64 f.returnAddr))
  | _, _ => .next s

/-- EXIT (R264): the branch that ends the activation and the task. -/
def execExit (h : Head) (s : State) : Host.Outcome State Fault Refusal :=
  match s.operands h false false false with
  | some _ => .next (s.branch .exit)
  | none => .next s

/-- YIELD (R264): the branch that ends the activation. -/
def execYield (h : Head) (s : State) : Host.Outcome State Fault Refusal :=
  match s.operands h false false false with
  | some _ => .next (s.branch .yield)
  | none => .next s

/-- FAN (R265): slot a to targets 0, 1, 2 and 3. -/
def execFan (h : Head) (t2 : Target) (t3 : Option Target) (s : State) : Host.Outcome State Fault Refusal :=
  match s.operands h true false false with
  | some o =>
    let s := s.modFlight s.cur.task s.cur.which fun f => (f.send (some t2) o.a).send t3 o.a
    .next (s.fire h o.a o.a)
  | none => .next s

/-- R266: a coordinate of a stamp. -/
def Stamp.coord (t : Stamp) (k : Nat) : Nat :=
  if t.depth < k then 0 else if k = 0 then t.c0 else if k = 1 then t.c1 else if k = 2 then t.c2 else t.c3

/-- STAMP (R266). -/
def execStamp (h : Head) (k : BitVec 2) (s : State) : Host.Outcome State Fault Refusal :=
  match s.operands h false false false with
  | some _ => .next (s.fire1 h (BitVec.ofNat 64 ((s.task s.cur.task).stamp.coord k.toNat)))
  | none => .next s

/-- R267: a loop instruction takes effect on the send stamp at commit. -/
def execStampOp (h : Head) (op : StampOp) (s : State) : Host.Outcome State Fault Refusal :=
  match s.operands h false false false with
  | some _ => .next (s.atCommit (.stamp op)).fire0
  | none => .next s

/-- LPIN (R267). -/
def execLpin (h : Head) (s : State) : Host.Outcome State Fault Refusal := execStampOp h .inn s
/-- LPNEXT (R267). -/
def execLpnext (h : Head) (s : State) : Host.Outcome State Fault Refusal := execStampOp h .next s
/-- LPOUT (R267). -/
def execLpout (h : Head) (s : State) : Host.Outcome State Fault Refusal := execStampOp h .out s

/-- R268: a send fires: the port and the payload length are checked; the message leaves at commit. -/
def State.sendOut (s : State) (port : Nat) (payload : List Byte) : State :=
  match s.portChan s.cur.task port with
  | none => s.fireFault { code := .addrRange, detail := port }
  | some (_, ch) =>
    if ch.size < payload.length then s.fireFault { code := .addrRange, detail := port }
    else (s.atCommit (.send port payload)).fire0

/-- SEND (R268). -/
def execSend (h : Head) (port : BitVec 5) (s : State) : Host.Outcome State Fault Refusal :=
  match s.operandsStore h true false false with
  | some o => .next (s.sendOut port.toNat (bytesOfNat 8 o.a.v.toNat))
  | none => .next s

/-- MSG (R268). -/
def execMsg (h : Head) (port : BitVec 5) (s : State) : Host.Outcome State Fault Refusal :=
  match s.operandsStore h true true false with
  | some o => .next (s.sendOut port.toNat (bytesOfNat 8 o.a.v.toNat ++ bytesOfNat 8 o.b.v.toNat))
  | none => .next s

/-- SENDS (R268): the payload is read from ls when the instruction fires, in the order of R268's cases. -/
def execSends (h : Head) (port : BitVec 5) (s : State) : Host.Outcome State Fault Refusal :=
  match s.operandsRead h true true false with
  | none => .next s
  | some o =>
    let n := o.b.v.toNat
    match s.portChan s.cur.task port.toNat with
    | none => .next (s.fireFault { code := .addrRange, detail := port.toNat })
    | some (_, ch) =>
      if ch.size < n ∨ n = 0 ∨ 256 < n then .next (s.fireFault { code := .addrRange, detail := port.toNat })
      else match checkLocal .ls s.cur.task.tile s.cur.task.elem o.a.v n 1 .read with
        | .ok key _ =>
          let ser := match s.here with
            | some f => f.serial
            | none => 0
          if s.behindWrite s.cur.task ser (keysOf key n) || !s.clearOfPrevious s.cur.task s.cur.which (keysOf key n)
              || !s.orderOk false then .next s
          else match s.badIn key n with
            | some u => .next (s.fireFault (uncorrectable u o.a.v.toNat .read))
            | none => .next ((s.atCommit (.send port.toNat (s.bytes key n))).fire0)
        | .bad x => .next (s.fireFault (x.record .read o.a.v.toNat))
        | .miss _ => .next s

/-- NOTIFY (R269): the channel must be bound to a task of the element; the request enters the batch at commit. -/
def execNotify (h : Head) (vc : BitVec 5) (s : State) : Host.Outcome State Fault Refusal :=
  match s.operandsStore h false false false with
  | none => .next s
  | some _ =>
    let p := s.placeOf s.cur.task vc.toNat
    let bound := match s.loadOf s.cur.task with
      | some l => l.cfg.chans.any fun c => c.place == p
      | none => false
    if bound then .next (s.atCommit (.notify vc.toNat)).fire0
    else .next (s.fireFault { code := .addrRange, detail := vc.toNat })

/-- RNEXT (R270): a draw from the operator's interval, served by a step of its own. -/
def execRnext (h : Head) (s : State) : Host.Outcome State Fault Refusal :=
  match s.operandsStore h false false false with
  | none => .next s
  | some _ =>
    if !s.inRange s.cur.task then .next (s.fireFault { code := .perm })
    else
      let (id, s) := s.sendReq .rnext 0 0 none
      .next (s.post (.rnextServe id))

/-- RSPLIT (R271): the cut of the element's sub-interval, at commit. -/
def execRsplit (h : Head) (s : State) : Host.Outcome State Fault Refusal :=
  match s.operandsStore h true false false with
  | none => .next s
  | some o =>
    if !s.inRange s.cur.task then .next (s.fireFault { code := .perm })
    else .next (s.atCommit (.rsplit o.a.v)).fire0

/-- ILLG (R369): its block faults ILLEGAL_OP; nothing of it fires. -/
def execIllg (s : State) : Host.Outcome State Fault Refusal := .next (s.faultHere { code := .illegalOp })

end Sys2Proof.Machine
end

