-- ==== Sys2Proof/Machine/Snap.lean ====
section
/-! DEFINITION. The snapshot instructions SNAP, SNACC, SNREJ and SNQRY (spec/04_snapshots.md, spec/13_memory_sync_ops.md R325 to R327).
What they do to a line stands in Lines.lean. -/

namespace Sys2Proof.Machine

/-- R102: the range-table slot of a handle, if it is valid. -/
def Ctx.rangeOf (c : Ctx) (h : Word) : Option (Nat × Range) :=
  if 2 ^ 37 ≤ h.toNat then none
  else match c.ranges.find (h.toNat % 32) with
    | some r => if r.handle (h.toNat % 32) = h.toNat then some (h.toNat % 32, r) else none
    | none => none

/-- Posts the background settlement of every line with a shadow whose owner is not open (R113). -/
def State.settleSoon (s : State) (ctx : Nat) : State :=
  let lines := (s.shadows.filter fun h => h.ctx == ctx && !(s.ctx ctx).epochOpen h.owner).map (·.line)
  s.postAll (lines.eraseDups.map Work.settleBackground)

/-- R99, R110: the checks of SNAP before a value is taken, in order: the new range's parent and depth, or the fault. -/
def Ctx.snapCheck (c : Ctx) (base len : Nat) : Except (FCode × Nat) (Option (Nat × Range)) :=
  if 2 ^ 56 ≤ base then .error (.addrRange, 7)
  else if base % 2 ^ 16 ≠ 0 then .error (.align, 0)
  else if len % 2 ^ 16 ≠ 0 ∨ len < 2 ^ 16 ∨ 2 ^ 40 < len ∨ 2 ^ 56 < base + len then .error (.addrRange, 7)
  else if c.snapw.toNat / 2 ^ 63 = 0 then .error (.snapDepth, 2)
  else
    let b := base / 2 ^ 16
    let n := len / 2 ^ 16
    let hits := c.ranges.filter fun r => decide (r.2.base < b + n) && decide (b < r.2.base + r.2.len)
    if hits.any fun r => !(decide (r.2.base ≤ b) && decide (b + n ≤ r.2.base + r.2.len)) then .error (.snapDepth, 1)
    else
      let inner := hits.foldl (fun (x : Option (Nat × Range)) r => match x with
        | some y => if y.2.depth < r.2.depth then some r else x
        | none => some r) none
      match inner with
      | some p => if 3 ≤ p.2.depth then .error (.snapDepth, 0) else if 32 ≤ c.ranges.length then .error (.snapDepth, 2) else .ok (some p)
      | none => if 32 ≤ c.ranges.length then .error (.snapDepth, 2) else .ok none

/-- R103: the lowest free epoch value. -/
def Ctx.freeEpoch (c : Ctx) : Option Nat := ((List.range 255).map (· + 1)).find? fun e => match c.epochs.find e with
  | some x => x.state == .free
  | none => true
/-- R101, R325: a free slot of the range table; neither rule says which of several, the model takes the lowest (log 46). DESIGN CHOICE. -/
def Ctx.freeRange (c : Ctx) : Nat := ((List.range 32).find? fun n => (c.ranges.find n).isNone).getD 0

/-- R325: reserves a range-table slot and an epoch, and gives the handle. -/
def Ctx.reserve (c : Ctx) (base len e : Nat) (parent : Option (Nat × Range)) : Nat × Ctx :=
  let slot := c.freeRange
  let gen := (c.gens.get slot 0 + 1) % 2 ^ 32
  let r : Range := match parent with
    | some p => ⟨p.2.depth + 1, some p.1, e, true, base / 2 ^ 16, len / 2 ^ 16, gen⟩
    | none => ⟨0, none, e, true, base / 2 ^ 16, len / 2 ^ 16, gen⟩
  let up := match parent with
    | some p => p.2.epoch
    | none => 0
  (r.handle slot, { c with ranges := c.ranges.put slot r, gens := c.gens.put slot gen, epochs := c.epochs.put e ⟨.held, up, 0⟩ })

/-- The operands of an instruction that acts outside its block before commit and is no access: the previous block has
committed, and a value has arrived at slot p (R230, R301). -/
def State.operandsAfter (s : State) (h : Head) (ua ub uc : Bool) : Option Opnds :=
  if s.cur.which = 0 then s.operandsStore h ua ub uc else none

/-- R129 for SNAP, SNACC and SNREJ: the token at slot p is released, but for stores of the block itself, which no commit has issued yet. -/
def State.snapFree (s : State) (v : SlotVal) : Bool := match v.tok, s.here with
  | some k, some f => s.released s.cur.task { k with refs := k.refs.filter fun r => !(r.store && r.serial == f.serial) }
  | _, _ => true

/-- The operands of SNAP, SNACC and SNREJ: ordered after what the token at slot p waits for (R116, R117, R129). -/
def State.operandsSnap (s : State) (h : Head) (ua ub : Bool) : Option Opnds := match s.operandsAfter h ua ub false with
  | some o => if s.snapFree o.p then some o else none
  | none => none

/-- A replayed instruction answers from its entry (R302). -/
def State.answerReplay (s : State) (h : Head) (r : Replay) (store : Bool) : State :=
  s.fire h ⟨r.r0, s.refHere store, none⟩ ⟨r.r1, s.refHere store, none⟩

/-- A replayed instruction completes at once: its entry is made and its results go out (R301). -/
def State.completeReplay (s : State) (h : Head) (r0 r1 : Word) : State :=
  (s.keepReplay s.cur.task { idx := s.cur.idx, r0 := r0, r1 := r1 }).fire1 h r0

/-- SNAP (R325). -/
def execSnap (h : Head) (s : State) : Host.Outcome State Fault Refusal :=
  match s.operandsSnap h true true with
  | none => .next s
  | some o => match s.replayHere with
    | some r => .next ((s.atCommit (.snapOpen r.r0.toNat)).answerReplay h r false)
    | none =>
      let n := (s.task s.cur.task).ctx
      match (s.ctx n).snapCheck o.a.v.toNat o.b.v.toNat with
      | .error x => .next (s.fireFault { code := x.1, cause := x.2, addr := o.a.v.toNat })
      | .ok parent => match (s.ctx n).freeEpoch with
        | none => .next s
        | some e =>
          let x := (s.ctx n).reserve o.a.v.toNat o.b.v.toNat e parent
          let s := (s.modCtx n fun _ => x.2).atCommit (.snapOpen x.1)
          .next (s.completeReplay h (BitVec.ofNat 64 x.1) (BitVec.ofNat 64 x.1))

/-- R325: a held snapshot opens at its block's commit. -/
def Ctx.openHeld (c : Ctx) (h : Nat) : Ctx := match c.rangeOf (BitVec.ofNat 64 h) with
  | some (slot, r) =>
    if r.held then
      { c with
        ranges := c.ranges.put slot { r with held := false }
        epochs := c.epochs.map fun e => if e.1 = r.epoch then (e.1, { e.2 with state := EpState.opened }) else e }
    else c
  | none => c

/-- R325: the reservation of a killed task's SNAP is released. What then becomes of a snapshot that another task has nested in it is not said
(R109, R325): it stays as it is and counts as nested in the next one outside, its DEPTH unchanged; the released epoch retires (log 27).
DESIGN CHOICE. -/
def Ctx.dropHeld (c : Ctx) (h : Nat) : Ctx := match c.rangeOf (BitVec.ofNat 64 h) with
  | some (slot, r) =>
    if r.held then
      ({ c with
        ranges := (c.ranges.erase slot).map fun x => (x.1, if x.2.parent = some slot then { x.2 with parent := r.parent } else x.2)
        epochs := c.epochs.map fun e => if e.1 = r.epoch then (e.1, { e.2 with state := EpState.retiring }) else e } : Ctx).sweep 255
    else c
  | none => c

/-- R111: accepts an open snapshot. -/
def Ctx.accept (c : Ctx) (slot : Nat) (r : Range) : Ctx :=
  ({ c with
    ranges := c.ranges.erase slot
    epochs := c.epochs.map fun e =>
      if e.1 = r.epoch then (e.1, { e.2 with state := if r.parent.isSome then EpState.merging else .retiring }) else e } : Ctx).sweep 255

/-- R112: a range lies in a slot's snapshot or in one nested in it; a chain is at most 4 long. -/
def Ctx.within (c : Ctx) (slot : Nat) : Nat → Nat → Bool
  | 0, _ => false
  | n + 1, k => k == slot || match c.ranges.find k with
    | some r => match r.parent with
      | some p => Ctx.within c slot n p
      | none => false
    | none => false

/-- R112: rejects an open snapshot and every one nested in it. -/
def Ctx.reject (c : Ctx) (slot : Nat) : Ctx :=
  let gone := (c.ranges.filter fun r => c.within slot 5 r.1)
  ({ c with
    ranges := c.ranges.filter fun r => !c.within slot 5 r.1
    epochs := c.epochs.map fun e =>
      if gone.any (fun r => r.2.epoch == e.1) then (e.1, { e.2 with state := EpState.rejecting }) else e } : Ctx).sweep 255

/-- SNACC (R326). -/
def execSnacc (h : Head) (s : State) : Host.Outcome State Fault Refusal :=
  match s.operandsSnap h true false with
  | none => .next s
  | some o => match s.replayHere with
    | some r => .next (s.answerReplay h r false)
    | none =>
      let n := (s.task s.cur.task).ctx
      match (s.ctx n).rangeOf o.a.v with
      | some (slot, r) =>
        if r.held then .next (s.fireFault { code := .snapDepth, cause := 3 })
        else if (s.ctx n).ranges.any fun x => x.2.parent == some slot then .next (s.fireFault { code := .snapDepth, cause := 4 })
        else .next (((s.modCtx n fun c => c.accept slot r).settleSoon n).completeReplay h 0 0)
      | none => .next (s.fireFault { code := .snapDepth, cause := 3 })

/-- SNREJ (R326). -/
def execSnrej (h : Head) (s : State) : Host.Outcome State Fault Refusal :=
  match s.operandsSnap h true false with
  | none => .next s
  | some o => match s.replayHere with
    | some r => .next (s.answerReplay h r false)
    | none =>
      let n := (s.task s.cur.task).ctx
      match (s.ctx n).rangeOf o.a.v with
      | some (slot, r) =>
        if r.held then .next (s.fireFault { code := .snapDepth, cause := 3 })
        else .next (((s.modCtx n fun c => c.reject slot).settleSoon n).completeReplay h 0 0)
      | none => .next (s.fireFault { code := .snapDepth, cause := 3 })

/-- R123: the SNQRY word. -/
def State.snapWord (s : State) (ctx : Nat) (h : Word) : Word :=
  let c := s.ctx ctx
  let free (d : Nat) : Nat := c.poolSlots - (s.shadows.filter fun x => x.ctx == ctx && homeDie x.line == d).length
  let best := (List.range 12).foldl (fun (b : Nat) d => if free d < free b then d else b) 0
  let pend := min ((s.shadows.filter fun x => x.ctx == ctx).length) 0xFFFFFF
  let low := free best * 2 ^ 28 + best * 2 ^ 24 + pend
  match c.rangeOf h with
  | some (_, r) => BitVec.ofNat 64 (if r.held then low else 2 ^ 61 + r.depth * 2 ^ 59 + r.epoch * 2 ^ 51 + low)
  | none => BitVec.ofNat 64 low

/-- SNQRY (R327). -/
def execSnqry (h : Head) (s : State) : Host.Outcome State Fault Refusal :=
  match s.operands h true false false with
  | some o => .next (s.fire1 h (s.snapWord (s.task s.cur.task).ctx o.a.v))
  | none => .next s

/-- SETTLE_BACKGROUND (R113). -/
def execSettleBackground (s : State) : Host.Outcome State Fault Refusal :=
  match s.cur.work with
  | some (.settleBackground line) => .next (s.settleBack line)
  | _ => .next s

end Sys2Proof.Machine
end

