-- ==== Sys2Proof/Machine/Home.lean ====
section
/-! DEFINITION. What a home does (spec/02_storage_levels.md R53 to R63, spec/03_memory_side_agents.md R69 to R91): the L2, the
host-line cache, stores, reads and atomics, list operations, structure memory and WENQ, and the delivery of their answers. -/

namespace Sys2Proof.Machine

/-! Answers. -/

/-- R95: what a record's second member receives. -/
def combineSecond (f size : Nat) (x v : Nat) : Nat :=
  let m := 2 ^ (8 * size)
  let sg (a : Nat) : Int := (BitVec.ofNat (8 * size) a).toInt
  if f = 0 then (x + v) % m
  else if f = 1 then (if sg v < sg x then v else x)
  else if f = 2 then (if sg x < sg v then v else x)
  else if f = 3 then min x v
  else if f = 4 then max x v
  else if f = 5 then x &&& v
  else if f = 6 then x ||| v
  else if f = 7 then x ^^^ v
  else v

/-- R79: the entry of an operation that has completed holds its result. -/
def State.entryDone (s : State) (id : Nat) (a : Answer) : State :=
  { s with replies := s.replies.map fun e => if e.req = id ∧ e.done.isNone then { e with done := some a } else e }

/-- An operation is performed: its answer stands, and its result goes back; at a combine record the reply splits (R95), the
chain of records being at most as long as the list. -/
def State.answer (s : State) (id : Nat) (a : Answer) : Nat → State
  | 0 => s
  | n + 1 => match s.combines.find? fun c => c.merged == id, s.req id with
    | some c, some r =>
      let s := { s with combines := s.combines.filter fun x => decide (x ≠ c), reqs := s.reqs.filter fun q => decide (q.id ≠ id) }
      let f := match r.op with
        | .atomic f size _ _ _ _ _ => (f, size)
        | _ => (0, 16)
      let second : Answer :=
        if a.r1 ≠ 0 ∨ a.fail.isSome then a
        else
          let x := a.r0.toNat + (match a.olds with | w :: _ => w.toNat * 2 ^ 64 | [] => 0)
          let y := combineSecond f.1 f.2 x c.v
          if f.2 = 16 then { a with r0 := BitVec.ofNat 64 y, olds := [BitVec.ofNat 64 (y / 2 ^ 64)] } else { a with r0 := BitVec.ofNat 64 y }
      State.answer (State.answer (s.entryDone id a) c.first a n) c.second second n
    | _, some r =>
      if r.answer.isSome then s
      else
        (({ s with reqs := s.reqs.map fun q => if q.id = id then { q with answer := some a, held := false } else q } : State).entryDone id a).post
          (.longLatencyResult id)
    | _, none => s

/-- An operation ends with an answer. -/
def State.finish (s : State) (id : Nat) (a : Answer) : State := s.answer id a (s.combines.length + 1)

/-- R453, R455: the reply of a request over a link returns on the plane that carried the request it answers; on a disabled one it is lost. -/
def State.replyOk (s : State) (r : Req) : Bool := !(r.link.isSome && s.remote r.loc && decide (planeOf r.loc r.via ∈ s.ports.disabled))

/-- R78, R453: two requests over links that one sender unit has made to one line of one package. -/
def Req.sameStream (q r : Req) : Bool := lineOf q.loc == lineOf r.loc && match q.link, r.link with
  | some a, some b => a.package == b.package && a.unit == b.unit
  | _, _ => false

/-- R453: the reply of a request that the unit issued earlier to the line has still to come back on the same plane. -/
def State.replyBefore (s : State) (r : Req) : Bool := s.remote r.loc && !r.back && s.reqs.any fun q =>
  q.id != r.id && q.answer.isSome && !q.back && decide (q.sent < r.sent) && q.sameStream r && q.via % 48 == r.via % 48
    && !(s.packets.any fun p => p.payload == .reply q.id)

/-- An operation is performed at its home, which answers it; a reply-table entry keeps an answer whose reply is lost (R79). -/
def State.reply (s : State) (id : Nat) (a : Answer) : State := match s.req id with
  | some r => if s.replyOk r then s.finish id a else s.entryDone id a
  | none => s.finish id a

/-- The fault an operation answers. -/
def failWith (r : Record) : Answer := { fail := some r }

/-- The tile whose access a request is (R368). -/
def Req.tileOf (r : Req) : Option Nat := match r.task, r.eng with
  | some t, _ => some t.tile
  | none, some e => some e.1
  | none, none => none

/-- R432: the result of an operation that a home performs for a tile goes back to it over the mesh. A store's acknowledgement is not told apart
from its performing (log 15). DESIGN CHOICE. -/
def Req.travels (r : Req) : Bool := r.tileOf.isSome && r.event && !r.isStore && isGl r.loc && match r.op with
  | .achase _ _ hops => decide (0 < hops)
  | _ => true

/-- An operation's answer has come to the one that asked. -/
def Req.returned (r : Req) : Bool := r.answer.isSome && (r.back || !r.travels)

/-! The order in which a task's operations are performed. -/

/-- R131: an access of an earlier block, or a read of the same block, still has these bytes before a write. -/
def State.behindAccess (s : State) (r : Req) : Bool :=
  r.task.isSome && s.reqs.any fun q => q.task == r.task && q.id != r.id && q.answer.isNone && meets q.keys r.keys
    && (decide (q.serial < r.serial) || (decide (q.serial = r.serial) && match q.op with | .store _ => false | _ => match r.op with | .store _ => true | _ => false))

/-- R132: a lower-numbered operation of the waved task is still to be performed. -/
def State.behindWave (s : State) (r : Req) : Bool :=
  r.task.isSome && r.order != 0 && s.reqs.any fun q => q.id != r.id && q.waveBefore r.task r.act r.serial r.order r.isStore

/-- Whether the order of its task lets an operation be performed now. What happens before a synchronising operation (R137) is performed by
then: its token is released, overlapping and lower-numbered accesses are done, and the reads and RMWs of earlier blocks came before their commits. -/
def State.inOrder (s : State) (r : Req) : Bool :=
  (match r.task, r.wait with
    | some t, some k => s.released t k
    | _, _ => true)
  && !s.behindAccess r && !s.behindWave r

/-- R85: readers in the pool of a word's agent. -/
def State.poolUsed (s : State) (pa : Nat) : Nat :=
  s.words.foldl (fun n w => match w.2 with
    | .deferred l => if homeAgent w.1 = homeAgent pa ∧ paPackage w.1 = paPackage pa then n + l.length else n
    | .full _ => n) 0

/-- R91: a WENQ that the agent is at work on. -/
def Req.wenqBusy (r : Req) : Bool := r.answer.isNone && match r.op with
  | .wenq _ _ go => r.held || go.isSome
  | _ => false

/-- R69: an operation that has come to its home and holds up what comes to its line after it: one that its task's order lets be performed, and
that waits for its turn. A reader on a word's list (R84) or for the pool (R85), a WENQ at a full ring or behind another (R91), a chase between
two nodes (R75), and an access whose service has begun (R48) hold up nothing. -/
def State.holdsLine (s : State) (q : Req) : Bool :=
  q.arrived != 0 && q.came == 0 && q.answer.isNone && !q.held && s.inOrder q && match q.op with
    | .achase _ _ _ | .legs _ _ _ => false
    | .lds wait => !wait || decide (s.poolUsed q.loc < 8192) && !(s.words.any fun w => match w.2 with
      | .deferred l => decide (q.id ∈ l)
      | .full _ => false)
    | .wenq _ _ go => go.isSome || !(s.reqs.any fun x => x.wenqBusy && x.loc == q.loc && x.id != q.id)
    | _ => true

/-- R69, R74: requests to one line are served in the order in which they came to its home; while an AENQ or a WENQ waits for an
acknowledgement, all others wait behind it. -/
def State.lineBefore (s : State) (r : Req) : Bool := match r.use with
  | none => false
  | some u => r.arrived != 0 && s.reqs.any fun q => q.id != r.id && match q.op with
    | .legs home _ _ => q.answer.isNone && lineOf home == u.line
    | _ => decide (q.arrived < r.arrived) && q.use.any (fun w => w.line == u.line) && s.holdsLine q

/-- Whether an operation may be performed now. -/
def State.mayPerform (s : State) (r : Req) : Bool := s.inOrder r && !s.lineBefore r

/-! Reads and stores. -/

/-- R65: the fault of an operation that must read failing units. -/
def State.readFault (s : State) (r : Req) (n : Nat) (acc : Acc) : Option Record := match s.badIn r.loc n with
  | some u => some { uncorrectable u r.va acc with link := r.link.isSome }
  | none => none

/-- R304: the value of a read of n bytes. -/
def readValue (n : Nat) (sx : Bool) (v : Nat) : Word := if sx then (BitVec.ofNat (8 * n) v).signExtend 64 else BitVec.ofNat 64 v

/-- The bytes a task's read takes: in a waved task the store buffer forwards (R132). -/
def State.readFor (s : State) (r : Req) (key : Nat) : Byte := match r.task with
  | some t =>
    let which := (s.task t).flights.findIdx fun f => f.serial == r.serial
    s.readByte t which r.idx key
  | none => s.byte key

/-- n bytes as a task's read takes them. -/
def State.readNum (s : State) (r : Req) (key n : Nat) : Nat := natOfBytes ((keysOf key n).map (s.readFor r))

/-- R48: the aligned 8-byte parts that keys lie in. -/
def partsOf (keys : List Nat) : List Nat := (keys.map (· / 8)).eraseDups

/-- R48: the part of an access that takes effect next: any of those that are left. -/
def State.nextPart (s : State) (keys : List Nat) : Nat :=
  let l := partsOf keys
  l.getD (Config.freeNat s.tick % l.length) 0

/-- R131: two stores of one block to overlapping bytes that no token orders take either order byte by byte: while this one is performed,
a byte of the other may be taken for the earlier one, which then leaves nothing to see. Only a store that may itself be performed by now can be
the earlier one: not one that waits for a token (R129), be it this store's or that of a store still to come. -/
def State.passSiblings (s : State) (r : Req) (keys : List Nat) : State :=
  let behind (q : Req) : Bool := q.task == r.task && q.task.isSome && q.serial == r.serial && q.id != r.id && q.idx != r.idx && q.order == 0
    && s.inOrder q
  let later (c : Nat × Byte) : Bool := decide (c.1 ∈ keys) && Config.freeBit s.tick c.1
  { s with reqs := s.reqs.map fun q => match q.op with
      | .store b => if behind q then { q with op := .store (b.filter fun c => !later c), got := q.got ++ b.filter later } else q
      | _ => q }

/-- R105: the push of a write to a line before the write, the line settled; none where the pool has no slot. -/
def State.pushedFor (s : State) (r : Req) : Option State := match r.use with
  | some u => (s.prepare u).push u.line r.ctx u.epoch
  | none => some s

/-- R125, R65: bytes of a store are accepted by their home; a unit that the store has wholly written by now becomes good. -/
def State.storeBytes (s : State) (r : Req) (bytes : List (Nat × Byte)) : State :=
  ((s.passSiblings r (bytes.map (·.1))).commitBytes bytes).madeGood (r.got ++ bytes)

/-- R135, R456: a store has been performed: within the package its home has acknowledged it; over a link the acknowledgement is a reply. -/
def State.stored (s : State) (r : Req) : State := if r.link.isSome then s.reply r.id {} else s.dropReq r.id

/-- A store at its home: a local one whole, at its block's commit (R49); one of global memory by its 8-byte parts, one a step, in any
order (R48). It modifies its line only once its push has found a slot (R105): an engine's line without one ends the command (R108), and a
committed store, which had its slot at the commit and has lost it to a later snapshot, waits for one (log 17). DESIGN CHOICE. -/
def State.performStore (s : State) (r : Req) (bytes : List (Nat × Byte)) : State :=
  match s.pushedFor r, r.use with
  | none, some u => if r.eng.isSome then s.finish r.id (failWith (s.exhausted u.line r.ctx u.epoch r.va .write)) else s.post (.l2Access r.id)
  | none, none => s
  | some s, none => (s.storeBytes r bytes).dropReq r.id
  | some s, some _ =>
    let n := s.nextPart (bytes.map (·.1))
    let now := bytes.filter fun c => c.1 / 8 == n
    let rest := bytes.filter fun c => c.1 / 8 != n
    let s := s.storeBytes r now
    if rest.isEmpty then s.stored r else (s.modReq r.id fun q => { q with op := .store rest, got := q.got ++ now }).post (.l2Access r.id)

/-- R48: a read of more than one 8-byte part reads one of them a step, in any order; the last one completes it. -/
def State.readPart (s : State) (r : Req) (keys : List Nat) (done : List (Nat × Byte) → Answer) : State :=
  let left := keys.filter fun k => !(r.got.any fun c => c.1 == k)
  let n := s.nextPart left
  let got := r.got ++ (left.filter fun k => k / 8 == n).map fun k => (k, s.readFor r k)
  if left.all fun k => k / 8 == n then (s.modReq r.id fun q => { q with got := got }).reply r.id (done got)
  else (s.modReq r.id fun q => { q with got := got }).post (.l2Access r.id)

/-- A number from cells read, little-endian from a key up. -/
def numOfCells (l : List (Nat × Byte)) (key n : Nat) : Nat := natOfBytes ((keysOf key n).map fun k => (Table.find l k).getD 0)

/-- R10: writes to the payloads of the messages that the task's activation holds; bytes beyond a payload's length are discarded. -/
def State.putChan (s : State) (t : TaskRef) (l : List (Nat × Nat × Byte)) : State :=
  let put (m : Msg) (w : Nat × Nat × Byte) : Msg :=
    if w.1 = m.vc then { m with payload := listMod m.payload w.2.1 fun _ => w.2.2 } else m
  s.modTask t fun k => { k with act := k.act.map fun (a : Activation) => { a with msgs := a.msgs.map fun m => l.foldl put m } }

/-- R10, R230: a committed write to a payload whose token has been released, while its activation lasts. -/
def State.writeChan (s : State) (r : Req) (l : List (Nat × Nat × Byte)) : State := match r.task with
  | some t => if (s.task t).acts = r.act then s.putChan t l else s
  | none => s

/-- R57, R306: an access is performed at its home; a read of several elements answers the failing units it meets (R65). -/
def State.performAccess (s : State) (r : Req) : State :=
  let s := match r.use with
    | some u => s.prepare u
    | none => s
  match r.op with
  | .load n sx => match s.readFault r n .read with
    | some f => s.reply r.id (failWith f)
    | none =>
      let v := readValue n sx (s.readNum r r.loc n)
      s.reply r.id { r0 := v, r1 := v }
  | .pair => match s.readFault r 16 .read with
    | some f => s.reply r.id (failWith f)
    | none => s.readPart r (keysOf r.loc 16) fun l => { r0 := BitVec.ofNat 64 (numOfCells l r.loc 8), r1 := BitVec.ofNat 64 (numOfCells l (r.loc + 8) 8) }
  | .vload keys => match (keys.filterMap fun k => s.badIn k 1).eraseDups with
    | [] => s.readPart r keys fun _ => {}
    | bad => s.reply r.id { olds := bad.map (BitVec.ofNat 64) }
  | .chwrite b => (s.writeChan r b).dropReq r.id
  | .store b => s.performStore r b
  | .flush =>
    let s := if s.held r.loc then (s.writeBack (lineOf r.loc)).modFrame (lineOf r.loc) fun f => { f with st := if f.st = 2 then 1 else f.st } else s
    let s := (List.range 32).foldl (fun (s : State) i =>
      let l := lineOf r.loc / 64 + i
      if l ∈ s.hostLines then { s with mem := (s.mem.drop (l * 64) 64).writeAll (s.hostmem.slice (l * 64) 64) } else s) s
    s.reply r.id {}
  | .inval =>
    let s := s.dropLine (lineOf r.loc)
    let s := (List.range 32).foldl (fun (s : State) i => s.hostDrop (lineOf r.loc / 64 + i)) s
    s.reply r.id {}
  | _ => s

/-- R56: the stores of a request's block that are still to be performed, or the one line write of an engine, cover a line. -/
def State.coversLine (s : State) (r : Req) (line : Nat) : Bool :=
  let cells := s.reqs.flatMap fun q => match q.op with
    | .store b => if q.id = r.id ∨ q.task = r.task ∧ r.task.isSome ∧ q.serial = r.serial then b.filter fun c => lineOf c.1 == line else []
    | _ => []
  decide (2048 ≤ cells.length) && (List.range 2048).all fun i => cells.any fun c => c.1 == line + i

/-- R56: a whole-line write allocates without a fill; a cache-control operation allocates nothing. -/
def State.fillsFor (s : State) (r : Req) : Bool := match r.op with
  | .store _ => !r.use.any fun u => s.coversLine r u.line
  | .flush | .inval => false
  | _ => true

/-- R60: the 64-byte lines of host memory that a request takes enter the host-line cache. -/
def State.hostFillFor (s : State) (r : Req) : State := ((r.keys.map fun k => k / 64 * 64).eraseDups).foldl State.hostFill s

/-- L2_ACCESS (R57): served from the line or from HBM, or held while the line is filled. An access of several 8-byte parts meets its line with
the first of them (R56). -/
def execL2Access (s : State) : Host.Outcome State Fault Refusal :=
  match s.cur.work with
  | some (.l2Access id) => match s.req id with
    | none => .next s
    | some r =>
      if r.answer.isSome then .next s
      else if !s.mayPerform r then .next (s.post (.l2Access id))
      else match r.use with
        | none => .next (s.performAccess r)
        | some u =>
          let s := if r.came = 0 then
              (match r.tileOf with
                | some n => s.countL2 n u
                | none => s).modReq id fun q => { q with came := s.tick + 1 }
            else s
          if s.filling u.line then .next (s.modReq id fun q => { q with held := true, came := s.tick + 1 })
          else if s.allocates u && r.op != .flush && r.op != .inval then
            if s.fillsFor r then .next ((s.modReq id fun q => { q with held := true, came := s.tick + 1 }).post (.l2FillComplete u.line))
            else .next (((s.prepare u).allocate u r.ctx).performAccess r)
          else if u.mtype = 4 then .next ((s.hostFillFor r).performAccess r)
          else .next ((if r.came = 0 then s.hit u else s).performAccess r)
  | _ => .next s

/-! Atomics (R70 to R73). -/

/-- R70: the new value of a single-word operation: 0 add, 1 and 2 signed, 3 and 4 unsigned minimum and maximum, 5 to 7 bitwise,
8 swap, 9 compare and swap. -/
def atomicNew (f size old v cmp : Nat) (fp ftz : Bool) : Nat :=
  if fp then fp32.add .rne ftz old v
  else if f = 9 then (if old = cmp then v else old)
  else combineSecond f size old v % 2 ^ (8 * size)

/-- R59: the line of an operation that runs in the slice is allocated under its class; one that runs in the agent is dropped. -/
def State.placeAtomic (s : State) (r : Req) (agent : Bool) : State := match r.use with
  | none => s
  | some u =>
    let s := s.prepare u
    if agent then s.dropLine u.line
    else
    let s := match r.tileOf with
      | some n => s.countL2 n u
      | none => s
    s.meet r.ctx u

/-- R105, R108: the push of a write to a line, or the fault. -/
def State.pushFor (s : State) (r : Req) (u : Option LineUse) (va : Nat) (acc : Acc) : Except Record State := match u with
  | none => .ok s
  | some u => match s.push u.line r.ctx u.epoch with
    | some s => .ok s
    | none => .error (s.exhausted u.line r.ctx u.epoch va acc)

/-- The words of an n-word block. -/
def State.wordsAt (s : State) (key : Nat) : Nat → List Word
  | 0 => []
  | n + 1 => BitVec.ofNat 64 (s.num key 8) :: State.wordsAt s (key + 8) n

/-- HOME_ATOMIC's effect (R71): the operation at its home, or the fault of R65, R76 and R108. -/
def State.performAtomic (s : State) (r : Req) : State :=
  match r.op with
  | .atomic f size v cmp _ fp ftz =>
    let s := s.placeAtomic r (f == 9 || r.link.isSome)
    match s.readFault r size .atomic with
    | some x => s.reply r.id (failWith x)
    | none => match s.pushFor r r.use r.va .atomic with
      | .error x => s.reply r.id (failWith x)
      | .ok s =>
        let old := s.num r.loc size
        let new := atomicNew f size old v cmp fp ftz
        let s := if new ≠ old ∨ f = 8 then s.commitBytes (placeBytes r.loc (bytesOfNat size new)) else s
        if size = 16 then s.reply r.id { r0 := BitVec.ofNat 64 old, r1 := 0, olds := [BitVec.ofNat 64 (old / 2 ^ 64)] }
        else s.reply r.id { r0 := BitVec.ofNat 64 old, r1 := 0 }
  | .acasm n _ cmp new =>
    let s := s.placeAtomic r true
    match s.readFault r (8 * n) .atomic with
    | some x => s.reply r.id (failWith x)
    | none => match s.pushFor r r.use r.va .atomic with
      | .error x => s.reply r.id (failWith x)
      | .ok s =>
        let olds := s.wordsAt r.loc n
        if olds = cmp then
          (s.commitBytes (placeBytes r.loc (new.flatMap fun w => bytesOfNat 8 w.toNat))).reply r.id { r0 := 1, olds := olds }
        else s.reply r.id { r0 := 0, olds := olds }
  | _ => s

/-- HOME_ATOMIC (R71): performed once its order allows (R131, R132, R137, R230); while its line is being filled it is held with the accesses that
came to it (R57, R69). -/
def execHomeAtomic (s : State) : Host.Outcome State Fault Refusal :=
  match s.cur.work with
  | some (.homeAtomic id) => match s.req id with
    | none => .next s
    | some r =>
      if r.answer.isSome then .next s
      else if !s.mayPerform r then .next (s.post (.homeAtomic id))
      else if r.use.any (fun u => s.filling u.line) then .next (s.modReq id fun q => { q with held := true, came := s.tick + 1 })
      else .next (s.performAtomic r)
  | _ => .next s

/-- R57: a held request is performed: an access, or an atomic. -/
def State.performHeld (s : State) (r : Req) : State := match r.op with
  | .atomic _ _ _ _ _ _ _ | .acasm _ _ _ _ => s.performAtomic r
  | _ => s.performAccess r

/-- The step that a held request takes up again when its order does not yet let it be performed. -/
def Req.homeStep (r : Req) : Work := match r.op with
  | .atomic _ _ _ _ _ _ _ | .acasm _ _ _ _ => .homeAtomic r.id
  | _ => .l2Access r.id

/-- The held request that came first, among those of a line. -/
def firstHeld (l : List Req) : Option Req :=
  l.foldl (fun (b : Option Req) r => match b with
    | some x => if r.came < x.came then some r else b
    | none => some r) none

/-- R56, R57: serves the held accesses of a line in arrival order: the first is the miss that has placed the line, the others hit. -/
def State.serveHeld (s : State) (line : Nat) (first : Bool) : Nat → State
  | 0 => s
  | n + 1 => match firstHeld (s.reqs.filter fun r => r.held && r.use.any (fun u => u.line == line) && match r.op with | .wenq _ _ _ => false | _ => true) with
    | none => s
    | some r =>
      let s := s.modReq r.id fun q => { q with held := false }
      let s := match r.use with
        | some u => if first then s else s.hit u
        | none => s
      State.serveHeld (if s.mayPerform r then s.performHeld { r with held := false } else s.post r.homeStep) line false n

/-- L2_FILL_COMPLETE (R57): the line is allocated, and the held accesses are served in order. -/
def execL2FillComplete (s : State) : Host.Outcome State Fault Refusal :=
  match s.cur.work with
  | some (.l2FillComplete line) =>
    let held := s.reqs.filter fun r => r.held && r.use.any fun u => u.line == line
    match firstHeld held with
    | none => .next s
    | some r => match r.use with
      | none => .next s
      | some u =>
        let s := s.prepare u
        let s := if s.allocates u then s.allocate u r.ctx else s
        .next (s.serveHeld line true held.length)
  | _ => .next s

/-! List operations (R74, R75). -/

/-- R105, R108: the pushes of a list operation's or a WENQ's writes, all before the first of them; the slice gives up a line of an AENQ's (R59). -/
def State.pushLegs (s : State) (r : Req) (drop : Bool) (acc : Acc) (legs : List Leg) : Except Record State :=
  legs.foldl (fun (x : Except Record State) l => match x with
    | .error e => .error e
    | .ok s =>
      let s := match l.use with
        | some u => if drop then (s.prepare u).dropLine u.line else s.prepare u
        | none => s
      s.pushFor { r with ctx := l.ctx } l.use l.va acc) (.ok s)

/-- R74, R91: a write of a list operation or a WENQ. -/
def State.writeLeg (s : State) (l : Leg) : State := s.commitBytes (placeBytes l.key l.bytes)

/-- R42: the page of another context's address, among the pages that a block has used. -/
def pageIn (ctx own va : Nat) : Nat := if ctx = own then va / 2 ^ 16 else (ctx + 1) * 2 ^ 40 + va / 2 ^ 16

/-- R42: a page that an agent has translated for a block, in its context or in that of a ring (R91), is one that the block has used. -/
def State.usePageIn (s : State) (r : Req) (ctx va : Nat) : State :=
  let page := pageIn ctx r.ctx va
  match r.task with
  | none => s
  | some t => s.modTask t fun k => { k with flights := k.flights.map fun f =>
      if f.serial = r.serial ∧ page ∉ f.used then { f with used := page :: f.used } else f }

/-- R42: a page of its own context that an agent has translated for a block. -/
def State.usePageFor (s : State) (r : Req) (va : Nat) : State := s.usePageIn r r.ctx va

/-- R19: an agent's write through a translation sets D. -/
def State.markUse (s : State) (die ctx : Nat) (use : Option LineUse) : State := match use with
  | some u => s.markDirty die ctx u
  | none => s

/-- R74, R78, R91: the writes of a list operation or a WENQ, each acknowledged before the next. In a package of their own they take place in
one step (log 16); with one of them on a line of another package than the agent's they take place one by one, that one over a link. -/
def State.doLegs (s : State) (r : Req) (legs : List Leg) (value : Word) : State :=
  if legs.any fun l => isGl l.key && paPackage l.key != paPackage r.loc then
    (s.modReq r.id fun q => { q with op := .legs r.loc legs value, use := none, held := false }).post (.aenqAtHome r.id)
  else (legs.foldl State.writeLeg s).reply r.id { r0 := value }

/-- R74: the writes of an AENQ on an empty list, or behind the tail t at pt; each line must not be in a fill (R57). -/
def State.finishAenq (s : State) (r : Req) (n nPa : Nat) (nUse : Option LineUse) (t : Nat) (last : Nat × Option LineUse) : State :=
  let lines := (r.use.toList ++ nUse.toList ++ last.2.toList).map (·.line)
  if lines.any s.filling then s.post (.aenqAtHome r.id)
  else
    let legs : List Leg := [⟨nPa, bytesOfNat 8 0, nUse, r.ctx, n⟩, ⟨r.loc + 8, bytesOfNat 8 n, r.use, r.ctx, r.va + 8⟩,
      ⟨last.1, bytesOfNat 8 n, last.2, r.ctx, if t = 0 then r.va else t⟩]
    match s.pushLegs r true .atomic legs with
    | .error e => s.reply r.id (failWith e)
    | .ok s => s.doLegs r legs (BitVec.ofNat 64 t)

/-- AENQ_AT_HOME (R74): the tail is read and translated before the first write. A tail pointer that is not 8-byte-aligned (R47) cannot be
translated, and answers QFAULT (log 46). DEDUCED. -/
def State.performAenq (s : State) (r : Req) (n nPa : Nat) (nUse : Option LineUse) : State :=
  match s.readFault { r with loc := r.loc + 8 } 8 .atomic with
  | some x => s.reply r.id (failWith x)
  | none =>
    let t := s.num (r.loc + 8) 8
    if t = 0 then s.finishAenq r n nPa nUse 0 (r.loc, r.use)
    else if t % 8 ≠ 0 then s.reply r.id { r0 := 0, r1 := statusQfault }
    else match s.checkFor (homeDie r.loc) r.ctx t .write (.op r.id) with
      | (.ok pt use, s) =>
        ((s.usePageFor r t).markUse (homeDie r.loc) r.ctx use).finishAenq r n nPa nUse t
          (pt, use.map fun u => { u with epoch := s.attachEpoch r.ctx t u.mtype pt })
      | (.miss _, s) => s.post (.aenqAtHome r.id)
      | (.bad _, s) => s.reply r.id { r0 := 0, r1 := statusQfault }

/-- R78: a request, or one that an agent passes on, goes to a line of another package over a link; it takes its identifier and timers
the first time. -/
def State.crossLink (s : State) (r : Req) : State :=
  if r.link.isSome then s.post (.linkRequestArrive r.id 0)
  else
    let unit := match r.task, r.eng with
      | some t, _ => t.tile * 16 + t.elem
      | none, some e => 2 ^ 14 + e.1 * 8 + e.2.1
      | none, none => 0xFFFF
    (s.modReq r.id fun q => { q with link := some ⟨s.package, unit, r.id % 2 ^ 32⟩, start := s.cycle, sent := s.tick + 1 }).postAll
      [.linkRequestArrive r.id 0, .linkRetransmit r.id, .linkTimeout r.id]

/-- R74, R78, R91: the next write of an operation whose writes take place one by one: over a link to the line's package, or where the agent or the
request that it sent stands; after the last one the value goes back. -/
def State.stepLegs (s : State) (r : Req) (home : Nat) (value : Word) : List Leg → State
  | [] => s.reply r.id { r0 := value }
  | l :: rest =>
    if isGl l.key && paPackage l.key != paPackage home && r.loc != l.key then
      (s.modReq r.id fun q => { q with use := l.use, loc := l.key }).crossLink { r with use := l.use, loc := l.key }
    else if l.use.any fun u => s.filling u.line then s.post (.aenqAtHome r.id)
    else
      let s := match l.use with
        | some u => s.prepare u
        | none => s
      let s := (s.writeLeg l).modReq r.id fun q => { q with op := .legs home rest value, use := none, loc := home }
      if rest.isEmpty then s.reply r.id { r0 := value } else s.post (.aenqAtHome r.id)

/-- AENQ_AT_HOME (R74): serialised by the header's agent; and the writes of an AENQ or a WENQ that take place one by one. -/
def execAenqAtHome (s : State) : Host.Outcome State Fault Refusal :=
  match s.cur.work with
  | some (.aenqAtHome id) => match s.req id with
    | none => .next s
    | some r =>
      if r.answer.isSome then .next s
      else match r.op with
        | .legs home todo value => .next (s.stepLegs r home value todo)
        | .aenq _ n nPa nUse =>
          if !s.mayPerform r || r.use.any (fun u => s.filling u.line) then .next (s.post (.aenqAtHome id))
          else .next ((s.placeAtomic r true).performAenq r n nPa nUse)
        | _ => .next s
  | _ => .next s

/-- R75: one hop of a chase reads its link word at the node's home. -/
def State.chaseRead (s : State) (r : Req) (left off hops pa : Nat) (use : Option LineUse) : State :=
  let s := match use with
    | some u => s.prepare u
    | none => s
  if (r.task.any fun t => s.behindWrite t r.serial (keysOf pa 8)) || use.any (fun u => s.filling u.line) then s.post (.achaseHop r.id)
  else match s.badIn pa 8 with
    | some u => s.reply r.id (failWith { uncorrectable u ((r.va + off) % 2 ^ 64) .read with link := paPackage pa != s.package })
    | none =>
      (s.modReq r.id fun q =>
        { q with op := .achase (left - 1) off (hops + 1), va := s.num pa 8, loc := pa, use := none, got := [] }).post (.achaseHop r.id)

/-- ACHASE_HOP (R75): one hop, translated by the die of the agent that stands before it and read at the node's home, over a link when
the node lies on another package than the agent (R78); or the end of the chase. -/
def execAchaseHop (s : State) : Host.Outcome State Fault Refusal :=
  match s.cur.work with
  | some (.achaseHop id) => match s.req id with
    | none => .next s
    | some r =>
      if r.answer.isSome then .next s
      else if !s.mayPerform r then .next (s.post (.achaseHop id))
      else match r.op with
        | .achase left off hops =>
          if r.va = 0 ∨ left = 0 then .next (s.reply id { r0 := BitVec.ofNat 64 r.va, r1 := BitVec.ofNat 64 hops })
          else
            let a := (r.va + off) % 2 ^ 64
            let die := if hops = 0 then (match r.task with | some t => dieOf t.tile | none => 0) else homeDie r.loc
            let from_ := if hops = 0 then s.package else paPackage r.loc
            match r.use with
            | some u => .next (s.chaseRead r left off hops (u.line + a % 2048) (some u))
            | none =>
              if 2 ^ 56 ≤ a then .next (s.reply id (failWith { code := .addrRange, cause := 7, addr := a }))
              else if a % 8 ≠ 0 then .next (s.reply id (failWith { code := .align, addr := a }))
              else match s.checkFor die r.ctx a .read (.op id) with
                | (.ok pa use, s) =>
                  let s := s.usePageFor r a
                  if paPackage pa = from_ ∨ use.isNone then .next (s.chaseRead r left off hops pa use)
                  else .next ((s.modReq id fun q => { q with use := use, loc := pa }).crossLink { r with use := use, loc := pa })
                | (.bad x, s) => .next (s.reply id (failWith (x.record .read a)))
                | (.miss _, s) => .next (s.post (.achaseHop id))
        | _ => .next s
  | _ => .next s

/-! Structure memory (R83 to R87). -/

/-- STRUCT_LDS_AT_AGENT (R84, R85, R86). -/
def State.performLds (s : State) (r : Req) (wait : Bool) : State :=
  match s.readFault r 8 .read with
  | some x => s.reply r.id (failWith x)
  | none => match s.words.find r.loc with
    | some (.full v) => s.reply r.id { r0 := v, r1 := statusOk }
    | w =>
      if !wait then s.reply r.id { r0 := 0, r1 := statusEmpty }
      else
        let l := match w with
          | some (.deferred l) => l
          | _ => []
        if r.id ∈ l then s
        else if 8192 ≤ s.poolUsed r.loc then s.post (.structLdsAtAgent r.id)
        else { s with words := s.words.put r.loc (.deferred (l ++ [r.id])) }

/-- STRUCT_LDS_AT_AGENT. -/
def execStructLdsAtAgent (s : State) : Host.Outcome State Fault Refusal :=
  match s.cur.work with
  | some (.structLdsAtAgent id) => match s.req id with
    | none => .next s
    | some r =>
      if r.answer.isSome then .next s
      else if !s.mayPerform r then .next (s.post (.structLdsAtAgent id))
      else match r.op with
        | .lds wait => .next (s.performLds r wait)
        | _ => .next s
  | _ => .next s

/-- STRUCT_STS_AT_AGENT (R84, R76): the listed readers are answered in order. -/
def State.performSts (s : State) (r : Req) (v : Word) : State :=
  match s.readFault r 8 .write, s.words.find r.loc with
  | some x, _ => s.reply r.id (failWith x)
  | none, some (.full _) => s.reply r.id (failWith { code := .structRewrite, addr := r.va, acc := .write })
  | none, w =>
    let l := match w with
      | some (.deferred l) => l
      | _ => []
    let s := { s with words := s.words.put r.loc (.full v) }
    (l.foldl (fun (s : State) id => s.reply id { r0 := v, r1 := statusOk }) s).reply r.id {}

/-- STRUCT_STS_AT_AGENT. -/
def execStructStsAtAgent (s : State) : Host.Outcome State Fault Refusal :=
  match s.cur.work with
  | some (.structStsAtAgent id) => match s.req id with
    | none => .next s
    | some r =>
      if r.answer.isSome then .next s
      else if !s.mayPerform r then .next (s.post (.structStsAtAgent id))
      else match r.op with
        | .sts v => .next (s.performSts r v)
        | _ => .next s
  | _ => .next s

/-- STRUCT_STCLR_AT_AGENT (R84, R76): FULL words return to EMPTY; readers keep waiting. -/
def State.performStclr (s : State) (r : Req) (n : Nat) : State :=
  match s.readFault r (8 * n) .write with
  | some x => s.reply r.id (failWith x)
  | none =>
    ({ s with words := s.words.filter fun w => match w.2 with
        | .full _ => !(decide (r.loc ≤ w.1) && decide (w.1 < r.loc + 8 * n))
        | .deferred _ => true } : State).reply r.id {}

/-- STRUCT_STCLR_AT_AGENT. -/
def execStructStclrAtAgent (s : State) : Host.Outcome State Fault Refusal :=
  match s.cur.work with
  | some (.structStclrAtAgent id) => match s.req id with
    | none => .next s
    | some r =>
      if r.answer.isSome then .next s
      else if !s.mayPerform r then .next (s.post (.structStclrAtAgent id))
      else match r.op with
        | .stclr n => .next (s.performStclr r n)
        | _ => .next s
  | _ => .next s

/-- R87: takes a waiting LDS off its word's list; none means the value was already sent. -/
def State.cancelReader (s : State) (id : Nat) : Option State :=
  match s.words.find? fun w => match w.2 with
      | .deferred l => decide (id ∈ l)
      | .full _ => false with
  | some (k, .deferred l) =>
    let l := l.filter fun x => decide (x ≠ id)
    some { s with words := if l.isEmpty then s.words.erase k else s.words.put k (.deferred l) }
  | _ => none

/-! Write-with-enqueue (R89, R91). -/

/-- R89: fields of a queue descriptor. -/
def wenqTail (d : Nat) : Nat := d % 2 ^ 64
/-- R89. -/
def wenqHead (d : Nat) : Nat := d / 2 ^ 64 % 2 ^ 64
/-- R89. -/
def wenqLog (d : Nat) : Nat := d / 2 ^ 244 % 32
/-- R89, R91: a valid descriptor. -/
def wenqOk (d : Nat) (ms : Bool) : Bool :=
  d / 2 ^ 255 == 1 && d / 2 ^ 240 % 16 == 0 && d / 2 ^ 128 % 2 ^ 64 == 0 && decide (wenqLog d ≤ 20) && ms

/-- R91: the payload and then TAIL are written, each write pushed first (R105, R108): a slot line whose push finds no shadow slot makes
the issuing block fault SHADOW_EXHAUSTED with nothing written (R91 names no status for it; log 17). DEDUCED. The payload is a write of
the issuing context, and is preserved when the ring is of that context (R100). -/
def State.finishWenq (s : State) (r : Req) (off : Nat) (payload : List Byte) (d ctx slot pa : Nat) (use : Option LineUse) : State :=
  let use := use.map fun u => { u with epoch := if ctx = r.ctx then s.attachEpoch ctx slot u.mtype pa else 0 }
  let legs : List Leg := [⟨pa + off, payload, use, ctx, slot⟩, ⟨r.loc, bytesOfNat 8 (wenqTail d + 1), r.use, r.ctx, r.va⟩]
  match s.pushLegs r false .write legs with
  | .error x => s.reply r.id (failWith x)
  | .ok s => s.doLegs r legs (BitVec.ofNat 64 (wenqTail d))

/-- R91: the slot is translated and the payload written; until the translation comes the descriptor that was read stands. -/
def State.slotWenq (s : State) (r : Req) (off : Nat) (payload : List Byte) (d : Nat) : State :=
  let ctx := d / 2 ^ 249 % 64
  let slot := d / 2 ^ 192 % 2 ^ 48 * 256 + wenqTail d % 2 ^ wenqLog d * 256
  let again (s : State) : State := (s.modReq r.id fun q => { q with op := .wenq off payload (some d), held := false }).post (.wenqAtTarget r.id)
  match s.checkFor (homeDie r.loc) ctx slot .write (.op r.id) with
  | (.ok pa use, s) =>
    let s := s.usePageIn r ctx slot
    if use.any fun u => s.filling u.line then again s else (s.markUse (homeDie r.loc) ctx use).finishWenq r off payload d ctx slot pa use
  | (.miss _, s) => again s
  | (.bad _, s) => s.reply r.id { r0 := 0, r1 := statusQfault }

/-- R91: one look of the agent at the descriptor: an answer, the payload written, or a wait on a full ring. V, the reserved fields and
LOG2CAP are looked at before the wait only. -/
def State.performWenq (s : State) (r : Req) (off : Nat) (payload : List Byte) : State :=
  let s := match r.use with
    | some u => s.prepare u
    | none => s
  match s.readFault r 32 .atomic with
  | some x => s.reply r.id (failWith x)
  | none =>
    let d := s.num r.loc 32
    let ms := match r.use with
      | some u => u.ms
      | none => false
    if !r.held && !wenqOk d ms then s.reply r.id { r0 := 0, r1 := statusQfault }
    else if 2 ^ wenqLog d ≤ (wenqTail d + 2 ^ 64 - wenqHead d) % 2 ^ 64 then
      if r.held then s
      else (s.modReq r.id fun q => { q with held := true, came := s.cycle }).post (.wenqRingTimeout r.id)
    else s.slotWenq r off payload d

/-- WENQ_AT_TARGET (R91): WENQs on one descriptor are served one at a time, the waiting one first. -/
def execWenqAtTarget (s : State) : Host.Outcome State Fault Refusal :=
  match s.cur.work with
  | some (.wenqAtTarget id) => match s.req id with
    | none => .next s
    | some r =>
      if r.answer.isSome then .next s
      else if !s.mayPerform r || s.reqs.any (fun q => q.wenqBusy && q.loc == r.loc && q.id != id) || r.use.any (fun u => s.filling u.line) then
        .next (s.post (.wenqAtTarget id))
      else match r.op with
        | .wenq off p (some d) => .next (s.slotWenq r off p d)
        | .wenq off p none => .next (s.performWenq r off p)
        | _ => .next s
  | _ => .next s

/-- WENQ_HEAD_WAKE (R91): a write of HEAD lets a waiting WENQ look again. -/
def execWenqHeadWake (s : State) : Host.Outcome State Fault Refusal :=
  match s.cur.work with
  | some (.wenqHeadWake id) => match s.req id with
    | some r => match r.op with
      | .wenq off p _ =>
        if !r.held || r.answer.isSome then .next s
        else if 100 * Config.cyclesPerUs ≤ s.cycle - r.came then .next (s.reply id { r0 := 0, r1 := statusTimeout })
        else .next (s.performWenq r off p)
      | _ => .next s
    | none => .next s
  | _ => .next s

/-- WENQ_RING_TIMEOUT (R91): 100 µs after the wait began. -/
def execWenqRingTimeout (s : State) : Host.Outcome State Fault Refusal :=
  match s.cur.work with
  | some (.wenqRingTimeout id) => match s.req id with
    | some r =>
      if !r.held || r.answer.isSome then .next s
      else if s.cycle - r.came < 100 * Config.cyclesPerUs then .next (s.post (.wenqRingTimeout id))
      else .next (s.reply id { r0 := 0, r1 := statusTimeout })
    | none => .next s
  | _ => .next s

end Sys2Proof.Machine
end

