-- ==== Sys2Proof/Machine/Fabric.lean ====
section
/-! DEFINITION. The mesh and what travels on it (spec/19_fabric.md R431 to R449): routes, circuits, custody, the merging of combinable
requests and batches, error notices, reduction groups, receive queues, matching (spec/09_execution_model.md R204 to R214),
dead letters and spill. -/

namespace Sys2Proof.Machine

/-! Routes (R431, R433, R479). A router of a compute die is die × 64 + n; the root dies A and B are 768 and 832; the output of plane p's
SX512 to package k is 1,024 + p × 512 + k. -/

/-- Root die A, where the host port is (R1). -/
def rootA : Nat := 12 * 64
/-- Root die B, where the Sladom ports are (R1). -/
def rootB : Nat := 13 * 64
/-- R452, R454: the output of a plane's switch to a package. -/
def switchPort (plane package : Nat) : Nat := 1024 + plane * 512 + package

/-- The router of a die where its memory agents and its tracker attach (R431 says n of 48 and above; log 15). DESIGN CHOICE. -/
def gateway : Nat := 48

/-- The router of a die where its link to another die attaches: north 49, east 50, south 51, west 52, a root die 53 (R431 says n of 48 and
above; log 15). DESIGN CHOICE. -/
def linkGateway (a b : Nat) : Nat :=
  if 12 ≤ b then 53 else if b + 4 = a then 49 else if b = a + 1 then 50 else if b = a + 4 then 51 else 52

/-- R431, R479: the output port from a router to the next one; 5 between dies; a root die's links to its two compute dies are 1 and 2. -/
def portTo (a b : Nat) : Nat :=
  if rootA ≤ a then (if b < rootA then 1 + b / 64 / 4 else 5)
  else if a / 64 ≠ b / 64 then 5
  else if b + 8 = a then 1 else if b = a + 1 then 2 else if b = a + 8 then 3 else if b + 1 = a then 4 else 0

/-- R93: the input port on which the next router takes it. -/
def portFrom (a b : Nat) : Nat := portTo b a

/-- R433: the routers after one, along the row. -/
def rowRoute (die : Nat) : Nat → Nat → Nat → List Nat
  | 0, _, _ => []
  | k + 1, n, c => if n % 8 = c then [] else
      let m := if n % 8 < c then n + 1 else n - 1
      (die * 64 + m) :: rowRoute die k m c

/-- R433: the routers after one, along the column. -/
def colRoute (die : Nat) : Nat → Nat → Nat → List Nat
  | 0, _, _ => []
  | k + 1, n, r => if n / 8 = r then [] else
      let m := if n / 8 < r then n + 8 else n - 8
      (die * 64 + m) :: colRoute die k m r

/-- R433, R438: the route within a die, row first or column first. -/
def dieRoute (rowFirst : Bool) (die a b : Nat) : List Nat :=
  if rowFirst then rowRoute die 8 a (b % 8) ++ colRoute die 8 (a / 8 * 8 + b % 8) (b / 8)
  else colRoute die 8 a (b / 8) ++ rowRoute die 8 (b / 8 * 8 + a % 8) (b % 8)

/-- R433, R479: the dies after one, along the shortest path whose die numbers are lowest. -/
def diesRoute : Nat → Nat → Nat → List Nat
  | 0, _, _ => []
  | k + 1, a, b =>
    if a = b then []
    else
      let m := if b / 4 < a / 4 then a - 4 else if b % 4 < a % 4 then a - 1 else if a % 4 < b % 4 then a + 1 else a + 4
      m :: diesRoute k m b

/-- R479: hops between two compute dies. -/
def dieHops (a b : Nat) : Nat := (a % 4 - b % 4) + (b % 4 - a % 4) + (a / 4 - b / 4) + (b / 4 - a / 4)

/-- R433, R479: the compute die through which a packet between a die and a root die passes. -/
def rootGate (root d : Nat) : Nat :=
  let x := if root = 12 then 0 else 3
  if dieHops d x ≤ dieHops d (x + 4) then x else x + 4

/-- R433: the dies after one on the way to another; 12 and 13 are the root dies. -/
def diePath (a b : Nat) : List Nat :=
  if a = b then []
  else if a < 12 then (if b < 12 then diesRoute 6 a b else diesRoute 6 a (rootGate b a) ++ [b])
  else
    let x := rootGate a (if b < 12 then b else 3)
    if b < 12 then x :: diesRoute 6 x b else x :: (diesRoute 6 x (rootGate b x) ++ [b])

/-- R433: the routers passed from one, by way of dies, to another. -/
def throughDies (rowFirst : Bool) : Nat → List Nat → Nat → List Nat
  | a, [], b => if a / 64 < 12 ∧ b < rootA then dieRoute rowFirst (a / 64) (a % 64) (b % 64) else if 1024 ≤ b then [b] else []
  | a, d :: r, b =>
    let entry := d * 64 + if d < 12 then linkGateway d (a / 64) else 0
    (if a / 64 < 12 then dieRoute rowFirst (a / 64) (a % 64) (linkGateway (a / 64) d) else []) ++ entry :: throughDies rowFirst entry r b

/-- R433: the routers a packet passes from one to another. -/
def fullRoute (rowFirst : Bool) (a b : Nat) : List Nat := throughDies rowFirst a (diePath (a / 64) (if 1024 ≤ b then 13 else b / 64)) b

/-- R438: every link of a route works. -/
def State.routeOk (s : State) : Nat → List Nat → Bool
  | _, [] => true
  | a, b :: r => decide ((a, portTo a b) ∉ s.ports.links) && State.routeOk s b r

/-- R433, R438: the route of a packet: row first, else column first, else none. -/
def State.routeFor (s : State) (a b : Nat) : Option (List Nat) :=
  if s.routeOk a (fullRoute true a b) then some (fullRoute true a b)
  else if s.routeOk a (fullRoute false a b) then some (fullRoute false a b) else none

/-- R431: the router of a tile. -/
def routerOf (tile : Nat) : Nat := tile / 64 * 64 + tile % 64

/-- R381: the router of a load's root tracker, on the die of its lowest-numbered bed. -/
def Load.tracker (l : Load) : Nat := l.beds.headD 0 / 16 * 64 + gateway

/-- R69: operations that a memory agent performs whatever the line. -/
def Op.atAgent : Op → Bool
  | .atomic f _ _ _ _ _ _ => f == 9
  | .acasm _ _ _ _ | .aenq _ _ _ _ | .achase _ _ _ | .lds _ | .sts _ | .stclr _ | .wenq _ _ _ | .legs _ _ _ => true
  | _ => false

/-- R57, R60, R69, R97, R431, R452: where a request for a line goes: its home slice, or its die's gateway to the agents for what they perform and
for a memory-side line; the host port; or its plane's output to the line's package. -/
def State.homeRouter (s : State) (pa : Nat) (agent : Bool) : Nat :=
  if s.remote pa then switchPort (planeOf pa 0) (paPackage pa)
  else if paIsHost pa then rootA else homeDie pa * 64 + if agent then gateway else l2Slice (stackLine pa)

/-- R69: a request that a memory agent performs. -/
def Req.atAgent (r : Req) : Bool := r.op.atAgent || r.use.any fun u => u.ms

/-- The step that performs a request at its home. -/
def Req.homeWork (r : Req) : Work := match r.op with
  | .atomic _ _ _ _ _ _ _ | .acasm _ _ _ _ => .homeAtomic r.id
  | .aenq _ _ _ _ | .legs _ _ _ => .aenqAtHome r.id
  | .achase _ _ _ => .achaseHop r.id
  | .lds _ => .structLdsAtAgent r.id
  | .sts _ => .structStsAtAgent r.id
  | .stclr _ => .structStclrAtAgent r.id
  | .wenq _ _ _ => .wenqAtTarget r.id
  | _ => .l2Access r.id

/-- R69: a request has come to its home, and keeps the place in the order of arrival that it first had. -/
def State.arriveHome (s : State) (r : Req) : State :=
  (s.modReq r.id fun q => { q with arrived := if q.arrived = 0 then s.tick + 1 else q.arrived }).post r.homeWork

/-! Circuits (R434, R435). -/

/-- R431, R479: the router that an output leads to; none for one that leaves the mesh. -/
def neighbour (r out : Nat) : Option Nat :=
  let die := r / 64
  let n := r % 64
  if out = 1 then (if 8 ≤ n then some (r - 8) else none)
  else if out = 2 then (if n % 8 < 7 then some (r + 1) else none)
  else if out = 3 then (if n < 56 then some (r + 8) else none)
  else if out = 4 then (if 0 < n % 8 then some (r - 1) else none)
  else if out = 5 then
    if n = 49 ∧ 4 ≤ die then some ((die - 4) * 64 + 51)
    else if n = 50 ∧ die % 4 < 3 then some ((die + 1) * 64 + 52)
    else if n = 51 ∧ die < 8 then some ((die + 4) * 64 + 49)
    else if n = 52 ∧ 0 < die % 4 then some ((die - 1) * 64 + 50)
    else if n = 53 ∧ (die = 0 ∨ die = 4) then some rootA
    else if n = 53 ∧ (die = 3 ∨ die = 7) then some rootB
    else none
  else none

/-- R434: the outputs that a router's slot table connects to an input in a slot. -/
def State.claimed (s : State) (at_ inp slot : Nat) : List Nat :=
  ((s.claims.filter fun c => c.router == at_ && c.slot == slot && c.inp == inp && decide (inp < 6)).map (·.out)).eraseDups

/-- R434, R435, R438: the outputs to which the slot tables pass a circuit flit; none for a best-effort packet, or where no claim takes it. -/
def State.circuitOuts (s : State) (p : Packet) : List Nat := match p.slot with
  | none => []
  | some n => (s.claimed p.at_ p.inp n).filter fun o => decide ((p.at_, o) ∉ s.ports.links)

/-- R435: the slots from one router to the next: 3, or 8 across a die-to-die link. -/
def slotStep (a b : Nat) : Nat := if a / 64 = b / 64 then 3 else 8

/-- R435: the routers at which the circuit that leaves by an output in a slot ends; a circuit crosses at most 64 routers. -/
def State.circuitEnds (s : State) (at_ slot : Nat) : Nat → Nat → List Nat
  | 0, _ => []
  | n + 1, o => match neighbour at_ o with
    | none => [at_]
    | some b => (s.claimed b (portFrom at_ b) ((slot + slotStep at_ b) % 256)).flatMap (State.circuitEnds s b ((slot + slotStep at_ b) % 256) n)

/-- R438: the ends of the branches of a circuit that a disabled link cuts where a flit of it stands. -/
def State.cutEnds (s : State) (p : Packet) : List Nat := match p.slot with
  | none => []
  | some n => ((s.claimed p.at_ p.inp n).filter fun o => decide ((p.at_, o) ∈ s.ports.links)).flatMap (s.circuitEnds p.at_ n 64)

/-- R432, R381: the 64-byte flits of a packet: a head, and a message's payload, a batch's deltas by four, or a contribution's elements. -/
def Payload.flits : Payload → Nat
  | .message m => 1 + (m.payload.length + 63) / 64
  | .batch b => 1 + (b.deltas.length + 3) / 4
  | .contribution _ _ _ _ elems _ _ => 1 + (4 * elems.length + 63) / 64
  | _ => 1

/-- R434: the first cycle at or after one at which a slot comes round. -/
def slotAfter (c slot : Nat) : Nat := c + (slot + 256 - c % 256) % 256

/-- R435: the flits of a packet take the next turns of its circuit; it leaves with the last of them. -/
def State.takeTurns (s : State) (p : Packet) : State := match p.slot with
  | none => s
  | some n =>
    let first := slotAfter (max s.cycle (s.circuits.get (p.src, n) 0)) n
    { s with
      circuits := s.circuits.put (p.src, n) (first + 256 * p.payload.flits)
      packets := s.packets.map fun (q : Packet) => if q.id = p.id then { q with due := first + 256 * (p.payload.flits - 1) } else q }

/-! Merging (R92, R93, R381). -/

/-- The request a packet carries, if it may combine. -/
def State.combinable (s : State) (p : Packet) : Option Req := match p.payload with
  | .request id => match s.req id with
    | some r => match r.op with
      | .atomic _ _ _ _ true _ _ => some r
      | _ => none
    | none => none
  | _ => none

/-- R92, R106: two requests that merge: same address, size, operation and epoch. R92 does not name the context: the model does not merge
requests of two contexts (log 46). DESIGN CHOICE. -/
def sameRequest (a b : Req) : Bool := match a.op, b.op with
  | .atomic f n _ _ _ _ _, .atomic g m _ _ _ _ _ =>
    f == g && n == m && a.loc == b.loc && (a.use.map (·.epoch)) == (b.use.map (·.epoch)) && a.ctx == b.ctx
  | _, _ => false

/-- The operand of an atomic. -/
def Req.operand (r : Req) : Nat := match r.op with
  | .atomic _ _ v _ _ _ _ => v
  | _ => 0

/-- R93, R95: the merged request; its record keeps the members and the first one's value. One that goes to another package takes a fresh
identifier, and the port that merged it retransmits it. -/
def State.mergeReqs (s : State) (first second : Req) (port : Nat) (circuit : Bool) : Nat × State := match first.op with
  | .atomic f n v c k fp ftz =>
    let (id, s) := s.newId
    let far := s.remote first.loc
    let r : Req := { first with
      id := id, op := .atomic f n (combineSecond f n v second.operand % 2 ^ (8 * n)) c k fp ftz, task := none, order := 0, wait := none, retries := 0
      start := s.cycle, link := if far then some ⟨s.package, 2 ^ 15 + port % 2 ^ 15, id % 2 ^ 32⟩ else none }
    let s := { s with
      reqs := s.reqs ++ [r]
      combines := s.combines ++ [({ merged := id, first := first.id, second := second.id, port := port, circuit := circuit, v := v } : Combine)] }
    (id, if far then s.postAll [.linkRetransmit id, .linkTimeout id] else s)
  | _ => (first.id, s)

/-- R431: the output by which a packet leaves its last router: service for a request or a batch, local for what a tile takes. -/
def Packet.exit (p : Packet) : Nat := match p.payload with
  | .request _ | .batch _ => if p.lost.isSome then 0 else 5
  | _ => 0

/-- The output a packet is queued for: router × 8 + port. -/
def State.outPort (s : State) (p : Packet) : Nat := p.at_ * 8 + match s.circuitOuts p, p.route with
  | o :: _, _ => o
  | [], b :: _ => portTo p.at_ b
  | [], [] => p.exit

/-- R92, R439: a packet that may take an entry of a wait buffer: a .c request, or a batch; the routers of compute dies and the outputs of
switches have them. -/
def State.mayWait (s : State) (p : Packet) : Bool :=
  p.lost.isNone && (decide (p.at_ < rootA) || decide (1024 ≤ p.at_)) && ((s.combinable p).isSome || match p.payload with | .batch _ => true | _ => false)

/-- R93, R439: entries of a port's wait buffer in use: packets that wait in it, and the combine records that departed ones have left. -/
def State.entriesAt (s : State) (port : Nat) (circuit : Bool) : Nat :=
  (s.packets.filter fun q => q.buffered && q.slot.isSome == circuit && s.outPort q == port).length
    + (s.combines.filter fun c => c.left && c.circuit == circuit && c.port == port).length
    + (if circuit then 0 else (s.batchRecs.filter fun c => c.left && c.port == port).length)

/-- R92, R94, R97, R439, R454: a port's wait buffer has a free entry: of the 64 of an on-die router's port 16 are held for circuit traffic, which
a switch does not know. -/
def State.bufferRoom (s : State) (port : Nat) (circuit : Bool) : Bool :=
  decide (s.entriesAt port circuit < if circuit then 16 else if 1024 ≤ port / 8 then 64 else 48)

/-- R381: deltas on one key are summed, and a sum of 0 is dropped. -/
def addDelta (l : List (Key × Int)) (d : Key × Int) : List (Key × Int) := match l with
  | [] => [d]
  | x :: r => if x.1 = d.1 then (if x.2 + d.2 = 0 then r else (x.1, x.2 + d.2) :: r) else x :: addDelta r d

/-- R381: two batches merged whole. -/
def Batch.merge (a b : Batch) (id : Nat) : Batch :=
  { load := a.load, deltas := b.deltas.foldl addDelta a.deltas, ack := some (.merged id), decs := a.decs ++ b.decs, asks := a.asks ++ b.asks }

/-- R92, R381: a packet that waits for the same output and merges with a newcomer. -/
def State.partner (s : State) (p : Packet) : Option Packet :=
  s.packets.find? fun q => q.id != p.id && q.buffered && q.net == p.net && q.slot.isSome == p.slot.isSome && s.outPort q == s.outPort p
    && q.dest == p.dest
    && match p.payload, q.payload with
      | .request _, .request _ => match s.combinable p, s.combinable q with
        | some a, some b => sameRequest a b
        | _, _ => false
      | .batch a, .batch b => a.load == b.load && decide ((a.merge b 0).deltas.length ≤ 64)
      | _, _ => false

/-- R93: two packets become one, in the place of the earlier one. -/
def State.mergeInto (s : State) (p q : Packet) (payload : Payload) (recId : Nat) : State :=
  { s with packets := (s.packets.filter fun x => decide (x.id ≠ p.id)).map fun x =>
      if x.id = q.id then { x with payload := payload, inp := min p.inp q.inp, recs := x.recs ++ p.recs ++ [recId] } else x }

/-- R93, R94, R381: a packet that has come to a router takes an entry of its output's wait buffer, or joins the packet it merges with
there; a full buffer lets it pass. -/
def State.tryMerge (s : State) (p : Packet) : State :=
  let port := s.outPort p
  let circuit := p.slot.isSome
  if !s.mayWait p || !s.bufferRoom port circuit then s
  else match s.partner p with
  | none => { s with packets := s.packets.map fun x => if x.id = p.id then { x with buffered := true } else x }
  | some q => match p.payload, q.payload with
    | .batch a, .batch b =>
      let (id, s) := s.newId
      ({ s with batchRecs := s.batchRecs ++ [({ merged := id, first := b.ack, second := a.ack, port := port } : BatchRec)] } : State).mergeInto p q
        (.batch (b.merge a id)) id
    | .request _, .request _ => match s.combinable p, s.combinable q with
      | some a, some b =>
        let (id, s) := if p.inp < q.inp then s.mergeReqs a b port circuit else s.mergeReqs b a port circuit
        s.mergeInto p q (.request id) id
      | _, _ => s
    | _, _ => s

/-- R93: a packet departs from where it stands: the records of its merges there hold entries from now on. -/
def State.depart (s : State) (p : Packet) : State :=
  if p.recs.isEmpty then s
  else { s with
    combines := s.combines.map fun c => if c.merged ∈ p.recs then { c with left := true } else c
    batchRecs := s.batchRecs.map fun c => if c.merged ∈ p.recs then { c with left := true } else c }

/-- R204: two messages of one task on one channel. -/
def Packet.sameStream (p q : Packet) : Bool := q.by_.isSome && q.by_ == p.by_ && q.dest == p.dest && match p.payload, q.payload with
  | .message m, .message n => n.load == m.load && n.elem == m.elem && n.vc == m.vc
  | _, _ => false

/-- R137: what a packet waits for before it leaves its source: the writes of its block, and what the request it carries must follow; and a
message for those that its task has sent before on its channel (R204). -/
def State.packetFree (s : State) (p : Packet) : Bool :=
  !(s.reqs.any fun (r : Req) => decide (r.id ∈ p.after) && r.answer.isNone)
    && !(p.fresh && s.packets.any fun q => q.fresh && decide (q.id < p.id) && p.sameStream q)
    && match p.payload with
      | .request id => match s.req id with
        | some r => p.at_ != p.src || s.mayPerform r
        | none => true
      | _ => true

/-- R432, R447: flits of other packets in an input buffer of a router: those of packets that stand there, and of messages that their element has
refused. Packets in the wait buffer and circuit flits are in no input buffer. -/
def State.bufferedFlits (s : State) (at_ inp net id : Nat) : List Nat :=
  ((s.packets.filter fun q => q.id != id && q.at_ == at_ && q.inp == inp && q.net == net && q.slot.isNone && !q.buffered && !q.fresh).map
      fun q => q.payload.flits)
    ++ if net ≠ 2 then [] else (s.elems.filter fun e => e.1.tile == at_).flatMap fun e => e.2.vcs.flatMap fun v =>
      (v.2.held.filter fun m => m.port == some inp).map fun m => (Payload.message m).flits

/-- R432: an input buffer has room for the whole of a packet: 8 flits, or 17 for network 3; one packet always fits an empty one. -/
def State.flitRoom (s : State) (at_ inp : Nat) (p : Packet) : Bool :=
  let l := s.bufferedFlits at_ inp p.net p.id
  l.isEmpty || decide (l.foldl (· + ·) p.payload.flits ≤ if p.net = 3 then 17 else 8)

/-- R432, R433: a packet that is free to leave its source finds room in the local input buffer, and no earlier one of its network for the same
place still waits to enter. -/
def State.mayEnter (s : State) (p : Packet) : Bool :=
  p.slot.isSome || s.flitRoom p.at_ 0 p
    && !(s.packets.any fun q => q.fresh && decide (q.id < p.id) && q.at_ == p.at_ && q.net == p.net && q.dest == p.dest && q.slot.isNone && s.packetFree q)

/-- A packet that is free to leave its source enters the traffic there: it takes its turns on its circuit, or the chance to merge. -/
def State.enterMesh (s : State) (p : Packet) : State :=
  let s := { s with packets := s.packets.map fun (q : Packet) => if q.id = p.id then { q with fresh := false } else q }
  (s.takeTurns p).tryMerge p

/-- Puts a packet on the mesh at its source's router. -/
def State.sendPacket (s : State) (p : Packet) : State :=
  let (id, s) := s.newId
  let p : Packet := { p with id := id, src := p.at_, route := (s.routeFor p.at_ p.dest).getD (fullRoute true p.at_ p.dest) }
  let s := { s with packets := s.packets ++ [p] }
  (if s.packetFree p && s.mayEnter p then s.enterMesh p else s).post (.packetAccept id)

/-- Puts a best-effort packet on the mesh, to leave once the writes named are performed (R137). -/
def State.inject (s : State) (net load src dest : Nat) (payload : Payload) (after : List Nat) : State :=
  s.sendPacket { id := 0, net := net, load := load, at_ := src, dest := dest, payload := payload, after := after }

/-- R435: the slot of the circuit that carries the .c requests of a tile to a router. -/
def State.combSlot (s : State) (load tile dest : Nat) : Option Nat := match s.load load with
  | some l => (l.cfg.combs.find? fun c => l.beds.getD c.1 0 * 4 + c.2.1 == tile && c.2.2.1 == dest).map (·.2.2.2)
  | none => none

/-- R453, R456: a request goes to its home over the mesh; one for another package's line waits at its sender until it may be sent. -/
def State.route (s : State) (id : Nat) : State := match s.req id with
  | none => s
  | some r => match r.tileOf with
    | none => s.post r.homeWork
    | some tile =>
      if !isGl r.loc then s.post r.homeWork
      else if s.remote r.loc then s.post (.linkRequestArrive id 0)
      else
        let dest := s.homeRouter r.loc r.atAgent
        s.sendPacket { id := 0, net := 0, load := r.load, at_ := routerOf tile, dest := dest, payload := .request id,
                       slot := match r.op with | .atomic _ _ _ _ true _ _ => s.combSlot r.load tile dest | _ => none }

/-- R381: an acknowledgement sets out, to a task or to the record of a merge. -/
def State.sendAck (s : State) (load src : Nat) : Option AckTo → State
  | none => s
  | some (.task t n) => s.inject 3 load src (routerOf t.tile) (.ack t n) []
  | some (.merged b) => match s.batchRecs.find? fun r => r.merged == b with
    | some r => s.inject 3 load src (r.port / 8) (.ackSplit b) []
    | none => s

/-- R381: an acknowledgement that reaches a combine record splits. -/
def State.splitAck (s : State) (load at_ batch : Nat) : State := match s.batchRecs.find? fun r => r.merged == batch with
  | none => s
  | some r => (({ s with batchRecs := s.batchRecs.filter fun x => decide (x ≠ r) } : State).sendAck load at_ r.first).sendAck load at_ r.second

/-! Dead letters (R213, R214). -/

/-- R199: the 96-bit tag. -/
def tagNum (ctx : Nat) (t : Stamp) : Nat := ctx * 2 ^ 90 + t.depth * 2 ^ 88 + t.issue

/-- R214: a record of 320 bytes. -/
def letterBytes (ctx : Nat) (t : Stamp) (vc kind : Nat) (payload : List Byte) (time handle : Nat) : List Byte :=
  bytesOfNat 12 (tagNum ctx t) ++ bytesOfNat 1 vc ++ bytesOfNat 1 kind ++ bytesOfNat 2 payload.length
    ++ (payload ++ List.replicate (256 - payload.length) 0) ++ bytesOfNat 8 time ++ bytesOfNat 8 handle ++ List.replicate 32 0

/-- R214, R462: writes a record to the context's dead-letter ring; a full ring only counts; a ring that cannot be read or
written drops the record. The event is recorded in each case. R473 gives it 64 bits of ADDR and does not say which of the tag's 96 they are,
nor what DATA holds where nothing failed: the low 64 bits, and the record's KIND (log 49). DESIGN CHOICE. -/
def State.deadLetter (s : State) (ctx : Nat) (t : Stamp) (vc kind : Nat) (payload : List Byte) (handle : Nat) : State :=
  let c := s.ctx ctx
  let base := s.package * 2 ^ 43 + c.dlbase
  let s := s.deviceMeet [lineOf base]
  let tail := s.num base 8
  let slot := base + 64 + 320 * (tail % 2 ^ c.dllog2n)
  let s := s.deviceMeet (linesOf (keysOf slot 320))
  let lost := (s.badIn base 64).isSome || (s.badIn slot 320).isSome
  let s := s.event 0x06 (dieOf (handle % 1024)) ctx (tagNum ctx t % 2 ^ 64) (if lost then FCode.uncorrectable.num else kind)
  if lost then s
  else if 2 ^ c.dllog2n ≤ (tail + 2 ^ 64 - s.num (base + 8) 8) % 2 ^ 64 then
    s.deviceWrite (placeBytes (base + 16) (bytesOfNat 8 (s.num (base + 16) 8 + 1)))
  else
    (s.deviceWrite (placeBytes slot (letterBytes ctx t vc kind payload s.podtime handle))).deviceWrite
      (placeBytes base (bytesOfNat 8 (tail + 1)))

/-- R380: a one-delta batch, a decrement, to the load's tracker. -/
def State.sendDelta (s : State) (l : Load) (src : Nat) (k : Key) (d : Int) : State :=
  s.inject 3 l.id src l.tracker (.batch { load := l.id, deltas := [(k, d)], decs := [(k, d.natAbs)] }) []

/-- R212: the task slot of a load's task. -/
def Load.taskRef (l : Load) (n : Nat) : TaskRef := match l.cfg.tasks[n]? with
  | some c => ⟨l.beds.getD c.bed 0 * 4 + c.tile, c.elem, c.slot⟩
  | none => ⟨0, 0, 0⟩

/-- The tile of a location of a load. -/
def Load.tileAt (l : Load) (p : Place) : Nat := l.beds.getD p.bed 0 * 4 + p.tile

/-- The location of a virtual channel of an element of a load. -/
def Load.placeAt (l : Load) (e : ElemRef) (vc : Nat) : Place := ⟨l.beds.idxOf (bedOf e.tile), e.tile % 4, e.elem, vc⟩

/-- The task that a channel at a location belongs to. -/
def Load.receiver (l : Load) (p : Place) : Option Nat := (l.cfg.chans.find? fun c => c.place == p).map (·.task)

/-- R213: a message for an Exited task: the dead-letter queue, and the decrement. -/
def State.deadMessage (s : State) (m : Msg) (e : ElemRef) (t : TaskRef) (kind : Nat) : State :=
  let s := s.deadLetter m.ctx m.stamp m.vc kind m.payload (s.handle t)
  match s.load m.load with
  | some l => s.sendDelta l (routerOf e.tile) ⟨false, l.placeAt e m.vc, m.stamp⟩ (-(m.count : Int))
  | none => s

/-- R210: the loop that a channel number is the ingress or the feedback of. -/
def LoadCfg.loopOf (c : LoadCfg) (n : Nat) : Option Nat :=
  let i := c.loops.findIdx fun l => l.ingress == n || l.feedback == n
  if i < c.loops.length then some i else none

/-- The number of the channel of a location that a message came on; a message of a loop names its stamp's loop by either of
the two channels, which share the bound. -/
def Load.chanAt (l : Load) (p : Place) : Option Nat :=
  let i := l.cfg.chans.findIdx fun c => c.place == p
  if i < l.cfg.chans.length then some i else none

/-- Changes the state of a loop of a load. -/
def Load.modLoop (l : Load) (i : Nat) (f : LoopState → LoopState) : Load :=
  if l.loops.any fun y => y.loop == i then { l with loops := l.loops.map fun y => if y.loop = i then f y else y }
  else { l with loops := l.loops ++ [f { loop := i }] }

/-- R387: a message of a loop's ingress or feedback that ends before it is admitted: its decrement is none of an admitted one. -/
def State.deadBefore (s : State) (m : Msg) (p : Place) : State := match s.load m.load with
  | some l => match (l.chanAt p).bind l.cfg.loopOf with
    | some i => s.modLoad l.id fun l => l.modLoop i fun x => { x with dead := x.dead ++ [(m.stamp, m.count)] }
    | none => s
  | none => s

/-- R213: a message that no element has taken, for an Exited task, or that the fabric ends (R438, R444): the dead letters. -/
def State.deadUntaken (s : State) (m : Msg) (e : ElemRef) (t : TaskRef) (kind : Nat) : State := match s.load m.load with
  | some l => (s.deadBefore m (l.placeAt e m.vc)).deadMessage m e t kind
  | none => s.deadMessage m e t kind

/-- R213, R380: a notification for an Exited task. -/
def State.deadNote (s : State) (n : Note) : State := match s.load n.load with
  | some l =>
    let s := s.deadLetter l.ctx n.stamp n.place.vc 1 (bytesOfNat 4 n.count) (s.handle n.task)
    s.sendDelta l (routerOf n.task.tile) ⟨true, n.place, n.stamp⟩ (-(n.count : Int))
  | none => s

/-! Matching (R200, R204, R206). -/

/-- R200: an activation becomes pending; an Idle task becomes Ready. -/
def State.pend (s : State) (t : TaskRef) (a : Activation) : State :=
  s.modTask t fun k =>
    { k with pending := k.pending ++ [{ a with since := s.cycle }], phase := if k.phase == Phase.idle then Phase.ready else k.phase }

/-- R206: messages of a tag on a channel that activations of a task hold already. -/
def Task.claims (k : Task) (vc : Nat) (t : Stamp) : Nat :=
  ((k.pending ++ k.dropped ++ k.act.toList).filter fun a => a.stamp == t && a.msgs.any fun m => m.vc == vc).length

/-- R206: the oldest message of a tag on a channel that no activation holds. -/
def State.oldest (s : State) (e : ElemRef) (t : TaskRef) (vc : Nat) (st : Stamp) : Option Msg :=
  (((s.elem e).vcs.get vc {}).queue.filter fun m => m.stamp == st)[(s.task t).claims vc st]?

/-- R206: the activation of a full set of inputs. -/
def State.activate (s : State) (e : ElemRef) (t : TaskRef) (st : Stamp) : State :=
  s.pend t { stamp := st, msgs := (s.inputs t).filterMap fun vc => s.oldest e t vc st }

/-- R197, R206: one arrival is matched; a join's arrival that finds its bit set, or a full store, stays unmatched. -/
def State.matchOne (s : State) (e : ElemRef) (t : TaskRef) (st : Stamp) (vc : Nat) : State × Bool :=
  if (s.inputs t).length ≤ 1 then (s.activate e t st, true)
  else
    let store := (s.elem e).store
    match store.find? fun x => x.1 == t.slot && x.2.1 == st with
    | some x =>
      if vc ∈ x.2.2 then (s, false)
      else if (s.inputs t).all fun v => decide (v ∈ vc :: x.2.2) then
        ((s.modElem e fun m => { m with store := m.store.filter fun y => decide (y ≠ x) }).activate e t st, true)
      else (s.modElem e fun m => { m with store := m.store.map fun y => if y = x then (x.1, x.2.1, vc :: x.2.2) else y }, true)
    | none =>
      if store.length < 512 then (s.modElem e fun m => { m with store := m.store ++ [(t.slot, st, [vc])] }, true) else (s, false)

/-- R206: the unmatched arrivals of an element are tried in arrival order. -/
def State.retryList (s : State) (e : ElemRef) : List (Nat × Stamp × Nat) → State
  | [] => s
  | x :: r =>
    let t : TaskRef := ⟨e.tile, e.elem, x.1⟩
    if x.1 ∈ (s.elem e).bound then
      match s.matchOne e t x.2.1 x.2.2 with
      | (s, true) => State.retryList s e r
      | (s, false) => State.retryList (s.modElem e fun m => { m with unmatched := m.unmatched ++ [x] }) e r
    else State.retryList (s.modElem e fun m => { m with unmatched := m.unmatched ++ [x] }) e r

/-- R206: tries every unmatched arrival, n times over, since a match may let an earlier one in. -/
def State.retryTimes (s : State) (e : ElemRef) : Nat → State
  | 0 => s
  | n + 1 =>
    let l := (s.elem e).unmatched
    State.retryTimes ((s.modElem e fun m => { m with unmatched := [] }).retryList e l) e n

/-- R206: tries every unmatched arrival. -/
def State.retry (s : State) (e : ElemRef) : State := s.retryTimes e ((s.elem e).unmatched.length + 1)

/-- R204, R212: a message enters its receive queue; if the task's binding is not in the store it waits there for the fill. -/
def State.enterQueue (s : State) (e : ElemRef) (t : TaskRef) (m : Msg) : State :=
  let s := s.modElem e fun x => { x with
    vcs := x.vcs.put m.vc { x.vcs.get m.vc {} with queue := (x.vcs.get m.vc {}).queue ++ [m] }
    unmatched := x.unmatched ++ [(t.slot, m.stamp, m.vc)] }
  if t.slot ∈ (s.elem e).bound then s.retry e else s.post (.bindingFill t)

/-! Spill (R447 to R449). -/

/-- R443: the spill time-out in cycles, 0 when disabled. -/
def State.spillCycles (s : State) : Nat := s.mgmt.fabtmr.toNat % 2 ^ 16 * Config.cyclesPerUs
/-- R443: the reduction time-out unit in cycles, 0 when disabled. -/
def State.redCycles (s : State) : Nat := s.mgmt.fabtmr.toNat / 2 ^ 16 % 2 ^ 16 * Config.cyclesPerUs

/-- A virtual channel of an element. -/
def State.vc (s : State) (e : ElemRef) (n : Nat) : Vc := (s.elem e).vcs.get n {}
/-- Changes a virtual channel. -/
def State.modVc (s : State) (e : ElemRef) (n : Nat) (f : Vc → Vc) : State :=
  s.modElem e fun x => { x with vcs := x.vcs.put n (f (x.vcs.get n {})) }

/-- R448: writes a message to the channel's overflow ring; a ring that cannot be written sends it to the dead letters (R214). -/
def State.spillOne (s : State) (e : ElemRef) (t : TaskRef) (m : Msg) : State :=
  let v := s.vc e m.vc
  let s := s.modElem e fun x => { x with spills := x.spills + 1 }
  match v.ringBase with
  | none => s.deadMessage m e t 0
  | some base =>
    let slot := base + 320 * ((v.ringHead + v.ring.length) % 64)
    let s := s.deviceMeet (linesOf (keysOf slot 320))
    if (s.badIn slot 320).isSome then s.deadMessage m e t 0
    else
      let s := s.deviceWrite (placeBytes slot (letterBytes m.ctx m.stamp m.vc 0 m.payload s.podtime (s.handle t)))
      s.modVc e m.vc fun v => { v with ring := v.ring ++ [m], spilled := true }

/-- R424: the load is being drained for pre-emption: its backing queues stop delivering. -/
def State.draining (s : State) (id : Nat) : Bool := match s.load id with
  | some l => l.phase == .draining
  | none => false

/-- R448: the queue is filled from the ring's head, else from the messages held; spilled mode ends when both are empty. -/
def State.refill (s : State) (e : ElemRef) (t : TaskRef) (n : Nat) : Nat → State
  | 0 => s
  | k + 1 =>
    let v := s.vc e n
    match v.ring, v.held with
    | m :: r, _ =>
      if s.draining m.load then s
      else if v.queue.length < 16 then
        State.refill ((s.modVc e n fun v => { v with ring := r, ringHead := (v.ringHead + 1) % 64 }).enterQueue e t m) e t n k
      else match v.held with
        | h :: hs =>
          if v.ring.length < 64 then State.refill ((s.modVc e n fun v => { v with held := hs }).spillOne e t { h with port := none }) e t n k else s
        | [] => s
    | [], m :: r =>
      let m := { m with port := none }
      if v.queue.length < 16 then State.refill ((s.modVc e n fun v => { v with held := r }).enterQueue e t m) e t n k
      else if v.spilled then State.refill ((s.modVc e n fun v => { v with held := r }).spillOne e t m) e t n k
      else s
    | [], [] => s.modVc e n fun v => { v with spilled := false }

/-- R204, R447, R448: a message reaches its element: the queue, the ring in spilled mode, or held in its last router's input buffer, whose port is
given for one that came as a packet. -/
def State.arriveAt (s : State) (e : ElemRef) (t : TaskRef) (m : Msg) (port : Option Nat) : State :=
  let v := s.vc e m.vc
  let hold := (s.modVc e m.vc fun v => { v with
    held := v.held ++ [{ m with port := port, until_ := if s.spillCycles = 0 then 0 else s.cycle + s.spillCycles }] }).post (.spillTimeout e m.vc)
  if !v.held.isEmpty then hold
  else if v.spilled then (if v.ring.length < 64 then s.spillOne e t m else hold)
  else if v.queue.length < 16 then s.enterQueue e t m
  else hold

/-- SPILL_TIMEOUT (R447, R449): a free entry takes the held message; else, once its time has passed, the oldest held message of
the channel goes to the ring. -/
def execSpillTimeout (s : State) : Host.Outcome State Fault Refusal :=
  match s.cur.work with
  | some (.spillTimeout e n) =>
    let v := s.vc e n
    match v.held with
    | [] => match v.ring with
      | [] => .next s
      | m :: _ => match s.load m.load with
        | none => .next s
        | some l => .next (s.refill e (match l.receiver (l.placeAt e n) with
          | some k => l.taskRef k
          | none => ⟨e.tile, e.elem, 0⟩) n 80)
    | m :: r =>
      match s.load m.load with
      | none => .next s
      | some l =>
        let t := match l.receiver (l.placeAt e n) with
          | some k => l.taskRef k
          | none => ⟨e.tile, e.elem, 0⟩
        let late := v.held.any fun h => h.until_ != 0 && decide (h.until_ ≤ s.cycle)
        if v.queue.length < 16 ∨ v.spilled then .next (s.refill e t n 80)
        else if late ∧ v.ring.length < 64 ∧ v.ringBase.isSome then
          let s := (s.modVc e n fun v => { v with held := r }).spillOne e t { m with port := none }
          .next (s.refill e t n 80)
        else .next (s.post (.spillTimeout e n))
  | _ => .next s

/-! Loops at their ingress and feedback (R210). -/

/-- R210: stamps that share one in-flight set: c0 and every coordinate outside the loop are equal. -/
def sameSet (a b : Stamp) : Bool :=
  a.depth == b.depth && a.c0 == b.c0 && (decide (a.depth < 2) || a.c1 == b.c1) && (decide (a.depth < 3) || a.c2 == b.c2)

/-- R210: whether the loop-bound element lets a message pass at once. -/
def LoopState.admits (l : LoopState) (k : Nat) (t : Stamp) : Bool :=
  (l.flight.any fun f => f.1 == t) || decide ((l.flight.filter fun f => sameSet f.1 t).length < k)

/-- R426: a bed's loop-bound elements share 640 stamps in flight. -/
def Load.stampRoom (l : Load) (i : Nat) : Bool :=
  let bed (n : Nat) : Option Nat := match l.cfg.loops[n]? with
    | some c => (l.cfg.chans[c.ingress]?).map fun h => h.place.bed
    | none => none
  decide ((l.loops.filter fun x => bed x.loop == bed i).foldl (fun n x => n + x.flight.length) 0 < 640)

/-- R210, R387: counts an admitted message of a stamp, as many times as it is counted at its key (R446). -/
def LoopState.pass (l : LoopState) (t : Stamp) (n : Nat) : LoopState :=
  if l.flight.any fun f => f.1 == t then { l with flight := l.flight.map fun f => if f.1 = t then (f.1, f.2.1 + n, f.2.2) else f }
  else { l with flight := l.flight ++ [(t, n, 0)] }

/-- MESSAGE_ARRIVE's effect (R204, R206, R210, R213): a message on a loop's ingress or feedback passes the loop-bound element first; for
an Exited task it goes to the dead letters, admitted if its stamp is in flight. -/
def State.takeMessage (s : State) (e : ElemRef) (m : Msg) (port : Option Nat) : State := match s.load m.load with
  | none => s
  | some l =>
    let p := l.placeAt e m.vc
    match l.receiver p, l.chanAt p with
    | some k, some c =>
      let t := l.taskRef k
      if l.phase == .saved then
        s.modLoad l.id fun l => { l with saved := l.saved.map fun x => { x with back := x.back ++ [(c, m)] } }
      else match l.cfg.loopOf c with
        | some i =>
          let ls := (l.loops.find? fun x => x.loop == i).getD { loop := i }
          let bound := match l.cfg.loops[i]? with
            | some x => x.k
            | none => 0
          let inFlight := ls.flight.any fun f => f.1 == m.stamp
          let passed : State := s.modLoad l.id fun l => l.modLoop i fun x => x.pass m.stamp m.count
          if (s.task t).phase == .exited then (if inFlight then passed.deadMessage m e t 0 else s.deadUntaken m e t 0)
          else if ls.waiting.isEmpty && ls.admits bound m.stamp && l.stampRoom i || inFlight then passed.arriveAt e t m port
          else (s.modLoad l.id fun l => l.modLoop i fun x => { x with waiting := x.waiting ++ [{ m with elem := e.tile * 16 + e.elem }] }).post (.loopAdmit l.id i)
        | none => if (s.task t).phase == .exited then s.deadMessage m e t 0 else s.arriveAt e t m port
    | _, _ => s

/-- The task that takes a message which waits at a loop, whose element stands with its tile. -/
def Load.takerOf (l : Load) (m : Msg) : TaskRef :=
  let e : ElemRef := ⟨m.elem / 16, m.elem % 16⟩
  match l.receiver (l.placeAt e m.vc) with
  | some k => l.taskRef k
  | none => ⟨e.tile, e.elem, 0⟩

/-- The lowest issue key among waiting messages (R210). -/
def lowestWaiting (l : List Msg) : Option Msg :=
  l.foldl (fun (b : Option Msg) m => match b with
    | some x => if m.stamp.issue < x.stamp.issue then some m else b
    | none => some m) none

/-- LOOP_ADMIT (R210): admits the stamp with the lowest issue key among those waiting whose set has room: all its waiting messages pass at once, in
the order in which they came. -/
def execLoopAdmit (s : State) : Host.Outcome State Fault Refusal :=
  match s.cur.work with
  | some (.loopAdmit id i) => match s.load id with
    | none => .next s
    | some l => match l.loops.find? fun x => x.loop == i, l.cfg.loops[i]? with
      | some ls, some cfg => match lowestWaiting (ls.waiting.filter fun m => ls.flight.any (fun f => f.1 == m.stamp) || ls.admits cfg.k m.stamp && l.stampRoom i) with
        | none => .next s
        | some m =>
          let go := ls.waiting.filter fun x => x.stamp == m.stamp
          let ls := go.foldl (fun (y : LoopState) x => y.pass x.stamp x.count) { ls with waiting := ls.waiting.filter fun x => x.stamp != m.stamp }
          let s := s.modLoad id fun l => l.modLoop i fun _ => ls
          let s := if ls.waiting.isEmpty then s else s.post (.loopAdmit id i)
          .next (go.foldl (fun (s : State) x => s.arriveAt ⟨x.elem / 16, x.elem % 16⟩ (l.takerOf x) { x with elem := x.elem % 16 } none) s)
      | _, _ => .next s
  | _ => .next s

/-- R204, R433, R438: a message that must arrive before this one: it has left the last router's output before it, or the same task sent it on the
same channel before, whatever route it takes. -/
def State.messageBefore (s : State) (p : Packet) (m : Msg) : Bool :=
  let chan (q : Packet) : Bool := q.dest == p.dest && match q.payload with
    | .message n => n.load == m.load && n.elem == m.elem && n.vc == m.vc
    | _ => false
  s.packets.any fun q => q.lost.isNone
    && (p.sameStream q && decide (q.id < p.id) || chan q && q.out != 0 && decide (q.out < p.out) && !(q.by_.isSome && q.by_ == p.by_))

/-- MESSAGE_ARRIVE (R206): messages of one channel arrive in the order they came (R204). -/
def execMessageArrive (s : State) : Host.Outcome State Fault Refusal :=
  match s.cur.work with
  | some (.messageArrive id) => match s.packet id with
    | none => .next s
    | some p => match p.payload with
      | .message m =>
        if s.messageBefore p m then .next (s.post (.messageArrive id))
        else
          let s := { s with packets := s.packets.filter fun q => decide (q.id ≠ id) }
          .next (s.takeMessage ⟨p.at_, m.elem⟩ m (if p.slot.isSome then none else some p.inp))
      | _ => .next s
  | _ => .next s

/-! Reduction groups (R440 to R446). -/

/-- R441: where a partial result of contributors goes next in a tree: the node, which child it is there, and its height; none
at the root. A pair node is level × 64 + index, a seq node its number. -/
def pairUp (n : Nat) : Nat → Nat → Nat → Option (Nat × Bool × Nat)
  | 0, _, _ => none
  | k + 1, lvl, j =>
    let count := (n + 2 ^ lvl - 1) / 2 ^ lvl
    if count ≤ 1 then none
    else if (if j % 2 = 0 then j + 1 else j - 1) < count then some ((lvl + 1) * 64 + j / 2, j % 2 == 1, lvl + 1)
    else pairUp n k (lvl + 1) (j / 2)

/-- R441: the first node of a contributor. -/
def GroupCfg.start (g : GroupCfg) (i : Nat) : Option (Nat × Bool × Nat) :=
  let n := g.members.length
  if g.seq then (if n ≤ 1 then none else if i = 0 then some (1, false, 1) else some (i, true, i)) else pairUp n 7 0 i

/-- R441: the node after a node. -/
def GroupCfg.up (g : GroupCfg) (node : Nat) : Option (Nat × Bool × Nat) :=
  let n := g.members.length
  if g.seq then (if n ≤ node + 1 then none else some (node + 1, false, node + 1)) else pairUp n 7 (node / 64) (node % 64)

/-- R441: the height of a node. -/
def GroupCfg.height (g : GroupCfg) (node : Nat) : Nat := if g.seq then node else node / 64

/-- R440: a node's result of two elements. -/
def RedOp.apply (o : RedOp) (ftz : Bool) (a b : BitVec 32) : BitVec 32 := match o with
  | .fadd => BitVec.ofNat 32 (fp32.add .rne ftz a.toNat b.toNat)
  | .fmax => BitVec.ofNat 32 (fp32.minmax ftz true a.toNat b.toNat)
  | .iadd => a + b
  | .imax => if a.toInt < b.toInt then b else a
  | .wmax => if a < b then b else a

/-- R442: elementwise, an element present in one child only passing unchanged. -/
def RedOp.zip (o : RedOp) (ftz : Bool) : List (BitVec 32) → List (BitVec 32) → List (BitVec 32)
  | a :: r, b :: t => o.apply ftz a b :: RedOp.zip o ftz r t
  | [], l => l
  | l, [] => l

/-- Bits set in a mask. -/
def maskCount (m : Nat) : Nat := ((List.range 64).filter fun i => m.testBit i).length

/-- R446: the payload of a reduced message. -/
def reducedPayload (n : Nat) (elems : List (BitVec 32)) (mask : Nat) : List Byte :=
  let data := (elems.flatMap fun w => bytesOfNat 4 w.toNat).take 224
  let miss := 2 ^ n - 1 - mask % 2 ^ n
  (data ++ List.replicate (224 - data.length) 0) ++ bytesOfNat 8 (if miss = 0 then 0 else 4) ++ bytesOfNat 8 (maskCount mask)
    ++ bytesOfNat 8 miss ++ List.replicate 8 0

/-- The location and tile of a reduction group's receiver. -/
def Load.groupPlace (l : Load) (g : GroupCfg) : Place := match l.cfg.chans[g.members.headD 0]? with
  | some c => c.place
  | none => ⟨0, 0, 0, 0⟩

/-- R442, R446: a partial result leaves a node: to the next node, or as the reduced message of the root. -/
def State.forwardReduced (s : State) (l : Load) (gi : Nat) (g : GroupCfg) (next : Option (Nat × Bool × Nat)) (t : Stamp)
    (elems : List (BitVec 32)) (mask : Nat) (ftz : Bool) : State :=
  let p := l.groupPlace g
  let r := routerOf (l.tileAt p)
  match next with
  | some (node, child, _) => s.inject 4 l.id r r (.contribution gi node child t elems mask ftz) []
  | none =>
    let m : Msg :=
      { ctx := l.ctx, stamp := t, payload := reducedPayload g.members.length elems mask, load := l.id, elem := p.elem, vc := p.vc,
        count := maskCount mask }
    s.inject 2 l.id r r (.message m) []

/-- R438, R444, R445: a reduction packet goes to the dead letters, as late or as undeliverable, and its count is decremented. -/
def State.lateReduced (s : State) (l : Load) (g : GroupCfg) (t : Stamp) (elems : List (BitVec 32)) (mask kind : Nat) : State :=
  let p := l.groupPlace g
  let e : ElemRef := ⟨l.tileAt p, p.elem⟩
  let ref := match l.receiver p with
    | some k => l.taskRef k
    | none => ⟨e.tile, e.elem, 0⟩
  s.deadUntaken { ctx := l.ctx, stamp := t, payload := (elems.flatMap fun w => bytesOfNat 4 w.toNat).take 256, load := l.id, elem := p.elem,
                  vc := p.vc, count := maskCount mask } e ref kind

/-- Replaces the entry of a node's stamp. -/
def putNode (l : List RedNode) (x : RedNode) : List RedNode := match l with
  | [] => [x]
  | y :: r => if y.group = x.group ∧ y.node = x.node ∧ y.stamp = x.stamp then x :: r else y :: putNode r x

/-- R444: a node forwards the one child that it holds. -/
def State.forwardLone (s : State) (l : Load) (gi : Nat) (g : GroupCfg) (x : RedNode) : State := match (match x.a with | some a => some a | none => x.b) with
  | some a =>
    let s := s.modLoad l.id fun l => { l with nodes := putNode l.nodes { x with a := none, b := none, sent := true } }
    s.forwardReduced l gi g (g.up x.node) x.stamp a.1 a.2.1 a.2.2
  | none => s

/-- REDUCTION_NODE_ARRIVE's effect (R442, R445); a child that comes once the time of the other one has passed is late (R444). -/
def State.nodeArrive (s : State) (l : Load) (gi node : Nat) (child : Bool) (t : Stamp) (elems : List (BitVec 32)) (mask : Nat) (ftz : Bool) :
    State := match l.cfg.groups[gi]? with
  | none => s
  | some g =>
    let x := (l.nodes.find? fun y => y.group == gi && y.node == node && y.stamp == t).getD { group := gi, node := node, stamp := t }
    if x.sent || (if child then x.b.isSome else x.a.isSome) then s.lateReduced l g t elems mask 2
    else if (x.a.isSome || x.b.isSome) && x.until_ != 0 && decide (x.until_ ≤ s.cycle) then (s.forwardLone l gi g x).lateReduced l g t elems mask 2
    else
      let mine := some (elems, mask, ftz)
      let x := if child then { x with b := mine } else { x with a := mine }
      match x.a, x.b with
      | some a, some b =>
        let f := a.2.2 || b.2.2
        let s := s.modLoad l.id fun l => { l with nodes := putNode l.nodes { x with a := none, b := none, sent := true } }
        s.forwardReduced l gi g (g.up node) t (g.op.zip f a.1 b.1) (a.2.1 ||| b.2.1) f
      | _, _ =>
        let s := s.modLoad l.id fun l => { l with nodes := putNode l.nodes { x with until_ := if s.redCycles = 0 then 0 else s.cycle + s.redCycles * g.height node } }
        if s.redCycles = 0 then s else s.post (.reductionTimeout l.id gi node (tagNum 0 t))

/-- REDUCTION_NODE_ARRIVE (R442). -/
def execReductionNodeArrive (s : State) : Host.Outcome State Fault Refusal :=
  match s.cur.work with
  | some (.reductionNodeArrive id) => match s.packet id with
    | none => .next s
    | some p =>
      let s := { s with packets := s.packets.filter fun q => decide (q.id ≠ id) }
      match p.payload, s.load p.load with
      | .contribution gi node child t elems mask ftz, some l => .next (s.nodeArrive l gi node child t elems mask ftz)
      | _, _ => .next s
  | _ => .next s

/-- REDUCTION_TIMEOUT (R444): one child alone is forwarded REDTO × h after it arrived. -/
def execReductionTimeout (s : State) : Host.Outcome State Fault Refusal :=
  match s.cur.work with
  | some (.reductionTimeout id gi node key) => match s.load id with
    | none => .next s
    | some l => match l.cfg.groups[gi]?, l.nodes.find? fun y => y.group == gi && y.node == node && tagNum 0 y.stamp == key with
      | some g, some x =>
        if x.sent then .next s
        else if s.cycle < x.until_ then .next (s.post (.reductionTimeout id gi node key))
        else .next (s.forwardLone l gi g x)
      | _, _ => .next s
  | _ => .next s

/-! Custody (R437, R438). -/

/-- An engine record (R336, R438, R456, R467). -/
def State.engineRecord (s : State) (ctx tile unit : Nat) (code : FCode) (cause addr auxA auxB : Nat) : State :=
  s.sendRecord { code := code, cause := cause, kind := 1, ctx := ctx, unit := unit, handle := tile, addr := addr, auxA := auxA, auxB := auxB,
                 time := s.podtime, epoch := s.epochAt tile } false

/-- R456: a token waits for a write. -/
def Token.waitsFor (k : Token) (r : Req) : Bool :=
  (k.refs.any fun x => x.store && x.serial == r.serial && x.idx == r.idx) || k.fences.any fun f => decide (r.serial < f)

/-- R456: the OTOK or FENCE of a block whose release waits for a write: the lowest index, or none. -/
def Firing.waitsFor (f : Firing) (r : Req) : Option Nat :=
  let fed := (f.slots.filter fun x => x.2.tok.any fun k => k.waitsFor r).map (·.1)
  (List.range f.words.length).find? fun i => decide (i ∈ f.fired) && match f.words[i]? with
    | some w => (bits 55 9 w == 0x119 || bits 55 9 w == 0x11B) && (targetsOf w).any fun t => decide (t ∈ fed)
    | none => false

/-- R438, R456: a committed write has had no reply: it may be lost; the record goes to the trap operator with the engine cause that says
why, and a block whose token waits for it faults. An engine's write fails its command (R336). -/
def State.writeLost (s : State) (r : Req) (cause : Nat) (link : Bool) : State := match r.task with
  | none => if r.eng.isSome then s.finish r.id (failWith { code := .uncorrectable, cause := cause, link := link, acc := .write, addr := r.va })
      else s.dropReq r.id
  | some t =>
    let s := s.sendRecord
      { code := .engineFault, cause := cause, kind := 1, link := link, acc := .write, ctx := r.ctx, handle := t.tile, addr := r.va,
        time := s.podtime, epoch := s.epochOf (s.task t).launch } false
    let hit := (s.task t).flights.zipIdx.filterMap fun f => (f.1.waitsFor r).map fun i => (f.2, i)
    let s := hit.foldl (fun (s : State) x => s.raise t x.1
      { code := .uncorrectable, link := link, acc := .write, addr := r.loc, auxB := r.va, index := x.2 }) s
    (s.dropReq r.id).takeFault t

/-- The access kind of an operation (R467). -/
def Op.acc : Op → Acc
  | .load _ _ | .pair | .vload _ | .lds _ | .achase _ _ _ | .flush | .inval => .read
  | .store _ | .sts _ | .stclr _ => .write
  | _ => .atomic

/-- R438: an error notice reaches the source of a packet that no route carries on; p names the router it was to go to. -/
def State.errorNotice (s : State) (p : Packet) : State :=
  let s := { s with packets := s.packets.filter fun q => decide (q.id ≠ p.id) }
  match p.payload, s.load p.load with
  | .request id, _ => match s.req id with
    | some r => match r.op with
      | .store _ => s.writeLost r 23 false
      | _ => (s.modReq id fun q => { q with back := true }).finish id (failWith { code := .uncorrectable, addr := r.loc, auxB := r.va, acc := r.op.acc })
    | none => s
  | .reply id, _ => (s.modReq id fun q => { q with back := true }).post (.longLatencyResult id)
  | .message m, some l =>
    let e : ElemRef := ⟨p.dest, m.elem⟩
    let t := match l.receiver (l.placeAt e m.vc) with
      | some k => l.taskRef k
      | none => ⟨e.tile, e.elem, 0⟩
    (s.deadUntaken m e t 3).engineRecord l.ctx p.at_ 0 .engineFault 23 0 0 0
  | .note n, some l => (s.deadNote n).engineRecord l.ctx p.at_ 0 .engineFault 23 0 0 0
  | .contribution gi _ _ t elems mask _, some l => match l.cfg.groups[gi]? with
    | some g => (s.lateReduced l g t elems mask 3).engineRecord l.ctx p.at_ 0 .engineFault 23 0 0 0
    | none => s
  | .batch b, some l =>
    -- it is applied at its tracker all the same: its decrements and increments stand (R438, R213)
    let k := (b.deltas.map (·.1)).headD ⟨false, ⟨0, 0, 0, 0⟩, {}⟩
    let s := (s.deadLetter l.ctx k.stamp k.place.vc 3 [] (s.handle ((l.receiver k.place).elim ⟨0, 0, 0⟩ l.taskRef))).engineRecord l.ctx p.at_ 0 .engineFault 23 0 0 0
    ({ s with packets := s.packets ++ [{ p with at_ := p.dest, payload := .batch b, recs := [], buffered := false, lost := none }] } : State).post (.batchApply p.id)
  | .ack t n, _ => s.post (.batchAck t n)
  | .ackSplit b, _ => s.splitAck p.load p.dest b
  | _, _ => s

/-- R438: the custodian of a packet that no route carries on sends the notice of it to its source on network 5; one that stands at its source, or
finds no route there either, takes effect at once. -/
def State.sendNotice (s : State) (p : Packet) : State :=
  let s := s.depart p
  match (if p.at_ = p.src then none else s.routeFor p.at_ p.src) with
  | none => s.errorNotice { p with dest := p.lost.getD p.dest }
  | some route =>
    let q := { p with net := 5, lost := some (p.lost.getD p.dest), dest := p.src, route := route, recs := [], buffered := false, slot := none, after := [] }
    ({ s with packets := s.packets.map fun x => if x.id = p.id then q else x } : State).post (.packetAccept p.id)

/-- A packet at its destination becomes the step that takes it. -/
def State.deliverPacket (s : State) (p : Packet) : State :=
  let s := s.depart p
  let gone : State := { s with packets := s.packets.filter fun q => decide (q.id ≠ p.id) }
  let s : State := { s with packets := s.packets.map fun (q : Packet) => if q.id = p.id then { q with out := s.tick + 1 } else q }
  match p.lost with
  | some d => gone.errorNotice { p with dest := d }
  | none =>
  match p.payload with
  | .reply id => (gone.modReq id fun q => { q with back := true }).post (.longLatencyResult id)
  | .message _ => s.post (.messageArrive p.id)
  | .note _ => s.post (.notificationArrive p.id)
  | .batch _ => s.post (.batchApply p.id)
  | .ack t n => gone.post (.batchAck t n)
  | .ackSplit b => gone.splitAck p.load p.at_ b
  | .contribution _ _ _ _ _ _ _ => s.post (.reductionNodeArrive p.id)
  | .request id => match s.req id with
    | some r => if 1024 ≤ p.at_ then gone.post (.linkRequestArrive id 0) else gone.arriveHome r
    | none => gone

/-- R433: packets of one input, network and destination keep their order, of those that are free to leave. -/
def State.packetTurn (s : State) (p : Packet) : Bool :=
  match s.packets.find? fun (q : Packet) =>
      q.at_ == p.at_ && q.net == p.net && q.dest == p.dest && q.inp == p.inp && q.slot.isNone && q.out == 0 && s.packetFree q with
  | some q => q.id == p.id
  | none => true

/-- R433, R435: an output serves its circuit flits first: one that is due leaves before a best-effort packet; a claimed slot that finds no
flit carries best-effort traffic. -/
def State.circuitFirst (s : State) (p : Packet) : Bool :=
  s.packets.any fun q => q.at_ == p.at_ && q.slot.isSome && !q.fresh && q.out == 0 && decide (q.due ≤ s.cycle) && decide (s.outPort p % 8 ∈ s.circuitOuts q)

/-- R433: of the inputs with a packet for one output and network, the one that round robin serves next. -/
def State.robinTurn (s : State) (p : Packet) : Bool :=
  let last := s.served.get (s.outPort p * 8 + p.net) 5
  let rank (q : Packet) : Nat := (q.inp + 6 - last % 6 - 1) % 6
  !(s.packets.any fun q => q.at_ == p.at_ && q.net == p.net && q.slot.isNone && s.outPort q == s.outPort p && decide (rank q < rank p)
    && q.out == 0 && !q.fresh && s.packetTurn q)

/-- R432: the next router takes a packet only when its input buffer for the network has room for the whole of it. -/
def State.inputRoom (s : State) (p : Packet) (b : Nat) : Bool := decide (1024 ≤ b) || s.flitRoom b (portFrom p.at_ b) p

/-- R435, R97: circuit flits leave in the order of their slots. -/
def State.slotBefore (s : State) (p : Packet) : Bool :=
  s.packets.any fun q => q.slot.isSome && !q.fresh && q.out == 0 && decide (q.due < p.due)

/-- A packet stands at the next router, where it may merge (R93); the failed sends of its flits are over (R437, R438). -/
def State.arrivePacket (s : State) (p : Packet) (b : Nat) : State :=
  let q := { p with at_ := b, inp := if 1024 ≤ b then s.package else portFrom p.at_ b, route := p.route.drop 1, after := [],
                    recs := [], buffered := false }
  let s := s.depart p
  let s := { s with
    packets := (s.packets.filter fun (x : Packet) => decide (x.id ≠ p.id)) ++ [q]
    ports := { s.ports with fails := s.ports.fails.erase (p.at_, portTo p.at_ b) } }
  (s.tryMerge q).post (.packetAccept p.id)

/-- R434, R435: a circuit flit leaves by every output that is connected to its input in its slot, a copy by each. -/
def State.circuitHop (s : State) (p : Packet) : List Nat → State
  | [] => s
  | o :: r =>
    let (p', s) := if r.isEmpty then (p, s) else
      let (id, s) := s.newId
      ({ p with id := id, recs := [] }, { s with packets := s.packets ++ [{ p with id := id, recs := [] }] })
    let s := State.circuitHop s p r
    match neighbour p.at_ o with
    | some b => s.arrivePacket { p' with slot := p.slot.map fun n => (n + slotStep p.at_ b) % 256, due := p.due + slotStep p.at_ b } b
    | none =>
      -- a request for another package has still to pass root die B and its plane's switch (R452)
      if 1024 ≤ p.dest then
        let q := { p' with slot := none, buffered := false, route := (s.routeFor p.at_ p.dest).getD [] }
        ({ s with packets := s.packets.map fun x => if x.id = p'.id then q else x } : State).post (.packetAccept p'.id)
      else
      let q := { p' with dest := p.at_ }
      ({ s with packets := s.packets.map fun x => if x.id = p'.id then q else x } : State).deliverPacket q

/-- R438: a copy of a circuit flit goes best-effort to the end of a branch that a disabled link cuts. -/
def State.sendCopy (s : State) (p : Packet) (dest : Nat) : State :=
  let (id, s) := s.newId
  ({ s with packets := s.packets ++ [{ p with id := id, recs := [], slot := none, buffered := false, dest := dest
                                              route := (s.routeFor p.at_ dest).getD [] }] } : State).post (.packetAccept id)

/-- R434, R435, R438: a circuit flit leaves in its slot; where a disabled link cuts a branch, a copy goes on best-effort to the branch's end, and
one that no claim carries on goes best-effort itself. -/
def State.circuitTurn (s : State) (p : Packet) : State :=
  let cut := s.cutEnds p
  if (s.circuitOuts p).isEmpty then
    let dest := if cut.isEmpty ∨ p.dest ∈ cut then p.dest else cut.headD p.dest
    let s := (cut.filter fun d => decide (d ≠ dest)).foldl (fun (s : State) d => s.sendCopy p d) s
    let q := { p with slot := none, buffered := false, dest := dest, route := (s.routeFor p.at_ dest).getD [] }
    ({ s with packets := s.packets.map fun x => if x.id = p.id then q else x } : State).post (.packetAccept p.id)
  else (cut.foldl (fun (s : State) d => s.sendCopy p d) s).circuitHop p (s.circuitOuts p)

/-- PACKET_ACCEPT (R432, R433, R437): the next router on the route takes custody once it has room, or the destination takes the packet, each output
serving its circuit flits first and its inputs in turn; a circuit flit leaves in its slot (R435). -/
def execPacketAccept (s : State) : Host.Outcome State Fault Refusal :=
  match s.cur.work with
  | some (.packetAccept id) => match s.packet id with
    | none => .next s
    | some p =>
      let again : State := s.post (.packetAccept id)
      if !s.packetFree p then .next again
      else if p.fresh then .next (if s.mayEnter p then (s.enterMesh p).post (.packetAccept id) else again)
      else if p.slot.isSome then .next (if s.cycle < p.due || s.slotBefore p then again else s.circuitTurn p)
      else if !s.packetTurn p then .next again
      else if p.at_ = p.dest then
        let p := { p with route := [] }
        if s.circuitFirst p || !s.robinTurn p then .next again
        else .next (({ s with served := s.served.put (s.outPort p * 8 + p.net) p.inp } : State).deliverPacket p)
      else
        let route := if s.routeOk p.at_ p.route && !p.route.isEmpty then some p.route else s.routeFor p.at_ p.dest
        match route with
        | none => .next (s.sendNotice p)
        | some [] => .next (s.sendNotice p)
        | some (b :: r) =>
          let p := { p with route := b :: r }
          if s.circuitFirst p || !s.robinTurn p || !s.inputRoom p b then .next again
          else .next (({ s with served := s.served.put (s.outPort p * 8 + p.net) p.inp } : State).arrivePacket p b)
  | _ => .next s

/-- FLIT_RESEND (R437, R438): a flit failed its CRC; the eighth failure disables the link. A packet moves whole, so the flits of one packet are not
told apart (log 15). DESIGN CHOICE. -/
def execFlitResend (s : State) : Host.Outcome State Fault Refusal :=
  match s.cur.work with
  | some (.flitResend router port) =>
    let n := s.ports.fails.get (router, port) 0 + 1
    let s := { s with ports := { s.ports with fails := s.ports.fails.put (router, port) n } }
    .next (if 8 ≤ n then s.post (.linkDisable router port) else s)
  | _ => .next s

/-- LINK_DISABLE (R438): the link is out of use, the event is recorded, and level-2 launches with a circuit on it have lost it. -/
def execLinkDisable (s : State) : Host.Outcome State Fault Refusal :=
  match s.cur.work with
  | some (.linkDisable router port) =>
    if (router, port) ∈ s.ports.links then .next s
    else
      let lost := (s.loads.filter fun l => l.claims.any fun c => c.router == router && c.out == port).map (·.launch)
      let s := { s with
        ports := { s.ports with links := (router, port) :: s.ports.links }
        launches := s.launches.map fun (x : Launch) => if x.id ∈ lost ∧ x.level = 2 then { x with lost := true } else x }
      .next (s.event 0x05 (router / 64) 0 (router * 8 + port) 8)
  | _ => .next s

end Sys2Proof.Machine
end

