-- ==== Sys2Proof/Machine/MemOps.lean ====
section
/-! DEFINITION. Memory, atomic, structure, list and token instructions, timelines (spec/13_memory_sync_ops.md R296 to R324). -/

namespace Sys2Proof

/-- Bytes of an access size. -/
def Size.num : Size → Nat | .b1 => 1 | .b2 => 2 | .b4 => 4 | .b8 => 8
/-- Bytes of an atomic size. -/
def ASize.num : ASize → Nat | .b4 => 4 | .b8 => 8
/-- Levels of scopes, the narrower the lower (R133). -/
def Scope.level : Scope → Nat | .element => 0 | .tile => 1 | .bed => 2 | .die => 3 | .package => 4 | .pod => 5

end Sys2Proof

namespace Sys2Proof.Machine

/-! Vector temporaries within a block (R277). -/

/-- The instructions that results of a set of instructions reach in n more steps. -/
def Firing.closure (f : Firing) : Nat → List Nat → List Nat
  | 0, l => l
  | n + 1, l => Firing.closure f n ((l ++ l.flatMap fun i => (match f.words[i]? with
      | some w => (targetsOf w).map (·.1)
      | none => [])).eraseDups)

/-- R277: a result of one instruction reaches another through targets of the block. -/
def Firing.reaches (f : Firing) (a b : Nat) : Bool :=
  a == b || decide (b ∈ f.closure f.words.length (match f.words[a]? with
    | some w => (targetsOf w).map (·.1)
    | none => []))

/-- R277: one byte of a temporary as a reader sees it (or as commit leaves it): writers in firing order, a free choice where no
chain decides (log 10). The bytes of one element, of the reader and of the writer, are taken together. -/
def Firing.vtByte (f : Firing) (old : Byte) (reader : Option Nat) (vt off tick unit : Nat) : Byte :=
  ((f.vt.filter fun w => w.vt == vt && w.off == off && some w.idx != reader).foldl (fun (b : Byte × Option Nat) w =>
    let sure := (match reader with | some r => f.reaches w.idx r | none => true)
      && (match b.2 with | some x => f.reaches x w.idx | none => true)
    if sure || Config.freeBit tick (off / max unit w.unit * 256 + w.idx * 2) then (w.byte, some w.idx) else b) (old, none)).1

/-- A byte of the task's committed temporary. -/
def Task.vtOld (k : Task) (vt off : Nat) : Byte := bits (8 * off) 8 (k.vt.getD vt 0)

/-- n bytes of a temporary at an offset, as the cursor's instruction reads them. -/
def State.vtRead (s : State) (vt off n : Nat) : List Byte := match s.here with
  | some f => (List.range n).map fun i => f.vtByte ((s.task s.cur.task).vtOld vt (off + i)) (some s.cur.idx) vt (off + i) s.tick n
  | none => List.replicate n 0

/-- Writes bytes into the working copy of a temporary of a block (R277). -/
def Firing.vtPut (f : Firing) (idx vt off : Nat) (l : List Byte) : Firing :=
  { f with vt := f.vt ++ (l.zipIdx.map fun b => (⟨idx, vt, off + b.2, b.1, l.length⟩ : VtWrite)) }

/-! Sending. -/

/-- R300: a memory instruction that is sent: the request, and its way to the home. -/
def State.issue (s : State) (op : Op) (key va : Nat) (use : Option LineUse) : State :=
  let (id, s) := s.sendReq op key va use
  s.route id

/-- R105: the line of a write with the epoch the issuing die attaches, and the D bit of R19. -/
def State.forWrite (s : State) (ctx tile va key : Nat) (use : Option LineUse) : Option LineUse × State := match use with
  | none => (none, s)
  | some u => (some { u with epoch := s.attachEpoch ctx va u.mtype key }, s.markDirty (dieOf tile) ctx u)

/-- R131: a read of these bytes may be performed now. -/
def State.readReady (s : State) (keys : List Nat) : Bool := match s.here with
  | some f => !s.behindWrite s.cur.task f.serial keys && s.clearOfPrevious s.cur.task s.cur.which keys
  | none => false

/-- R131: no earlier block has a write of these payload bytes that still waits for its token. -/
def State.chanReady (s : State) (keys : List Nat) : Bool := match s.here with
  | some f => !s.behindWrite s.cur.task f.serial keys
  | none => false

/-- R232: a line use with the cache hint of the instruction. -/
def withHint (h : Head) (u : Option LineUse) : Option LineUse := u.map fun x => { x with hint := h.ch.toNat }

/-- R8, R10, R11: an access of a number of bytes exceeds its space; in gl only bits [63:56] of its address are looked at (step 1 of R33). -/
def rangeOut (sp : Space) (a n : Nat) : Bool := match sp with
  | .gl => decide (2 ^ 56 ≤ a)
  | .ch => decide (2 ^ 13 ≤ a) || decide (256 < a % 256 + n)
  | _ => decide (spaceSize sp < a + n)

/-! Reads of an instruction's lines that it takes itself (R263, R282). -/

/-- The reads of global memory that the cursor's vector instruction, or its JTAB, has sent. -/
def State.vloads (s : State) : List Req := match s.here with
  | some f => s.reqs.filter fun r => r.task == some s.cur.task && r.serial == f.serial && r.idx == s.cur.idx && match r.op with
      | .vload _ => true
      | _ => false
  | none => []

/-- The cursor's instruction has no more use for the reads it has sent. -/
def State.dropVloads (s : State) : State :=
  let mine := s.vloads.map (·.id)
  let s := { s with reqs := s.reqs.filter fun r => decide (r.id ∉ mine) }
  s.modFlight s.cur.task s.cur.which fun f => { f with vwork := f.vwork.erase s.cur.idx }

/-- R65, R78, R467: the fault of an element of global memory that the reads sent could not bring. -/
def State.lineFault (s : State) (sent : List Req) (n k : Nat) (u : LineUse) : Option Record := match sent.find? fun r => decide (k ∈ r.keys) with
  | some r => match r.answer with
    | some a => match a.fail with
      | some x => some { x with auxB := u.va }
      | none => (a.olds.find? fun b => decide (b.toNat < k + n) && decide (k < b.toNat + 64)).map fun b =>
          { uncorrectable b.toNat u.va .read with link := s.remote b.toNat }
    | none => none
  | none => none

/-! R263: jump tables. -/

/-- One word of a jump table: its value with the state after the read, a walk or a fill to wait for, a request under way, or a fault. -/
inductive TableRead where
  | value (v : Word) (s : State)
  | miss (va : Nat)
  | filling
  | sent (s : State)
  | bad (r : Record)

/-- R78, R263, R456: a word of a table in another package is read by a request over a link, which no order of the task's events holds up. -/
def State.readFar (s : State) (a key : Nat) (u : LineUse) : TableRead := match s.vloads.find? fun r => decide (key ∈ r.keys) with
  | none =>
    let q := s.queueReq (.vload (keysOf key 8)) key a (some u)
    .sent ((q.2.modReq q.1 fun r => { r with order := 0 }).route q.1).begun
  | some r =>
    if !r.returned then .sent s
    else match s.lineFault [r] 8 key { u with va := a } with
      | some x => .bad x
      | none => .value (BitVec.ofNat 64 (numOfCells r.got key 8)) s

/-- R263: ReadTable64, its alignment looked at first; the line is met as by any read (R57, R113). -/
def State.readTable (s : State) (t : TaskRef) (a : Word) : TableRead :=
  if a.toNat % 8 ≠ 0 then .bad { code := .align, addr := a.toNat }
  else match s.check t .gl a 8 8 .read with
  | .miss va => .miss va
  | .bad x => .bad (x.record .read a.toNat)
  | .ok key (some u) =>
    if s.remote key then s.readFar a.toNat key u
    else if s.filling u.line then .filling
    else
      let s := (s.meetLine t.tile (s.task t).ctx u (keysOf key 8)).usePage a.toNat
      match s.badIn key 8 with
      | some b => .bad (uncorrectable b a.toNat .read)
      | none => .value (BitVec.ofNat 64 (s.num key 8)) s
  | .ok _ none => .filling

/-- JTAB (R263). -/
def execJtab (h : Head) (off : BitVec 13) (s : State) : Host.Outcome State Fault Refusal :=
  match s.operandsStore h true true false, s.here with
  | some o, some f => match s.readTable s.cur.task o.a.v with
    | .miss va => .next (s.waitWalk va .read)
    | .filling => .next s
    | .sent s => .next s
    | .bad r => .next (s.dropVloads.fireFault r)
    | .value n s =>
      if n ≤ o.b.v then .next (s.dropVloads.branchTo (f.offset off))
      else match s.readTable s.cur.task (o.a.v + 8 + 8 * o.b.v) with
        | .miss va => .next (s.waitWalk va .read)
        | .filling => .next s
        | .sent s => .next s
        | .bad r => .next (s.dropVloads.fireFault r)
        | .value t s => .next (s.dropVloads.branchTo t)
  | _, _ => .next s

/-- R10: the bytes of the matched message's payload; bytes beyond its length read as zero. -/
def Task.payload (k : Task) (a n : Nat) : List Byte := match k.matched (a / 256) with
  | some m => (List.range n).map fun i => m.payload.getD (a % 256 + i) 0
  | none => List.replicate n 0

/-- R65: the matched message's payload cannot be read. -/
def Task.payloadBad (k : Task) (a : Nat) : Bool := match k.matched (a / 256) with
  | some m => m.bad
  | none => false

/-- LD and LDP at their firing (R304): ch and local reads take place now, gl reads are sent. -/
def State.loadHere (s : State) (h : Head) (sp : Space) (n : Nat) (op : Op) (give : List Byte → Word × Word) (addr : Word) : State :=
  let t := s.cur.task
  if sp ≠ .ch ∧ !s.orderOk false then s
  else match s.check t sp addr n n .read with
  | .miss va => s.waitWalk va .read
  | .bad x => s.fireFault (x.record .read addr.toNat)
  | .ok key use =>
    if sp = .ch then
      if !s.chanReady (keysOf (chKey + key) n) then s
      else if (s.task t).payloadBad key then s.fireFault { code := .uncorrectable, addr := key }
      else
        let v := give ((s.task t).payload key n)
        s.fire h (plain v.1) (plain v.2)
    else if !s.readReady (keysOf key n) then s
    else if sp = .gl then s.issue op key addr.toNat (withHint h use)
    else match s.badIn key n with
      | some u => s.fireFault (uncorrectable u addr.toNat .read)
      | none =>
        let v := give ((keysOf key n).map (s.readByte t s.cur.which s.cur.idx))
        s.fire h ⟨v.1, s.refHere false, none⟩ ⟨v.2, s.refHere false, none⟩

/-- LD (R304). -/
def execLd (h : Head) (sp : Space) (sz : Size) (sx : Bool) (s : State) : Host.Outcome State Fault Refusal :=
  match s.operandsRead h true false false with
  | some o =>
    let n := sz.num
    .next (s.loadHere h sp n (.load n sx) (fun l => let v := readValue n sx (natOfBytes l); (v, v)) o.a.v)
  | none => .next s

/-- LDP (R304). -/
def execLdp (h : Head) (sp : Space) (s : State) : Host.Outcome State Fault Refusal :=
  match s.operandsRead h true false false with
  | some o =>
    .next (s.loadHere h sp 16 .pair
      (fun l => (BitVec.ofNat 64 (natOfBytes (l.take 8)), BitVec.ofNat 64 (natOfBytes (l.drop 8)))) o.a.v)
  | none => .next s

/-- R305: within its own block the result of a store reaches only OTOKs. -/
def Firing.sendOtok (f : Firing) (t : Option Target) (v : SlotVal) : Firing := match t with
  | none => f
  | some x => match f.words[x.idx.toNat]? with
    | some w => if bits 55 9 w == 0x119 then f.arrive x.idx.toNat (Slot.num x.slot) v else f
    | none => f

/-- R217, R225: the store identifier is produced; a second product of it faults. -/
def State.produceStore (s : State) (h : Head) (r : StoreRec) : State := match s.here with
  | none => s
  | some f =>
    if f.stores.any (fun x => x.sid == r.sid) || decide (r.sid ∈ f.nulls) then s.fireFault { code := .blockFormat, detail := r.sid }
    else
      let v : SlotVal := ⟨0, some ⟨f.serial, s.cur.idx, true⟩, none⟩
      (s.modFlight s.cur.task s.cur.which fun f =>
        ((({ f with stores := f.stores ++ [r] } : Firing).sendOtok h.t0 v).sendOtok h.t1 v)).fire0.afterDelivery

/-- ST and STP at their firing (R300, R304): the checks, and the store that commit will issue. -/
def State.storeHere (s : State) (h : Head) (sp : Space) (sid : Nat) (addr : Word) (data : List Byte) (p : SlotVal) : State :=
  let n := data.length
  match s.check s.cur.task sp addr n n .write with
  | .miss va => s.waitWalk va .write
  | .bad x => s.fireFault (x.record .write addr.toNat)
  | .ok key use =>
    if sp = .ch then
      s.produceStore h { idx := s.cur.idx, sid := sid, bytes := [], chan := data.zipIdx.map (fun b => (key / 256, key % 256 + b.2, b.1)), wait := p.tok }
    else s.produceStore h { idx := s.cur.idx, sid := sid, bytes := placeBytes key data, lines := (withHint h use).toList, wait := p.tok }

/-- ST (R304). -/
def execSt (h : Head) (sp : Space) (sz : Size) (sid : BitVec 5) (s : State) : Host.Outcome State Fault Refusal :=
  match s.operandsStore h true true false with
  | some o => .next (s.storeHere h sp sid.toNat o.a.v (bytesOfNat sz.num o.b.v.toNat) o.p)
  | none => .next s

/-- STP (R304). -/
def execStp (h : Head) (sp : Space) (sid : BitVec 5) (s : State) : Host.Outcome State Fault Refusal :=
  match s.operandsStore h true true true with
  | some o => .next (s.storeHere h sp sid.toNat o.a.v (bytesOfNat 8 o.b.v.toNat ++ bytesOfNat 8 o.c.v.toNat) o.p)
  | none => .next s

/-- R306, R34, R65: a prefetch whose translation stands: the line is filled under its class or the hint's, and an uncorrectable error that the
fill finds is recorded; it takes no part in any order. -/
def State.prefetch (s : State) (ctx : Nat) (u : LineUse) : State :=
  if s.allocates u && !s.filling u.line then
    let s := (s.prepare u).allocate u ctx
    match s.badIn u.line 2048 with
    | some b => s.event 0x01 (homeDie u.line) ctx b FCode.uncorrectable.num
    | none => s
  else s

/-- PREF (R306, R34): starts a walk on a miss and fills the line when the translation has come; a fault drops it. -/
def execPref (h : Head) (sp : Space) (s : State) : Host.Outcome State Fault Refusal :=
  match s.operandsRead h true false false with
  | none => .next s
  | some o =>
    if sp = .gl then
      let ctx := (s.task s.cur.task).ctx
      match s.checkFor (dieOf s.cur.task.tile) ctx o.a.v.toNat .cache s.asker with
      | (.ok _ (some u), s) => .next ((s.prefetch ctx { u with hint := h.ch.toNat }).fire h ⟨0, none, none⟩ ⟨0, none, none⟩)
      | (.miss va, _) => .next (s.waitWalk va .cache)
      | (_, s) => .next (s.fire h ⟨0, none, none⟩ ⟨0, none, none⟩)
    else .next (s.fire h ⟨0, none, none⟩ ⟨0, none, none⟩)

/-- FLUSH and INVAL at their firing (R306). -/
def State.cacheOp (s : State) (h : Head) (sp : Space) (op : Op) (addr : Word) : State :=
  match s.check s.cur.task sp addr 1 1 (if sp = .ch then .read else .cache) with
  | .miss va => s.waitWalk va .cache
  | .bad x => s.fireFault (x.record .cache addr.toNat)
  | .ok key use => match use with
    | none => s.fire1 h 0
    | some u =>
      let cached := s.held key || (u.mtype == 4 && (List.range 32).any fun i => decide (u.line / 64 + i ∈ s.hostLines))
      if u.ms || u.mtype == 2 || s.remote key || !cached then s.fire1 h 0
      else s.issue op key addr.toNat (withHint h use)

/-- FLUSH (R306). -/
def execFlush (h : Head) (sp : Space) (s : State) : Host.Outcome State Fault Refusal :=
  match s.operandsRead h true false false with
  | some o => .next (s.cacheOp h sp .flush o.a.v)
  | none => .next s

/-- INVAL (R306). -/
def execInval (h : Head) (sp : Space) (s : State) : Host.Outcome State Fault Refusal :=
  match s.operandsRead h true false false with
  | some o => .next (s.cacheOp h sp .inval o.a.v)
  | none => .next s

/-- LDS (R307). -/
def execLds (h : Head) (sp : Space) (wait : Bool) (s : State) : Host.Outcome State Fault Refusal :=
  match s.operandsRead h true false false with
  | some o => if !s.orderOk true then .next s else match s.check s.cur.task sp o.a.v 8 8 .structRead with
    | .miss va => .next (s.waitWalk va .structRead)
    | .bad x => .next (s.fireFault (x.record .structRead o.a.v.toNat))
    | .ok key use => if s.readReady (keysOf key 8) then .next (s.issue (.lds wait) key o.a.v.toNat use) else .next s
  | none => .next s

/-- STS (R308). -/
def execSts (h : Head) (sp : Space) (s : State) : Host.Outcome State Fault Refusal :=
  match s.operandsSent h true true false with
  | some o => match s.replayHere with
    | some r => .next (s.answerReplay h r false)
    | none => if !s.orderOk true then .next s else match s.check s.cur.task sp o.a.v 8 8 .structWrite with
      | .miss va => .next (s.waitWalk va .structWrite)
      | .bad x => .next (s.fireFault (x.record .structWrite o.a.v.toNat))
      | .ok key use =>
        let (use, s) := s.forWrite (s.task s.cur.task).ctx s.cur.task.tile o.a.v.toNat key use
        .next (s.issue (.sts o.b.v) key o.a.v.toNat use)
  | none => .next s

/-- STCLR (R309). -/
def execStclr (h : Head) (sp : Space) (s : State) : Host.Outcome State Fault Refusal :=
  match s.operandsSent h true true false with
  | some o => match s.replayHere with
    | some r => .next (s.answerReplay h r false)
    | none =>
      let a := o.a.v.toNat
      let n := o.b.v.toNat
      if n = 0 ∨ 256 < n then .next (s.fireFault { code := .addrRange, addr := a, acc := .write })
      else if !s.orderOk true then .next s
      else if !rangeOut sp a (8 * n) && decide (2048 < a % 2048 + 8 * n) then .next (s.fireFault { code := .align, addr := a, acc := .write })
      else match s.check s.cur.task sp o.a.v (8 * n) 8 .structWrite with
        | .miss va => .next (s.waitWalk va .structWrite)
        | .bad x => .next (s.fireFault (x.record .structWrite a))
        | .ok key use =>
          let (use, s) := s.forWrite (s.task s.cur.task).ctx s.cur.task.tile a key use
          .next (s.issue (.stclr n) key a use)
  | none => .next s

/-! Atomics (R310 to R316). -/

/-- An atomic at its firing (R311): the checks, then it is sent; with .c it travels the mesh, where it may merge (R92). -/
def State.atomicHere (s : State) (h : Head) (sp : Space) (addr : Word) (n align f v cmp : Nat) (comb fp : Bool) : State :=
  let t := s.cur.task
  if !s.orderOk true then s
  else match s.check t sp addr n align .atomic with
  | .miss va => s.waitWalk va .atomic
  | .bad x => s.fireFault (x.record .atomic addr.toNat)
  | .ok key use =>
    let ftz := match s.here with
      | some f => f.ftz
      | none => false
    let (use, s) := s.forWrite (s.task t).ctx t.tile addr.toNat key (withHint h use)
    s.issue (.atomic f n v cmp (comb && isGl key) fp ftz) key addr.toNat use

/-- The meaning that the single-word atomics share (R310). -/
def execAtomicWord (f : Nat) (fp : Bool) (h : Head) (sp : Space) (sz : ASize) (m : AMode) (s : State) : Host.Outcome State Fault Refusal :=
  match s.operandsSent h true true false with
  | some o => match s.replayHere with
    | some r => .next (s.answerReplay h r false)
    | none => .next (s.atomicHere h sp o.a.v sz.num sz.num f (o.b.v.toNat % 2 ^ (8 * sz.num)) 0 (m == .comb) fp)
  | none => .next s

/-- AADD (R310, R72). -/
def execAadd (h : Head) (sp : Space) (sz : ASize) (m : AMode) (fp : Bool) (s : State) : Host.Outcome State Fault Refusal :=
  execAtomicWord 0 fp h sp sz m s
/-- AMIN (R310). -/
def execAmin (h : Head) (sp : Space) (sz : ASize) (m : AMode) (s : State) : Host.Outcome State Fault Refusal :=
  execAtomicWord 1 false h sp sz m s
/-- AMAX (R310). -/
def execAmax (h : Head) (sp : Space) (sz : ASize) (m : AMode) (s : State) : Host.Outcome State Fault Refusal :=
  execAtomicWord 2 false h sp sz m s
/-- AMINW (R310). -/
def execAminw (h : Head) (sp : Space) (sz : ASize) (m : AMode) (s : State) : Host.Outcome State Fault Refusal :=
  execAtomicWord 3 false h sp sz m s
/-- AMAXW (R310). -/
def execAmaxw (h : Head) (sp : Space) (sz : ASize) (m : AMode) (s : State) : Host.Outcome State Fault Refusal :=
  execAtomicWord 4 false h sp sz m s
/-- AAND (R310). -/
def execAand (h : Head) (sp : Space) (sz : ASize) (m : AMode) (s : State) : Host.Outcome State Fault Refusal :=
  execAtomicWord 5 false h sp sz m s
/-- AOR (R310). -/
def execAor (h : Head) (sp : Space) (sz : ASize) (m : AMode) (s : State) : Host.Outcome State Fault Refusal :=
  execAtomicWord 6 false h sp sz m s
/-- AXOR (R310). -/
def execAxor (h : Head) (sp : Space) (sz : ASize) (m : AMode) (s : State) : Host.Outcome State Fault Refusal :=
  execAtomicWord 7 false h sp sz m s
/-- ASWP (R310). -/
def execAswp (h : Head) (sp : Space) (sz : ASize) (m : AMode) (s : State) : Host.Outcome State Fault Refusal :=
  execAtomicWord 8 false h sp sz m s

/-- ACAS (R312): slot b the new value, slot c the compare value. -/
def execAcas (h : Head) (sp : Space) (sz : ASize) (sc : Scope) (s : State) : Host.Outcome State Fault Refusal :=
  match s.operandsSent h true true true with
  | some o => match s.replayHere with
    | some r => .next (s.answerReplay h r false)
    | none =>
      let m := 2 ^ (8 * sz.num)
      let _ := sc
      .next (s.atomicHere h sp o.a.v sz.num sz.num 9 (o.b.v.toNat % m) (o.c.v.toNat % m) false false)
  | none => .next s

/-- ABXA (R316): slots b and c are the low and the high half of a 128-bit addend. -/
def execAbxa (h : Head) (sp : Space) (m : AMode) (s : State) : Host.Outcome State Fault Refusal :=
  match s.operandsSent h true true true with
  | some o => match s.replayHere with
    | some r => .next (s.answerReplay h r false)
    | none => .next (s.atomicHere h sp o.a.v 16 16 0 (o.b.v.toNat + o.c.v.toNat * 2 ^ 64) 0 (m == .comb) false)
  | none => .next s

/-- n words of 8 bytes from a list of bytes. -/
def wordsOf : Nat → List Byte → List Word
  | 0, _ => []
  | n + 1, l => BitVec.ofNat 64 (natOfBytes (l.take 8)) :: wordsOf n (l.drop 8)

/-- R313: the old words enter the working copy of the temporary. -/
def Firing.acasmBack (f : Firing) (idx vk : Nat) (olds : List Word) : Firing :=
  f.vtPut idx vk 0 (olds.flatMap fun w => bytesOfNat 8 w.toNat)

/-- ACASM (R313, R47): its words lie within one 32-byte-aligned block. -/
def execAcasm (h : Head) (sp : Space) (n : BitVec 2) (vk : BitVec 2) (sc : Scope) (s : State) : Host.Outcome State Fault Refusal :=
  match s.operandsSent h true false false with
  | some o => match s.replayHere with
    | some r => .next ((s.modFlight s.cur.task s.cur.which fun f => f.acasmBack s.cur.idx vk.toNat r.olds).answerReplay h r false)
    | none =>
      let _ := sc
      let k := n.toNat + 2
      let a := o.a.v.toNat
      let use := if sp = .gl then Use.atomic else Use.structWrite
      if !s.orderOk true then .next s
      else if !rangeOut sp a (8 * k) && decide (32 < a % 32 + 8 * k) then .next (s.fireFault { code := .align, addr := a, acc := .atomic })
      else match s.check s.cur.task sp o.a.v (8 * k) 1 use with
        | .miss va => .next (s.waitWalk va use)
        | .bad x => .next (s.fireFault { x.record .atomic a with acc := .atomic })
        | .ok key u =>
          let (u, s) := s.forWrite (s.task s.cur.task).ctx s.cur.task.tile a key u
          .next (s.issue (.acasm k vk.toNat (wordsOf k (s.vtRead vk.toNat 0 (8 * k))) (wordsOf k (s.vtRead vk.toNat 32 (8 * k)))) key a u)
  | none => .next s

/-- AENQ (R314): the issuer translates the header and the node with W permission. -/
def execAenq (h : Head) (sp : Space) (sc : Scope) (s : State) : Host.Outcome State Fault Refusal :=
  match s.operandsSent h true true false with
  | some o => match s.replayHere with
    | some r => .next (s.answerReplay h r false)
    | none =>
      let _ := sc
      let use := if sp = .gl then Use.atomic else Use.structWrite
      if !s.orderOk true then .next s
      else match s.check s.cur.task sp o.a.v 16 16 use with
      | .miss va => .next (s.waitWalk va use)
      | .bad x => .next (s.fireFault { x.record .atomic o.a.v.toNat with acc := .atomic })
      | .ok key u => match s.check s.cur.task sp o.b.v 8 8 .atomic with
        | .miss va => .next (s.waitWalk va .atomic)
        | .bad x => .next (s.fireFault (x.record .atomic o.b.v.toNat))
        | .ok node nUse =>
          let ctx := (s.task s.cur.task).ctx
          let (u, s) := s.forWrite ctx s.cur.task.tile o.a.v.toNat key (withHint h u)
          let (nUse, s) := s.forWrite ctx s.cur.task.tile o.b.v.toNat node nUse
          let s := s.usePage o.b.v.toNat
          .next (s.issue (.aenq o.a.v.toNat o.b.v.toNat node nUse) key o.a.v.toNat u)
  | none => .next s

/-- ACHASE (R315); on a local space it raises PERM after the checks that come first (R33, R50). -/
def execAchase (h : Head) (sp : Space) (s : State) : Host.Outcome State Fault Refusal :=
  match s.operandsSent h true true false with
  | some o =>
    let b := o.b.v.toNat
    let n := b % 128
    let off := b / 256 % 2048
    if sp ≠ .gl then
      match s.check s.cur.task sp o.a.v 8 8 .structRead with
      | .bad x => .next (s.fireFault (x.record .read o.a.v.toNat))
      | _ => .next (s.fireFault { code := .perm, cause := 5, addr := o.a.v.toNat })
    else if !s.orderOk true then .next s
    else if n = 0 ∨ 64 < n ∨ off % 8 ≠ 0 ∨ 2040 < off ∨ b / 128 % 2 = 1 ∨ b / 2 ^ 19 ≠ 0 then .next (s.fireFault { code := .addrRange, addr := o.a.v.toNat })
    else
      let (id, s) := s.sendReq (.achase n off 0) 0 o.a.v.toNat none
      .next (s.post (.achaseHop id))
  | none => .next s

/-- WENQ (R318, R90): the payload is read from ls when it fires. For a length of 0 or above 256 R90 says ALIGN and R318 says ADDR_RANGE: the
model raises ADDR_RANGE (log 18). DESIGN CHOICE. -/
def execWenq (h : Head) (s : State) : Host.Outcome State Fault Refusal :=
  match s.operandsSent h true true true with
  | some o => match s.replayHere with
    | some r => .next (s.answerReplay h r false)
    | none =>
      let d := o.a.v.toNat
      let n := o.c.v.toNat
      if !s.orderOk true then .next s
      else match checkLocal .ls s.cur.task.tile s.cur.task.elem o.b.v n 1 .read with
      | .bad x => .next (s.fireFault (x.record .read o.b.v.toNat))
      | .miss _ => .next s
      | .ok key _ =>
        if n = 0 ∨ 256 < n then .next (s.fireFault { code := .addrRange, addr := o.b.v.toNat })
        else if d < 2 ^ 56 ∧ (d % 32 ≠ 0 ∨ 256 < o.b.v.toNat % 256 + n) then .next (s.fireFault { code := .align, addr := d, acc := .atomic })
        else match s.check s.cur.task .gl o.a.v 32 32 .atomic with
          | .miss va => .next (s.waitWalk va .atomic)
          | .bad x => .next (s.fireFault (x.record .atomic d))
          | .ok pa use =>
            if !s.readReady (keysOf key n) then .next s
            else match s.badIn key n with
              | some u => .next (s.fireFault (uncorrectable u o.b.v.toNat .read))
              | none =>
                let (use, s) := s.forWrite (s.task s.cur.task).ctx s.cur.task.tile d pa use
                .next (s.issue (.wenq (o.b.v.toNat % 256) (s.bytes key n) none) pa d use)
  | none => .next s

/-! Ordering tokens (R319 to R321). -/

/-- The accesses a value refers to, as a token. -/
def SlotVal.token (v : SlotVal) : Token := match v.tok with
  | some k => k
  | none => { scope := .pod, refs := v.ref.toList }

/-- R129: the narrower of two scopes. -/
def narrower (a b : Scope) : Scope := if b.level < a.level then b else a

/-- OTOK (R319). -/
def execOtok (h : Head) (sc : Scope) (s : State) : Host.Outcome State Fault Refusal :=
  match s.operands h true false false with
  | some o =>
    let v : SlotVal := ⟨0, none, some { o.a.token with scope := sc }⟩
    .next (s.fire h v v)
  | none => .next s

/-- OJOIN (R320). -/
def execOjoin (h : Head) (s : State) : Host.Outcome State Fault Refusal :=
  match s.operands h true true false with
  | some o =>
    let x := o.a.token
    let y := o.b.token
    let v : SlotVal := ⟨0, none, some ⟨narrower x.scope y.scope, x.refs ++ y.refs, x.fences ++ y.fences⟩⟩
    .next (s.fire h v v)
  | none => .next s

/-- FENCE (R321): every memory event of earlier blocks, and the access whose value arrived at slot p. -/
def execFence (h : Head) (sc : Scope) (s : State) : Host.Outcome State Fault Refusal :=
  match s.operands h false false false, s.here with
  | some o, some f =>
    let v : SlotVal := ⟨0, none, some ⟨sc, o.p.token.refs, f.serial :: o.p.token.fences⟩⟩
    .next (s.fire h v v)
  | _, _ => .next s

/-! Timelines (R140, R322 to R324). -/

/-- A timeline counter of a context. -/
def State.timeline (s : State) (ctx tl : Nat) : Timeline := (s.ctx ctx).tls.getD tl {}

/-- R140: the next number of a counter. -/
def State.takeNumber (s : State) (ctx tl : Nat) : Nat × State :=
  ((s.timeline ctx tl).given + 1, s.modCtx ctx fun c => { c with tls := listMod c.tls tl fun t => { t with given := t.given + 1 } })

/-- R140: the counter rises over completed numbers; at most as many as are listed. -/
def Timeline.advance (t : Timeline) : Nat → Timeline
  | 0 => t
  | n + 1 => if t.value + 1 ∈ t.done then Timeline.advance { t with value := t.value + 1, done := t.done.filter fun x => decide (x ≠ t.value + 1) } n else t

/-- R140, R322: an operation completes; waiting TLWAITs that the counter reaches complete with OK. -/
def State.timelineDone (s : State) (ctx tl n : Nat) : State :=
  let s := s.modCtx ctx fun c => { c with tls := listMod c.tls tl fun t => Timeline.advance { t with done := t.done ++ [n] } (t.done.length + 1) }
  let v := (s.timeline ctx tl).value
  let ready := s.reqs.filter fun r => r.ctx == ctx && r.answer.isNone && match r.op with
    | .tlwait k m _ => k == tl && decide (m.toNat ≤ v)
    | _ => false
  ready.foldl (fun (s : State) r => s.reply r.id { r0 := BitVec.ofNat 64 v, r1 := statusOk }) s

/-- TLWAIT (R322). -/
def execTlwait (h : Head) (tl : BitVec 4) (s : State) : Host.Outcome State Fault Refusal :=
  match s.operandsRead h true true false with
  | some o =>
    let v := (s.timeline (s.task s.cur.task).ctx tl.toNat).value
    if o.a.v.toNat ≤ v then .next (s.fire h (plain (BitVec.ofNat 64 v)) (plain statusOk))
    else
      let (id, s) := s.sendReq (.tlwait tl.toNat o.a.v o.b.v.toNat) 0 0 none
      .next (if o.b.v = 0 then s else s.post (.tlwaitTimeout id))
  | none => .next s

/-- TLWAIT_TIMEOUT (R322): the limit, in microseconds, has passed. -/
def execTlwaitTimeout (s : State) : Host.Outcome State Fault Refusal :=
  match s.cur.work with
  | some (.tlwaitTimeout id) => match s.req id with
    | some r => match r.op with
      | .tlwait tl _ limit =>
        if r.answer.isSome then .next s
        else if s.cycle - r.start < limit * Config.cyclesPerUs then .next (s.post (.tlwaitTimeout id))
        else .next (s.reply id { r0 := BitVec.ofNat 64 (s.timeline r.ctx tl).value, r1 := statusTimeout })
      | _ => .next s
    | none => .next s
  | _ => .next s

/-- TLREAD (R323). -/
def execTlread (h : Head) (tl : BitVec 4) (s : State) : Host.Outcome State Fault Refusal :=
  match s.operands h false false false with
  | some _ => .next (s.fire1 h (BitVec.ofNat 64 (s.timeline (s.task s.cur.task).ctx tl.toNat).value))
  | none => .next s

/-- TLBUMP (R324): numbered at commit. -/
def execTlbump (h : Head) (tl : BitVec 4) (s : State) : Host.Outcome State Fault Refusal :=
  match s.operandsStore h false false false with
  | some _ => .next (s.atCommit (.tlbump tl.toNat)).fire0
  | none => .next s

/-- TLBUMP_COMPLETE (R324): everything hb-before the TLBUMP, its block's stores included, is performed. -/
def execTlbumpComplete (s : State) : Host.Outcome State Fault Refusal :=
  match s.cur.work with
  | some (.tlbumpComplete ctx tl n) =>
    match s.reqs.find? fun r => r.ctx == ctx && r.op == .tlbump tl n with
    | some r =>
      if r.task.all fun t => s.fenced t (r.serial + 1) && r.wait.all (s.released t) then .next ((s.dropReq r.id).timelineDone ctx tl n)
      else .next (s.post (.tlbumpComplete ctx tl n))
    | none => .next s
  | _ => .next s

end Sys2Proof.Machine
end

