-- ==== Sys2Proof/Machine/Special.lean ====
section
/-! DEFINITION. The special functions (spec/12_vector_ops.md R287), correctly rounded: each is computed in fixed point with a
known error, at growing precision, until both ends of the enclosure round to the same bits (log 13). -/

namespace Sys2Proof.Machine

/-- Sum of x^(k+1) / (k+1)! and so on, in fixed point with p bits, from a term on. -/
def expTail (p : Nat) (x : Int) : Nat → Nat → Int → Int
  | 0, _, _ => 0
  | fuel + 1, k, t => if t = 0 then 0 else t + expTail p x fuel (k + 1) (t * x / 2 ^ p / ((k : Int) + 1))

/-- e^x for a fixed-point x of at most 1 in size. -/
def expFix (p : Nat) (x : Int) : Int := expTail p x (p + 8) 0 (2 ^ p)

/-- Sum of y^(2k+1) / (2k+1), or with alternating signs, in fixed point; y2 is y × y. -/
def oddTail (p : Nat) (y2 : Int) : Nat → Nat → Int → Int
  | 0, _, _ => 0
  | fuel + 1, k, t => if t = 0 then 0 else t / (2 * (k : Int) + 1) + oddTail p y2 fuel (k + 1) (t * y2 / 2 ^ p)

/-- The inverse hyperbolic tangent of n / d, below 1/2. -/
def atanhFix (p : Nat) (n d : Int) : Int := oddTail p (n * n * 2 ^ p / (d * d)) (p + 8) 0 (n * 2 ^ p / d)
/-- The arc tangent of 1 / n. -/
def atanFix (p : Nat) (n : Int) : Int := oddTail p (-(2 ^ p / (n * n))) (p + 8) 0 (2 ^ p / n)
/-- ln 2. -/
def ln2Fix (p : Nat) : Int := 2 * atanhFix p 1 3
/-- π / 2, by Machin's formula. -/
def halfPiFix (p : Nat) : Int := 2 * (4 * atanFix p 5 - atanFix p 239)

/-- Cosine and sine of a fixed-point x of at most 1 in size: terms x^k / k! taken in turn. -/
def trigTail (p : Nat) (x : Int) : Nat → Nat → Int → Int × Int
  | 0, _, _ => (0, 0)
  | fuel + 1, k, t =>
    if t = 0 then (0, 0)
    else
      let r := trigTail p x fuel (k + 1) (t * x / 2 ^ p / ((k : Int) + 1))
      (t - r.2, r.1)

/-- The signed value n / d × 2^p, floored. -/
def fixOf (p : Nat) (neg : Bool) (n d : Nat) : Int :=
  let v : Int := ((n * 2 ^ p / d : Nat) : Int)
  if neg then -v else v

/-- e^x × 2^p for x = n / d in fixed point, x at most 0 and above −300. -/
def expNeg (p : Nat) (x : Int) : Int :=
  let l := ln2Fix p
  let k := (-x) / l
  expFix p (x + k * l) / 2 ^ k.toNat

/-- The functions of R287 that need an enclosure. -/
inductive SpFn where | exp2 | log2 | sin | cos | tanh | sigm
  deriving DecidableEq, Repr

/-- Guard bits of the working precision. -/
def guardBits : Nat := 320

/-- An approximation of the function at ±n / d, times 2^p, with an error of less than 2. -/
def SpFn.approx (fn : SpFn) (p : Nat) (neg : Bool) (n d : Nat) : Int :=
  let w := p + guardBits
  let x := fixOf w neg n d
  let r : Int := match fn with
    | .exp2 =>
      let i := x / 2 ^ w
      let f := x - i * 2 ^ w
      let m := expFix w (f * ln2Fix w / 2 ^ w)
      if 0 ≤ i then m * 2 ^ i.toNat else m / 2 ^ (-i).toNat
    | .log2 =>
      let e := log2Frac n d
      let s := scaleFrac n d (-e)
      let a : Int := (s.1 : Int)
      let b : Int := (s.2 : Int)
      e * 2 ^ w + 2 * atanhFix w (a - b) (a + b) * 2 ^ w / ln2Fix w
    | .sin | .cos =>
      let h := halfPiFix w
      let k := (x + h / 2) / h
      let t := trigTail w (x - k * h) (w + 8) 0 (2 ^ w)
      let q := (if fn = .sin then k else k + 1) % 4
      if q = 0 then t.2 else if q = 1 then t.1 else if q = 2 then -t.2 else -t.1
    | .tanh =>
      let e := expNeg w (-(2 * fixOf w false n d))
      let v := (2 ^ w - e) * 2 ^ w / (2 ^ w + e)
      if neg then -v else v
    | .sigm =>
      let e := expNeg w (-(fixOf w false n d))
      if neg then e * 2 ^ w / (2 ^ w + e) else 2 ^ w * 2 ^ w / (2 ^ w + e)
  r / 2 ^ guardBits

/-- A fixed-point number as a value. -/
def fixVal (p : Nat) (v : Int) : FV := .rat (decide (v < 0)) v.natAbs (2 ^ p)

/-- Rounds the function's value, at growing precision, until the enclosure decides. -/
def SpFn.decideAt (fn : SpFn) (f : Fmt) (rm : Rm) (ftz : Bool) (neg : Bool) (n d : Nat) : List Nat → Option Nat
  | [] => none
  | p :: r =>
    let v := fn.approx p neg n d
    let lo := f.round rm ftz (fixVal p (v - 2))
    let hi := f.round rm ftz (fixVal p (v + 3))
    if lo = hi then some lo else SpFn.decideAt fn f rm ftz neg n d r

/-- The precisions tried. -/
def precisions : List Nat := [64, 256, 512, 1024, 2048]

/-- The number of a function, for the last resort. -/
def SpFn.num : SpFn → Nat | .exp2 => 0 | .log2 => 1 | .sin => 2 | .cos => 3 | .tanh => 4 | .sigm => 5

/-- R287: the function at a value that is no NaN: the exact cases, the far ends, else the enclosure. -/
def SpFn.at (fn : SpFn) (f : Fmt) (rm : Rm) (ftz : Bool) (bits : Nat) (v : FV) : Nat :=
  let one : FV := .rat false 1 1
  let belowOne : FV := .rat false (2 ^ 200 - 1) (2 ^ 200)
  let tiny : FV := .rat false 1 (2 ^ 400)
  let solve (neg : Bool) (n d : Nat) : Nat :=
    (fn.decideAt f rm ftz neg n d precisions).getD (Config.specialFallback fn.num f.width bits % 2 ^ f.width)
  match fn, v with
  | _, .nan => f.canonNan
  | .exp2, .inf s => f.round rm ftz (if s then .rat false 0 1 else .inf false)
  | .exp2, .rat s n d =>
    if n % d = 0 then
      (if 400 ≤ n / d then f.round rm ftz (if s then tiny else .rat false (2 ^ 400) 1)
       else f.round rm ftz (one.scale (if s then -((n / d : Nat) : Int) else ((n / d : Nat) : Int))))
    else if 400 * d ≤ n then f.round rm ftz (if s then tiny else .rat false (2 ^ 400) 1)
    else solve s n d
  | .log2, .inf s => if s then f.canonNan else f.round rm ftz (.inf false)
  | .log2, .rat s n d =>
    if n = 0 then f.round rm ftz (.inf true)
    else if s then f.canonNan
    else
      let e := log2Frac n d
      let x := scaleFrac n d (-e)
      if x.1 = x.2 then f.round rm ftz (FV.ofInt e) else solve false n d
  | .sin, .inf _ => f.canonNan
  | .cos, .inf _ => f.canonNan
  | .sin, .rat s n d => if n = 0 then f.round rm ftz (.rat s 0 1) else solve s n d
  | .cos, .rat s n d => if n = 0 then f.round rm ftz one else solve s n d
  | .tanh, .inf s => f.round rm ftz (if s then one.negate else one)
  | .tanh, .rat s n d =>
    if n = 0 then f.round rm ftz (.rat s 0 1)
    else if 120 * d ≤ n then f.round rm ftz (if s then belowOne.negate else belowOne)
    else solve s n d
  | .sigm, .inf s => f.round rm ftz (if s then .rat false 0 1 else one)
  | .sigm, .rat s n d =>
    if n = 0 then f.round rm ftz (.rat false 1 2)
    else if 250 * d ≤ n then f.round rm ftz (if s then tiny else belowOne)
    else solve s n d

/-- R287: a special function at a pattern. -/
def Fmt.special (f : Fmt) (fn : SpFn) (rm : Rm) (ftz : Bool) (v : Nat) : Nat :=
  let v := f.flush ftz v
  if f.isNan v then f.quiet v else fn.at f rm ftz v (f.value v)

/-- R287 VRCP: 1 / a. -/
def Fmt.rcp (f : Fmt) (rm : Rm) (ftz : Bool) (a : Nat) : Nat :=
  f.op rm ftz [a] fun l => (FV.rat false 1 1).div (l.getD 0 .nan)

/-- R287 VRSQ: 1 / √a; the root is taken of the reciprocal. -/
def Fmt.rsq (f : Fmt) (rm : Rm) (ftz : Bool) (a : Nat) : Nat :=
  f.op rm ftz [a] fun l => match l.getD 0 .nan with
    | .inf false => .rat false 0 1
    | .inf true => .nan
    | .rat s n d => if n = 0 then .inf s else if s then .nan else (FV.rat false d n).sqrt
    | .nan => .nan

end Sys2Proof.Machine
end

