-- ==== Sys2Proof/Machine/Vector.lean ====
section
/-! DEFINITION. Shape records, temporaries and vector instructions (spec/12_vector_ops.md R272 to R295; the summation orders of
spec/07_numbers.md R181). An element is its bits, as a number. -/

namespace Sys2Proof.Machine

/-! The shape record (R272, R273). -/

/-- R272: the temporary's number. -/
def shVtn (r : Row) : Nat := (bits 506 2 r).toNat
/-- R272: the element size in bytes; codes above 100 are refused before it is used. -/
def shEsz (r : Row) : Nat := 2 ^ (bits 503 3 r).toNat
/-- R272: number of dimensions. -/
def shDims (r : Row) : Nat := (bits 501 2 r).toNat + 1
/-- R272: BASE. -/
def shBase (r : Row) : Nat := (bits 384 64 r).toNat
/-- R272: the extent as the register holds it. -/
def shExtRaw (r : Row) (d : Nat) : Nat := (bits (64 + 96 * d) 32 r).toNat
/-- R272: the stride as the register holds it, signed. -/
def shStrRaw (r : Row) (d : Nat) : Int := (bits (96 * d) 64 r).toInt
/-- R273: the extent, 1 above NDIM. -/
def shExt (r : Row) (d : Nat) : Nat := if d < shDims r then shExtRaw r d else 1
/-- R273: the stride, 0 above NDIM. -/
def shStr (r : Row) (d : Nat) : Int := if d < shDims r then shStrRaw r d else 0
/-- R273: the element count. -/
def shCount (r : Row) : Nat := shExt r 0 * shExt r 1 * shExt r 2 * shExt r 3
/-- R273: the address of element j, dimension 0 fastest. -/
def shAddr (r : Row) (j : Nat) : Nat :=
  let i0 := j % shExt r 0
  let i1 := j / shExt r 0 % shExt r 1
  let i2 := j / (shExt r 0 * shExt r 1) % shExt r 2
  let i3 := j / (shExt r 0 * shExt r 1 * shExt r 2)
  (((shBase r : Int) + i0 * shStr r 0 + i1 * shStr r 1 + i2 * shStr r 2 + i3 * shStr r 3) % 2 ^ 64).toNat
/-- R278 cause 0: a field that no valid record has. -/
def shBadField (r : Row) : Bool :=
  (Space.ofBits (bits 509 3 r)).isNone || decide (4 < (bits 503 3 r).toNat) || bits 448 53 r != 0 || (shVt r && bits 509 3 r != 0)
/-- R272: the space of a record whose code is valid. -/
def shSpace (r : Row) : Space := (Space.ofBits (bits 509 3 r)).getD .gl

/-- A shape register of a task. -/
def Task.shape (k : Task) (n : Nat) : Row := k.sh.getD n 0

/-! Shape instructions (R276, R279). -/

/-- R276: SHP instructions fire after the task's previous block has committed. -/
def State.operandsShp (s : State) (h : Head) (ua ub uc : Bool) : Option Opnds :=
  if s.cur.which = 0 then s.operands h ua ub uc else none

/-- Replaces n bits of a record. -/
def putBits (r : Row) (lo n : Nat) (v : Nat) : Row :=
  (r &&& ~~~(BitVec.ofNat 512 ((2 ^ n - 1) * 2 ^ lo))) ||| BitVec.ofNat 512 (v % 2 ^ n * 2 ^ lo)

/-- R279: the place of a field: its lowest bit and its width. -/
def shFieldAt : ShField → Nat × Nat
  | .hdr => (448, 64) | .base => (384, 64) | .ext0 => (64, 32) | .str0 => (0, 64) | .ext1 => (160, 32) | .str1 => (96, 64)
  | .ext2 => (256, 32) | .str2 => (192, 64) | .ext3 => (352, 32) | .str3 => (288, 64)

/-- R279 SHSET: a field of a record takes a value. -/
def shSetField (r : Row) (f : ShField) (v : Word) : Row := putBits r (shFieldAt f).1 (shFieldAt f).2 v.toNat
/-- R279 SHGET: a field, zero-extended. -/
def shGetField (r : Row) (f : ShField) : Word := (r.toNat / 2 ^ (shFieldAt f).1 % 2 ^ (shFieldAt f).2 : Nat)
/-- R279 SHADV: BASE moves by a signed number of strides. -/
def shAdvance (r : Row) (d : Nat) (v : Word) : Row :=
  putBits r 384 64 (((shBase r : Int) + v.toInt * shStrRaw r d) % 2 ^ 64).toNat

/-- The shape table of the load of a task (R275). -/
def State.shapeTable (s : State) (t : TaskRef) : List Row := match s.loadOf t with
  | some l => l.shapes
  | none => []

/-- SHDEF (R279). -/
def execShdef (h : Head) (sh : BitVec 3) (num : BitVec 10) (s : State) : Host.Outcome State Fault Refusal :=
  match s.operandsShp h false false false with
  | some _ =>
    if (s.shapeTable s.cur.task).length ≤ num.toNat then .next (s.fireFault { code := .illegalOp, cause := 5, detail := sh.toNat })
    else .next (s.atCommit (.shdef sh.toNat num.toNat)).fire0
  | none => .next s

/-- SHSET (R279). -/
def execShset (h : Head) (sh : BitVec 3) (f : ShField) (s : State) : Host.Outcome State Fault Refusal :=
  match s.operandsShp h true false false with
  | some o => .next (s.atCommit (.shset sh.toNat f o.a.v)).fire0
  | none => .next s

/-- SHGET (R279). -/
def execShget (h : Head) (sh : BitVec 3) (f : ShField) (s : State) : Host.Outcome State Fault Refusal :=
  match s.operandsShp h false false false with
  | some _ => .next (s.fire1 h (shGetField ((s.task s.cur.task).shape sh.toNat) f))
  | none => .next s

/-- SHADV (R279). -/
def execShadv (h : Head) (sh : BitVec 3) (d : BitVec 2) (s : State) : Host.Outcome State Fault Refusal :=
  match s.operandsShp h true false false with
  | some o => .next (s.atCommit (.shadv sh.toNat d.toNat o.a.v)).fire0
  | none => .next s

/-! Operands of a vector instruction (R278, R283). -/

/-- A shape operand: its register and the element sizes that the entry allows. -/
structure VOpd where
  reg : Nat
  sizes : List Nat
  deriving DecidableEq, Repr

/-- How elements meet indices (R294). -/
inductive VKind where | plain | gather | scatter
  deriving DecidableEq, Repr

/-- What a vector instruction asks of its operands: a, b, c, d in this order; the counts and the limits (each answers the operand
that breaks it), and a slot operand outside its range. -/
structure VSpec where
  kind : VKind := .plain
  a : Option VOpd := none
  b : Option VOpd := none
  c : Option VOpd := none
  d : Option VOpd := none
  counts : Nat → Nat → Nat → Nat → Option Nat := fun _ _ _ _ => none
  limit : Row → Row → Option Nat := fun _ _ => none
  slotBad : Bool := false

/-- A failed record check (R278): cause and shape register. -/
def shapeFault (cause reg : Nat) : Record := { code := .illegalOp, cause := cause, detail := reg }

/-- R278 causes 0 to 2 of one operand; an all-zero record fails with cause 2 (R272). -/
def Task.checkOpd (k : Task) : Option VOpd → Option Record
  | none => none
  | some o =>
    let r := k.shape o.reg
    if r = 0 then some (shapeFault 2 o.reg)
    else if shBadField r then some (shapeFault 0 o.reg)
    else if shEsz r ∉ o.sizes then some (shapeFault 1 o.reg)
    else if shCount r = 0 ∨ 65536 < shCount r then some (shapeFault 2 o.reg)
    else none

/-- The register of operand n of a form. -/
def VSpec.regOf (v : VSpec) (n : Nat) : Nat :=
  match (if n = 0 then v.a else if n = 1 then v.b else if n = 2 then v.c else v.d) with
  | some o => o.reg
  | none => 0

/-- The record of an operand; an operand the form has not is a record of zeros. -/
def Task.opdRow (k : Task) : Option VOpd → Row
  | some o => k.shape o.reg
  | none => 0

/-- R278: the records, in the order of the operands and then of the causes. R278 does not say which shape register the record of cause 3 or of
cause 6 names: the model names the one whose count differs, and the destination's for cause 6 (log 49). DESIGN CHOICE. -/
def Task.checkRecords (k : Task) (v : VSpec) : Option Record :=
  match [v.a, v.b, v.c, v.d].findSome? k.checkOpd with
  | some r => some r
  | none =>
    let n (o : Option VOpd) : Nat := shCount (k.opdRow o)
    match v.counts (n v.a) (n v.b) (n v.c) (n v.d) with
    | some i => some (shapeFault 3 (v.regOf i))
    | none => match v.limit (k.opdRow v.a) (k.opdRow v.d) with
      | some i => some (shapeFault 4 (v.regOf i))
      | none => if v.slotBad then some (shapeFault 6 (v.regOf 3)) else none

/-- The check of one element: its place, a walk to wait for, or the fault. -/
inductive ECheck where
  | ok (l : ELoc)
  | miss (va : Nat) (u : Use)
  | bad (r : Record)
  deriving DecidableEq, Repr

/-- R274: checks one element of a record. R283 has the fault's record name the element's index, for which R467 gives it no field: the model's record
gives the element's address alone (log 49). DESIGN CHOICE. -/
def State.elemCheck (s : State) (r : Row) (addr : Nat) (u : Use) : ECheck :=
  if shVt r then
    (if 64 < addr + shEsz r ∨ addr % shEsz r ≠ 0 then .bad { code := .addrRange, addr := addr, acc := u.acc } else .ok (.vt (shVtn r) addr))
  else match s.check s.cur.task (shSpace r) (BitVec.ofNat 64 addr) (shEsz r) (shEsz r) u with
    | .miss va => .miss va u
    | .bad x => .bad (x.record u addr)
    | .ok key use => if shSpace r = .ch then .ok (.ch key) else .ok (.mem key use)

/-- The checks of every element of an operand; those that have passed keep their places. -/
def State.elemChecks (s : State) (known : List ELoc) (r : Row) (n : Nat) (u : Use) : List ECheck :=
  (List.range n).map fun j => match known[j]? with
    | some l => .ok l
    | none => s.elemCheck r (shAddr r j) u

/-- R294: the checks of the elements reached through indices. -/
def State.indexChecks (s : State) (known : List ELoc) (r : Row) (u : Use) (idx : List Nat) : List ECheck :=
  idx.zipIdx.map fun i => match known[i.2]? with
    | some l => .ok l
    | none => if shExt r 0 ≤ i.1 then .ok .nowhere else s.elemCheck r (((shBase r : Int) + i.1 * shStr r 0) % 2 ^ 64).toNat u

/-- R283: the first failure, by element and then by operand. -/
def firstBad : List (List ECheck) → Nat → Option ECheck
  | _, 0 => none
  | l, n + 1 =>
    match l.findSome? (fun x => match x with
      | .miss va u :: _ => some (.miss va u)
      | .bad r :: _ => some (.bad r)
      | _ => none) with
    | some e => some e
    | none => firstBad (l.map List.tail) n

/-- The places of an operand's elements up to the first that has not passed. -/
def placesOf : List ECheck → List ELoc
  | .ok p :: r => p :: placesOf r
  | _ => []

/-- The storage keys of places. -/
def ELoc.keys (n : Nat) : ELoc → List Nat
  | .mem k _ => keysOf k n
  | _ => []

/-- The payload keys of places (R10). -/
def ELoc.chKeys (n : Nat) : ELoc → List Nat
  | .ch k => keysOf (chKey + k) n
  | _ => []

/-- The lines of places, each once. -/
def useLines (l : List ELoc) : List LineUse :=
  l.foldl (fun (x : List LineUse) p => match p with
    | .mem _ (some u) => if x.any (fun v => v.line == u.line) then x else x ++ [u]
    | _ => x) []

/-- What a vector instruction has done so far. -/
def State.vwork (s : State) : VWork := match s.here with
  | some f => f.vwork.get s.cur.idx {}
  | none => {}

/-- R42: a vector instruction keeps what it has done; it has used the pages of the elements that passed. -/
def State.keepVwork (s : State) (w : VWork) : State :=
  let s := (useLines (w.a ++ w.b ++ w.c ++ w.d)).foldl (fun (s : State) u => s.usePage u.va) s
  s.modFlight s.cur.task s.cur.which fun f => { f with vwork := f.vwork.put s.cur.idx w }

/-- R65: the fault of an element that cannot be read. -/
def State.elemBad (s : State) (sent : List Req) (n : Nat) : ELoc → Option Record
  | .mem k (some u) => s.lineFault sent n k u
  | .mem k none => (s.badIn k n).map fun x => uncorrectable x (localOffset k) .read
  | .ch k => if (s.task s.cur.task).payloadBad k then some { code := .uncorrectable, addr := k } else none
  | _ => none

/-- A byte that a vector instruction reads: of global memory what its read brought, of local memory what stands there (R132). -/
def State.vecByte (s : State) (got : List (Nat × Byte)) (k : Nat) : Byte :=
  if isGl k then (Table.find got k).getD 0 else s.readByte s.cur.task s.cur.which s.cur.idx k

/-- The bits of an element. -/
def State.elemValue (s : State) (got : List (Nat × Byte)) (n : Nat) : ELoc → Nat
  | .vt v off => natOfBytes (s.vtRead v off n)
  | .mem k _ => natOfBytes ((keysOf k n).map (s.vecByte got))
  | .ch k => natOfBytes ((s.task s.cur.task).payload k n)
  | .nowhere => 0

/-- The keys of each line that are to be read. -/
def lineReads (l : List ELoc) (keys : List Nat) : List (LineUse × List Nat) :=
  ((useLines l).map fun u => (u, (keys.filter fun k => lineOf k == u.line).eraseDups)).filter fun x => !x.2.isEmpty

/-- R48, R57, R232, R282: the reads of elements in global memory are sent, one request for each line. -/
def State.sendVloads (s : State) (h : Head) (l : List ELoc) (keys : List Nat) : State :=
  ((lineReads l keys).foldl (fun (s : State) x =>
    let k := x.2.headD 0
    let q := s.queueReq (.vload x.2) k x.1.va (withHint h (some x.1))
    q.2.route q.1) s).begun

/-- Keys of global memory that no read sent brings. -/
def notRead (sent : List Req) (keys : List Nat) : List Nat := keys.filter fun k => isGl k && !(sent.any fun r => decide (k ∈ r.keys))

/-- What the reads of a vector instruction have come to: a wait, a fault, or their values. -/
inductive VGot where
  | wait (s : State)
  | bad (r : Record)
  | values (l : List (List Nat))
  deriving DecidableEq, Repr

/-- R282, R230, R131, R132: the reads of elements whose places are known, of several operands with their element sizes. -/
def State.vecReadAll (s : State) (h : Head) (p : SlotVal) (ops : List (Nat × List ELoc)) : VGot :=
  let keys := ops.flatMap fun o => o.2.flatMap (ELoc.keys o.1)
  let chan := ops.flatMap fun o => o.2.flatMap (ELoc.chKeys o.1)
  if !(keys.isEmpty && chan.isEmpty) && !(s.tokenFree s.cur.task p && s.chanReady chan) then .wait s
  else if !keys.isEmpty && !(s.orderOk false && s.readReady keys) then .wait s
  else
    let sent := s.vloads
    let left := notRead sent keys
    if !left.isEmpty then .wait (s.sendVloads h (ops.flatMap (·.2)) left)
    else if sent.any fun r => !r.returned then .wait s
    else
      let bad := ops.map fun o => o.2.map fun x => match s.elemBad sent o.1 x with
        | some r => ECheck.bad r
        | none => .ok x
      match firstBad bad ((bad.map List.length).foldl max 0) with
      | some (.bad r) => .bad r
      | _ =>
        let got := sent.flatMap (·.got)
        .values (ops.map fun o => o.2.map (s.elemValue got o.1))

/-- What a vector instruction computes from its elements and the destination's count: the destination's elements (none leaves an
element unwritten) and the value it delivers. -/
abbrev VFun := List Nat → List Nat → List Nat → Nat → List (Option Nat) × Word

/-- R217, R236: the product of the store identifier of a destination in storage, and the result. -/
def State.produceVec (s : State) (h : Head) (r : StoreRec) (v : SlotVal) : State := match s.here with
  | none => s
  | some f =>
    if !(f.hdr.smask.getLsbD r.sid) then s.fireFault { code := .blockFormat, detail := r.sid }
    else if f.stores.any (fun x => x.sid == r.sid) || decide (r.sid ∈ f.nulls) then s.fireFault { code := .blockFormat, detail := r.sid }
    else (s.modFlight s.cur.task s.cur.which fun f => { f with stores := f.stores ++ [r] }).fire h v v

/-- R282: the results go to the destination: a temporary's working copy or one store. -/
def State.writeVec (s : State) (h : Head) (d : Option VOpd) (locs : List ELoc) (res : List (Option Nat)) (v : Word) (touched : Bool)
    (p : SlotVal) : State :=
  match d with
  | none => let x : SlotVal := ⟨v, if touched then s.refHere false else none, none⟩; s.fire h x x
  | some o =>
    let r := (s.task s.cur.task).shape o.reg
    let n := shEsz r
    let pairs := locs.zip res
    if shVt r then
      let s := s.modFlight s.cur.task s.cur.which fun f => pairs.foldl (fun (f : Firing) x => match x with
        | (.vt w off, some e) => f.vtPut s.cur.idx w off (bytesOfNat n e)
        | _ => f) f
      let x : SlotVal := ⟨v, if touched then s.refHere false else none, none⟩
      s.fire h x x
    else
      let bytes := pairs.flatMap fun x => match x with
        | (.mem k _, some e) => placeBytes k (bytesOfNat n e)
        | _ => []
      let chan := pairs.flatMap fun x => match x with
        | (.ch k, some e) => (bytesOfNat n e).zipIdx.map fun b => (k / 256, k % 256 + b.2, b.1)
        | _ => []
      let written := pairs.filterMap fun x => match x with
        | (l, some _) => some l
        | _ => none
      s.produceVec h { idx := s.cur.idx, sid := 24 + o.reg, bytes := bytes, lines := (useLines written).map (fun u => { u with hint := h.ch.toNat })
                       chan := chan, wait := p.tok } ⟨v, s.refHere true, none⟩

/-- R283: what a vector instruction finds when it is tried: a fault, a translation or reads to wait for, or its elements. -/
inductive VRead where
  | fault (r : Record)
  | miss (va : Nat) (u : Use) (s : State)
  | wait (s : State)
  | ok (a b c : List Nat) (d : List ELoc) (s : State) (touched : Bool)
  deriving DecidableEq, Repr

/-- The record of an operand, its element size and its count, 0 where the form has none. -/
def Task.opdOf (k : Task) (o : Option VOpd) : Row × Nat × Nat :=
  (k.opdRow o, shEsz (k.opdRow o), if o.isSome then shCount (k.opdRow o) else 0)

/-- R294: the indices that VGATH and VSCAT have read, with those of b's elements that have passed since: they stand once they are
read. -/
def State.vecIndex (s : State) (h : Head) (v : VSpec) (p : SlotVal) (w : VWork) (b : List ELoc) : VGot :=
  let n := ((s.task s.cur.task).opdOf v.b).2.1
  if v.kind = .plain ∨ b.length ≤ w.index.length then .values [w.index]
  else match s.vecReadAll h p [(n, b)] with
    | .values l => .values [w.index ++ (l.headD []).drop w.index.length]
    | g => g

/-- R282, R283: the elements of the operands in order, and their reads. -/
def State.vecElems (s : State) (h : Head) (v : VSpec) (p : SlotVal) (w : VWork) (cb : List ECheck) (idx : List Nat) : VRead :=
  let k := s.task s.cur.task
  let (ra, na, ka) := k.opdOf v.a
  let (_, nb, _) := k.opdOf v.b
  let (rc, nc, kc) := k.opdOf v.c
  let (rd, _, kd) := k.opdOf v.d
  let ca := if v.kind = .gather then s.indexChecks w.a ra .read idx else s.elemChecks w.a ra ka .read
  let cc := s.elemChecks w.c rc kc .read
  let cd := if v.kind = .scatter then s.indexChecks w.d rd .write idx else s.elemChecks w.d rd kd .write
  let order := if v.kind = .gather then [cb, ca, cc, cd] else [ca, cb, cc, cd]
  let (a, b, c, d) := (placesOf ca, placesOf cb, placesOf cc, placesOf cd)
  let s := s.keepVwork { index := idx, a := a, b := b, c := c, d := d }
  match firstBad order ((order.map List.length).foldl max 0) with
  | some (.bad r) => .fault r
  | some (.miss va u) => .miss va u s
  | _ => match s.vecReadAll h p (if v.kind = .plain then [(na, a), (nb, b), (nc, c)] else [(na, a), (nc, c)]) with
    | .wait s => .wait s
    | .bad r => .fault r
    | .values l =>
      let touched := (a ++ b ++ c).any fun x => match x with
        | .mem _ _ => true
        | _ => false
      if v.kind = .plain then .ok (l.getD 0 []) (l.getD 1 []) (l.getD 2 []) d s.dropVloads touched
      else .ok (l.getD 0 []) idx (l.getD 1 []) d s.dropVloads touched

/-- R282, R283: the records, the elements in order, and the reads. -/
def State.vecRead (s : State) (h : Head) (v : VSpec) (p : SlotVal) : VRead :=
  let k := s.task s.cur.task
  match k.checkRecords v with
  | some r => .fault r
  | none =>
    let w := s.vwork
    let (rb, _, kb) := k.opdOf v.b
    let cb := s.elemChecks w.b rb kb .read
    match s.vecIndex h v p w (placesOf cb) with
    | .wait s => .wait (s.keepVwork { w with b := placesOf cb })
    | .bad r => .fault r
    | .values l => s.vecElems h v p w cb (l.headD [])

/-- A vector instruction at its firing (R282, R283). -/
def State.vector (s : State) (h : Head) (v : VSpec) (f : VFun) (p : SlotVal) : State :=
  match s.vecRead h v p with
  | .fault r => s.dropVloads.fireFault r
  | .miss va u s => s.waitWalk va u
  | .wait s => s
  | .ok a b c d s' touched =>
    let n := match v.d with
      | some o => shCount ((s.task s.cur.task).shape o.reg)
      | none => 0
    let r := f a b c n
    s'.writeVec h v.d d r.1 r.2 touched p

/-- R276, R282: the operands of a vector instruction; no memory instruction fires once the block has faulted (R35). -/
def State.operandsVec (s : State) (h : Head) (ua ub : Bool) : Option Opnds :=
  if s.cur.which = 0 then s.operandsStore h ua ub false else none

/-- The FTZ bit the cursor's block sampled. -/
def State.ftzHere (s : State) : Bool := match s.here with
  | some f => f.ftz
  | none => false

/-! Counts that entries require (R285, cause 3). -/

/-- Every source has the destination's count. -/
def countsAll (b c : Bool) (na nb nc nd : Nat) : Option Nat :=
  if na ≠ nd then some 0 else if b && nb != nd then some 1 else if c && nc != nd then some 2 else none

/-- An operand of the type's size (R281). -/
def opd (n : BitVec 3) (ty : Ty) : Option VOpd := some ⟨n.toNat, [ty.bytes]⟩
/-- An operand of any power of two up to 8 bytes. -/
def opdAny (n : BitVec 3) : Option VOpd := some ⟨n.toNat, [1, 2, 4, 8]⟩

/-- Elements with the count of the destination as the result (R282). -/
def giving (l : List Nat) (n : Nat) : List (Option Nat) × Word := (l.map some, BitVec.ofNat 64 n)

/-- An elementwise instruction of one source. -/
def State.vec1 (s : State) (h : Head) (d a : BitVec 3) (dty aty : Ty) (f : Nat → Nat) : Host.Outcome State Fault Refusal :=
  match s.operandsVec h false false with
  | some o => .next (s.vector h { a := opd a aty, d := opd d dty, counts := countsAll false false } (fun x _ _ n => giving (x.map f) n) o.p)
  | none => .next s

/-- An elementwise instruction of two sources. -/
def State.vec2 (s : State) (h : Head) (d a b : BitVec 3) (ty : Ty) (f : Nat → Nat → Nat) : Host.Outcome State Fault Refusal :=
  match s.operandsVec h false false with
  | some o => .next (s.vector h { a := opd a ty, b := opd b ty, d := opd d ty, counts := countsAll true false }
      (fun x y _ n => giving (List.zipWith f x y) n) o.p)
  | none => .next s

/-! Arithmetic (R284 to R286). -/

/-- R286: an exact integer result, wrapped or saturated to the type. -/
def intElem (ty : Ty) (sat : Bool) (v : Int) : Nat := patOf (8 * ty.bytes) (if sat then saturate ty v else v)

/-- R285: addition, subtraction and multiplication of elements. -/
def vArith (ty : Ty) (sat : Bool) (ff : Fmt → Nat → Nat → Nat) (fi : Int → Int → Int) (x y : Nat) : Nat :=
  if ty.isF then ff (fmtOf ty) x y else intElem ty sat (fi (intOf ty x) (intOf ty y))

/-- VADD (R285). -/
def execVadd (h : Head) (d a b : BitVec 3) (ty : Ty) (rm : Rm) (sat : Bool) (s : State) : Host.Outcome State Fault Refusal :=
  s.vec2 h d a b ty (vArith ty sat (fun f => f.add rm s.ftzHere) (· + ·))
/-- VSUB (R285). -/
def execVsub (h : Head) (d a b : BitVec 3) (ty : Ty) (rm : Rm) (sat : Bool) (s : State) : Host.Outcome State Fault Refusal :=
  s.vec2 h d a b ty (vArith ty sat (fun f => f.sub rm s.ftzHere) (· - ·))
/-- VMUL (R285). -/
def execVmul (h : Head) (d a b : BitVec 3) (ty : Ty) (rm : Rm) (sat : Bool) (s : State) : Host.Outcome State Fault Refusal :=
  s.vec2 h d a b ty (vArith ty sat (fun f => f.mul rm s.ftzHere) (· * ·))

/-- An elementwise instruction of three sources. -/
def State.vec3 (s : State) (h : Head) (v : VSpec) (f : Nat → Nat → Nat → Nat) : Host.Outcome State Fault Refusal :=
  match s.operandsVec h false false with
  | some o => .next (s.vector h v (fun x y z n => giving (List.zipWith (fun p w => f p.1 p.2 w) (x.zip y) z) n) o.p)
  | none => .next s

/-- VFMA (R285). -/
def execVfma (h : Head) (d a b c : BitVec 3) (ty : Ty) (rm : Rm) (s : State) : Host.Outcome State Fault Refusal :=
  s.vec3 h { a := opd a ty, b := opd b ty, c := opd c ty, d := opd d ty, counts := countsAll true true } ((fmtOf ty).fma rm s.ftzHere false)
/-- VFMS (R285). -/
def execVfms (h : Head) (d a b c : BitVec 3) (ty : Ty) (rm : Rm) (s : State) : Host.Outcome State Fault Refusal :=
  s.vec3 h { a := opd a ty, b := opd b ty, c := opd c ty, d := opd d ty, counts := countsAll true true } ((fmtOf ty).fma rm s.ftzHere true)

/-- R170, R285: the minimum or maximum of two elements. -/
def vMinMax (ty : Ty) (ftz mx : Bool) (x y : Nat) : Nat :=
  if ty.isF then (fmtOf ty).minmax ftz mx x y
  else if mx then (if intOf ty x < intOf ty y then y else x) else (if intOf ty y < intOf ty x then y else x)

/-- VMIN (R285). -/
def execVmin (h : Head) (d a b : BitVec 3) (ty : Ty) (s : State) : Host.Outcome State Fault Refusal :=
  s.vec2 h d a b ty (vMinMax ty s.ftzHere false)
/-- VMAX (R285). -/
def execVmax (h : Head) (d a b : BitVec 3) (ty : Ty) (s : State) : Host.Outcome State Fault Refusal :=
  s.vec2 h d a b ty (vMinMax ty s.ftzHere true)

/-- R285: the sign of a float changes after FTZ; a NaN is only quieted. -/
def signElem (f : Fmt) (ftz clear : Bool) (x : Nat) : Nat :=
  let x := f.flush ftz x
  if f.isNan x then f.quiet x
  else if f.neg x then x - f.signBit else if clear then x else x + f.signBit

/-- VABS (R285, R286). -/
def execVabs (h : Head) (d a : BitVec 3) (ty : Ty) (sat : Bool) (s : State) : Host.Outcome State Fault Refusal :=
  s.vec1 h d a ty ty (fun x => if ty.isF then signElem (fmtOf ty) s.ftzHere true x else intElem ty sat (intOf ty x).natAbs)
/-- VNEG (R285, R286). -/
def execVneg (h : Head) (d a : BitVec 3) (ty : Ty) (sat : Bool) (s : State) : Host.Outcome State Fault Refusal :=
  s.vec1 h d a ty ty (fun x => if ty.isF then signElem (fmtOf ty) s.ftzHere false x else intElem ty sat (-(intOf ty x)))
/-- VDIV (R285). -/
def execVdiv (h : Head) (d a b : BitVec 3) (ty : Ty) (rm : Rm) (s : State) : Host.Outcome State Fault Refusal :=
  s.vec2 h d a b ty ((fmtOf ty).div rm s.ftzHere)
/-- VSQRT (R285). -/
def execVsqrt (h : Head) (d a : BitVec 3) (ty : Ty) (rm : Rm) (s : State) : Host.Outcome State Fault Refusal :=
  s.vec1 h d a ty ty ((fmtOf ty).sqrt rm s.ftzHere)

/-! Special functions (R287). -/

/-- VRCP. -/
def execVrcp (h : Head) (d a : BitVec 3) (ty : Ty) (rm : Rm) (s : State) : Host.Outcome State Fault Refusal :=
  s.vec1 h d a ty ty ((fmtOf ty).rcp rm s.ftzHere)
/-- VRSQ. -/
def execVrsq (h : Head) (d a : BitVec 3) (ty : Ty) (rm : Rm) (s : State) : Host.Outcome State Fault Refusal :=
  s.vec1 h d a ty ty ((fmtOf ty).rsq rm s.ftzHere)
/-- VEXP2. -/
def execVexp2 (h : Head) (d a : BitVec 3) (ty : Ty) (rm : Rm) (s : State) : Host.Outcome State Fault Refusal :=
  s.vec1 h d a ty ty ((fmtOf ty).special .exp2 rm s.ftzHere)
/-- VLOG2. -/
def execVlog2 (h : Head) (d a : BitVec 3) (ty : Ty) (rm : Rm) (s : State) : Host.Outcome State Fault Refusal :=
  s.vec1 h d a ty ty ((fmtOf ty).special .log2 rm s.ftzHere)
/-- VSIN. -/
def execVsin (h : Head) (d a : BitVec 3) (ty : Ty) (rm : Rm) (s : State) : Host.Outcome State Fault Refusal :=
  s.vec1 h d a ty ty ((fmtOf ty).special .sin rm s.ftzHere)
/-- VCOS. -/
def execVcos (h : Head) (d a : BitVec 3) (ty : Ty) (rm : Rm) (s : State) : Host.Outcome State Fault Refusal :=
  s.vec1 h d a ty ty ((fmtOf ty).special .cos rm s.ftzHere)
/-- VTANH. -/
def execVtanh (h : Head) (d a : BitVec 3) (ty : Ty) (rm : Rm) (s : State) : Host.Outcome State Fault Refusal :=
  s.vec1 h d a ty ty ((fmtOf ty).special .tanh rm s.ftzHere)
/-- VSIGM. -/
def execVsigm (h : Head) (d a : BitVec 3) (ty : Ty) (rm : Rm) (s : State) : Host.Outcome State Fault Refusal :=
  s.vec1 h d a ty ty ((fmtOf ty).special .sigm rm s.ftzHere)

/-! Conversion, scaling and quantisation (R288 to R290). -/

/-- R237: the floating-point types of VCVT. -/
def isFloat (t : Ty) : Bool := t.isF || t == .e4m3 || t == .e5m2

/-- R173, R288: one converted element; E is the block exponent of BX128. A negative element of a signed type that goes to a wider unsigned one comes
under both of R173's last two integer rows: the model saturates it to 0 (log 49). DESIGN CHOICE. -/
def convElem (dty sty : Ty) (rm : Rm) (ftz : Bool) (e : Int) (x : Nat) : Nat :=
  if sty = .ds8 then (fmtOf dty).round rm ftz ((FV.ofInt (ds8Int x)).scale (-6))
  else if dty = .bx128 then toBx ftz e x
  else if sty = .bx128 then ofBx rm ftz e x
  else match isFloat sty, isFloat dty with
    | true, true => (fmtOf sty).conv (fmtOf dty) rm ftz x
    | true, false => (fmtOf sty).toIntTy rm ftz dty x
    | false, true => (fmtOf dty).ofInt rm ftz (intOf sty x)
    | false, false => patOf (8 * dty.bytes) (saturate dty (intOf sty x))

/-- VCVT (R288). -/
def execVcvt (h : Head) (d a : BitVec 3) (dty sty : Ty) (rm : Rm) (s : State) : Host.Outcome State Fault Refusal :=
  let bx := dty == .bx128 || sty == .bx128
  match s.operandsVec h bx false with
  | some o =>
    let e := o.a.v.toInt
    .next (s.vector h { a := opd a sty, d := opd d dty, counts := countsAll false false, slotBad := bx && !(decide (-126 ≤ e) && decide (e ≤ 127)) }
      (fun x _ _ n => giving (x.map (convElem dty sty rm s.ftzHere e)) n) o.p)
  | none => .next s

/-- R289: a × 2^k, rounded once; beyond ±1,024 the exponent changes nothing more in any format of F. -/
def scaleElem (f : Fmt) (rm : Rm) (ftz : Bool) (k : Int) (x : Nat) : Nat :=
  f.op rm ftz [x] fun l => (l.getD 0 .nan).scale (max (-1024) (min 1024 k))

/-- R289: an element under an E8M0 byte. -/
def scaleBy (f : Fmt) (rm : Rm) (ftz : Bool) (e x : Nat) : Nat :=
  if e = 255 then (if f.isNan x then f.quiet x else f.canonNan) else scaleElem f rm ftz ((e : Int) - 127) x

/-- VSCALE (R289). -/
def execVscale (h : Head) (d a : BitVec 3) (by_ : ScaleBy) (ty : Ty) (rm : Rm) (s : State) : Host.Outcome State Fault Refusal :=
  match by_ with
  | .shape b => match s.operandsVec h false false with
    | some o => .next (s.vector h
        { a := opd a ty, b := some ⟨b.toNat, [1]⟩, d := opd d ty
          counts := fun na nb _ nd => if na ≠ nd then some 0 else if nb ≠ (na + 31) / 32 then some 1 else none }
        (fun x y _ n => giving (x.zipIdx.map fun v => scaleBy (fmtOf ty) rm s.ftzHere (y.getD (v.2 / 32) 0) v.1) n) o.p)
    | none => .next s
  | .slot => match s.operandsVec h true false with
    | some o => .next (s.vector h { a := opd a ty, d := opd d ty, counts := countsAll false false }
        (fun x _ _ n => giving (x.map (scaleElem (fmtOf ty) rm s.ftzHere o.a.v.toInt)) n) o.p)
    | none => .next s

/-- The type of a VQNT source. -/
def qntTy : QntSrc → Ty | .f32 => .f32 | .f16 => .f16 | .bf16 => .bf16

/-- R290: EMAX of a target type. -/
def qntEmax : Ty → Int | .e4m3 => 8 | .e5m2 => 15 | .i8 => 6 | _ => 0

/-- R290: the larger magnitude. -/
def maxMag (x y : FV) : FV := match x, y with
  | .inf _, _ => .inf false
  | _, .inf _ => .inf false
  | .rat _ n d, .rat _ m e => if n * e < m * d then .rat false m e else .rat false n d
  | _, _ => x

/-- R290 ScalePass of one block. -/
def scalePass (f : Fmt) (ftz : Bool) (ty : Ty) (block : List Nat) : Nat :=
  let xs := block.map (f.flush ftz)
  if xs.any f.isNan then 255
  else match (xs.map f.value).foldl maxMag (.rat false 0 1) with
    | .rat _ n d => if n = 0 then 127 else (max 0 (min 254 (log2Frac n d - qntEmax ty + 127))).toNat
    | _ => 254

/-- Blocks of 32 elements, the last one maybe short. -/
def blocks32 : Nat → List α → List (List α)
  | 0, _ => []
  | _, [] => []
  | n + 1, l => l.take 32 :: blocks32 n (l.drop 32)

/-- R290 Ds8: c2 of what remains. -/
def ds8Second (n d : Nat) : Nat :=
  if n * 128 < d then 0
  else if n * 64 < d then 7
  else
    let k := (-(log2Frac n d)).toNat
    max 1 (if 3 * d ≤ n * 2 ^ (k + 1) then k else k + 1)

/-- R290 Ds8 of a finite magnitude. -/
def ds8Codes (n d : Nat) : Nat × Nat :=
  if 2 * d ≤ n then (1, 1)
  else if n * 128 < d then (0, 0)
  else
    let c1 := if d ≤ n then 1 else if d ≤ n * 64 then (1 - log2Frac n d).toNat else 7
    let m := 2 ^ (c1 - 1)
    (c1, if n * m < d then 0 else ds8Second (n * m - d) (d * m))

/-- R290 Ds8. -/
def ds8Of (v : FV) : Nat :=
  let code (neg : Bool) (c : Nat × Nat) : Nat :=
    (if neg && c.1 != 0 then 128 else 0) + c.1 * 16 + (if neg && c.2 != 0 then 8 else 0) + c.2
  match v with
  | .nan => 0
  | .inf s => code s (1, 1)
  | .rat s n d => code s (ds8Codes n d)

/-- R290 ElementPass. -/
def elementPass (f : Fmt) (ftz : Bool) (ty : Ty) (rm : Rm) (e x : Nat) : Nat :=
  let g := fmtOf ty
  if e = 255 then (if ty = .e4m3 ∨ ty = .e5m2 then g.canonNan else 0)
  else
    let y := (f.value (f.flush ftz x)).scale (127 - (e : Int))
    if ty = .ds8 then ds8Of y
    else if ty = .i8 then match y with
      | .nan => 0
      | .inf s => patOf 8 (if s then -127 else 127)
      | v => patOf 8 (max (-127) (min 127 (v.toInt rm)))
    else match y with
      | .rat s _ _ =>
        let r := g.round rm ftz y
        if g.maxFinite < r % g.signBit then (if s then g.signBit else 0) + g.maxFinite else r
      | v => g.round rm ftz v

/-- VQNT (R290). -/
def execVqnt (h : Head) (d a : BitVec 3) (pass : QntPass) (ty : Ty) (sty : QntSrc) (rm : Rm) (s : State) : Host.Outcome State Fault Refusal :=
  match s.operandsVec h false false with
  | none => .next s
  | some o =>
    let f := fmtOf (qntTy sty)
    match pass with
    | .scales => .next (s.vector h
        { a := opd a (qntTy sty), d := some ⟨d.toNat, [1]⟩, counts := fun na _ _ nd => if nd ≠ (na + 31) / 32 then some 3 else none }
        (fun x _ _ n => giving ((blocks32 x.length x).map (scalePass f s.ftzHere ty)) n) o.p)
    | .elements b => .next (s.vector h
        { a := opd a (qntTy sty), b := some ⟨b.toNat, [1]⟩, d := some ⟨d.toNat, [1]⟩
          counts := fun na nb _ nd => if na ≠ nd then some 0 else if nb ≠ (na + 31) / 32 then some 1 else none }
        (fun x y _ n => giving (x.zipIdx.map fun v => elementPass f s.ftzHere ty rm (y.getD (v.2 / 32) 0) v.1) n) o.p)

/-! Bitwise, compare and select (R291). -/

/-- VAND. -/
def execVand (h : Head) (d a b : BitVec 3) (ty : Ty) (s : State) : Host.Outcome State Fault Refusal := s.vec2 h d a b ty (· &&& ·)
/-- VOR. -/
def execVor (h : Head) (d a b : BitVec 3) (ty : Ty) (s : State) : Host.Outcome State Fault Refusal := s.vec2 h d a b ty (· ||| ·)
/-- VXOR. -/
def execVxor (h : Head) (d a b : BitVec 3) (ty : Ty) (s : State) : Host.Outcome State Fault Refusal := s.vec2 h d a b ty (· ^^^ ·)

/-- R291 VSHL. -/
def shlElem (w x n : Nat) : Nat := if w ≤ n then 0 else x * 2 ^ n % 2 ^ w
/-- R291 VSHR. -/
def shrElem (ty : Ty) (x n : Nat) : Nat := patOf (8 * ty.bytes) (intOf ty x / 2 ^ (min n (8 * ty.bytes)))

/-- VSHL. -/
def execVshl (h : Head) (d a b : BitVec 3) (ty : Ty) (s : State) : Host.Outcome State Fault Refusal :=
  s.vec2 h d a b ty (shlElem (8 * ty.bytes))
/-- VSHR. -/
def execVshr (h : Head) (d a b : BitVec 3) (ty : Ty) (s : State) : Host.Outcome State Fault Refusal := s.vec2 h d a b ty (shrElem ty)

/-- R291: a comparison: below, equal, and a NaN among the two. -/
def cmpElems (ty : Ty) (ftz : Bool) (x y : Nat) : Bool × Bool × Bool :=
  if ty.isF then
    let f := fmtOf ty
    let x := f.flush ftz x
    let y := f.flush ftz y
    let u := f.isNan x || f.isNan y
    let lt := (f.value x).lt false (f.value y)
    (lt, !u && !lt && !(f.value y).lt false (f.value x), u)
  else (decide (intOf ty x < intOf ty y), intOf ty x == intOf ty y, false)

/-- R291: whether a condition holds. -/
def condHolds (c : Cond) (lt eq un : Bool) : Bool := match c with
  | .eq => eq
  | .ne => !eq
  | .lt => lt
  | .le => lt || eq
  | .gt => !lt && !eq && !un
  | .ge => !lt && !un
  | .ord => !un
  | .unord => un

/-- VCMP. -/
def execVcmp (h : Head) (d a b : BitVec 3) (ty : Ty) (cond : Cond) (s : State) : Host.Outcome State Fault Refusal :=
  match s.operandsVec h false false with
  | none => .next s
  | some o =>
    let ones := 2 ^ (8 * shEsz ((s.task s.cur.task).shape d.toNat)) - 1
    .next (s.vector h { a := opd a ty, b := opd b ty, d := opdAny d, counts := countsAll true false }
      (fun x y _ n => giving (List.zipWith (fun p q =>
        let r := cmpElems ty s.ftzHere p q
        if condHolds cond r.1 r.2.1 r.2.2 then ones else 0) x y) n) o.p)

/-- VSELM. -/
def execVselm (h : Head) (d a b m : BitVec 3) (ty : Ty) (s : State) : Host.Outcome State Fault Refusal :=
  s.vec3 h { a := opd a ty, b := opd b ty, c := opdAny m, d := opd d ty, counts := countsAll true true } (fun x y z => if z ≠ 0 then x else y)

/-- VCLAMP. -/
def execVclamp (h : Head) (d a : BitVec 3) (ty : Ty) (s : State) : Host.Outcome State Fault Refusal :=
  match s.operandsVec h true true with
  | some o =>
    let lo := o.a.v.toNat % 2 ^ (8 * ty.bytes)
    let hi := o.b.v.toNat % 2 ^ (8 * ty.bytes)
    .next (s.vector h { a := opd a ty, d := opd d ty, counts := countsAll false false }
      (fun x _ _ n => giving (x.map fun e => vMinMax ty s.ftzHere false (vMinMax ty s.ftzHere true e lo) hi) n) o.p)
  | none => .next s

/-! Reductions (R181, R292). -/

/-- R181: lanes of a floating-point sum: each keeps its total, or nothing. -/
def laneSums (first : α → Nat) (next : Nat → α → Nat) (xs : List α) : List (Option Nat) :=
  (List.range 16).map fun j => ((xs.zipIdx.filter fun x => x.2 % 16 == j).map (·.1)).foldl (fun (acc : Option Nat) x => match acc with
    | none => some (first x)
    | some t => some (next t x)) none

/-- R181: folding two lanes; an empty lane passes the other unchanged. -/
def foldLane (add : Nat → Nat → Nat) : Option Nat → Option Nat → Option Nat
  | some x, some y => some (add x y)
  | some x, none => some x
  | none, y => y

/-- R181: the tree over the lanes: j with j + 8, j + 4, j + 2, j + 1. -/
def foldLanes (add : Nat → Nat → Nat) (l : List (Option Nat)) : List Nat → List (Option Nat)
  | [] => l
  | k :: r => foldLanes add (List.zipWith (foldLane add) (l.take k) (l.drop k)) r

/-- R181, R292: the FP32 total. -/
def fpTotal (ftz : Bool) (first : α → Nat) (next : Nat → α → Nat) (xs : List α) : Nat :=
  ((foldLanes (fp32.add .rne ftz) (laneSums first next xs) [8, 4, 2, 1]).getD 0 none).getD 0

/-- R292: the delivered form of a floating-point total. -/
def fpDelivered (ty : Ty) (ftz opt : Bool) (t : Nat) : Word := BitVec.ofNat 64 (if opt then fp32.conv (fmtOf ty) .rne ftz t else t)

/-- R292: the delivered form of an exact integer sum. -/
def intDelivered (ty : Ty) (sat : Bool) (v : Int) : Word :=
  let w : Int := if ty.isI then (BitVec.ofInt 64 v).toInt else (v % 2 ^ 64)
  BitVec.ofInt 64 (if sat then saturate ty w else w)

/-- R292: a reduction: no destination. -/
def State.vecReduce (s : State) (h : Head) (a : BitVec 3) (b : Option (BitVec 3)) (ty : Ty) (f : List Nat → List Nat → Word) :
    Host.Outcome State Fault Refusal :=
  match s.operandsVec h false false with
  | some o => .next (s.vector h
      { a := opd a ty, b := b.bind (opd · ty), counts := fun na nb _ _ => if b.isSome && nb != na then some 1 else none }
      (fun x y _ _ => ([], f x y)) o.p)
  | none => .next s

/-- VSUM. -/
def execVsum (h : Head) (a : BitVec 3) (ty : Ty) (opt : Bool) (s : State) : Host.Outcome State Fault Refusal :=
  s.vecReduce h a none ty fun x _ =>
    let z := s.ftzHere
    let up (v : Nat) : Nat := (fmtOf ty).conv fp32 .rne z v
    if ty.isF then fpDelivered ty z opt (fpTotal z up (fun t v => fp32.add .rne z t (up v)) x)
    else intDelivered ty opt ((x.map (intOf ty)).foldl (· + ·) 0)

/-- R181, R292: a lane's total plus a product, rounded once; of NaNs the total's, which came first in iteration order (R169). -/
def dotStep (ftz : Bool) (t p q : Nat) : Nat :=
  fp32.op .rne ftz [t, p, q] fun l => ((l.getD 1 .nan).mul (l.getD 2 .nan)).add .rne (l.getD 0 .nan)

/-- VDOT: the lanes take pairs of elements. -/
def execVdot (h : Head) (a b : BitVec 3) (ty : Ty) (opt : Bool) (s : State) : Host.Outcome State Fault Refusal :=
  s.vecReduce h a (some b) ty fun x y =>
    let z := s.ftzHere
    let up (v : Nat) : Nat := (fmtOf ty).conv fp32 .rne z v
    if ty.isF then
      fpDelivered ty z opt (fpTotal z (fun c => fp32.mul .rne z (up c.1) (up c.2)) (fun t c => dotStep z t (up c.1) (up c.2)) (x.zip y))
    else intDelivered ty opt ((List.zipWith (fun p q => intOf ty p * intOf ty q) x y).foldl (· + ·) 0)

/-- R181: the extreme element and its index, the lowest among equals; a NaN wins at its first position, quieted (R169). -/
def extreme (ty : Ty) (ftz mx : Bool) (xs : List Nat) : Nat × Nat :=
  let f := fmtOf ty
  let xs := if ty.isF then xs.map (f.flush ftz) else xs
  match (if ty.isF then xs.zipIdx.find? fun x => f.isNan x.1 else none) with
  | some x => (f.quiet x.1, x.2)
  | none => xs.zipIdx.foldl (fun (b : Nat × Nat) x => if vMinMax ty false mx b.1 x.1 = b.1 then b else x) (xs.headD 0, 0)

/-- R292: TY bits, sign-extended for I. -/
def extendElem (ty : Ty) (v : Nat) : Word := if ty.isI then BitVec.ofInt 64 (intOf ty v) else BitVec.ofNat 64 v

/-- VRMAX. -/
def execVrmax (h : Head) (a : BitVec 3) (ty : Ty) (s : State) : Host.Outcome State Fault Refusal :=
  s.vecReduce h a none ty fun x _ => extendElem ty (extreme ty s.ftzHere true x).1
/-- VRMIN. -/
def execVrmin (h : Head) (a : BitVec 3) (ty : Ty) (s : State) : Host.Outcome State Fault Refusal :=
  s.vecReduce h a none ty fun x _ => extendElem ty (extreme ty s.ftzHere false x).1
/-- VARGMX. -/
def execVargmx (h : Head) (a : BitVec 3) (ty : Ty) (s : State) : Host.Outcome State Fault Refusal :=
  s.vecReduce h a none ty fun x _ =>
    let e := extreme ty s.ftzHere true x
    BitVec.ofNat 64 (e.2 * 2 ^ 32 + e.1)

/-! Data movement (R293 to R295). -/

/-- VPERM. -/
def execVperm (h : Head) (d a b : BitVec 3) (ty : Ty) (s : State) : Host.Outcome State Fault Refusal :=
  match s.operandsVec h false false with
  | some o => .next (s.vector h
      { a := opd a ty, b := opdAny b, d := opd d ty, counts := fun _ nb _ nd => if nb ≠ nd then some 1 else none
        limit := fun ra _ => if 64 < shCount ra * shEsz ra then some 0 else none }
      (fun x y _ n => giving (y.map fun i => x.getD i 0) n) o.p)
  | none => .next s

/-- VGATH. -/
def execVgath (h : Head) (d a b : BitVec 3) (ty : Ty) (s : State) : Host.Outcome State Fault Refusal :=
  match s.operandsVec h false false with
  | some o => .next (s.vector h
      { kind := .gather, a := opd a ty, b := opdAny b, d := opd d ty, counts := fun _ nb _ nd => if nb ≠ nd then some 1 else none
        limit := fun ra _ => if shDims ra ≠ 1 then some 0 else none }
      (fun x _ _ n => giving x n) o.p)
  | none => .next s

/-- VSCAT: an index outside d writes nothing; it delivers N of a. -/
def execVscat (h : Head) (d a b : BitVec 3) (ty : Ty) (s : State) : Host.Outcome State Fault Refusal :=
  match s.operandsVec h false false with
  | some o => .next (s.vector h
      { kind := .scatter, a := opd a ty, b := opdAny b, d := opd d ty, counts := fun na nb _ _ => if na ≠ nb then some 1 else none
        limit := fun _ rd => if shDims rd ≠ 1 then some 3 else none }
      (fun x _ _ _ => (x.map some, BitVec.ofNat 64 x.length)) o.p)
  | none => .next s

/-- R295: an output element. -/
def joinOut (key va vb : Nat) : Nat := key + va * 2 ^ 32 + vb * 2 ^ 64

/-- R295: a merge in steps; it answers the outputs, the first of the list the first written, and whether d was full. -/
def joinLoop (outer : Bool) : Nat → Nat → List Nat → List Nat → List Nat × Bool
  | 0, _, _, _ => ([], false)
  | _ + 1, _, [], [] => ([], false)
  | k + 1, room, [], y :: ys =>
    if !outer then ([], false)
    else if room = 0 then ([], true)
    else
      let r := joinLoop outer k (room - 1) [] ys
      (joinOut (y % 2 ^ 32) 0 (y / 2 ^ 32) :: r.1, r.2)
  | k + 1, room, x :: xs, [] =>
    if !outer then ([], false)
    else if room = 0 then ([], true)
    else
      let r := joinLoop outer k (room - 1) xs []
      (joinOut (x % 2 ^ 32) (x / 2 ^ 32) 0 :: r.1, r.2)
  | k + 1, room, x :: xs, y :: ys =>
    if x % 2 ^ 32 = y % 2 ^ 32 then
      (if room = 0 then ([], true)
      else
        let r := joinLoop outer k (room - 1) xs ys
        (joinOut (x % 2 ^ 32) (x / 2 ^ 32) (y / 2 ^ 32) :: r.1, r.2))
    else if x % 2 ^ 32 < y % 2 ^ 32 then
      (if !outer then joinLoop outer k room xs (y :: ys)
      else if room = 0 then ([], true)
      else
        let r := joinLoop outer k (room - 1) xs (y :: ys)
        (joinOut (x % 2 ^ 32) (x / 2 ^ 32) 0 :: r.1, r.2))
    else
      (if !outer then joinLoop outer k room (x :: xs) ys
      else if room = 0 then ([], true)
      else
        let r := joinLoop outer k (room - 1) (x :: xs) ys
        (joinOut (y % 2 ^ 32) 0 (y / 2 ^ 32) :: r.1, r.2))

/-- VJOIN (R295). -/
def execVjoin (h : Head) (d a b : BitVec 3) (outer : Bool) (s : State) : Host.Outcome State Fault Refusal :=
  match s.operandsVec h false false with
  | some o => .next (s.vector h
      { a := some ⟨a.toNat, [8]⟩, b := some ⟨b.toNat, [8]⟩, d := some ⟨d.toNat, [16]⟩ }
      (fun x y _ n =>
        let r := joinLoop outer (x.length + y.length + 1) n x y
        (r.1.map some, BitVec.ofNat 64 (r.1.length + if r.2 then 2 ^ 63 else 0))) o.p)
  | none => .next s

/-- R293 VIOTA: start + j × step, wrapped or rounded. -/
def iotaElem (ty : Ty) (rm : Rm) (ftz : Bool) (start step : Word) (j : Nat) : Nat :=
  let v : Int := start.toInt + j * step.toInt
  if ty.isF then (fmtOf ty).ofInt rm ftz v else patOf (8 * ty.bytes) v

/-- VIOTA. -/
def execViota (h : Head) (d : BitVec 3) (ty : Ty) (rm : Rm) (s : State) : Host.Outcome State Fault Refusal :=
  match s.operandsVec h true true with
  | some o => .next (s.vector h { d := opd d ty }
      (fun _ _ _ n => giving ((List.range n).map (iotaElem ty rm s.ftzHere o.a.v o.b.v)) n) o.p)
  | none => .next s

/-- VFILL. -/
def execVfill (h : Head) (d : BitVec 3) (ty : Ty) (s : State) : Host.Outcome State Fault Refusal :=
  match s.operandsVec h true false with
  | some o => .next (s.vector h { d := opd d ty } (fun _ _ _ n => giving (List.replicate n (patOf (8 * ty.bytes) o.a.v.toInt)) n) o.p)
  | none => .next s

/-- VCOPY. -/
def execVcopy (h : Head) (d a : BitVec 3) (ty : Ty) (s : State) : Host.Outcome State Fault Refusal := s.vec1 h d a ty ty id

end Sys2Proof.Machine
end

