-- ==== Sys2Proof/Machine/Copy.lean ====
section
/-! DEFINITION. Engine commands in general, and the copy engine (spec/14_engine_system_ops.md R332 to R343; the accesses of engines,
spec/01_address_spaces.md R37 and R38, spec/02_storage_levels.md R46 and R47). -/

namespace Sys2Proof.Machine

/-! Queues of a tile: units 0 to 3 are copy contexts, 4 the matrix engine, 5 the Canopy memory queue (R467). -/

/-- The commands of a unit, oldest first. -/
def Tile.queue (t : Tile) (unit : Nat) : List Cmd :=
  if unit = 4 then t.matrix else if unit = 5 then t.canopy else (t.copies.getD unit {}).cmds

/-- Replaces the commands of a unit. -/
def Tile.setQueue (t : Tile) (unit : Nat) (l : List Cmd) : Tile :=
  if unit = 4 then { t with matrix := l } else if unit = 5 then { t with canopy := l }
  else { t with copies := listMod t.copies unit fun c => { c with cmds := l } }

/-- Changes a command. -/
def State.modCmd (s : State) (tile unit id : Nat) (f : Cmd → Cmd) : State :=
  s.modTile tile fun t => t.setQueue unit ((t.queue unit).map fun c => if c.id = id then f c else c)

/-- A command stops: it waits for no translation, its reads are given up, and its writes that are under way go on by themselves. -/
def State.stopCmd (s : State) (tile unit id : Nat) : State :=
  let mine (r : Req) : Bool := r.eng == some (tile, unit, id)
  let s := s.forgetAsker (.engine tile unit id)
  { s with reqs := (s.reqs.filter fun r => !(mine r && (!r.isStore || r.answer.isSome))).map fun r => if mine r then { r with eng := none } else r }

/-- Removes a command. -/
def State.dropCmd (s : State) (tile unit id : Nat) : State :=
  (s.stopCmd tile unit id).modTile tile fun t => t.setQueue unit ((t.queue unit).filter fun c => decide (c.id ≠ id))

/-- R344, R348: MACCLR takes a place in the queue and none of the entries of class E. -/
def Cmd.entry (c : Cmd) : Bool := match c.op with
  | .macclr _ _ => false
  | _ => true

/-- R341: a copy with a follow-on. -/
def Cmd.follows (c : Cmd) : Bool := match c.op with
  | .copy _ _ _ _ _ _ _ (some _) => true
  | _ => false

/-- R334: entries of a unit that blocks in flight on the tile have reserved. -/
def State.engReserved (s : State) (tile unit : Nat) : Nat :=
  ((s.tasks.filter fun k => k.1.tile == tile).flatMap fun k => k.2.flights.flatMap fun f => f.defer.filter fun d => match d.2 with
    | .engine u c => (u == unit && c.entry) || (unit == 4 && c.follows)
    | _ => false).length

/-- R334: a unit has a free entry. -/
def State.engRoom (s : State) (tile unit : Nat) : Bool :=
  let cap := if unit = 4 then 32 else 8
  decide (((((s.tile tile).queue unit).filter Cmd.entry).length + s.engReserved tile unit) < cap)

/-- R333, R276: the operands of an engine instruction that reads shape registers or is issued at commit. -/
def State.operandsEng (s : State) (h : Head) (ua ub uc : Bool) : Option Opnds :=
  if s.cur.which = 0 then s.operandsStore h ua ub uc else none

/-- R45, R333: a space the engines reach. -/
def shEngine (r : Row) : Bool := !shVt r && (match shSpace r with | .gl | .ds | .bs | .ts => true | _ => false)

/-- R333: the first failed check of a list: records (causes 0 to 3), structures (cause 4), operand words (cause 6). -/
def engChecks (records : Option Record) (structure_ : List (Bool × Nat)) (words : List Bool) : Option Record :=
  match records with
  | some r => some r
  | none => match structure_.find? fun c => !c.1 with
    | some c => some (shapeFault 4 c.2)
    | none => if words.all id then none else some (shapeFault 6 0)

/-- A field of an operand word. -/
def wfield (v : Word) (lo n : Nat) : Nat := v.toNat / 2 ^ lo % 2 ^ n

/-- The command of the cursor's instruction, with the context, the mode values and the cache hint it carries (R332, R364). -/
def State.newCmd (s : State) (h : Head) (op : EngOp) (tl : Nat) (p : SlotVal) : Cmd :=
  let k := s.task s.cur.task
  { id := 0, op := op, tl := tl, ctx := k.ctx, load := k.load, task := some s.cur.task, ftz := s.ftzHere, hint := h.ch.toNat, after := p.tok }

/-- An engine instruction fires: the command is issued at commit. -/
def State.fireEngine (s : State) (h : Head) (unit : Nat) (op : EngOp) (tl : Nat) (p : SlotVal) : State :=
  (s.atCommit (.engine unit (s.newCmd h op tl p))).fire0

/-- R345, R347 on a follow-on: a B tile. -/
def bShapeOk (r : Row) : Bool :=
  shEsz r == 1 && shDims r == 2 && shExtRaw r 0 == 128 && shStrRaw r 0 == 1 && shExtRaw r 1 == 128 && shStrRaw r 1 % 64 == 0 && shBase r % 64 == 0
/-- R345: scales of a B tile. -/
def bScaleOk (r : Row) : Bool :=
  shEngine r && shDims r == 2 && shExtRaw r 0 == 128 && shStrRaw r 0 == 1 && shExtRaw r 1 == 4 && shStrRaw r 1 % 64 == 0
/-- R347: rows of A. -/
def aShapeOk (r : Row) (a4 : Bool) : Bool :=
  shEsz r == 1 && shDims r == 2 && shExtRaw r 0 == (if a4 then 64 else 128) && shStrRaw r 0 == 1
    && decide (1 ≤ shExtRaw r 1) && decide (shExtRaw r 1 ≤ 128) && shStrRaw r 1 % 64 == 0 && shBase r % 64 == 0

/-- R338: the follow-on that an operand word describes. -/
def followOf (w : Word) (tag : Nat) (scale : Row) : Option Follow :=
  match Ty.ofBits (BitVec.ofNat 4 (wfield w 19 4)) with
  | none => none
  | some ty =>
    if wfield w 13 1 = 0 then some (.mma (wfield w 14 2) (wfield w 16 3) ty (wfield w 26 1 == 1) (wfield w 27 7) tag)
    else some (.mldb (wfield w 16 3) ty scale)

/-- A copy instruction at its firing (R333, R337, R338, R341). -/
def State.copyHere (s : State) (form : Nat) (h : Head) (tl : BitVec 4) (cx : BitVec 2) (ty : Ty) (start follow : Bool) (mask : BitVec 4) :
    State :=
  match s.operandsEng h true follow start with
  | none => s
  | some o =>
    let tile := s.cur.task.tile
    if !s.engRoom tile cx.toNat || (follow && !s.engRoom tile 4) then s
    else
      let k := s.task s.cur.task
      let w := o.a.v
      let dn := wfield w 0 3
      let an := wfield w 3 3
      let xn := wfield w 6 3
      let sn := wfield w 23 3
      let indexed := form == 2 || form == 3
      let d := k.shape dn
      let a := k.shape an
      let x := if indexed then k.shape xn else 0
      let fty := Ty.ofBits (BitVec.ofNat 4 (wfield w 19 4))
      let mma := follow && wfield w 13 1 == 0
      let mldb := follow && wfield w 13 1 == 1
      let scaled := mldb && (fty == some .ds8 || fty == some .e4m3)
      let v : VSpec :=
        { a := some ⟨dn, [ty.bytes]⟩, b := some ⟨an, [ty.bytes]⟩, c := if indexed then some ⟨xn, [1, 2, 4, 8]⟩ else none
          d := if scaled then some ⟨sn, [1]⟩ else none
          counts := fun nd na nx _ =>
            if form < 2 then (if na ≠ nd then some 1 else none)
            else if form = 2 then (if nx ≠ nd then some 2 else none) else if nx ≠ na then some 2 else none }
      let a4 := wfield w 26 1 == 1
      let shapes :=
        [(shEngine d, dn), (shEngine a, an), (!indexed || shEngine x, xn),
         (form != 1 || (shDims d == 2 && shDims a == 2 && shExtRaw d 0 == shExtRaw a 1 && shExtRaw d 1 == shExtRaw a 0), dn),
         (form != 2 || shDims a == 1, an), (form != 3 || shDims d == 1, dn),
         (mask == 0 || shSpace d == .ts, dn),
         (!follow || (shSpace d == .ts && mask.getLsbD (tile % 4)), dn),
         (!mma || aShapeOk d a4, dn), (!mldb || bShapeOk d, dn), (!scaled || bScaleOk (k.shape sn), sn)]
      let words :=
        [wfield w 34 30 == 0, follow || wfield w 13 21 == 0, start || wfield w 9 4 == 0, indexed || wfield w 6 3 == 0,
         !mma || ((fty == some .i8 || (fty == some .e4m3 && !a4)) && wfield w 23 3 == 0 && decide (wfield w 27 7 + shExtRaw d 1 ≤ 128)),
         !mldb || ((fty == some .i8 || fty == some .ds8 || fty == some .e4m3) && wfield w 14 2 == 0 && wfield w 26 8 == 0
           && (scaled || wfield w 23 3 == 0)),
         if mma then o.b.v.toNat < 2 ^ 16 else o.b.v == 0]
      match engChecks (k.checkRecords v) shapes words with
      | some r => s.fireFault r
      | none =>
        let f := if follow then followOf w (wfield o.b.v 0 16) (k.shape sn) else none
        s.fireEngine h cx.toNat (.copy form d a x ty mask.toNat (if start then some (wfield w 9 4, o.c.v.toNat) else none) f) tl.toNat o.p

/-- CPY (R337). -/
def execCpy (h : Head) (tl : BitVec 4) (cx : BitVec 2) (ty : Ty) (start follow : Bool) (mask : BitVec 4) (s : State) :
    Host.Outcome State Fault Refusal := .next (s.copyHere 0 h tl cx ty start follow mask)
/-- CPYT (R337). -/
def execCpyt (h : Head) (tl : BitVec 4) (cx : BitVec 2) (ty : Ty) (start follow : Bool) (mask : BitVec 4) (s : State) :
    Host.Outcome State Fault Refusal := .next (s.copyHere 1 h tl cx ty start follow mask)
/-- CPYG (R337). -/
def execCpyg (h : Head) (tl : BitVec 4) (cx : BitVec 2) (ty : Ty) (start follow : Bool) (mask : BitVec 4) (s : State) :
    Host.Outcome State Fault Refusal := .next (s.copyHere 2 h tl cx ty start follow mask)
/-- CPYS (R337). -/
def execCpys (h : Head) (tl : BitVec 4) (cx : BitVec 2) (ty : Ty) (start follow : Bool) (mask : BitVec 4) (s : State) :
    Host.Outcome State Fault Refusal := .next (s.copyHere 3 h tl cx ty start follow mask)

/-- CPYSUS (R342): acts at commit. -/
def execCpysus (h : Head) (cx : BitVec 2) (s : State) : Host.Outcome State Fault Refusal :=
  match s.operandsEng h false false false with
  | some _ => .next (s.atCommit (.cpysus cx.toNat)).fire0
  | none => .next s

/-- R482: a tile identifier whose bed is in service. -/
def State.tileEnabled (s : State) (tile : Nat) : Bool :=
  let bed := tile / 4
  let die := tile / 64
  decide (tile < 768) && decide (bed ∉ s.beds.out) && !(s.beds.used.any fun u => u == (die, bed % 16))
    && (bed % 16 != s.beds.fuse.getD die 15 || s.beds.used.any fun u => u.1 == die)

/-- CPYRES (R343): the checks at firing, the action at commit. -/
def execCpyres (h : Head) (cx : BitVec 2) (s : State) : Host.Outcome State Fault Refusal :=
  match s.operandsEng h true true false with
  | none => .next s
  | some o =>
    let tile := o.b.v.toNat
    let unit := wfield o.a.v 0 2
    if tile ≠ s.cur.task.tile ∧ !s.isTrapTask s.cur.task then .next (s.fireFault { code := .priv })
    else if unit = 3 ∨ wfield o.a.v 3 61 ≠ 0 then .next (s.fireFault { code := .addrRange })
    else if !s.tileEnabled tile then .next (s.fireFault { code := .addrRange })
    else .next (s.atCommit (.cpyres (if unit = 0 then 0 else unit + 3) cx.toNat tile (wfield o.a.v 2 1 == 1))).fire0

/-! Issue (R334, R340, R341). -/

/-- The step that performs a matrix command (R344). -/
def matrixWork (tile : Nat) (c : Cmd) : Work := match c.op with
  | .mldb _ _ _ _ => .macroLoad tile c.id
  | .mscl _ _ _ => .scaleTokenAccept tile c.id
  | .macclr _ _ => .macclrPerform tile c.id
  | .macst _ _ _ => .macstPerform tile c.id
  | _ => .mmaStart tile c.id

/-- The matrix command of a follow-on on the copy's destination (R341). -/
def Follow.op (f : Follow) (d : Row) : EngOp := match f with
  | .mma acc m ty a4 row0 tag => .mma acc m ty d a4 row0 tag
  | .mldb m ty scale => .mldb m ty d scale

/-- R402: an accumulator that a matrix command names is live. -/
def EngOp.accOf : EngOp → Option Nat
  | .mma acc _ _ _ _ _ _ => some acc
  | .macclr acc _ => some acc
  | .macst acc _ _ => some acc
  | _ => none

/-- R402: marks it. -/
def State.markLive (s : State) (tile : Nat) (op : EngOp) : State := match op.accOf with
  | some a => s.modTile tile fun t => { t with accs := listMod t.accs a fun x => { x with live := true } }
  | none => s

/-- A command enters its queue at its block's commit: it is numbered, and a follow-on takes its place. -/
def State.issueCommand (s : State) (tile unit : Nat) (c : Cmd) : State :=
  let (n, s) := if c.entry then s.takeNumber c.ctx c.tl else (0, s)
  let (id, s) := s.newId
  let c := { c with id := id, num := n }
  let s := (s.modTile tile fun t => t.setQueue unit (t.queue unit ++ [c])).markLive tile c.op
  match c.op with
  | .copy _ d _ _ _ _ _ follow =>
    let s := match follow with
      | some f =>
        let (fid, s) := s.newId
        let m : Cmd :=
          { id := fid, op := f.op d, tl := c.tl, num := n, ctx := c.ctx, load := c.load, task := c.task, ftz := c.ftz, hint := c.hint, copyOf := some id,
            ready := false }
        (s.modTile tile fun t => { t with matrix := t.matrix ++ [m] }).markLive tile m.op
      | none => s
    if (((s.tile tile).queue unit).headD c).id = id then s.post (.copyStart tile unit) else s
  | .cnld _ _ => if (((s.tile tile).queue unit).headD c).id = id then s.post (.canopyLoad tile) else s
  | .cnst _ _ => if (((s.tile tile).queue unit).headD c).id = id then s.post (.canopyStore tile) else s
  | _ => s.post (matrixWork tile c)

/-! Accesses of engines (R33, R37, R38, R65, R105). -/

/-- R336: a command stops: its status, and the engine record to the trap operator. -/
def State.engineFail (s : State) (tile unit : Nat) (c : Cmd) (r : Record) : State :=
  let s := (s.stopCmd tile unit c.id).modCmd tile unit c.id fun x =>
    { x with state := .failed, code := some r.code, cause := r.cause, prog := c.prog, tok := c.tok, sent := false, rows := [], counts := [], fail := none }
  let s := if r.code == .uncorrectable then s.event 0x01 (dieOf tile) c.ctx r.addr r.word0 else s
  s.sendRecord
    { r with
      kind := 1, ctx := c.ctx, unit := unit, handle := tile, auxA := c.num, auxB := c.prog + c.tl * 2 ^ 32, time := s.podtime
      epoch := s.epochAt tile } false

/-- The reads, or the writes, of a command that have been sent. -/
def State.engReqs (s : State) (tile unit : Nat) (c : Cmd) (stores : Bool) : List Req :=
  s.reqs.filter fun r => r.eng == some (tile, unit, c.id) && r.isStore == stores

/-- A command has used up the reads it has sent. -/
def State.dropEngReads (s : State) (tile unit : Nat) (c : Cmd) : State :=
  { s with reqs := s.reqs.filter fun r => !(r.eng == some (tile, unit, c.id) && !r.isStore) }

/-- A line access of an engine is sent to its home. -/
def State.engSend (s : State) (tile unit : Nat) (c : Cmd) (op : Op) (key : Nat) (u : LineUse) : State :=
  let (id, s) := s.newId
  let r : Req :=
    { id := id, op := op, eng := some (tile, unit, c.id), ctx := c.ctx, load := c.load, loc := key, va := u.va, use := some u, start := s.cycle }
  ({ s with reqs := s.reqs ++ [r] } : State).route id

/-- What accesses of an engine have come to: a wait, a failure of the command, or their values. -/
inductive EngGot (α : Type) where
  | wait (s : State)
  | bad (r : Record) (s : State)
  | got (x : α) (s : State)

/-- R37, R38: the places of elements of n bytes at addresses, in order; an address that is none takes no access. -/
def State.engPlaces (s : State) (tile unit : Nat) (c : Cmd) (sp : Space) (n : Nat) (u : Use) : List (Option Nat) → EngGot (List ELoc)
  | [] => .got [] s
  | none :: r => match State.engPlaces s tile unit c sp n u r with
    | .got l s => .got (.nowhere :: l) s
    | e => e
  | some a :: r =>
    let x := if sp = .gl then s.checkFor (dieOf tile) c.ctx a u (.engine tile unit c.id) else (checkLocal sp tile 0 (BitVec.ofNat 64 a) n 1 u, s)
    match x with
    | (.miss _, s) => .wait s
    | (.bad x, s) => .bad (x.record u a) s
    | (.ok key use, s) => match State.engPlaces s tile unit c sp n u r with
      | .got l s => .got (.mem key (use.map fun v => { v with hint := c.hint }) :: l) s
      | e => e

/-- R37: the places before the line of the first address that fails, and that failure; in a local space none stands before it (R38). -/
def State.engBefore (s : State) (tile unit : Nat) (c : Cmd) (sp : Space) (n : Nat) (l : List Nat) : EngGot (List ELoc × Option Record) :=
  match s.engPlaces tile unit c sp n .write (l.map some) with
  | .wait s => .wait s
  | .got p s => .got (p, none) s
  | .bad r s' =>
    if sp ≠ .gl then .bad r s'
    else match s.engPlaces tile unit c sp n .write
        ((l.takeWhile fun a => decide (a / 2048 ≠ (if r.code = .uncorrectable then r.auxB else r.addr) / 2048)).map some) with
      | .got p _ => .got (p, some r) s'
      | .wait s => .wait s
      | .bad _ _ => .bad r s'

/-- The first failure among elements that have been read. -/
def State.engBad (s : State) (sent : List Req) (n : Nat) (l : List ELoc) : Option Record := l.findSome? (s.elemBad sent n)

/-- R48, R57, R65: reads elements of n bytes at places, the lines of global memory through requests; a place that is none gives zero
bits. -/
def State.engFetch (s : State) (tile unit : Nat) (c : Cmd) (n : Nat) (l : List ELoc) : EngGot (List Nat) :=
  let keys := l.flatMap (ELoc.keys n)
  let sent := s.engReqs tile unit c false
  let left := notRead sent keys
  if !left.isEmpty then .wait ((lineReads l left).foldl (fun (s : State) x => s.engSend tile unit c (.vload x.2) (x.2.headD 0) x.1) s)
  else if sent.any fun r => !r.returned then .wait s
  else match s.engBad sent n l with
    | some r => .bad r s
    | none =>
      let got := sent.flatMap (·.got)
      .got (l.map fun x => natOfBytes ((x.keys n).map fun k => if isGl k then (Table.find got k).getD 0 else s.byte k)) s

/-- R37: the elements of n bytes at addresses: their places, then their reads. -/
def State.engRead (s : State) (tile unit : Nat) (c : Cmd) (sp : Space) (n : Nat) (l : List (Option Nat)) : EngGot (List Nat) :=
  match s.engPlaces tile unit c sp n .read l with
  | .got p s => s.engFetch tile unit c n p
  | .wait s => .wait s
  | .bad r s => .bad r s

/-- R105, R108: the pushes before an engine's writes: the lines that have theirs, in order up to the first failure, and that; a push that is made
stays. -/
def State.engPush (s : State) (ctx : Nat) : List LineUse → List LineUse × Option Record × State
  | [] => ([], none, s)
  | u :: r =>
    let s := if paPackage u.line = s.package then s.prepare u else s
    match s.push u.line ctx u.epoch with
    | some s =>
      let x := State.engPush s ctx r
      (u :: x.1, x.2)
    | none => ([], some (s.exhausted u.line ctx u.epoch u.va .write), s)

/-- R46: the cells that bytes written to a ts offset make in every tile a mask names. -/
def multicast (bed mask : Nat) (cells : List (Nat × Byte)) : List (Nat × Byte) :=
  ((List.range 4).filter mask.testBit).flatMap fun n => cells.map fun x => (localKey .ts (bed * 4 + n) 0 (localOffset x.1), x.2)

/-- R37, R140: what the writes of a step that are under way have come to: the step is done, or fails, once all of them are performed or
lost. -/
def State.engWritten (s : State) (tile unit : Nat) (c : Cmd) : EngGot Unit :=
  let mine := s.engReqs tile unit c true
  if mine.any fun r => r.answer.isNone then .wait s
  else match (mine.findSome? fun r => r.answer.bind (·.fail)).or c.fail with
    | some r => .bad r s
    | none => .got () (s.modCmd tile unit c.id fun k => { k with sent := false })

/-- R46, R48, R125: sends the writes of lines whose pushes are made: local bytes at once, each line of global memory as a request. A step that
fails at a later line waits for them first (R37). -/
def State.engSendLines (s : State) (tile unit : Nat) (c : Cmd) (mask : Option Nat) (cells : List (Nat × Byte)) (lines : List LineUse)
    (fail : Option Record) : EngGot Unit :=
  let near := cells.filter fun x => !isGl x.1
  let s := s.commitBytes (match mask with | some m => multicast (bedOf tile) m near | none => near)
  match lines, fail with
  | [], none => .got () s
  | [], some r => .bad r s
  | lines, fail =>
    let send (s : State) (u : LineUse) : State :=
      let mine := cells.filter fun x => isGl x.1 && lineOf x.1 == u.line
      (s.markDirty (dieOf tile) c.ctx u).engSend tile unit c (.store mine) (mine.headD (0, 0)).1 u
    .wait ((lines.foldl send s).modCmd tile unit c.id fun k => { k with sent := true, fail := fail })

/-- R105: the lines of places, each with the epoch that the issuing die attaches. -/
def State.engLines (s : State) (c : Cmd) (l : List ELoc) : List LineUse :=
  (useLines l).map fun u => { u with epoch := s.attachEpoch c.ctx u.va u.mtype u.line }

/-- The cells of bytes at places. -/
def engCells (l : List (ELoc × List Byte)) : List (Nat × Byte) := l.flatMap fun x => match x.1 with
  | .mem k _ => placeBytes k x.2
  | _ => []

/-- R37, R46, R48, R105, R125, R339: a copy's step writes elements at places that have passed their checks: nothing before every push, so that
a step without a slot stays untouched. The writes are done once all are performed. -/
def State.engWrite (s : State) (tile unit : Nat) (c : Cmd) (mask : Option Nat) (l : List (ELoc × List Byte)) : EngGot Unit :=
  if c.sent then s.engWritten tile unit c
  else match s.engPush c.ctx (s.engLines c (l.map (·.1))) with
    | (_, some r, s) => .bad r s
    | (lines, none, s) => s.engSendLines tile unit c mask (engCells l) lines none

/-- R37, R105, R108: writes at addresses, line by line: the lines before the one that fails, by its checks or for want of a slot, are written. -/
def State.engStore (s : State) (tile unit : Nat) (c : Cmd) (sp : Space) (l : List (Nat × List Byte)) : EngGot Unit :=
  if c.sent then s.engWritten tile unit c
  else match s.engBefore tile unit c sp (l.headD (0, [])).2.length (l.map (·.1)) with
    | .wait s => .wait s
    | .bad r s => .bad r s
    | .got (p, bad) s => match s.engPush c.ctx (s.engLines c p) with
      | (lines, full, s) => s.engSendLines tile unit c none (engCells (p.zip (l.map (·.2)))) lines (full.or bad)

/-- R38: the first failure of a local operand's elements, found before the command moves anything. -/
def localFault (tile : Nat) (sp : Space) (n : Nat) (u : Use) (l : List Nat) : Option Record :=
  if sp = .gl then none
  else l.findSome? fun a => match checkLocal sp tile 0 (BitVec.ofNat 64 a) n 1 u with
    | .bad x => some (x.record u a)
    | _ => none

/-! The copy engine (R339 to R341). -/

/-- R339: elements of a step: those after j that lie in the same 2 KiB block. -/
def stepLen (at_ : Nat → Nat) (block : Nat) : Nat → Nat → Nat
  | 0, _ => 0
  | n + 1, j => if at_ j / 2048 = block then stepLen at_ block n (j + 1) + 1 else 0

/-- R337: the source address of element j of CPY and CPYT. -/
def copySource (form : Nat) (d a : Row) (j : Nat) : Nat :=
  if form = 1 then shAddr a (j % shExtRaw d 0 * shExtRaw a 0 + j / shExtRaw d 0) else shAddr a j

/-- R337: the element that an index reaches, none outside the shape. -/
def indexAddr (r : Row) (i : Nat) : Option Nat :=
  if shExtRaw r 0 ≤ i then none else some (((shBase r : Int) + i * shStrRaw r 0) % 2 ^ 64).toNat

/-- R47: the base and every stride of a shape are multiples of the element size. -/
def shAligned (r : Row) : Bool :=
  shBase r % shEsz r == 0 && (List.range 4).all fun d => shStr r d % (shEsz r : Int) == 0

/-- The element count of a copy: the source's for CPYS, else the destination's. -/
def copyCount (form : Nat) (d a : Row) : Nat := if form = 3 then shCount a else shCount d

/-- R340: the command's token is released and its start condition met. -/
def State.mayStart (s : State) (c : Cmd) (start : Option (Nat × Nat)) : Bool :=
  (match c.after, c.task with
    | some k, some t => s.released t k
    | _, _ => true)
  && match start with
    | some (tl, n) => decide (n ≤ (s.timeline c.ctx tl).value)
    | none => true

/-- R38, R47: what ends a copy before it moves anything: alignment, the mask (R46), and the bounds of local operands. Elements that an
index names are checked in their step: R339 reads the index step by step, never all before the first step. -/
def copyFault (tile form : Nat) (d a x : Row) (mask : Nat) : Option Record :=
  let all (r : Row) (n : Nat) : List Nat := (List.range n).map (shAddr r)
  let shapes : List (Row × Acc) := (d, .write) :: (a, .read) :: if form < 2 then [] else [(x, .read)]
  match shapes.find? fun r => !shAligned r.1 with
  | some r => some { code := .align, addr := shBase r.1, acc := r.2 }
  | none =>
    if shSpace d = .ts ∧ mask = 0 then some { code := .addrRange, addr := shBase d, acc := .write }
    else
      let fx := if form < 2 then none else localFault tile (shSpace x) (shEsz x) .read (all x (shCount x))
      let fa := if form = 2 then none else localFault tile (shSpace a) (shEsz a) .read
        (if form = 3 then all a (shCount a) else (List.range (shCount d)).map (copySource form d a))
      let fd := if form = 3 then none else localFault tile (shSpace d) (shEsz d) .write (all d (shCount d))
      (fx.or fa).or fd

/-- COPY_START (R340): the oldest command of the context starts; what ends it before its first step is looked for first. -/
def execCopyStart (s : State) : Host.Outcome State Fault Refusal :=
  match s.cur.work with
  | some (.copyStart tile cx) => match (s.tile tile).queue cx with
    | c :: _ => match c.op with
      | .copy form d a x _ mask start _ =>
        if c.state ≠ .waiting then .next s
        else if !s.mayStart c start then .next (s.post (.copyStart tile cx))
        else
          match copyFault tile form d a x mask with
          | some r => .next (s.engineFail tile cx c r)
          | none => .next ((s.modCmd tile cx c.id fun k => { k with state := .running }).post (.copyStep tile cx))
      | _ => .next s
    | [] => .next s
  | _ => .next s

/-- R340: of the running contexts of a tile, the first from the turn on. -/
def Tile.copyTurn (t : Tile) : Option Nat :=
  ((List.range 4).map fun i => (t.turn + i) % 4).find? fun cx => match t.queue cx with
    | c :: _ => c.state == .running
    | [] => false

/-- R339: one step of a copy: the addresses are checked, the sources read, the destination written; it answers the elements done, or the
failure that leaves the step untouched. -/
def State.copyStep (s : State) (tile cx : Nat) (c : Cmd) (form : Nat) (d a x : Row) (mask : Nat) : EngGot Nat :=
  let n := copyCount form d a
  let at_ : Nat → Nat := if form = 3 then shAddr a else shAddr d
  let len := stepLen at_ (at_ c.prog / 2048) (n - c.prog) c.prog
  let js := (List.range len).map (c.prog + ·)
  let finish (g : EngGot Unit) (moved : Nat) : EngGot Nat :=
    let count (s : State) : State := s.modTile tile fun y => { y with copied := y.copied + BitVec.ofNat 64 moved }
    match g with
    | .wait s => .wait (count s)
    | .bad r s => .bad r s
    | .got _ s => .got len (count (s.dropEngReads tile cx c))
  if c.sent then finish (s.engWrite tile cx c none []) 0
  else match (if form < 2 then .got [] s else s.engRead tile cx c (shSpace x) (shEsz x) (js.map fun j => some (shAddr x j))) with
    | .wait s => .wait s
    | .bad r s => .bad r s
    | .got idx s =>
      let src := if form = 2 then idx.map (indexAddr a) else js.map fun j => some (copySource form d a j)
      let dst := if form = 3 then idx.map (indexAddr d) else js.map fun j => some (shAddr d j)
      match s.engPlaces tile cx c (shSpace a) (shEsz a) .read src with
      | .wait s => .wait s
      | .bad r s => .bad r s
      | .got pa s => match s.engPlaces tile cx c (shSpace d) (shEsz d) .write dst with
        | .wait s => .wait s
        | .bad r s => .bad r s
        | .got pd s => match s.engFetch tile cx c (shEsz a) pa with
          | .wait s => .wait s
          | .bad r s => .bad r s
          | .got vals s =>
            let writes := (pd.zip vals).filterMap fun w => match w.1 with
              | .mem k u => some (ELoc.mem k u, bytesOfNat (shEsz d) w.2)
              | _ => none
            finish (s.engWrite tile cx c (if shSpace d = .ts then some mask else none) writes)
              (writes.length * shEsz d * (if shSpace d = .ts then ((List.range 4).filter mask.testBit).length else 1))

/-- The next command of a copy context may start (R340, R394). -/
def State.copyNext (s : State) (tile cx : Nat) : State :=
  if ((s.tile tile).queue cx).isEmpty then s else s.post (.copyStart tile cx)

/-- R340, R341, R394: a copy has done its last step: its follow-on becomes ready, or its number completes. -/
def State.copyDone (s : State) (tile cx : Nat) (c : Cmd) : State :=
  let s := (s.dropCmd tile cx c.id).copyNext tile cx
  match (s.tile tile).matrix.find? fun m => m.copyOf == some c.id with
  | some m => s.post (.followOnStart tile m.id)
  | none => s.timelineDone c.ctx c.tl c.num

/-- COPY_STEP (R339, R342). -/
def execCopyStep (s : State) : Host.Outcome State Fault Refusal :=
  match s.cur.work with
  | some (.copyStep tile cx) => match (s.tile tile).queue cx with
    | c :: _ => match c.op with
      | .copy form d a x _ mask _ _ =>
        if c.state ≠ .running then .next s
        else if (s.tile tile).copyTurn ≠ some cx then .next (s.post (.copyStep tile cx))
        else match s.copyStep tile cx c form d a x mask with
          | .bad r s => .next (s.engineFail tile cx c r)
          | .wait s => .next ((s.modTile tile fun t => { t with turn := (cx + 1) % 4 }).post (.copyStep tile cx))
          | .got len s =>
            let done := c.prog + len
            let s := s.modTile tile fun t => { t with turn := (cx + 1) % 4 }
            let s := s.modCmd tile cx c.id fun k => { k with prog := done }
            if copyCount form d a ≤ done then .next (s.copyDone tile cx { c with prog := done })
            else if c.suspend then .next (s.modCmd tile cx c.id fun k => { k with state := .suspended, suspend := false })
            else .next (s.post (.copyStep tile cx))
      | _ => .next s
    | [] => .next s
  | _ => .next s

/-- FOLLOW_ON_START (R341): the follow-on is ready. -/
def execFollowOnStart (s : State) : Host.Outcome State Fault Refusal :=
  match s.cur.work with
  | some (.followOnStart tile id) => match (s.tile tile).matrix.find? fun m => m.id == id with
    | some m => .next ((s.modCmd tile 4 id fun k => { k with ready := true, copyOf := none }).post (matrixWork tile m))
    | none => .next s
  | _ => .next s

/-- R342 at commit: CPYSUS on the oldest command of a context. -/
def State.copySuspend (s : State) (tile cx : Nat) : State := match (s.tile tile).queue cx with
  | [] => s
  | c :: _ => match c.state with
    | .running => s.modCmd tile cx c.id fun k => { k with suspend := true }
    | .waiting => s.modCmd tile cx c.id fun k => { k with state := .suspended }
    | _ => s

end Sys2Proof.Machine
end

