-- ==== Sys2Proof/Machine/Matrix.lean ====
section
/-! DEFINITION. The matrix engine (spec/14_engine_system_ops.md R344 to R351, spec/16_matrix_engine.md R390 to R400,
spec/07_numbers.md R174 to R178), and the resumption of engine commands (R343). -/

namespace Sys2Proof.Machine

/-! Instructions. -/

/-- MLDB (R345). -/
def execMldb (h : Head) (tl : BitVec 4) (m : BitVec 3) (ty : Ty) (s : State) : Host.Outcome State Fault Refusal :=
  match s.operandsEng h true false false with
  | none => .next s
  | some o =>
    if !s.engRoom s.cur.task.tile 4 then .next s
    else
      let k := s.task s.cur.task
      let bn := wfield o.a.v 0 3
      let sn := wfield o.a.v 3 3
      let scaled := ty != .i8
      let v : VSpec := { a := some ⟨bn, [1]⟩, b := if scaled then some ⟨sn, [1]⟩ else none }
      match engChecks (k.checkRecords v)
          [(shEngine (k.shape bn) && bShapeOk (k.shape bn), bn), (!scaled || bScaleOk (k.shape sn), sn)]
          [wfield o.a.v 6 58 == 0, scaled || sn == 0] with
      | some r => .next (s.fireFault r)
      | none => .next (s.fireEngine h 4 (.mldb m.toNat ty (k.shape bn) (k.shape sn)) tl.toNat o.p)

/-- MSCL (R346). -/
def execMscl (h : Head) (tl : BitVec 4) (s : State) : Host.Outcome State Fault Refusal :=
  match s.operandsEng h true true false with
  | none => .next s
  | some o =>
    if !s.engRoom s.cur.task.tile 4 then .next s
    else
      let k := s.task s.cur.task
      let n := wfield o.a.v 0 3
      let v : VSpec := { a := some ⟨n, [1]⟩, counts := fun c _ _ _ => if c % 4 ≠ 0 ∨ 512 < c then some 0 else none }
      match engChecks (k.checkRecords v) [(shEngine (k.shape n), n)] [wfield o.a.v 5 59 == 0, o.b.v.toNat < 2 ^ 16] with
      | some r => .next (s.fireFault r)
      | none => .next (s.fireEngine h 4 (.mscl (k.shape n) (wfield o.a.v 3 2) (wfield o.b.v 0 16)) tl.toNat o.p)

/-- MMA (R347). -/
def execMma (h : Head) (tl : BitVec 4) (acc : BitVec 2) (m : BitVec 3) (ty : Ty) (s : State) : Host.Outcome State Fault Refusal :=
  match s.operandsEng h true true false with
  | none => .next s
  | some o =>
    if !s.engRoom s.cur.task.tile 4 then .next s
    else
      let k := s.task s.cur.task
      let n := wfield o.a.v 0 3
      let a4 := wfield o.a.v 3 1 == 1
      let a := k.shape n
      match engChecks (k.checkRecords { a := some ⟨n, [1]⟩ })
          [(shEngine a && shSpace a != .gl && aShapeOk a a4, n)]
          [wfield o.a.v 11 53 == 0, !a4 || ty == .i8, decide (wfield o.a.v 4 7 + shExtRaw a 1 ≤ 128), o.b.v.toNat < 2 ^ 16] with
      | some r => .next (s.fireFault r)
      | none => .next (s.fireEngine h 4 (.mma acc.toNat m.toNat ty a a4 (wfield o.a.v 4 7) (wfield o.b.v 0 16)) tl.toNat o.p)

/-- MACST (R350). -/
def execMacst (h : Head) (tl : BitVec 4) (acc : BitVec 2) (s : State) : Host.Outcome State Fault Refusal :=
  match s.operandsEng h true false false with
  | none => .next s
  | some o =>
    if !s.engRoom s.cur.task.tile 4 then .next s
    else
      let k := s.task s.cur.task
      let n := wfield o.a.v 0 3
      let d := k.shape n
      match engChecks (k.checkRecords { a := some ⟨n, [4]⟩ })
          [(shEngine d && shDims d == 2 && shExtRaw d 0 == 128 && shStrRaw d 0 == 4 && decide (1 ≤ shExtRaw d 1) && decide (shExtRaw d 1 ≤ 128)
              && shStrRaw d 1 % 64 == 0 && shBase d % 64 == 0, n)]
          [wfield o.a.v 3 1 == 0 && wfield o.a.v 11 53 == 0, decide (wfield o.a.v 4 7 + shExtRaw d 1 ≤ 128)] with
      | some r => .next (s.fireFault r)
      | none => .next (s.fireEngine h 4 (.macst acc.toNat (wfield o.a.v 4 7) d) tl.toNat o.p)

/-- MACCLR (R348): takes its place in the queue at commit; it is of class L, so what arrives at slot p delays its firing only (R230). -/
def execMacclr (h : Head) (acc : BitVec 2) (s : State) : Host.Outcome State Fault Refusal :=
  match s.operandsEng h true false false with
  | none => .next s
  | some o =>
    if 2 ≤ o.a.v.toNat then .next (s.fireFault { code := .addrRange })
    else .next (s.fireEngine h 4 (.macclr acc.toNat o.a.v.toNat) 0 (plain 0))

/-- R349: an element as MACRD and MACPK deliver it. -/
def Accum.word (a : Accum) (i : Nat) : Word :=
  let v := a.elems.get i 0
  if a.fp then BitVec.ofInt 64 v else BitVec.ofInt 64 (saturate .i32 v)

/-- An accumulator of a tile. -/
def State.accum (s : State) (tile n : Nat) : Accum := (s.tile tile).accs.getD n {}

/-- MACRD (R349): waits for the commands that entered the queue before it fired. -/
def execMacrd (h : Head) (acc : BitVec 2) (s : State) : Host.Outcome State Fault Refusal :=
  match s.operandsStore h true false false with
  | none => .next s
  | some o =>
    let i := o.a.v.toNat
    let tile := s.cur.task.tile
    if 16384 ≤ i then .next (s.fireFault { code := .addrRange })
    else
      let waits := ((s.tile tile).matrix.filter fun c => c.op.accOf == some acc.toNat).map (·.id)
      if waits.isEmpty then .next (s.fire1 h ((s.accum tile acc.toNat).word i))
      else .next (s.sendReq (.macrd acc.toNat i waits) 0 0 none).2

/-- MACPK (R349). -/
def execMacpk (h : Head) (acc : BitVec 2) (s : State) : Host.Outcome State Fault Refusal :=
  match s.operandsStore h true false false with
  | none => .next s
  | some o =>
    if 16384 ≤ o.a.v.toNat then .next (s.fireFault { code := .addrRange })
    else .next (s.fire1 h ((s.accum s.cur.task.tile acc.toNat).word o.a.v.toNat))

/-! Order of the queue (R344, R392, R393). -/

/-- The macro a command names. -/
def EngOp.macOf : EngOp → Option Nat
  | .mma _ m _ _ _ _ _ => some m
  | .mldb m _ _ _ => some m
  | _ => none

/-- R393: rows of its accumulator that an MMA still has to do. -/
def Cmd.todo (c : Cmd) (row : Nat) : Bool := match c.op with
  | .mma _ _ _ a _ row0 _ => decide (row0 + c.prog ≤ row) && decide (row < row0 + shExtRaw a 1)
  | _ => true

/-- An MMA has done its last row. -/
def Cmd.rowsDone (c : Cmd) : Bool := match c.op with
  | .mma _ _ _ a _ _ _ => decide (shExtRaw a 1 ≤ c.prog) && c.state == .running
  | _ => false

/-- MSCL. -/
def EngOp.isMscl : EngOp → Bool | .mscl _ _ _ => true | _ => false
/-- MMA. -/
def EngOp.isMma : EngOp → Bool | .mma _ _ _ _ _ _ _ => true | _ => false

/-- R344, R393: an earlier command holds a later one back at a row of its accumulator. -/
def Cmd.holdsBack (d c : Cmd) (row : Nat) : Bool :=
  (d.op.isMscl && c.op.isMscl)
    || (d.op.macOf.isSome && d.op.macOf == c.op.macOf && !d.rowsDone)
    || (d.op.accOf.isSome && d.op.accOf == c.op.accOf && (!(d.op.isMma && c.op.isMma) || d.todo row))

/-- R344: no earlier command of the queue holds a command back. -/
def clearBefore (l : List Cmd) (c : Cmd) (row : Nat) : Bool := match l with
  | [] => true
  | d :: r => if d.id = c.id then true else !d.holdsBack c row && clearBefore r c row

/-- A matrix command and its token allow it to be performed now. -/
def State.matrixMay (s : State) (tile : Nat) (c : Cmd) (row : Nat) : Bool :=
  c.ready && clearBefore (s.tile tile).matrix c row
    && (match c.after, c.task with
        | some k, some t => s.released t k
        | _, _ => true)

/-- R349: MACRDs whose commands have all completed read. -/
def State.serveMacrd (s : State) (tile : Nat) : State :=
  (s.reqs.filter fun r => r.answer.isNone && r.task.any fun t => t.tile == tile).foldl (fun (s : State) r => match r.op with
    | .macrd acc i waits =>
      if (s.tile tile).matrix.any fun c => decide (c.id ∈ waits) then s
      else
        let v := (s.accum tile acc).word i
        s.reply r.id { r0 := v, r1 := v }
    | _ => s) s

/-- R140: a matrix command completes. -/
def State.matrixDone (s : State) (tile : Nat) (c : Cmd) : State :=
  let s := s.dropCmd tile 4 c.id
  let s := if c.num = 0 then s else s.timelineDone c.ctx c.tl c.num
  s.serveMacrd tile

/-- The matrix command of a step. -/
def State.matrixCmd (s : State) (tile id : Nat) : Option Cmd := (s.tile tile).matrix.find? fun c => c.id == id

/-! Numbers (R174 to R178, R391, R395). -/

/-- R176: an e4m3 pattern as a signed m with its exponent e, worth m × 2^(e − 3). -/
def e4m3Parts (ftz : Bool) (v : Nat) : Int × Int :=
  let v := e4m3F.flush ftz v
  let ex := e4m3F.expo v
  let m : Nat := if ex = 0 then e4m3F.mant v else 8 + e4m3F.mant v
  (if e4m3F.neg v then -(m : Int) else m, max ((ex : Int) - 7) (-6))

/-- R176 AlignBlock: the block fixed point of a K-block and its lsb; none when an element is NaN. -/
def alignBlock (ftz : Bool) (sh : Nat) (xs : List Nat) : Option (List Int × Int) :=
  if xs.any e4m3F.isNan then none
  else
    let ps := xs.map (e4m3Parts ftz)
    let emax := (ps.filter fun p => p.1 != 0).foldl (fun (b : Option Int) p => some (max (b.getD p.2) p.2)) none
    let emax := emax.getD (-6)
    let q (p : Int × Int) : Int :=
      let (n, d) := scaleFrac p.1.natAbs 1 (p.2 - emax + sh)
      if p.1 < 0 then -(roundNat .rne true n d : Int) else roundNat .rne false n d
    some (ps.map q, emax - 3 - sh)

/-- R391: the sum of one K-block. -/
def blockSum (a b : List Int) : Int := (List.zipWith (· * ·) a b).foldl (· + ·) 0

/-- R178: an addition to an integer accumulator element, and whether it leaves the range and clamps the element. -/
def clamp48 (v x : Int) : Int × Bool :=
  if 2 ^ 47 - 1 < v + x then (2 ^ 47 - 1, true) else if v + x < -(2 ^ 47) then (-(2 ^ 47), true) else (v + x, false)

/-- R177: a K-block result in FP32. -/
def blockFp8 (ftz : Bool) (sum lsbs : Int) (sa sb : Nat) : Nat :=
  if sa = 255 ∨ sb = 255 then fp32.canonNan
  else fp32.round .rne ftz ((FV.ofInt sum).scale (lsbs + ((sa : Int) - 127) + ((sb : Int) - 127)))

/-- A signed 4-bit value. -/
def nibble (v : Nat) : Int := if 8 ≤ v then (v : Int) - 16 else v

/-- R347: the A values of an integer row. -/
def intRow (a4 : Bool) (bytes : List Nat) : List Int :=
  if a4 then bytes.flatMap fun b => [nibble (b % 16), nibble (b / 16 % 16)] else bytes.map (intOf .i8)

/-- K-block kb of a column of a macro. -/
def Macro.column (m : Macro) (n kb : Nat) : List Int := (List.range 32).map fun k => m.cells.getD ((kb * 32 + k) * 128 + n) 0

/-- R177, R181, R391: an FP32 element after one K-block of an e4m3 row. -/
def fpBlock (m : Macro) (ftz : Bool) (bytes : List Nat) (scales : List Nat) (n kb : Nat) (acc : Nat) : Nat :=
  let i := kb * 128 + n
  let x := match alignBlock ftz 11 ((bytes.drop (kb * 32)).take 32) with
    | some (q, lsb) =>
      if m.nan.getD i false then fp32.canonNan
      else blockFp8 ftz (blockSum q (m.column n kb)) (lsb + m.lsbs.getD i 0) (scales.getD kb 127) (m.scales.getD i 127)
    | none => fp32.canonNan
  fp32.add .rne ftz acc x

/-- R395: what one K-block of an integer row adds to an element. -/
def intBlock (m : Macro) (a4 : Bool) (bytes : List Nat) (scales : List Nat) (n kb : Nat) : Int :=
  blockSum (((intRow a4 bytes).drop (kb * 32)).take 32) (m.column n kb) * 2 ^ (scales.getD kb 127 + m.scales.getD (kb * 128 + n) 127 - 254)

/-- R395: the scales an integer MMA uses. -/
def intScalesOk (m : Macro) (tok : List Byte) : Bool :=
  tok.zipIdx.all fun t => (List.range 128).all fun n =>
    let a := t.1.toNat
    let b := m.scales.getD (t.2 % 4 * 128 + n) 127
    a != 255 && b != 255 && decide (254 ≤ a + b) && decide (a + b ≤ 278)

/-! Performing the commands. -/

/-- R335: a command that makes its accesses is running. -/
def State.cmdRuns (s : State) (tile unit id : Nat) : State := s.modCmd tile unit id fun k => { k with state := .running }

/-- R345: the macro that a B tile and its scales make. -/
def loadMacro (ty : Ty) (ftz : Bool) (ctx : Nat) (b scale : Row) (cells scales : List Nat) : Macro :=
  let load := some (ctx, b, scale)
  match ty with
  | .e4m3 =>
    let blocks := (List.range 512).map fun i =>
      alignBlock ftz 3 ((List.range 32).map fun k => cells.getD ((i / 128 * 32 + k) * 128 + i % 128) 0)
    { valid := true, ty := ty, scales := scales, loaded := load,
      lsbs := blocks.map fun x => match x with | some p => p.2 | none => 0
      nan := blocks.map Option.isNone
      cells := (List.range 16384).map fun i => match blocks.getD (i / 128 / 32 * 128 + i % 128) none with
        | some p => p.1.getD (i / 128 % 32) 0
        | none => 0 }
  | .ds8 => { valid := true, ty := ty, scales := scales, loaded := load, cells := cells.map ds8Int }
  | _ => { valid := true, ty := ty, scales := List.replicate 512 127, loaded := load, cells := cells.map (intOf .i8) }

/-- Changes a macro. -/
def State.modMacro (s : State) (tile m : Nat) (f : Macro → Macro) : State :=
  s.modTile tile fun t => { t with macros := listMod t.macros m f }

/-- R345, R47: performs an MLDB; while it loads, and when it fails, the macro is invalid. -/
def State.performMldb (s : State) (tile : Nat) (c : Cmd) (m : Nat) (ty : Ty) (b scale : Row) : EngGot Unit :=
  let s := s.modMacro tile m fun x => { x with valid := false }
  if ty ≠ .i8 ∧ shBase scale % 64 ≠ 0 then .bad { code := .align, addr := shBase scale } s
  else match s.engRead tile 4 c (shSpace b) 1 ((List.range 16384).map fun j => some (shAddr b j)) with
  | .wait s => .wait s
  | .bad r s => .bad r s
  | .got cells s =>
    match (if ty = .i8 then .got [] s else s.engRead tile 4 c (shSpace scale) 1 ((List.range 512).map fun j => some (shAddr scale j))) with
    | .wait s => .wait s
    | .bad r s => .bad r s
    | .got scales s => .got () (s.modMacro tile m fun _ => loadMacro ty c.ftz c.ctx b scale cells scales)

/-- MACRO_LOAD (R345). -/
def execMacroLoad (s : State) : Host.Outcome State Fault Refusal :=
  match s.cur.work with
  | some (.macroLoad tile id) => match s.matrixCmd tile id with
    | none => .next s
    | some c => match c.op with
      | .mldb m ty b scale =>
        if c.state = .failed then .next s
        else if !s.matrixMay tile c 0 then .next (s.post (.macroLoad tile id))
        else match (s.cmdRuns tile 4 id).performMldb tile c m ty b scale with
          | .wait s => .next (s.post (.macroLoad tile id))
          | .bad r s => .next (s.engineFail tile 4 c r)
          | .got _ s => .next (s.matrixDone tile c)
      | _ => .next s
  | _ => .next s

/-- SCALE_TOKEN_ACCEPT (R346, R396): the scales are read, and the port takes the token when it has room. -/
def execScaleTokenAccept (s : State) : Host.Outcome State Fault Refusal :=
  match s.cur.work with
  | some (.scaleTokenAccept tile id) => match s.matrixCmd tile id with
    | none => .next s
    | some c => match c.op with
      | .mscl scale dt tag =>
        let dest := tile / 4 * 4 + dt
        if c.state = .failed then .next s
        else if !s.matrixMay tile c 0 || decide (16 ≤ (s.tile dest).scale.length) then
          .next ((s.modCmd tile 4 id fun k => { k with state := .waiting }).post (.scaleTokenAccept tile id))
        else
          let n := shCount scale
          match (s.cmdRuns tile 4 id).engRead tile 4 c (shSpace scale) 1 ((List.range n).map fun j => some (shAddr scale j)) with
          | .wait s => .next (s.post (.scaleTokenAccept tile id))
          | .bad r s => .next (s.engineFail tile 4 c r)
          | .got l s =>
            let s := s.modTile dest fun t => { t with scale := t.scale ++ [(⟨n / 4, tag, l.map (BitVec.ofNat 8)⟩ : ScaleTok)] }
            .next (s.matrixDone tile c)
      | _ => .next s
  | _ => .next s

/-- The oldest token with a tag at a tile's port, and the port without it. -/
def takeToken (l : List ScaleTok) (tag : Nat) : Option (ScaleTok × List ScaleTok) := match l with
  | [] => none
  | t :: r => if t.tag = tag then some (t, r) else (takeToken r tag).map fun x => (x.1, t :: x.2)

/-- R347, R351, R395: the checks of an MMA before any row changes. -/
def mmaCause (mac : Macro) (fp : Bool) (ty : Ty) (rows : Nat) (tok : ScaleTok) : Option Nat :=
  if tok.m ≠ rows then some 18
  else if (if ty = .e4m3 then mac.ty ≠ .e4m3 else mac.ty = .e4m3) then some 16
  else if fp != (ty == .e4m3) then some 17
  else if ty ≠ .e4m3 ∧ !intScalesOk mac tok.bytes then some 21
  else none

/-- R177, R178, R391, R400: one K-block of a row enters one element of an accumulator. -/
def mmaBlock (acc : Accum) (mac : Macro) (ftz : Bool) (ty : Ty) (a4 : Bool) (bytes : List Nat) (scales : List Nat) (row n kb : Nat) : Accum :=
  let i := row * 128 + n
  let v := acc.elems.get i 0
  if ty = .e4m3 then { acc with elems := acc.elems.put i (fpBlock mac ftz bytes scales n kb v.toNat) }
  else if i ∈ acc.clamped then acc
  else
    let w := clamp48 v (intBlock mac a4 bytes scales n kb)
    { acc with elems := acc.elems.put i w.1, clamped := if w.2 then i :: acc.clamped else acc.clamped }

/-- R390: bit-planes of a path. -/
def planesOf (ty : Ty) (a4 : Bool) : Nat := if ty = .e4m3 then 16 else if a4 then 4 else 8

/-- R391: the next row of A enters the row buffer, or its read fails. -/
def State.mmaRead (s : State) (tile : Nat) (c : Cmd) (a : Row) : EngGot Unit :=
  let w := shExtRaw a 0
  let m := c.prog + c.rows.length
  match s.engRead tile 4 c (shSpace a) 1 ((List.range w).map fun j => some (shAddr a (m * w + j))) with
  | .wait s => .wait s
  | .bad r s => .bad r s
  | .got bytes s => .got () (s.modCmd tile 4 c.id fun k => { k with rows := k.rows ++ [bytes] })

/-- R391, R400: K-blocks of the row under way enter columns that are not through, each at its own pace (log 10), at least one of them;
after the last the row is done. -/
def State.mmaFeed (s : State) (tile : Nat) (c : Cmd) (acc m : Nat) (ty : Ty) (a : Row) (a4 : Bool) (row0 : Nat) (tok : ScaleTok)
    (bytes : List Nat) : State :=
  let scales := ((tok.bytes.drop (4 * c.prog)).take 4).map (·.toNat)
  let counts := if c.counts.isEmpty then List.replicate 128 0 else c.counts
  let first := counts.findIdx fun k => decide (k < 4)
  let go (n : Nat) : Bool := decide (counts.getD n 4 < 4) && (n == first || Config.freeBit s.tick n)
  let cols := (List.range 128).filter go
  let s := s.modTile tile fun t =>
    { t with accs := listMod t.accs acc fun x =>
        cols.foldl (fun x n => mmaBlock x (t.macros.getD m {}) c.ftz ty a4 bytes scales (row0 + c.prog) n (counts.getD n 0)) x }
  let counts := counts.zipIdx.map fun k => if go k.2 then k.1 + 1 else k.1
  if counts.any fun k => decide (k < 4) then (s.modCmd tile 4 c.id fun k => { k with counts := counts }).post (.mmaStart tile c.id)
  else
    let s := (s.modCmd tile 4 c.id fun k => { k with prog := c.prog + 1, rows := k.rows.drop 1, counts := [] }).modTile tile fun t =>
      { t with planes := t.planes + BitVec.ofNat 64 (planesOf ty a4) }
    if shExtRaw a 1 ≤ c.prog + 1 then s.post (.mmaComplete tile c.id) else s.post (.mmaStart tile c.id)

/-- R347, R391: a started MMA feeds the row under way, and reads the next one into its two-row buffer while that row is computed: after its first
K-blocks and before its last ones, at a point of the part's own (log 10). A read that fails ends the command once the rows before it are done, at
that row. -/
def State.mmaStep (s : State) (tile : Nat) (c : Cmd) (acc m : Nat) (ty : Ty) (a : Row) (a4 : Bool) (row0 : Nat) (tok : ScaleTok) : State :=
  match c.rows with
  | [] => match s.mmaRead tile c a with
    | .wait s => s.post (.mmaStart tile c.id)
    | .bad r s => s.engineFail tile 4 c r
    | .got _ s => s.post (.mmaStart tile c.id)
  | bytes :: more =>
    if more.isEmpty && decide (c.prog + 1 < shExtRaw a 1) && !c.counts.isEmpty && (Config.freeBit s.tick 128 || c.counts.all fun k => decide (3 ≤ k)) then
      match s.mmaRead tile c a with
      | .wait t => t.post (.mmaStart tile c.id)
      | .bad _ _ => s.mmaFeed tile c acc m ty a a4 row0 tok bytes
      | .got _ t => t.post (.mmaStart tile c.id)
    else s.mmaFeed tile c acc m ty a a4 row0 tok bytes

/-- MMA_START (R347, R392, R393): the token is consumed and the checks are made; then one row at each turn. -/
def execMmaStart (s : State) : Host.Outcome State Fault Refusal :=
  match s.cur.work with
  | some (.mmaStart tile id) => match s.matrixCmd tile id with
    | none => .next s
    | some c => match c.op with
      | .mma acc m ty a a4 row0 tag =>
        if c.state = .failed then .next s
        else if !s.matrixMay tile c (row0 + c.prog) || !((s.tile tile).macros.getD m {}).valid then .next (s.post (.mmaStart tile id))
        else if c.state = .running then match c.tok with
          | some tok => .next (s.mmaStep tile c acc m ty a a4 row0 tok)
          | none => .next s
        else
          let found := match c.tok with
            | some t => some (t, (s.tile tile).scale)
            | none => takeToken (s.tile tile).scale tag
          match found with
          | none => .next (s.post (.mmaStart tile id))
          | some (tok, port) =>
            let s := s.modTile tile fun t => { t with scale := port }
            let c := { c with tok := some tok, state := .running }
            match mmaCause ((s.tile tile).macros.getD m {}) (s.accum tile acc).fp ty (shExtRaw a 1) tok with
            | some cause => .next (s.engineFail tile 4 c { code := .engineFault, cause := cause })
            | none => .next ((s.modCmd tile 4 id fun _ => c).post (.mmaStart tile id))
      | _ => .next s
  | _ => .next s

/-- MMA_COMPLETE (R347): the command completes; its token is dropped. -/
def execMmaComplete (s : State) : Host.Outcome State Fault Refusal :=
  match s.cur.work with
  | some (.mmaComplete tile id) => match s.matrixCmd tile id with
    | some c => .next (s.matrixDone tile c)
    | none => .next s
  | _ => .next s

/-- MACCLR_PERFORM (R348). -/
def execMacclrPerform (s : State) : Host.Outcome State Fault Refusal :=
  match s.cur.work with
  | some (.macclrPerform tile id) => match s.matrixCmd tile id with
    | none => .next s
    | some c => match c.op with
      | .macclr acc mode =>
        if !s.matrixMay tile c 0 then .next (s.post (.macclrPerform tile id))
        else .next ((s.modTile tile fun t => { t with accs := listMod t.accs acc fun x => { x with fp := mode == 0, elems := [], clamped := [] } }).matrixDone tile c)
      | _ => .next s
  | _ => .next s

/-- MACST_PERFORM (R350): one row at each turn, in ascending order. -/
def execMacstPerform (s : State) : Host.Outcome State Fault Refusal :=
  match s.cur.work with
  | some (.macstPerform tile id) => match s.matrixCmd tile id with
    | none => .next s
    | some c => match c.op with
      | .macst acc row0 d =>
        if c.state = .failed then .next s
        else if !s.matrixMay tile c 0 then .next (s.post (.macstPerform tile id))
        else
          let x := s.accum tile acc
          let l := (List.range 128).map fun n =>
            (shAddr d (c.prog * 128 + n), bytesOfNat 4 ((x.word ((row0 + c.prog) * 128 + n)).toNat % 2 ^ 32))
          match (if c.state = .running then none else localFault tile (shSpace d) 4 .write ((List.range (shCount d)).map (shAddr d))) with
          | some r => .next (s.engineFail tile 4 c r)
          | none => match s.engStore tile 4 c (shSpace d) l with
            | .wait s => .next ((s.modCmd tile 4 id fun k => { k with state := .running }).post (.macstPerform tile id))
            | .bad r s => .next (s.engineFail tile 4 c r)
            | .got _ s =>
              let s := s.modCmd tile 4 id fun k => { k with prog := c.prog + 1, state := .running }
              if shExtRaw d 1 ≤ c.prog + 1 then .next (s.matrixDone tile c) else .next (s.post (.macstPerform tile id))
      | _ => .next s
  | _ => .next s

/-! R343 at commit: CPYRES. -/

/-- The head command of a unit for CPYRES: the oldest, in the matrix queue the oldest that failed if any has. -/
def Tile.headCmd (t : Tile) (unit : Nat) : Option Cmd :=
  if unit = 4 then match t.matrix.find? fun c => c.state == .failed with
    | some c => some c
    | none => t.matrix.head?
  else (t.queue unit).head?

/-- R343: a follow-on whose copy is discarded is dropped. -/
def State.dropFollow (s : State) (tile id : Nat) : State :=
  (s.modTile tile fun t => { t with matrix := t.matrix.filter fun m => m.copyOf != some id }).serveMacrd tile

/-- R335: the next command of the Canopy memory queue. -/
def State.canopyNext (s : State) (tile : Nat) : State := match (s.tile tile).canopy with
  | [] => s
  | c :: _ => match c.op with
    | .cnst _ _ => s.post (.canopyStore tile)
    | _ => s.post (.canopyLoad tile)

/-- R343: resumes a suspended or failed command. -/
def State.resumeCmd (s : State) (tile unit : Nat) (c : Cmd) : State :=
  let s := s.modCmd tile unit c.id fun k =>
    { k with
      state := .waiting
      suspend := false
      code := none
      cause := 0
      prog := match k.op with
        | .mma _ _ _ _ _ _ _ | .macst _ _ _ | .copy _ _ _ _ _ _ _ _ => k.prog
        | _ => 0 }
  if unit = 5 then s.canopyNext tile else if unit = 4 then s.post (matrixWork tile c) else s.post (.copyStart tile unit)

/-- R343: discards a suspended or failed command, which completes. -/
def State.discardCmd (s : State) (tile unit : Nat) (c : Cmd) : State :=
  if unit = 5 then (((s.dropCmd tile 5 c.id).timelineDone c.ctx c.tl c.num).canopyNext tile)
  else if unit = 4 then s.matrixDone tile c
  else (((s.dropCmd tile unit c.id).dropFollow tile c.id).timelineDone c.ctx c.tl c.num).copyNext tile unit

/-- R343 at commit. -/
def State.engineResume (s : State) (unit cx tile : Nat) (discard : Bool) : State :=
  let unit := if unit < 4 then cx else unit
  match (s.tile tile).headCmd unit with
  | none => s
  | some c =>
    if c.state = .failed ∨ c.state = .suspended then (if discard then s.discardCmd tile unit c else s.resumeCmd tile unit c) else s

/-! Status registers (R335). -/

/-- R335: commands queued behind the head command. -/
def Tile.behind (t : Tile) (unit : Nat) (c : Cmd) : Nat := (t.queue unit).length - 1 - (t.queue unit).findIdx fun x => x.id == c.id

/-- R335: a unit's status word; the matrix engine shows its oldest failed command if it has one. -/
def Tile.status (t : Tile) (unit : Nat) : Word := match t.headCmd unit with
  | none => 0
  | some c =>
    let st := match c.state with
      | .running => 1 | .waiting => 2 | .suspended => 3 | .failed => 4
    let code := if c.state = .failed then (match c.code with | some f => f.num | none => 0) else 0
    let prog := match c.op with
      | .copy _ _ _ _ _ _ _ _ | .mma _ _ _ _ _ _ _ | .macst _ _ _ => c.prog
      | _ => 0
    BitVec.ofNat 64 (st * 2 ^ 61 + code * 2 ^ 53 + c.cause * 2 ^ 48 + c.tl * 2 ^ 44 + t.behind unit c * 2 ^ 36 + prog)

end Sys2Proof.Machine
end

