-- ==== Sys2Proof/Machine/Canopy.lean ====
section
/-! DEFINITION. The Canopy unit (spec/14_engine_system_ops.md R352 to R361, spec/17_canopy.md R405 to R411): envelopes of lines, decided
on exact values. -/

namespace Sys2Proof.Machine

/-! Exact values. -/

/-- The value of an FP32 pattern. -/
def f32 (b : BitVec 32) : FV := fp32.value b.toNat
/-- R354: a value rounded once RNE. -/
def toF32 (ftz : Bool) (v : FV) : BitVec 32 := BitVec.ofNat 32 (fp32.round .rne ftz v)
/-- R171: FTZ on an FP32 input. -/
def flush32 (ftz : Bool) (b : BitVec 32) : BitVec 32 := BitVec.ofNat 32 (fp32.flush ftz b.toNat)
/-- x below y, zeros equal. -/
def FV.below (x y : FV) : Bool := x.lt false y
/-- x equal to y. -/
def FV.same (x y : FV) : Bool := !x.below y && !y.below x && x != .nan && y != .nan
/-- The exact sum. -/
def FV.plus (x y : FV) : FV := x.add .rne y
/-- The exact difference. -/
def FV.minus (x y : FV) : FV := x.add .rne y.negate
/-- A finite value. -/
def FV.finite : FV → Bool | .rat _ _ _ => true | _ => false
/-- The larger of two values. -/
def FV.larger (x y : FV) : FV := if x.below y then y else x
/-- The smaller of two values. -/
def FV.smaller (x y : FV) : FV := if y.below x then y else x
/-- A pattern that is an infinity or a NaN. -/
def notFinite (b : BitVec 32) : Bool := !(f32 b).finite

/-- The exact value of a segment's line at x. -/
def Seg.at_ (g : Seg) (x : FV) : FV := ((f32 g.slope).mul x).plus (f32 g.icpt)
/-- The exact point where two lines of different slopes meet. -/
def Seg.meet (p q : Seg) : FV := ((f32 p.icpt).minus (f32 q.icpt)).div ((f32 q.slope).minus (f32 p.slope))

/-- R171: FTZ on what an operation reads of a register. -/
def Env.flushed (e : Env) (ftz : Bool) : Env :=
  if ftz then
    { e with
      xlo := flush32 ftz e.xlo
      xhi := flush32 ftz e.xhi
      segs := e.segs.map fun g => { g with slope := flush32 ftz g.slope, icpt := flush32 ftz g.icpt, right := flush32 ftz g.right } }
  else e

/-! The upper envelope (R355). -/

/-- R406: of two patterns of one value, which can only be zeros of both signs, the one that stands whatever the order: +0 (log 22). -/
def evenZero (a b : BitVec 32) : BitVec 32 := if a.toNat ≤ b.toNat then a else b

/-- R355: of two parallel lines, whether the first wins: larger intercept, then lower tag; then the one with +0 where only signs of zeros differ
(R406, log 22). -/
def Seg.beats (p q : Seg) : Bool :=
  (f32 q.icpt).below (f32 p.icpt) || ((f32 q.icpt).same (f32 p.icpt)
    && (decide (p.tag < q.tag) || (p.tag == q.tag && decide (p.slope.toNat * 2 ^ 32 + p.icpt.toNat ≤ q.slope.toNat * 2 ^ 32 + q.icpt.toNat))))

/-- Adds a line to lines that ascend strictly in slope; the earlier line is the first of two parallel ones. -/
def insertLine (g : Seg) : List Seg → List Seg
  | [] => [g]
  | x :: r =>
    if (f32 g.slope).below (f32 x.slope) then g :: x :: r
    else if (f32 x.slope).below (f32 g.slope) then x :: insertLine g r
    else (if x.beats g then x :: r else g :: r)

/-- R355: the lines that are the maximum over some interval of the whole axis; the list of survivors is the last one first. -/
def hullPush (g : Seg) : List Seg → List Seg
  | [] => [g]
  | [x] => [g, x]
  | x :: y :: r => if (y.meet x).below (x.meet g) then g :: x :: y :: r else hullPush g (y :: r)

/-- R355: of those, the lines that are the maximum over an interval of positive length of the domain. -/
def clipLines (lo hi : FV) (left : Option FV) : List Seg → List Seg
  | [] => []
  | [g] => (match left with
    | some l => if l.below hi then [g] else []
    | none => [g])
  | g :: k :: r =>
    let x := g.meet k
    let rest := clipLines lo hi (some x) (k :: r)
    if lo.below x && (match left with | some l => l.below hi | none => true) then g :: rest else rest

/-- Gives the lines their right breakpoints: the rounded exact meeting points, and xhi for the last. -/
def withBreaks (ftz : Bool) (xhi : BitVec 32) : List Seg → List Seg
  | [] => []
  | [g] => [{ g with right := xhi }]
  | g :: k :: r => { g with right := toF32 ftz (g.meet k) } :: withBreaks ftz xhi (k :: r)

/-- R355 on a domain of one point: greatest value, then larger slope. -/
def bestAt (x : FV) (lines : List Seg) : Option Seg :=
  lines.foldl (fun (b : Option Seg) g => match b with
    | none => some g
    | some y => if (g.at_ x).below (y.at_ x) then some y else some g) none

/-- R355: the upper envelope of lines over a domain. -/
def upper (ftz : Bool) (xlo xhi : BitVec 32) (lines : List Seg) : List Seg :=
  let l := lines.foldl (fun acc g => insertLine g acc) []
  if (f32 xlo).same (f32 xhi) then match bestAt (f32 xlo) l with
    | some g => [{ g with right := xhi }]
    | none => []
  else withBreaks ftz xhi (clipLines (f32 xlo) (f32 xhi) none (l.foldl (fun acc g => hullPush g acc) []).reverse)

/-! Simplification (R360). -/

/-- R360: the tolerance as a value, after FTZ (R171): a negative one or a NaN acts as 0. -/
def tolerance (ftz : Bool) (t : BitVec 32) : FV := match f32 (flush32 ftz t) with
  | .nan => .rat false 0 1
  | .inf s => if s then .rat false 0 1 else .inf false
  | .rat s n d => if s then .rat false 0 1 else .rat false n d

/-- R360 Simplify: the first segment stands, and the loop goes on from the second; each turn keeps or removes one. -/
def simplifyLoop (ftz : Bool) (t : FV) : Nat → Seg → List Seg → List Seg
  | 0, p, r => p :: r
  | n + 1, p, g :: k :: r =>
    let x := p.meet k
    if t.below ((g.at_ x).minus (p.at_ x)) then p :: simplifyLoop ftz t n g (k :: r)
    else simplifyLoop ftz t n { p with right := toF32 ftz x } (k :: r)
  | _ + 1, p, r => p :: r

/-- R360. -/
def simplify (ftz : Bool) (t : FV) (l : List Seg) : List Seg := match l with
  | [] => []
  | p :: r => simplifyLoop ftz t r.length p r

/-- What an operation on envelopes answers: the register, or a fault's code. -/
abbrev EnvResult := Except FCode Env

/-- R354, R360: the checks of a result: bounds and values that round to an infinity, and the 256 segments. -/
def finishEnv (ftz : Bool) (tol : BitVec 32) (xlo xhi : BitVec 32) (boundsBad : Bool) (segs : List Seg) : EnvResult :=
  let finiteDomain := !notFinite xlo && !notFinite xhi
  let segs' := if segs.length ≤ 256 then segs else simplify ftz (tolerance ftz tol) segs
  if boundsBad || segs'.any (fun g => notFinite g.slope || notFinite g.icpt || (finiteDomain && notFinite g.right)) then .error .addrRange
  else if 256 < segs'.length then .error .envelopeOverflow
  else .ok { xlo := xlo, xhi := xhi, segs := segs', lost := false }

/-! The operations (R354 to R358). -/

/-- CNCLR: R354's checks. -/
def cnClear (ftz : Bool) (lo hi : BitVec 32) : EnvResult :=
  let lo := flush32 ftz lo
  let hi := flush32 ftz hi
  if f32 lo == .nan || f32 hi == .nan || (f32 hi).below (f32 lo) || f32 lo == .inf false || f32 hi == .inf true then .error .addrRange
  else .ok { xlo := lo, xhi := hi, segs := [], lost := false }

/-- CNFEED (R355). -/
def cnFeed (ftz : Bool) (tol : BitVec 32) (e : Env) (slope icpt : BitVec 32) (tag : BitVec 16) : EnvResult :=
  if notFinite slope || notFinite icpt then .error .addrRange
  else
    let g : Seg := ⟨flush32 ftz slope, flush32 ftz icpt, tag, 0⟩
    finishEnv ftz tol e.xlo e.xhi false (upper ftz e.xlo e.xhi (e.segs ++ [g]))

/-- The intersection of two domains, the same whichever comes first (R406). -/
def meetDomain (e m : Env) : BitVec 32 × BitVec 32 :=
  (if (f32 e.xlo).below (f32 m.xlo) then m.xlo else if (f32 m.xlo).below (f32 e.xlo) then e.xlo else evenZero e.xlo m.xlo,
   if (f32 m.xhi).below (f32 e.xhi) then m.xhi else if (f32 e.xhi).below (f32 m.xhi) then e.xhi else evenZero e.xhi m.xhi)

/-- CNMAX (R355). -/
def cnMax (ftz : Bool) (tol : BitVec 32) (e m : Env) : EnvResult :=
  let d := meetDomain e m
  if (f32 d.2).below (f32 d.1) then .error .addrRange
  else finishEnv ftz tol d.1 d.2 false (upper ftz d.1 d.2 (e.segs ++ m.segs))

/-- R352: the index of the segment that covers a point of the domain. -/
def coverIndex (x : FV) : List Seg → Nat
  | [] => 0
  | [_] => 0
  | g :: r => if x.below (f32 g.right) then 0 else coverIndex x r + 1

/-- R356: the points of a list strictly inside a domain, ascending and once each. -/
def insertPoint (p : BitVec 32) : List (BitVec 32) → List (BitVec 32)
  | [] => [p]
  | x :: r => if (f32 p).below (f32 x) then p :: x :: r else if (f32 x).below (f32 p) then x :: insertPoint p r else evenZero p x :: r

/-- R356, R358, R405: neighbouring lines of one slope become one, decided on their exact intercepts: the larger, then the lower tag; the
survivor takes the later breakpoint, and what is equal in both its even pattern (R406). -/
def joinExact : List (Seg × FV) → List (Seg × FV)
  | [] => []
  | (g, b) :: r => match joinExact r with
    | [] => [(g, b)]
    | (k, c) :: t =>
      if (f32 g.slope).same (f32 k.slope) then
        let slope := evenZero g.slope k.slope
        (if c.below b then ({ g with slope := slope, right := k.right }, b)
          else if b.below c then ({ k with slope := slope }, c)
          else ({ (if g.tag ≤ k.tag then g else k) with slope := slope, icpt := evenZero g.icpt k.icpt, right := k.right }, b)) :: t
      else (g, b) :: (k, c) :: t

/-- CNSUM (R356). -/
def cnSum (ftz : Bool) (tol : BitVec 32) (e m : Env) : EnvResult :=
  let d := meetDomain e m
  if (f32 d.2).below (f32 d.1) then .error .addrRange
  else if e.segs.isEmpty || m.segs.isEmpty then .ok { xlo := d.1, xhi := d.2, segs := [], lost := false }
  else
    let inside := ((e.segs ++ m.segs).map (·.right)).filter fun p => (f32 d.1).below (f32 p) && (f32 p).below (f32 d.2)
    let points := inside.foldl (fun acc p => insertPoint p acc) []
    let pieces := (d.1 :: points).zip (points ++ [d.2])
    let segs := pieces.map fun p =>
      let g := e.segs.getD (coverIndex (f32 p.1) e.segs) ⟨0, 0, 0, 0⟩
      let k := m.segs.getD (coverIndex (f32 p.1) m.segs) ⟨0, 0, 0, 0⟩
      let b := (f32 g.icpt).plus (f32 k.icpt)
      ((⟨toF32 ftz ((f32 g.slope).plus (f32 k.slope)), toF32 ftz b, g.tag, p.2⟩ : Seg), b)
    finishEnv ftz tol d.1 d.2 false ((joinExact segs).map (·.1))

/-- The segments of a register with their left ends. -/
def withLefts (lo : BitVec 32) : List Seg → List (Seg × BitVec 32)
  | [] => []
  | g :: r => (g, lo) :: withLefts g.right r

/-- R357: merge by ascending slope, the first register's first among equals. -/
def mergeSlopes : Nat → List (Seg × BitVec 32) → List (Seg × BitVec 32) → List (Seg × BitVec 32)
  | 0, _, _ => []
  | _ + 1, [], l => l
  | _ + 1, l, [] => l
  | n + 1, x :: xs, y :: ys =>
    if (f32 y.1.slope).below (f32 x.1.slope) then y :: mergeSlopes n (x :: xs) ys else x :: mergeSlopes n xs (y :: ys)

/-- R406: neighbours of one slope take it with the even pattern. -/
def evenSlopes : List (Seg × BitVec 32) → List (Seg × BitVec 32)
  | x :: y :: r =>
    if (f32 x.1.slope).same (f32 y.1.slope) then
      let z := evenZero x.1.slope y.1.slope
      ({ x.1 with slope := z }, x.2) :: ({ y.1 with slope := z }, y.2) :: evenSlopes r
    else x :: evenSlopes (y :: r)
  | l => l

/-- R357: the emitted segments from an exact point (X, Y). -/
def infEmit (ftz : Bool) (x y : FV) : List (Seg × BitVec 32) → List Seg
  | [] => []
  | (g, left) :: r =>
    let len := (f32 g.right).minus (f32 left)
    let x' := x.plus len
    let y' := y.plus ((f32 g.slope).mul len)
    { g with icpt := toF32 ftz (y.minus ((f32 g.slope).mul x)), right := toF32 ftz x' } :: infEmit ftz x' y' r

/-- R357: segments of equal slope are joined, their lengths added; the first one's line stands. -/
def joinEqual : List Seg → List Seg
  | [] => []
  | g :: r => match joinEqual r with
    | [] => [g]
    | k :: t => if (f32 g.slope).same (f32 k.slope) then { g with right := k.right } :: t else g :: k :: t

/-- The exact value of a register at a point of its domain. -/
def Env.valueAt (e : Env) (x : FV) : FV := (e.segs.getD (coverIndex x e.segs) ⟨0, 0, 0, 0⟩).at_ x

/-- CNINF (R357). -/
def cnInf (ftz : Bool) (tol : BitVec 32) (e m : Env) : EnvResult :=
  if notFinite e.xlo || notFinite e.xhi || notFinite m.xlo || notFinite m.xhi then .error .addrRange
  else
    let x := (f32 e.xlo).plus (f32 m.xlo)
    let lo := toF32 ftz x
    let hi := toF32 ftz ((f32 e.xhi).plus (f32 m.xhi))
    let bad := notFinite lo || notFinite hi
    if e.segs.isEmpty || m.segs.isEmpty then (if bad then .error .addrRange else .ok { xlo := lo, xhi := hi, segs := [], lost := false })
    else
      let y := (e.valueAt (f32 e.xlo)).plus (m.valueAt (f32 m.xlo))
      let l := mergeSlopes (e.segs.length + m.segs.length) (withLefts e.xlo e.segs) (withLefts m.xlo m.segs)
      finishEnv ftz tol lo hi bad (joinEqual (infEmit ftz x y (evenSlopes l)))

/-- R358: the points of V with their segments. -/
def conjPoints (e : Env) : List (BitVec 32 × Seg) :=
  let inner := (e.segs.map (·.right)).zip (e.segs.drop 1)
  (match e.segs with
    | g :: _ => if notFinite e.xlo then [] else [(e.xlo, g)]
    | [] => []) ++ inner ++ (match e.segs.getLast? with
    | some g => if notFinite e.xhi then [] else [(e.xhi, g)]
    | none => [])

/-- Sets the last right breakpoint. -/
def setLastRight (hi : BitVec 32) : List (Seg × FV) → List (Seg × FV)
  | [] => []
  | [(g, b)] => [({ g with right := hi }, b)]
  | x :: r => x :: setLastRight hi r

/-- CNCONJ (R358). -/
def cnConj (ftz : Bool) (tol : BitVec 32) (e : Env) : EnvResult := match e.segs with
  | [] => .error .addrRange
  | g0 :: _ =>
    let last := (e.segs.getLast?).getD g0
    match conjPoints e with
    | [] => .ok { xlo := g0.slope, xhi := g0.slope, segs := [⟨0, g0.icpt ^^^ 0x80000000, g0.tag, g0.slope⟩], lost := false }
    | v =>
      let lo : BitVec 32 := if notFinite e.xlo then g0.slope else 0xFF800000
      let hi : BitVec 32 := if notFinite e.xhi then last.slope else 0x7F800000
      let lines := v.map fun p =>
        let b := (p.2.at_ (f32 p.1)).negate
        ((⟨p.1, toF32 ftz b, p.2.tag, p.2.slope⟩ : Seg), b)
      finishEnv ftz tol lo hi false ((joinExact (setLastRight hi lines)).map (·.1))

/-! Reading (R359). -/

/-- R359: a line's value at a point, an infinite one as a limit. -/
def lineValue (ftz : Bool) (g : Seg) (x : FV) : BitVec 32 := match x with
  | .inf s =>
    if (f32 g.slope).same (.rat false 0 1) then g.icpt
    else if (f32 g.slope).below (.rat false 0 1) != s then 0xFF800000 else 0x7F800000
  | x => toF32 ftz (g.at_ x)

/-- R359 CNEVAL: value, tag and index. -/
def cnEval (ftz : Bool) (e : Env) (x : BitVec 32) : Word :=
  let v := f32 (flush32 ftz x)
  if v == .nan || v.below (f32 e.xlo) || (f32 e.xhi).below v then BitVec.ofNat 64 (0x7FC00000 + 0xFFFF * 2 ^ 32 + 0xFF * 2 ^ 48)
  else if e.segs.isEmpty then BitVec.ofNat 64 (0xFF800000 + 0xFFFF * 2 ^ 32 + 0xFF * 2 ^ 48)
  else
    let i := coverIndex v e.segs
    let g := e.segs.getD i ⟨0, 0, 0, 0⟩
    BitVec.ofNat 64 ((lineValue ftz g v).toNat + g.tag.toNat * 2 ^ 32 + i * 2 ^ 48)

/-- R359 CNMIN: the point of the least value. -/
def cnMinPoint (e : Env) : BitVec 32 :=
  let i := e.segs.findIdx fun g => !(f32 g.slope).below (.rat false 0 1)
  if i = 0 then e.xlo else if i < e.segs.length then (e.segs.getD (i - 1) ⟨0, 0, 0, 0⟩).right else e.xhi

/-- R359 CNMIN. -/
def cnMin (ftz : Bool) (e : Env) : Word :=
  if e.segs.isEmpty then BitVec.ofNat 64 (e.xlo.toNat + 0xFF800000 * 2 ^ 32)
  else BitVec.ofNat 64 ((cnMinPoint e).toNat + (cnEval ftz e (cnMinPoint e)).toNat % 2 ^ 32 * 2 ^ 32)

/-- R359 CNINFO; none for a selector outside its table. -/
def cnInfo (e : Env) (sel : Nat) : Option Word :=
  if sel = 0 then some (BitVec.ofNat 64 e.segs.length)
  else if sel = 1 then some (BitVec.ofNat 64 (e.xlo.toNat + e.xhi.toNat * 2 ^ 32))
  else if 0x100 ≤ sel ∧ sel < 0x200 then (e.segs[sel - 0x100]?).map fun g => BitVec.ofNat 64 (g.slope.toNat + g.icpt.toNat * 2 ^ 32)
  else if 0x200 ≤ sel ∧ sel < 0x300 then (e.segs[sel - 0x200]?).map fun g => BitVec.ofNat 64 (g.right.toNat + g.tag.toNat * 2 ^ 32)
  else none

/-! Working copies (R353). -/

/-- The committed value of a register. -/
def State.env (s : State) (tile e : Nat) : Env := (s.tile tile).envs.getD e {}

/-- R353: the value of a register as the cursor's instruction sees it: the working copy when its last writer reaches the instruction;
without such a chain, the copy or the value it was taken from (log 10). -/
def State.cnSee (s : State) (e : Nat) : Env := match s.here with
  | none => s.env s.cur.task.tile e
  | some f => match f.canopy.find e with
    | none => s.env s.cur.task.tile e
    | some (x, written) =>
      let sure := !written || (match f.cnBy.find e with | some w => f.reaches w s.cur.idx | none => true)
      if sure || Config.freeBit s.tick (64 + e) then x else (f.canopy.get (e + 8) (x, false)).1

/-- R353: takes the working copy of a register the block names for the first time; the copy it starts from is kept beside it. -/
def State.cnTake (s : State) (e : Nat) : State := match s.here with
  | none => s
  | some f => match f.canopy.find e with
    | some _ => s
    | none =>
      let x := s.env s.cur.task.tile e
      s.modFlight s.cur.task s.cur.which fun f => { f with canopy := (f.canopy.put e (x, false)).put (e + 8) (x, false) }

/-- Writes the working copy of a register. -/
def State.cnPut (s : State) (e : Nat) (x : Env) : State :=
  s.modFlight s.cur.task s.cur.which fun f => { f with canopy := f.canopy.put e (x, true), cnBy := f.cnBy.put e s.cur.idx }

/-- R368: counter 11. -/
def State.cnCount (s : State) (tile : Nat) : State := s.modTile tile fun t => { t with canopied := t.canopied + 1 }

/-- R353: a Canopy instruction of class L fires after the previous block has committed. -/
def State.operandsCn (s : State) (h : Head) (ua ub : Bool) : Option Opnds := if s.cur.which = 0 then s.operands h ua ub false else none

/-- The FTZ bit and the tolerance the block sampled. -/
def State.cnModes (s : State) : Bool × BitVec 32 := match s.here with
  | some f => (f.ftz, f.cntol)
  | none => (false, 0)

/-- R410: the fault of a lost register. -/
def lostFault : Record := { code := .engineFault, cause := 22 }

/-- A Canopy instruction that writes register e. -/
def State.cnWrite (s : State) (e : Nat) (r : EnvResult) : State := match r with
  | .ok x => ((s.cnPut e x).cnCount s.cur.task.tile).fire0
  | .error c => s.fireFault { code := c }

/-- CNCLR (R354). -/
def execCnclr (h : Head) (e : BitVec 3) (s : State) : Host.Outcome State Fault Refusal :=
  match s.operandsCn h true true with
  | some o => .next ((s.cnTake e.toNat).cnWrite e.toNat (cnClear s.cnModes.1 (BitVec.ofNat 32 o.a.v.toNat) (BitVec.ofNat 32 o.b.v.toNat)))
  | none => .next s

/-- CNFEED (R355). -/
def execCnfeed (h : Head) (e : BitVec 3) (s : State) : Host.Outcome State Fault Refusal :=
  match s.operandsCn h true true with
  | some o =>
    let s := s.cnTake e.toNat
    let x := s.cnSee e.toNat
    let (z, tol) := s.cnModes
    if x.lost then .next (s.fireFault lostFault)
    else .next (s.cnWrite e.toNat (cnFeed z tol (x.flushed z) (BitVec.ofNat 32 o.a.v.toNat) (BitVec.ofNat 32 (o.a.v.toNat / 2 ^ 32))
      (BitVec.ofNat 16 o.b.v.toNat)))
  | none => .next s

/-- An instruction of two registers. -/
def State.cnTwo (s : State) (h : Head) (e m : BitVec 3) (f : Bool → BitVec 32 → Env → Env → EnvResult) : State :=
  match s.operandsCn h false false with
  | some _ =>
    let s := (s.cnTake e.toNat).cnTake m.toNat
    let x := s.cnSee e.toNat
    let y := s.cnSee m.toNat
    let (z, tol) := s.cnModes
    if x.lost || y.lost then s.fireFault lostFault else s.cnWrite e.toNat (f z tol (x.flushed z) (y.flushed z))
  | none => s

/-- CNMAX (R355). -/
def execCnmax (h : Head) (e m : BitVec 3) (s : State) : Host.Outcome State Fault Refusal := .next (s.cnTwo h e m cnMax)
/-- CNSUM (R356). -/
def execCnsum (h : Head) (e m : BitVec 3) (s : State) : Host.Outcome State Fault Refusal := .next (s.cnTwo h e m cnSum)
/-- CNINF (R357). -/
def execCninf (h : Head) (e m : BitVec 3) (s : State) : Host.Outcome State Fault Refusal := .next (s.cnTwo h e m cnInf)

/-- An instruction of one register. -/
def State.cnOne (s : State) (h : Head) (e : BitVec 3) (f : Bool → BitVec 32 → Env → EnvResult) : State :=
  match s.operandsCn h false false with
  | some _ =>
    let s := s.cnTake e.toNat
    let x := s.cnSee e.toNat
    let (z, tol) := s.cnModes
    if x.lost then s.fireFault lostFault else s.cnWrite e.toNat (f z tol x)
  | none => s

/-- CNCONJ (R358). -/
def execCnconj (h : Head) (e : BitVec 3) (s : State) : Host.Outcome State Fault Refusal := .next (s.cnOne h e fun z tol x => cnConj z tol (x.flushed z))
/-- CNSIMP (R360): it decides on the register as it stands, and changes neither its domain nor a segment that it keeps, FTZ or not (R408; log
22). DEDUCED. -/
def execCnsimp (h : Head) (e : BitVec 3) (s : State) : Host.Outcome State Fault Refusal :=
  .next (s.cnOne h e fun z tol x => .ok { x with segs := simplify z (tolerance z tol) x.segs })

/-- An instruction that reads a register. -/
def State.cnRead (s : State) (h : Head) (e : BitVec 3) (v : Env → Option Word) : State :=
  let s := s.cnTake e.toNat
  let x := s.cnSee e.toNat
  if x.lost then s.fireFault lostFault
  else match v x with
    | some w => (s.cnCount s.cur.task.tile).fire1 h w
    | none => s.fireFault { code := .addrRange }

/-- CNEVAL (R359). -/
def execCneval (h : Head) (e : BitVec 3) (s : State) : Host.Outcome State Fault Refusal :=
  match s.operandsCn h true false with
  | some o => .next (s.cnRead h e fun x => some (cnEval s.cnModes.1 (x.flushed s.cnModes.1) (BitVec.ofNat 32 o.a.v.toNat)))
  | none => .next s
/-- CNMIN (R359). -/
def execCnmin (h : Head) (e : BitVec 3) (s : State) : Host.Outcome State Fault Refusal :=
  match s.operandsCn h false false with
  | some _ => .next (s.cnRead h e fun x => some (cnMin s.cnModes.1 (x.flushed s.cnModes.1)))
  | none => .next s

/-- CNINFO (R359): it delivers the fields as they stand, a move that FTZ leaves alone (R171; log 22). DEDUCED. -/
def execCninfo (h : Head) (e : BitVec 3) (s : State) : Host.Outcome State Fault Refusal :=
  match s.operandsCn h true false with
  | some o => .next (s.cnRead h e fun x => cnInfo x o.a.v.toNat)
  | none => .next s

/-- R353 at commit: the written registers are replaced whole. -/
def State.commitCanopy (s : State) (t : TaskRef) (f : Firing) : State :=
  f.canopy.foldl (fun (s : State) e =>
    if e.2.2 && decide (e.1 < 8) then s.modTile t.tile fun x => { x with envs := listMod x.envs e.1 fun _ => e.2.1 } else s) s

/-! CNLD and CNST (R361). -/

/-- CNLD and CNST at their firing. -/
def State.cnMemory (s : State) (h : Head) (tl : BitVec 4) (op : Row → EngOp) : State :=
  match s.operandsEng h true false false with
  | none => s
  | some o =>
    if !s.engRoom s.cur.task.tile 5 then s
    else
      let k := s.task s.cur.task
      let n := wfield o.a.v 0 3
      let r := k.shape n
      match engChecks (k.checkRecords { a := some ⟨n, [16]⟩ })
          [(shEngine r && shDims r == 1 && shStrRaw r 0 == 16 && shBase r % 64 == 0, n)] [wfield o.a.v 3 61 == 0] with
      | some x => s.fireFault x
      | none => s.fireEngine h 5 (op r) tl.toNat o.p

/-- CNLD. -/
def execCnld (h : Head) (tl : BitVec 4) (e : BitVec 3) (s : State) : Host.Outcome State Fault Refusal :=
  .next (s.cnMemory h tl (.cnld e.toNat))
/-- CNST. -/
def execCnst (h : Head) (tl : BitVec 4) (e : BitVec 3) (s : State) : Host.Outcome State Fault Refusal :=
  .next (s.cnMemory h tl (.cnst e.toNat))

/-- R361: a unit as a segment. -/
def segOf (v : Nat) : Seg :=
  ⟨BitVec.ofNat 32 v, BitVec.ofNat 32 (v / 2 ^ 32), BitVec.ofNat 16 (v / 2 ^ 96), BitVec.ofNat 32 (v / 2 ^ 64)⟩

/-- R361: unit 0 is valid: reserved bits, count and domain. -/
def unit0Ok (v : Nat) : Bool :=
  let lo := f32 (BitVec.ofNat 32 v)
  let hi := f32 (BitVec.ofNat 32 (v / 2 ^ 32))
  v / 2 ^ 73 == 0 && decide (v / 2 ^ 64 ≤ 256) && lo != .nan && hi != .nan && !hi.below lo && lo != .inf false && hi != .inf true

/-- R361: the segments of an image are valid. -/
def segsOk (lo hi : FV) : FV → Option FV → List Seg → Bool
  | prev, _, [] => prev.same hi
  | prev, slope, g :: r =>
    !notFinite g.slope && !notFinite g.icpt && (match slope with | some p => p.below (f32 g.slope) | none => true)
      && f32 g.right != .nan && !(f32 g.right).below prev && !(f32 g.right).below lo && !hi.below (f32 g.right)
      && segsOk lo hi (f32 g.right) (some (f32 g.slope)) r

/-- The head command of the Canopy memory queue, when it may be performed. -/
def State.canopyHead (s : State) (tile : Nat) : Option Cmd := match (s.tile tile).canopy with
  | c :: _ => if c.state = .failed then none else some c
  | [] => none

/-- A Canopy command completes. -/
def State.canopyDone (s : State) (tile : Nat) (c : Cmd) : State :=
  (((s.dropCmd tile 5 c.id).timelineDone c.ctx c.tl c.num).cnCount tile).canopyNext tile

/-- R361: reads and checks an image. -/
def State.readEnv (s : State) (tile : Nat) (c : Cmd) (r : Row) : EngGot Env :=
  match s.engRead tile 5 c (shSpace r) 16 [some (shAddr r 0)] with
  | .wait s => .wait s
  | .bad x s => .bad x s
  | .got l s =>
    let u := l.headD 0
    let n := u / 2 ^ 64 % 512
    if !unit0Ok u then .bad { code := .engineFault, cause := 19 } s
    else if shCount r < 1 + n then .bad { code := .engineFault, cause := 20 } s
    else match s.engRead tile 5 c (shSpace r) 16 ((List.range n).map fun j => some (shAddr r (j + 1))) with
      | .wait s => .wait s
      | .bad x s => .bad x s
      | .got us s =>
        let lo := BitVec.ofNat 32 u
        let hi := BitVec.ofNat 32 (u / 2 ^ 32)
        let segs := us.map segOf
        if us.any (fun v => v / 2 ^ 112 != 0) || !(segs.isEmpty || segsOk (f32 lo) (f32 hi) (f32 lo) none segs) then
          .bad { code := .engineFault, cause := 19 } s
        else .got { xlo := lo, xhi := hi, segs := segs, lost := false } s

/-- A Canopy command's token is released. -/
def State.canopyMay (s : State) (c : Cmd) : Bool := match c.after, c.task with
  | some k, some t => s.released t k
  | _, _ => true

/-- CANOPY_LOAD (R361). -/
def execCanopyLoad (s : State) : Host.Outcome State Fault Refusal :=
  match s.cur.work with
  | some (.canopyLoad tile) => match s.canopyHead tile with
    | none => .next s
    | some c => match c.op with
      | .cnld e r =>
        if !s.canopyMay c then .next (s.post (.canopyLoad tile))
        else match (s.cmdRuns tile 5 c.id).readEnv tile c r with
          | .wait s => .next (s.post (.canopyLoad tile))
          | .bad x s => .next (s.engineFail tile 5 c x)
          | .got v s => .next ((s.modTile tile fun t => { t with envs := listMod t.envs e fun _ => v }).canopyDone tile c)
      | _ => .next s
  | _ => .next s

/-- R361: the units of a register's image. -/
def Env.image (e : Env) : List Nat :=
  (e.xlo.toNat + e.xhi.toNat * 2 ^ 32 + e.segs.length * 2 ^ 64)
    :: e.segs.map fun g => g.slope.toNat + g.icpt.toNat * 2 ^ 32 + g.right.toNat * 2 ^ 64 + g.tag.toNat * 2 ^ 96

/-- CANOPY_STORE (R361, R410, R411): it reads its register when it starts. -/
def execCanopyStore (s : State) : Host.Outcome State Fault Refusal :=
  match s.cur.work with
  | some (.canopyStore tile) => match s.canopyHead tile with
    | none => .next s
    | some c => match c.op with
      | .cnst e r =>
        let v := s.env tile e
        if !s.canopyMay c then .next (s.post (.canopyStore tile))
        else if c.state ≠ .running then
          if v.lost then .next (s.engineFail tile 5 c { code := .engineFault, cause := 22 })
          else if shCount r < v.image.length then .next (s.engineFail tile 5 c { code := .engineFault, cause := 20 })
          else .next ((s.modCmd tile 5 c.id fun k => { k with state := .running, rows := [v.image] }).post (.canopyStore tile))
        else match s.engStore tile 5 c (shSpace r) ((c.rows.headD []).zipIdx.map fun u => (shAddr r u.2, bytesOfNat 16 u.1)) with
          | .wait s => .next (s.post (.canopyStore tile))
          | .bad x s => .next (s.engineFail tile 5 c x)
          | .got _ s => .next (s.canopyDone tile c)
      | _ => .next s
  | _ => .next s

end Sys2Proof.Machine
end

