-- ==== Sys2Proof/Machine/System.lean ====
section
/-! DEFINITION. System instructions: control and status registers, traps, ERET, SLEEP and PERF (spec/14_engine_system_ops.md R363 to
R369), and the end of a task that is killed or exits (spec/09_execution_model.md R200, R213). -/

namespace Sys2Proof.Machine

/-! The end of a task. -/

/-- R213: everything still held for an Exited task goes to the dead letters and is decremented; with own, the messages and the
notification of its running activation too. -/
def State.deadAll (s : State) (t : TaskRef) (own : Bool) : State :=
  let e := elemOf t
  let k := s.task t
  let notes := (k.pending ++ k.dropped).filterMap (·.note) ++ (if own then (k.act.bind (·.note)).toList else [])
  let mine (m : Msg) : Bool := m.elem == t.tile * 16 + t.elem && decide (m.vc ∈ s.inputs t)
  let waiting := match s.loadOf t with
    | some l => l.loops.flatMap fun (x : LoopState) => x.waiting.filter mine
    | none => []
  let s := match s.loadOf t with
    | some l => s.modLoad l.id fun l => { l with loops := l.loops.map fun (x : LoopState) => { x with waiting := x.waiting.filter fun m => !mine m } }
    | none => s
  let s := s.modElem e fun x => { x with
    store := x.store.filter fun y => decide (y.1 ≠ t.slot)
    unmatched := x.unmatched.filter fun y => decide (y.1 ≠ t.slot) }
  let s := s.modTask t fun k => { k with pending := [], dropped := [], act := if own then none else k.act }
  let s := (s.inputs t).foldl (fun (s : State) n =>
    let v := s.vc e n
    let s := s.modVc e n fun (v : Vc) => { v with queue := [], held := [], ring := [], spilled := false, ringHead := (v.ringHead + v.ring.length) % 64 }
    (v.queue ++ v.ring ++ v.held).foldl (fun (s : State) m => s.deadMessage m e t 0) s) s
  let s := waiting.foldl (fun (s : State) m => s.deadUntaken { m with elem := t.elem } e t 0) s
  let s := notes.foldl State.deadNote s
  s.retry e

/-- Operations of an uncommitted block that only wait: they end with the block (R425, R87). -/
def Req.waitsOnly (r : Req) : Bool := match r.op with
  | .lds _ | .stgwait _ _ | .stgput _ _ | .tlwait _ _ _ | .rnext | .sleep _ | .macrd _ _ _ => r.answer.isNone
  | _ => false

/-- The TLWAITs of an activation that ends: nothing is left that their values could reach (R201, R241). -/
def State.dropWaits (s : State) (t : TaskRef) : State :=
  { s with reqs := s.reqs.filter fun r => !(r.task == some t && match r.op with
      | .tlwait _ _ _ => true
      | _ => false) }

/-- Withdraws the waits of a task's blocks in flight and its TLWAITs, and their waits for translations. -/
def State.withdraw (s : State) (t : TaskRef) : State :=
  let gone := (s.task t).flights.map (·.serial)
  let mine := s.reqs.filter fun r => r.task == some t && decide (r.serial ∈ gone) && r.waitsOnly
  ((mine.foldl (fun (s : State) r => ((s.cancelReader r.id).getD s).dropReq r.id) s).dropWaits t).forgetBlocks t gone

/-- The interval store of a range operator (R270, R271). -/
def setRange (l : List (Nat × Nat × Nat × Nat × Bool)) (op e lo hi : Nat) (closed : Bool) : List (Nat × Nat × Nat × Nat × Bool) :=
  l.map fun x => if x.1 = op ∧ x.2.1 = e then (op, e, lo, hi, closed) else x

/-- R271: the cut of an element's sub-interval, by the running activation of a task. -/
def State.cutRange (s : State) (t : TaskRef) (a : Word) : State := match s.loadOf t, s.taskCfg t with
  | some l, some c => match l.ranges.find? fun x => x.1 == c.op && x.2.1 == t.elem with
    | some x =>
      (s.modLoad l.id fun l => { l with ranges := setRange l.ranges c.op t.elem x.2.2.1 (min x.2.2.2.1 a.toNat) true }).modTask t fun k => { k with cut := true }
    | none => s
  | _, _ => s

/-- R271: the end of an activation that has cut its element's sub-interval clears Closed, unless the activation of another task of the
operator on that element has cut it too. -/
def State.openRange (s : State) (t : TaskRef) : State :=
  if !(s.task t).cut then s
  else
    let s := s.modTask t fun k => { k with cut := false }
    match s.loadOf t, s.taskCfg t with
    | some l, some c =>
      if s.tasks.any fun x => elemOf x.1 == elemOf t && x.2.cut && x.2.load == l.id && (s.operator x.1).2 == c.op then s
      else s.modLoad l.id fun l => { l with ranges := l.ranges.map fun x =>
          if x.1 = c.op ∧ x.2.1 = t.elem then (x.1, x.2.1, x.2.2.1, x.2.2.2.1, false) else x }
    | _, _ => s

/-- R325: the snapshots that replay entries of a block hold. -/
def Task.heldSnaps (k : Task) : List Nat :=
  let words := match k.parked, k.flights with
    | some (f, _), _ => f.words
    | none, f :: _ => f.words
    | none, [] => []
  (k.replay.filter fun r => match words[r.idx]? with
    | some w => bits 55 9 w == 0x11F
    | none => false).map fun r => r.r0.toNat

/-- R200, R302, R331, R366: a task is killed: Exited, its replay entries freed while the operations they record stand, its stage
queues closed, everything held for it dead. -/
def State.killTask (s : State) (t : TaskRef) : State :=
  let k := s.task t
  if k.phase = .exited ∨ k.phase = .unbound ∧ k.launch = 0 then s
  else
    let s := s.withdraw t
    let s := s.modCtx k.ctx fun c => k.heldSnaps.foldl Ctx.dropHeld c
    let s := (s.closeStages t).openRange t
    let s := s.modTask t fun k => { k with phase := .exited, flights := [], fetch := none, parked := none, replay := [], refire := none }
    s.deadAll t true

/-! Control and status registers (R363, R364). -/

/-- R363: the value CSRRD delivers; the level is the running launch's (R414). -/
def State.csr (s : State) (t : TaskRef) (n : Nat) : Word :=
  let k := s.task t
  let c := s.ctx k.ctx
  if n = 0x001 then c.fpmode
  else if n = 0x002 then c.cntol.setWidth 64
  else if n = 0x003 then (match s.launch k.launch with
    | some l => BitVec.ofNat 64 l.level
    | none => 0)
  else if n = 0x010 then BitVec.ofNat 64 k.ctx
  else if n = 0x011 then BitVec.ofNat 64 (s.handle t)
  else if n = 0x012 then BitVec.ofNat 64 t.tile
  else if n = 0x013 then BitVec.ofNat 64 s.package
  else if n = 0x014 then BitVec.ofNat 64 s.podtime
  else if n = 0x024 then (s.tile t.tile).status 4
  else if n = 0x025 then (s.tile t.tile).status 5
  else (s.tile t.tile).status (n - 0x020)

/-- R171, R363: a written register keeps the bits that are not reserved. -/
def Ctx.writeCsr (c : Ctx) (n : Nat) (v : Word) : Ctx :=
  if n = 0x001 then { c with fpmode := v &&& 1, old := (c.fpmode, c.old.2) }
  else if n = 0x002 then { c with cntol := v.setWidth 32, old := (c.old.1, c.cntol) } else c

/-- R364: an element takes the values of its context's registers into its copies. -/
def State.copyModes (s : State) (e : ElemRef) (ctx : Nat) : State :=
  s.modElem e fun x => { x with modes := x.modes.put ctx ((s.ctx ctx).fpmode, (s.ctx ctx).cntol) }

/-- R364: the values that a block fetched now samples. An element whose copy is older than the last CSRWR still gives that copy, or takes the
new value first, by a free bit; it has taken the new value before any block of the task that follows one in flight, a commit on the element, or a
result that has come to one of its tasks since (log 26). -/
def State.sampleModes (s : State) (t : TaskRef) : (Word × BitVec 32) × State :=
  let k := s.task t
  let c := s.ctx k.ctx
  let copy := (s.elem (elemOf t)).modes.get k.ctx (c.fpmode, c.cntol)
  let stale := k.flights.isEmpty
  let m := (if stale && copy.1 == c.old.1 && Config.freeBit s.tick 1 then copy.1 else c.fpmode,
            if stale && copy.2 == c.old.2 && Config.freeBit s.tick 2 then copy.2 else c.cntol)
  (m, s.modElem (elemOf t) fun x => { x with modes := x.modes.put k.ctx m })

/-- CSRRD (R364). -/
def execCsrrd (h : Head) (csr : BitVec 12) (s : State) : Host.Outcome State Fault Refusal :=
  match s.operands h false false false with
  | some _ => .next (s.fire1 h (s.csr s.cur.task csr.toNat))
  | none => .next s

/-- CSRWR (R364): writes at commit. -/
def execCsrwr (h : Head) (csr : BitVec 12) (s : State) : Host.Outcome State Fault Refusal :=
  match s.operandsStore h true false false with
  | some o => .next (s.atCommit (.csrwr csr.toNat o.a.v)).fire0
  | none => .next s

/-! Traps (R365, R366). -/

/-- ERET's slot c in a firing it has suppressed (R366). -/
def State.suppressed (s : State) : Option Word := match s.here with
  | some f => f.suppress
  | none => none

/-- TRAP (R365): a software-trap record with its code and slot a; a suppressed TRAP delivers ERET's slot c. -/
def execTrap (h : Head) (code : BitVec 7) (s : State) : Host.Outcome State Fault Refusal :=
  match s.operandsStore h true false false with
  | none => .next s
  | some o => match s.suppressed with
    | some v => .next (s.fire1 h v)
    | none => .next (s.fireFault { code := .softwareTrap, detail := code.toNat, auxA := o.a.v.toNat })

/-- BKPT (R365). -/
def execBkpt (h : Head) (code : BitVec 7) (s : State) : Host.Outcome State Fault Refusal :=
  match s.operandsStore h false false false with
  | none => .next s
  | some _ => match s.suppressed with
    | some _ => .next (s.fire1 h 0)
    | none => .next (s.fireFault { code := .softwareTrap, detail := code.toNat })

/-- ERET (R366): only a task of the trap operator; acts at commit. -/
def execEret (h : Head) (s : State) : Host.Outcome State Fault Refusal :=
  match s.operandsStore h true true true with
  | none => .next s
  | some o =>
    if !s.isTrapTask s.cur.task then .next (s.fireFault { code := .priv })
    else if 2 < o.b.v.toNat then .next (s.fireFault { code := .addrRange })
    else .next (s.atCommit (.eret o.a.v o.b.v o.c.v)).fire0

/-- ERET's effect (R366): on the Parked task of a context that a handle names; otherwise the event is recorded. -/
def State.eret (s : State) (ctx : Nat) (handle action value : Word) : State := match s.parkedAt ctx handle.toNat with
  | some t =>
    if action = 1 then s.killTask t
    else if action = 2 then s.refire t (some value)
    else s.refire t none
  | none => s.event 0x08 12 ctx handle.toNat action.toNat

/-! SLEEP and PERF (R367, R368). -/

/-- SLEEP (R367): a count of 0 delivers 0 at once. -/
def execSleep (h : Head) (s : State) : Host.Outcome State Fault Refusal :=
  match s.operandsStore h true false false with
  | none => .next s
  | some o =>
    if o.a.v = 0 then .next (s.fire1 h 0)
    else
      let (id, s) := s.sendReq (.sleep (min o.a.v.toNat 1048576)) 0 0 none
      .next (s.post (.sleepExpire id))

/-- R367, R424: a drain marker has reached the element. -/
def State.marker (s : State) (load : Nat) : Bool := match s.load load with
  | some l => l.phase == .draining
  | none => false

/-- SLEEP_EXPIRE (R367): the count has passed, or a drain marker has come; the cycles waited are delivered. -/
def execSleepExpire (s : State) : Host.Outcome State Fault Refusal :=
  match s.cur.work with
  | some (.sleepExpire id) => match s.req id with
    | some r => match r.op with
      | .sleep n =>
        let w := s.cycle - r.start
        if r.answer.isSome then .next s
        else if n ≤ w then .next (s.reply id { r0 := BitVec.ofNat 64 n, r1 := BitVec.ofNat 64 n })
        else if s.marker r.load then .next (s.reply id { r0 := BitVec.ofNat 64 w, r1 := BitVec.ofNat 64 w })
        else .next (s.post (.sleepExpire id))
      | _ => .next s
    | none => .next s
  | _ => .next s

/-- R368: a performance counter of the task's element or tile. -/
def State.counter (s : State) (t : TaskRef) (n : Nat) : Word :=
  let e := s.elem (elemOf t)
  let y := s.tile t.tile
  if n = 0 then BitVec.ofNat 64 (s.cycle - s.perfBase)
  else if n = 1 then e.blocks
  else if n = 2 then e.instrs
  else if n = 3 then e.faults
  else if n = 4 then BitVec.ofNat 64 (s.cycle - s.perfBase) - e.busy
  else if n = 5 then e.sent
  else if n = 6 then e.spills
  else if n = 7 then y.hits
  else if n = 8 then y.misses
  else if n = 9 then y.copied
  else if n = 10 then y.planes
  else if n = 11 then y.canopied
  else 0

/-- PERF (R368). -/
def execPerf (h : Head) (n : BitVec 12) (s : State) : Host.Outcome State Fault Refusal :=
  match s.operands h false false false with
  | some _ => .next (s.fire1 h (s.counter s.cur.task n.toNat))
  | none => .next s

end Sys2Proof.Machine
end

