-- ==== Sys2Proof/Machine/Frontier.lean ====
section
/-! DEFINITION. The frontier tracker (spec/15_frontiers.md): path summaries, the order of keys, the application of progress packets,
notifications, acknowledgements, and the stamps that leave a loop. -/

namespace Sys2Proof.Machine

/-! Path summaries (R371 to R376). -/

/-- The loop coordinates of a stamp. -/
def Stamp.coords (t : Stamp) : List Nat := [t.c1, t.c2, t.c3].take t.depth

/-- A stamp of an epoch and loop coordinates. -/
def Stamp.ofCoords (c0 : Nat) (l : List Nat) : Stamp := ⟨l.length, c0, l.getD 0 0, l.getD 1 0, l.getD 2 0⟩

/-- Adds to the last of a list. -/
def addLast (l : List Nat) (a : Nat) : List Nat := match l with
  | [] => []
  | [x] => [x + a]
  | x :: r => x :: addLast r a

/-- R371: a summary applied to a stamp; none where it cannot be applied. -/
def Summary.apply (σ : Summary) (t : Stamp) : Option Stamp :=
  if t.depth < σ.k then none
  else
    let kept := t.coords.take (t.depth - σ.k)
    let l := addLast kept σ.a
    if σ.a ≠ 0 ∧ (kept.isEmpty ∨ 65535 < l.getLastD 0) then none
    else if 3 < l.length + σ.v.length then none
    else some (Stamp.ofCoords t.c0 (l ++ σ.v))

/-- R372: the first summary, then the second. -/
def Summary.compose (x y : Summary) : Summary :=
  let j := min y.k x.v.length
  let v := x.v.take (x.v.length - j)
  let extra := y.k - j
  if extra ≠ 0 then ⟨x.k + extra, y.a, v ++ y.v⟩
  else if v.isEmpty then ⟨x.k, x.a + y.a, v ++ y.v⟩
  else ⟨x.k, x.a, addLast v y.a ++ y.v⟩

/-- Lexicographic order of coordinates. -/
def lexLe : List Nat → List Nat → Bool
  | a :: r, b :: q => decide (a < b) || (a == b && lexLe r q)
  | _, _ => true

/-- R207: the order of stamps of one depth. -/
def Stamp.le (t u : Stamp) : Bool := t.depth == u.depth && decide (t.c0 ≤ u.c0) && lexLe t.coords u.coords

/-- R376: the cell of the summary table for a channel and a notifiable location. -/
def LoadCfg.cell (c : LoadCfg) (chan : Nat) (p : Place) : List Summary := match c.cells.find? fun x => x.1 == chan && x.2.1 == p with
  | some x => x.2.2
  | none => []

/-- The number of a channel that ends at a location. -/
def LoadCfg.chanAt (c : LoadCfg) (p : Place) : Option Nat :=
  let i := c.chans.findIdx fun h => h.place == p
  if i < c.chans.length then some i else none

/-- R375: a pointstamp can lead to another. -/
def LoadCfg.leads (c : LoadCfg) (m : Place) (s : Stamp) (p : Place) (t : Stamp) : Bool :=
  (m == p && s.le t) || match c.chanAt m with
    | some n => (c.cell n p).any fun σ => match σ.apply s with
      | some u => u.le t
      | none => false
    | none => false

/-- R373, R211: summaries of the paths of at most n channels that leave a channel: each with the channel it reaches. -/
def LoadCfg.paths (c : LoadCfg) : Nat → List (Nat × Summary) → List (Nat × Summary)
  | 0, l => l
  | n + 1, l =>
    let more := l.flatMap fun x => match c.chans[x.1]? with
      | some h => match c.tasks[h.task]? with
        | some t => (t.sums.filter fun y => y.1 == x.1).filterMap fun y => match t.ports[y.2.1]? with
          | some m => (c.chans[m]?).map fun g => (m, (x.2.compose y.2.2).compose g.summary)
          | none => none
        | none => []
      | none => []
    LoadCfg.paths c n (l ++ more).eraseDups

/-! The checks of a batch (R377, R378). -/

/-- R378: an increment of a send lies strictly above an origin key: the input channel's task summary for the port, then the
channel's own. -/
def LoadCfg.sendAbove (c : LoadCfg) (t : TaskCfg) (origins : List Key) (port : Nat) (h : ChanCfg) (u : Stamp) : Bool :=
  origins.any fun o => t.sums.any fun x => x.2.1 == port
    && (match c.chans[x.1]? with | some g => g.place == o.place | none => false)
    && (match (x.2.2.compose h.summary).apply o.stamp with | some v => v.le u | none => false)
    && !(h.place == o.place && u == o.stamp)

/-- R378: a request lies strictly above an origin key. -/
def LoadCfg.askAbove (c : LoadCfg) (origins : List Key) (p : Place) (u : Stamp) : Bool :=
  origins.any fun o => c.leads o.place o.stamp p u && (!(o.place == p && u == o.stamp) || !o.req)

/-- R378: the origin keys of an activation. -/
def Activation.origins (a : Activation) (l : Load) (e : ElemRef) : List Key := match a.note with
  | some n => [⟨true, n.place, n.stamp⟩]
  | none => a.msgs.map fun m => ⟨false, l.placeAt e m.vc, m.stamp⟩

/-! The tracker (R382 to R387). -/

/-- R426: the entries of a saved load that its saved state has no room for, beyond 1,024 a bed: they stay in the tracker table. -/
def Saved.swapped (v : Saved) : Nat :=
  (List.range v.beds.length).foldl (fun n b => n + ((v.entries.filter fun x => x.key.place.bed == b).length - 1024)) 0

/-- The die of a load's root tracker, for a saved one the die it had (R381, R426). -/
def Load.home (l : Load) : Nat := match l.saved with
  | some v => v.beds.headD 0 / 16
  | none => l.tracker / 64

/-- R382, R426: entries of the tracker table of a die in use. -/
def State.entriesUsed (s : State) (die : Nat) : Nat :=
  (s.loads.filter fun l => decide (l.home = die)).foldl (fun n l => n + l.entries.length + (match l.saved with
    | some v => v.swapped
    | none => 0)) 0

/-- R382: a delta's entry: its new count and, for a request key, what its decrement clears (R386). -/
def Entry.change (x : Entry) (d : Int) (dec : Nat) (who : List TaskRef) : Entry :=
  let left := if x.dlv then x.dcnt - dec else 0
  { x with count := x.count + d, dlv := x.dlv && decide (0 < left), dcnt := left, who := x.who ++ who }

/-- R382: an entry with count 0 and no delivery outstanding is free. -/
def Entry.live (x : Entry) : Bool := x.count != 0 || x.dlv

/-- Changes the entry of a key, making it if there is none. -/
def changeEntry (l : List Entry) (k : Key) (d : Int) (dec : Nat) (who : List TaskRef) : List Entry := match l with
  | [] => (([({ key := k } : Entry).change d dec who]).filter Entry.live)
  | x :: r => if x.key = k then (([x.change d dec who]).filter Entry.live) ++ r else x :: changeEntry r k d dec who

/-- Decrements that a packet makes on a key. -/
def Batch.decOf (b : Batch) (k : Key) : Nat := (b.decs.filter fun x => x.1 == k).foldl (fun n x => n + x.2) 0

/-- The keys of a packet. -/
def Batch.keys (b : Batch) : List Key := (b.deltas.map (·.1) ++ b.decs.map (·.1)).eraseDups

/-- The change a packet makes on a key. -/
def Batch.deltaOf (b : Batch) (k : Key) : Int := match b.deltas.find? fun x => x.1 == k with
  | some x => x.2
  | none => 0

/-- The table after a packet. -/
def Load.applied (l : Load) (b : Batch) : List Entry :=
  b.keys.foldl (fun es k => changeEntry es k (b.deltaOf k) (b.decOf k) ((b.asks.filter fun x => x.1 == k).map (·.2))) l.entries

/-- R383: why a packet cannot be applied: a full table (0), or a count out of range (1). -/
def State.packetFault (s : State) (l : Load) (b : Batch) : Option Nat :=
  let new := l.applied b
  if 8192 < s.entriesUsed (l.tracker / 64) - l.entries.length + new.length then some 0
  else if new.any fun x => decide (x.count < -(2 ^ 23)) || decide ((2 ^ 23 : Int) ≤ x.count) then some 1
  else none

/-- R382: a location as a number. -/
def Place.loc (p : Place) : Nat := p.bed * 2 ^ 11 + (p.tile * 16 + p.elem) * 32 + p.vc

/-- R384: a request may be delivered. -/
def Load.deliverable (l : Load) (x : Entry) : Bool :=
  x.key.req && decide (0 < x.count) && !x.dlv
    && !(l.entries.any fun y => y.key != x.key && y.count != 0 && l.cfg.leads y.key.place y.key.stamp x.key.place x.key.stamp)

/-- R385: the order in which notifications leave. -/
def Entry.before (x y : Entry) : Bool :=
  decide (x.key.stamp.issue < y.key.stamp.issue) || (x.key.stamp.issue == y.key.stamp.issue && decide (x.key.place.loc < y.key.place.loc))

/-- Inserts an entry in the order of R385. -/
def insertEntry (x : Entry) : List Entry → List Entry
  | [] => [x]
  | y :: r => if x.before y then x :: y :: r else y :: insertEntry x r

/-- R384: delivers one request: its count is copied, and the notification leaves for the requesting task. -/
def State.deliverEntry (s : State) (id : Nat) (x : Entry) : State := match s.load id with
  | none => s
  | some l =>
    let s := s.modLoad id fun l => { l with entries := l.entries.map fun y => if y.key = x.key then { y with dlv := true, dcnt := y.count.toNat, who := [] } else y }
    x.who.eraseDups.foldl (fun (s : State) t =>
      s.inject 2 id l.tracker (routerOf t.tile)
        (.note { load := id, task := t, place := x.key.place, stamp := x.key.stamp, count := (x.who.filter fun u => u == t).length }) []) s

/-- R384, R385: every request that is deliverable, in order. -/
def State.deliverAll (s : State) (id : Nat) : State := match s.load id with
  | none => s
  | some l => ((l.entries.filter l.deliverable).foldl (fun q x => insertEntry x q) []).foldl (fun (s : State) x => s.deliverEntry id x) s

/-- R387: decrements applied on a loop's ingress and feedback message keys are counted for their stamps; those of messages that ended before
they were admitted are none of an admitted one. -/
def LoopState.count (x : LoopState) (c : LoadCfg) (b : Batch) : LoopState := match c.loops[x.loop]? with
  | none => x
  | some cfg =>
    let at_ (n : Nat) : Option Place := (c.chans[n]?).map (·.place)
    let mine (k : Key) (t : Stamp) : Bool := !k.req && k.stamp == t && (some k.place == at_ cfg.ingress || some k.place == at_ cfg.feedback)
    let total (t : Stamp) : Nat := (b.decs.filter fun d => mine d.1 t).foldl (fun n d => n + d.2) 0
    let dead (t : Stamp) : Nat := (x.dead.filter fun d => d.1 == t).foldl (fun n d => n + d.2) 0
    { x with
      flight := x.flight.map fun f => (f.1, f.2.1, f.2.2 + (total f.1 - dead f.1))
      dead := ((x.dead.map (·.1)).eraseDups.map fun t => (t, dead t - total t)).filter fun d => d.2 != 0 }

/-- R210, R387: a stamp in flight has left its loop: its admitted messages are consumed, and no occupied key inside the body is one
it can lead to; a message on ingress or feedback counts once it is admitted, as does a decrement there whose increment is still to come. -/
def Load.stampGone (l : Load) (x : LoopState) (cfg : LoopCfg) (f : Stamp × Nat × Nat) : Bool :=
  let at_ (n : Nat) : Option Place := (l.cfg.chans[n]?).map (·.place)
  let reach := (l.cfg.paths l.cfg.chans.length [(cfg.ingress, {})]).filter fun r => decide (r.1 ∈ cfg.body)
  let leads (p : Option Place) (u : Stamp) : Bool := reach.any fun r => at_ r.1 == p && match r.2.apply f.1 with
    | some v => v.le u
    | none => false
  f.2.1 == f.2.2
    && !(l.entries.any fun y => y.count != 0
          && (y.key.req || some y.key.place != at_ cfg.ingress && some y.key.place != at_ cfg.feedback || decide (y.count < 0)) && leads (some y.key.place) y.key.stamp)
    && !(x.flight.any fun g => g.1 != f.1 && g.2.1 != g.2.2 && (leads (at_ cfg.ingress) g.1 || leads (at_ cfg.feedback) g.1))

/-- R387: stamps that have left their loops are taken off; waiting ones may then be admitted. -/
def State.sweepLoops (s : State) (id : Nat) : State := match s.load id with
  | none => s
  | some l =>
    let next := l.loops.map fun x => match l.cfg.loops[x.loop]? with
      | some cfg => { x with flight := x.flight.filter fun f => !l.stampGone x cfg f }
      | none => x
    (s.modLoad id fun l => { l with loops := next }).postAll ((next.filter fun (x : LoopState) => !x.waiting.isEmpty).map fun x => Work.loopAdmit id x.loop)

/-- R381, R384, R387: a packet applied as one step. -/
def State.applyBatch (s : State) (id : Nat) (b : Batch) : State := match s.load id with
  | none => s
  | some l =>
    let s := s.modLoad id fun l => { l with entries := l.applied b, loops := l.loops.map fun x => x.count l.cfg b }
    ((s.sendAck id l.tracker b.ack).deliverAll id).sweepLoops id

/-- R383: a packet that finds no entry is held, a record goes to the trap operator, and the graph starts no activation. -/
def State.holdBatch (s : State) (l : Load) (b : Batch) (cause : Nat) : State :=
  let s := s.modLoad l.id fun l => { l with held := l.held ++ [b], suspended := true }
  (s.sendRecord { code := .frontierFull, cause := cause, kind := 2, ctx := l.ctx, auxA := l.fls, time := s.podtime,
                  epoch := s.epochOf l.launch } false).post
    (.frontierResume (l.tracker / 64))

/-- BATCH_APPLY (R381, R383). -/
def execBatchApply (s : State) : Host.Outcome State Fault Refusal :=
  match s.cur.work with
  | some (.batchApply id) => match s.packet id with
    | none => .next s
    | some p =>
      let s := { s with packets := s.packets.filter fun q => decide (q.id ≠ id) }
      match p.payload with
      | .batch b => match s.load b.load with
        | none => .next s
        | some l => match s.packetFault l b with
          | some cause => .next (s.holdBatch l b cause)
          | none => .next (s.applyBatch l.id b)
      | _ => .next s
  | _ => .next s

/-- R383: the packets that a die's tracker holds, each with its load and its place among those of the load. -/
def State.heldOn (s : State) (die : Nat) : List (Load × Nat × Batch) :=
  (s.loads.filter fun l => decide (l.tracker / 64 = die)).flatMap fun l => l.held.zipIdx.map fun b => (l, b.2, b.1)

/-- FRONTIER_RESUME (R383): with 256 entries free the first held packet of the die that can be applied is applied; its graph resumes once
it has none held. -/
def execFrontierResume (s : State) : Host.Outcome State Fault Refusal :=
  match s.cur.work with
  | some (.frontierResume die) =>
    if (s.heldOn die).isEmpty then .next s
    else match (s.heldOn die).find? fun x => decide (s.entriesUsed die + 256 ≤ 8192) && (s.packetFault x.1 x.2.2).isNone with
      | none => .next (s.post (.frontierResume die))
      | some (l, i, b) =>
        let rest := l.held.eraseIdx i
        let s := s.modLoad l.id fun l => { l with held := rest, suspended := !rest.isEmpty }
        .next (s.applyBatch l.id b)
  | _ => .next s

/-- NOTIFICATION_ARRIVE (R385, R380): it joins the task's pending activations, or the dead letters of an Exited task. -/
def execNotificationArrive (s : State) : Host.Outcome State Fault Refusal :=
  match s.cur.work with
  | some (.notificationArrive id) => match s.packet id with
    | none => .next s
    | some p =>
      let s := { s with packets := s.packets.filter fun q => decide (q.id ≠ id) }
      match p.payload with
      | .note n =>
        if (s.task n.task).phase = .exited then .next (s.deadNote n)
        else
          let s := s.pend n.task { stamp := n.stamp, note := some n }
          .next (if n.task.slot ∈ (s.elem (elemOf n.task)).bound then s else s.post (.bindingFill n.task))
      | _ => .next s
  | _ => .next s

/-- R379: takes an acknowledgement. -/
def Activation.acked (a : Activation) (n : Nat) : Activation := { a with unacked := a.unacked.filter fun x => decide (x ≠ n) }

/-- R379: the last batches that wait for nothing more leave. -/
def State.sendEnded (s : State) (t : TaskRef) : State :=
  let k := s.task t
  let go := k.ended.filter fun a => a.unacked.isEmpty
  let s := s.modTask t fun k => { k with ended := k.ended.filter fun a => !a.unacked.isEmpty }
  match s.loadOf t with
  | none => s
  | some l => go.foldl (fun (s : State) a => a.held.foldl (fun (s : State) b =>
      s.inject 3 l.id (routerOf t.tile) l.tracker (.batch b) (a.after.filter fun i => s.reqs.any fun r => r.id == i && r.answer.isNone)) s) s

/-- BATCH_ACK (R379). -/
def execBatchAck (s : State) : Host.Outcome State Fault Refusal :=
  match s.cur.work with
  | some (.batchAck t n) =>
    .next ((s.modTask t fun k => { k with act := k.act.map fun a => a.acked n, ended := k.ended.map fun a => a.acked n }).sendEnded t)
  | _ => .next s

end Sys2Proof.Machine
end

