-- ==== Sys2Proof/Machine/Stages.lean ====
section
/-! DEFINITION. Stage queues of a bed (spec/13_memory_sync_ops.md R328 to R331). -/

namespace Sys2Proof.Machine

/-- R329: places of a queue that instructions of uncommitted blocks have reserved. -/
def State.reserved (s : State) (bed q : Nat) : Nat :=
  (s.reqs.filter fun (r : Req) => r.op == .stgput bed q && r.answer.isNone).length

/-- R329, R331: the queue is bound to another operator. -/
def Stage.foreign (x : Stage) (own : Nat × Nat) : Bool := match x.owner with
  | some o => o != own
  | none => false

/-- STGPUT (R329): its firing reserves a place; the value goes in at commit. -/
def execStgput (h : Head) (q : BitVec 4) (s : State) : Host.Outcome State Fault Refusal :=
  match s.operandsStore h true false false with
  | none => .next s
  | some o =>
    let bed := bedOf s.cur.task.tile
    let x := s.stage bed q.toNat
    if x.foreign (s.operator s.cur.task) then .next (s.fireFault { code := .perm })
    else if !x.closed && decide (16 ≤ x.vals.length + s.reserved bed q.toNat) then .next s
    else
      let (id, s) := s.sendReq (.stgput bed q.toNat) 0 0 none
      .next (s.atCommit (.stgput q.toNat o.a.v id))

/-- STGWAIT (R330): the task joins the queue's waiters. -/
def execStgwait (h : Head) (q : BitVec 4) (s : State) : Host.Outcome State Fault Refusal :=
  match s.operandsAfter h false false false with
  | none => .next s
  | some _ => match s.replayHere with
    | some r => .next (s.answerReplay h r false)
    | none =>
      let bed := bedOf s.cur.task.tile
      let (id, s) := s.sendReq (.stgwait bed q.toNat) 0 0 none
      .next ((s.modStage bed q.toNat fun x => { x with waiters := x.waiters ++ [id] }).post (.stageWaiterServe bed q.toNat))

/-- STGCLOSE (R331): closes at commit. -/
def execStgclose (h : Head) (q : BitVec 4) (s : State) : Host.Outcome State Fault Refusal :=
  match s.operandsStore h false false false with
  | none => .next s
  | some _ =>
    if (s.stage (bedOf s.cur.task.tile) q.toNat).foreign (s.operator s.cur.task) then .next (s.fireFault { code := .perm })
    else .next ((s.atCommit (.stgclose q.toNat)).fire1 h 0)

/-- R329: the fault of a commit whose STGPUT finds its queue bound to another operator in between; STGCLOSE alike (R331). -/
def State.stageFault (s : State) (t : TaskRef) (d : List (Nat × Defer)) : Option Record :=
  d.findSome? fun x => match x.2 with
    | .stgput q _ _ => if (s.stage (bedOf t.tile) q).foreign (s.operator t) then some { code := .perm, index := x.1 } else none
    | .stgclose q => if (s.stage (bedOf t.tile) q).foreign (s.operator t) then some { code := .perm, index := x.1 } else none
    | _ => none

/-- R329 at commit: the value takes its place, or CLOSED; the writes of the block stand before it (R137). -/
def State.commitPut (s : State) (t : TaskRef) (q : Nat) (v : Word) (id : Nat) (writes : List Nat) : State :=
  let bed := bedOf t.tile
  if (s.stage bed q).closed then s.reply id { r0 := 0, r1 := statusClosed }
  else
    ((s.modStage bed q fun x => { x with vals := x.vals ++ [(v, writes)], owner := some (x.owner.getD (s.operator t)) }).reply id
      { r0 := 0, r1 := statusOk }).post (.stageWaiterServe bed q)

/-- R331 at commit: the queue closes and is bound; the writes of the block stand before CLOSED (R136, R137). -/
def State.commitClose (s : State) (t : TaskRef) (q : Nat) (writes : List Nat) : State :=
  (s.modStage (bedOf t.tile) q fun x => { x with closed := true, closing := x.closing ++ writes, owner := some (x.owner.getD (s.operator t)) }).post
    (.stageWaiterServe (bedOf t.tile) q)

/-- R137: the writes a stage value waits for are performed. -/
def State.writesDone (s : State) (ids : List Nat) : Bool := !(s.reqs.any fun r => decide (r.id ∈ ids) && r.answer.isNone)

/-- STAGE_WAITER_SERVE (R330): the oldest value to the oldest waiter; CLOSED once a closed queue is empty. -/
def execStageWaiterServe (s : State) : Host.Outcome State Fault Refusal :=
  match s.cur.work with
  | some (.stageWaiterServe bed q) =>
    let x := s.stage bed q
    let alive := x.waiters.filter fun id => (s.req id).isSome
    match alive, x.vals with
    | id :: r, (v, w) :: vs =>
      if s.writesDone w then
        let s := (s.modStage bed q fun x => { x with waiters := r, vals := vs }).reply id { r0 := v, r1 := statusOk }
        .next (if r.isEmpty || vs.isEmpty && !x.closed then s else s.post (.stageWaiterServe bed q))
      else .next (s.post (.stageWaiterServe bed q))
    | id :: r, [] =>
      if x.closed && !s.writesDone x.closing then .next (s.post (.stageWaiterServe bed q))
      else if x.closed then
        let s := (s.modStage bed q fun x => { x with waiters := r }).reply id { r0 := 0, r1 := statusClosed }
        .next (if r.isEmpty then s else s.post (.stageWaiterServe bed q))
      else .next (s.modStage bed q fun x => { x with waiters := alive })
    | [], _ => .next (s.modStage bed q fun x => { x with waiters := [] })
  | _ => .next s

end Sys2Proof.Machine
end

