-- ==== Sys2Proof/Machine/Block.lean ====
section
/-! DEFINITION. Blocks: the fetch and its checks (spec/10_instruction_formats.md R221 to R225, R244, R245), what may still fire, the
commit and its faults (spec/09_execution_model.md R215 to R219), activations (R200 to R202, spec/18_scheduling.md R420), the results of
long-latency operations (R241), draws from a range (R270) and walks (spec/01_address_spaces.md R19, R31, R32). -/

namespace Sys2Proof.Machine

/-! Slots and checks of words. -/

/-- R226, R233 to R240: the slots a, b and c that a word's form uses. -/
def slotsUsed (w : Word) : List Nat :=
  let op := (bits 55 9 w).toNat
  let bx := Ty.toBits .bx128
  if op ∈ [0x00A, 0x00B, 0x014, 0x019, 0x01A, 0x01B, 0x01C, 0x021, 0x023, 0x025, 0x026, 0x061, 0x064, 0x067, 0x069, 0x06E, 0x070 + 3, 0x081,
      0x083, 0x0AC, 0x100, 0x102, 0x104, 0x105, 0x106, 0x107, 0x114, 0x119, 0x120, 0x121, 0x122, 0x123, 0x146, 0x149, 0x14A, 0x14B, 0x14C,
      0x153, 0x156, 0x157, 0x158, 0x180, 0x183, 0x185] then [0]
  else if op = 0x022 then []
  else if op = 0x01F ∨ op = 0x024 then (if bit 16 w then [0, 2] else [0, 1, 2])
  else if op < 0x027 ∨ (0x040 ≤ op ∧ op < 0x047) then (if op = 0 then [] else if bit 16 w then [0] else [0, 1])
  else if op ∈ [0x065, 0x06F, 0x070, 0x0A1, 0x0AB, 0x101, 0x108, 0x109, 0x115, 0x116, 0x11A, 0x11C, 0x11F, 0x145, 0x147, 0x148, 0x14D, 0x14E] then [0, 1]
  else if 0x10A ≤ op ∧ op < 0x113 then [0, 1]
  else if op ∈ [0x103, 0x113, 0x117, 0x118, 0x181] then [0, 1, 2]
  else if op = 0x097 then (if bits 6 4 w == bx || bits 0 4 w == bx then [0] else [])
  else if op = 0x098 then (if bit 0 w then [0] else [])
  else if 0x140 ≤ op ∧ op < 0x144 then [0] ++ (if bit 4 w then [1] else []) ++ (if bit 5 w then [2] else [])
  else []

/-- R223: the exit kind of a branch word. -/
def branchKind (w : Word) : Option Nat :=
  let op := (bits 55 9 w).toNat
  if op = 0x063 then some 0 else if op = 0x064 then some 1 else if op = 0x065 then some 2 else if op = 0x066 then some 3
  else if op = 0x067 then some 4 else if op = 0x074 then some 5 else if op = 0x068 then some 6 else none

/-- R236, R292: the identifier of the destination shape of a vector word. -/
def vecSid (w : Word) : Option Nat :=
  let op := (bits 55 9 w).toNat
  if 0x084 ≤ op ∧ op < 0x0AE ∧ ¬(0x0A2 ≤ op ∧ op < 0x0A7) then some (24 + (bits 16 3 w).toNat) else none

/-- R235: the identifier an ST or STP names. -/
def storeSid (w : Word) : Option Nat :=
  let op := (bits 55 9 w).toNat
  if op = 0x101 ∨ op = 0x103 then some (bits 4 5 w).toNat else none

/-- R260: the store identifier, or the register, that a NUL names. -/
def nulOf (store : Bool) (w : Word) : Option Nat :=
  if bits 55 9 w == 0x062 && bit 13 w == store then some (bits 14 5 w).toNat else none

/-- R301: the replayed instructions. -/
def isReplayed (w : Word) : Bool :=
  let op := (bits 55 9 w).toNat
  (decide (0x108 ≤ op) && decide (op < 0x119) && op != 0x116) || op == 0x11F || op == 0x120 || op == 0x121 || op == 0x124

/-- R129: a consumer that a token of its own block's store may not feed. SENDS stands on both sides of R129, as a send and as a read of ls; STCLR,
PREF, FLUSH and INVAL stand on neither: the model refuses them (log 49). DESIGN CHOICE. -/
def noOwnToken (sh : List Row) (w : Word) : Bool :=
  let op := (bits 55 9 w).toNat
  op == 0x06F || op == 0x100 || op == 0x102 || (decide (0x104 ≤ op) && decide (op < 0x119)) || op == 0x11C || vecReads sh w

/-- R129, R298: instructions whose value refers to a store of the block, or is a token that stems from one, after n steps of the flow:
a FAN passes on what it takes, OTOK, OJOIN and FENCE make a token of what reaches the slot they take it from. -/
def storeFlow (ws : List Word) : Nat → List (Nat × Bool) → List (Nat × Bool)
  | 0, l => l
  | n + 1, l => storeFlow ws n ((l ++ l.flatMap fun i => match ws[i.1]? with
      | some w => (targetsOf w).filterMap fun t => match ws[t.1]? with
        | some v =>
          let op := (bits 55 9 v).toNat
          if op = 0x069 ∧ t.2 = 0 then some (t.1, i.2)
          else if op = 0x119 ∧ t.2 = 0 ∨ op = 0x11A ∧ t.2 < 2 ∨ op = 0x11B ∧ t.2 = 3 then some (t.1, true)
          else none
        | none => none
      | none => []).eraseDups)

/-- R129, R225: a token of the block's own store reaches slot p of a read of the block. -/
def tokenFault (sh : List Row) (ws : List Word) : Bool :=
  let stores := (ws.zipIdx.filter fun w => (storeSid w.1).isSome || match vecSid w.1 with
    | some k => !shVt (sh.getD (k - 24) 0)
    | none => false).map (·.2)
  (storeFlow ws (2 * ws.length) (stores.map fun i => (i, false))).any fun i => i.2 && match ws[i.1]? with
    | some w => (targetsOf w).any fun t => t.2 == 3 && match ws[t.1]? with
      | some v => noOwnToken sh v
      | none => false
    | none => false

/-- Bits set in a mask word. -/
def popcount (w : BitVec k) : Nat := ((List.range k).filter fun i => w.getLsbD i).length

/-- R225, R260: the header checks. -/
def headerOk (waved : Bool) (sh : List Row) (h : Header) (ws : List Word) : Bool :=
  let kinds := ws.filterMap branchKind
  let sids := ws.filterMap storeSid
  let tests := ws.filterMap testPred
  let covers (s : Nat) : Bool :=
    (decide (s < 24) && decide (s ∈ sids)) || decide (s ∈ ws.filterMap (nulOf true)) || (decide (24 ≤ s) && decide (s ∈ ws.filterMap vecSid))
  h.reserved == 0
    && !kinds.isEmpty && (h.exit == 7 || kinds.all fun k => k == h.exit.toNat)
    && h.nst.toNat == popcount h.smask
    && ((List.range 32).all fun s => !h.smask.getLsbD s || covers s)
    && ((sids ++ ws.filterMap (nulOf true)).all fun s => h.smask.getLsbD s)
    && ((List.range 32).all fun n => !h.wmask.getLsbD n || decide (n ∈ ws.filterMap writeOf) || decide (n ∈ ws.filterMap (nulOf false)))
    && ((ws.filterMap writeOf ++ ws.filterMap (nulOf false)).all fun n => h.wmask.getLsbD n)
    && h.waved == waved
    && (if waved then h.pdelta != 0 && h.scount.toNat == (ws.filter wavedClass).length else h.pdelta == 0 && h.scount == 0)
    && (ws.all fun w => (targetsOf w).all fun t => match ws[t.1]? with
      | some v => t.2 == 3 || decide (t.2 ∈ slotsUsed v)
      | none => false)
    && (ws.all fun w => ((guardsOf w).1.toList ++ (guardsOf w).2.toList).all fun g => decide (g.pred.toNat ∈ tests))
    && !tokenFault sh ws

/-- R244, R369: the lowest index of a word that raises ILLEGAL_OP. -/
def illegalAt (ws : List Word) : Option Nat :=
  (ws.zipIdx.find? (fun (w : Word × Nat) => w.1 == 0 || (match decodeWord w.1 with | .error _ => true | .ok _ => false))).map (·.2)

/-- R245, R301: the fetch checks in order. -/
def fetchFault (waved : Bool) (sh : List Row) (h : Header) (ws : List Word) : Option Record :=
  match illegalAt ws with
  | some i => some { code := .illegalOp, index := i }
  | none =>
    if !headerOk waved sh h ws then some { code := .blockFormat }
    else if 16 < (ws.filter isReplayed).length then some { code := .blockFormat }
    else none

/-! Blocks in flight and the next one (R215, R218, R221, R364). -/

/-- R218: blocks in flight on an element; a parked block does not count (R301). -/
def State.inFlight (s : State) (e : ElemRef) : Nat :=
  (List.range 8).foldl (fun n k => n + (s.task ⟨e.tile, e.elem, k⟩).flights.length) 0

/-- R364: a block in flight holds a CSRWR that may still take effect at its commit. -/
def Firing.holdsCsrwr (f : Firing) : Bool := f.words.zipIdx.any fun w =>
  bits 55 9 w.1 == 0x183 && !(f.guardDead (guardsOf w.1).1 || f.guardDead (guardsOf w.1).2)

/-- R218: the next block of a task may be fetched. -/
def State.mayFetch (s : State) (t : TaskRef) : Bool :=
  let k := s.task t
  k.fetch.isSome && k.phase == .active && decide (k.flights.length < 2) && decide (s.inFlight (elemOf t) < 4)
    && k.flights.all fun f => f.fault.isNone && !f.holdsCsrwr

/-- R221: the block at an address of the task's code. -/
def Task.blockAt (k : Task) (addr : Nat) : Header × List Word :=
  let h := decodeHeader (k.code.getD (addr / 8 + 1) 0 ++ k.code.getD (addr / 8) 0)
  (h, (List.range (h.nm1.toNat + 1)).map fun i => k.code.getD (addr / 8 + 2 + i) 0)

/-! What may still fire (R215, R216, R217). -/

/-- R215: an unfired instruction has all its inputs and its guards hold. -/
def Firing.canFire (f : Firing) (idx : Nat) (w : Word) : Bool :=
  let g := guardsOf w
  !decide (idx ∈ f.fired) && f.guardOk g.1 && f.guardOk g.2 && (slotsUsed w).all (fun n => (f.slots.find (idx, n)).isSome)
    && (!f.pNamed idx || (f.slots.find (idx, 3)).isSome)

/-- R242, R217: a blocking READ of the oldest block whose register nothing will fill. -/
def Task.stuckRead (k : Task) (f : Firing) (idx : Nat) (w : Word) : Option Nat :=
  let n := (bits 14 5 w).toNat
  if bits 55 9 w == 0x060 && f.canFire idx w && !(bit 13 w || f.hdr.trapEmpty) then match k.regs[n]? with
    | some x => if x.full || x.due.isSome then none else some n
    | none => some n
  else none

/-- An input of an instruction has arrived or may still arrive from a set of instructions. -/
def Firing.mayArrive (f : Firing) (live : List Nat) (idx slot : Nat) : Bool :=
  (f.slots.find (idx, slot)).isSome || live.any fun j => match f.words[j]? with
    | some w => decide ((idx, slot) ∈ targetsOf w)
    | none => false

/-- A guard holds or may still hold. -/
def Firing.mayHold (f : Firing) (live : List Nat) : Option Guard → Bool
  | none => true
  | some g => match f.preds.find g.pred.toNat with
    | some v => v == g.sense
    | none => live.any fun j => match f.words[j]? with
      | some w => testPred w == some g.pred.toNat
      | none => false

/-- One turn of the set of instructions that may still fire or deliver. -/
def Firing.liveMore (f : Firing) (k : Task) (live : List Nat) : List Nat :=
  live ++ (f.words.zipIdx.filter fun w =>
    !decide (w.2 ∈ live) && !decide (w.2 ∈ f.fired) && (k.stuckRead f w.2 w.1).isNone
      && f.mayHold live (guardsOf w.1).1 && f.mayHold live (guardsOf w.1).2
      && (slotsUsed w.1).all (f.mayArrive live w.2) && (!f.pNamed w.2 || f.mayArrive live w.2 3)).map (·.2)

/-- The set after n turns. -/
def Firing.liveTimes (f : Firing) (k : Task) : Nat → List Nat → List Nat
  | 0, l => l
  | n + 1, l => Firing.liveTimes f k n (f.liveMore k l)

/-- Operations of a block that have not delivered their results. -/
def State.outstanding (s : State) (t : TaskRef) (serial : Nat) : List Req :=
  s.reqs.filter fun r => r.task == some t && r.serial == serial && match r.op with
    | .store _ | .tlbump _ _ => false
    | _ => true

/-- Unfired instructions of a block that may still fire. -/
def State.live (s : State) (t : TaskRef) (f : Firing) : List Nat :=
  (f.liveTimes (s.task t) (f.words.length + 1) (((s.outstanding t f.serial).map (·.idx)).eraseDups)).filter fun i => !decide (i ∈ f.fired)

/-- R241: the long-latency producers. -/
def Req.longLatency (r : Req) : Bool := match r.op with
  | .load _ _ | .pair | .lds _ | .atomic _ _ _ _ _ _ _ | .acasm _ _ _ _ | .aenq _ _ _ _ | .achase _ _ _ | .wenq _ _ _ | .legs _ _ _ | .tlwait _ _ _
  | .stgwait _ _ | .stgput _ _ | .rnext => true
  | _ => false

/-- R216, R241: operations that need not be performed before the commit. -/
def Req.afterCommit (r : Req) : Bool := match r.op with
  | .tlwait _ _ _ | .stgwait _ _ | .stgput _ _ | .rnext => true
  | _ => false

/-- R216: a WRITE fed by a long-latency producer that has fired and, if it reads, has been performed: its register, the operation and
which result. -/
def State.fedWrite (s : State) (t : TaskRef) (f : Firing) (idx : Nat) (w : Word) : Option (Nat × Nat × Bool) :=
  match writeOf w with
  | none => none
  | some n =>
    if decide (idx ∈ f.fired) || !(f.guardOk (guardsOf w).1 && f.guardOk (guardsOf w).2) || (f.slots.find (idx, 0)).isSome
      || (f.pNamed idx && (f.slots.find (idx, 3)).isNone) || (f.regs.find n).isSome then none
    else
      ((s.outstanding t f.serial).find? fun r => r.longLatency && (r.answer.isSome || r.afterCommit) && match f.words[r.idx]? with
        | some v => decide ((idx, 0) ∈ targetsOf v)
        | none => false).map fun r => (n, r.id, match f.words[r.idx]? with
          | some v => !(bit 42 v && bits 35 7 v == BitVec.ofNat 7 idx && bits 33 2 v == 0)
          | none => false)

/-- The fed WRITEs of a block, one for a register. -/
def State.fedWrites (s : State) (t : TaskRef) (f : Firing) : List (Nat × Nat × Nat × Bool) :=
  let l := f.words.zipIdx.filterMap fun w => (s.fedWrite t f w.2 w.1).map fun x => (w.2, x)
  l.filter fun x => (l.filter fun y => y.2.1 == x.2.1).length == 1

/-- R216, R217: the first declared product that is missing, as DETAIL names it; registers, then stores, then the branch. -/
def State.missing (s : State) (t : TaskRef) (f : Firing) : Option Nat :=
  let fed := (s.fedWrites t f).map (·.2.1)
  match (List.range 32).find? fun n => f.hdr.wmask.getLsbD n && (f.regs.find n).isNone && !decide (n ∈ fed) with
  | some n => some n
  | none =>
    match (List.range 32).find? fun n => f.hdr.smask.getLsbD n && !(f.stores.any fun r => r.sid == n) && !decide (n ∈ f.nulls)
        && !(s.task t).sidVt n with
    | some n => some n
    | none => if f.branch.isNone then some 0 else none

/-- R216: the oldest block of a task may commit: all products, nothing of it that may still fire but the fed WRITEs, its reads and
read-modify-writes performed, its draws served before a cut (R271). -/
def State.mayCommit (s : State) (t : TaskRef) : Bool := match (s.task t).flights with
  | [] => false
  | f :: _ =>
    f.fault.isNone && (s.missing t f).isNone
      && ((s.live t f).all fun i => decide (i ∈ (s.fedWrites t f).map (·.1)))
      && ((s.outstanding t f.serial).all fun r => match r.answer with
        | some a => a.fail.isNone
        | none => r.afterCommit && (r.op != .rnext || !f.defer.any fun d => match d.2 with | .rsplit _ => true | _ => false))
      && !(f.words.zipIdx.any fun w => ((s.task t).stuckRead f w.2 w.1).isSome)

/-- R217: the oldest block is quiescent and has not all it needs. -/
def State.quiescentFault (s : State) (t : TaskRef) : Option Record := match (s.task t).flights with
  | [] => none
  | f :: _ =>
    if f.fault.isSome || !(s.live t f).isEmpty || !(s.outstanding t f.serial).isEmpty then none
    else match f.words.zipIdx.findSome? fun w => ((s.task t).stuckRead f w.2 w.1).map fun n => (w.2, n) with
      | some x => some { code := .emptyRead, index := x.1, detail := x.2 }
      | none => (s.missing t f).map fun n => { code := .blockFormat, detail := n }

/-- BLOCK_QUIESCENT_FAULT (R217). -/
def execBlockQuiescentFault (s : State) : Host.Outcome State Fault Refusal :=
  match s.cur.work with
  | some (.blockQuiescentFault t) => match s.quiescentFault t with
    | some r => .next ((s.raise t 0 r).takeFault t)
    | none => .next s
  | _ => .next s

/-! The commit (R216). -/

/-- R208, R267: a loop instruction on a stamp. -/
def StampOp.apply (o : StampOp) (t : Stamp) : Option Stamp := match o with
  | .inn => (⟨0, 0, [0]⟩ : Summary).apply t
  | .next => if t.depth = 0 then none else (⟨0, 1, []⟩ : Summary).apply t
  | .out => (⟨1, 0, []⟩ : Summary).apply t

/-- The insertion of a deferred effect by its instruction index (R216, R276). -/
def insertDefer (x : Nat × Defer) : List (Nat × Defer) → List (Nat × Defer)
  | [] => [x]
  | y :: r => if x.1 < y.1 then x :: y :: r else y :: insertDefer x r

/-- What a block does at commit, in instruction-index order. -/
def Firing.deferred (f : Firing) : List (Nat × Defer) := f.defer.foldl (fun l x => insertDefer x l) []

/-- R267: the block's send stamp, or the index of the loop instruction that faults. -/
def sendStamp : List (Nat × Defer) → Stamp → Except Nat Stamp
  | [], t => .ok t
  | (i, .stamp o) :: r, t => match o.apply t with
    | some u => sendStamp r u
    | none => .error i
  | _ :: r, t => sendStamp r t

/-- A message that leaves at the commit: instruction, port, channel, stamp after the summary, payload. -/
structure Leaving where
  idx : Nat
  port : Nat
  chan : Nat
  cfg : ChanCfg
  stamp : Stamp
  payload : List Byte
  deriving DecidableEq, Repr

/-- R378: a send lies above an origin of the running activation. -/
def State.sendOk (s : State) (t : TaskRef) (port : Nat) (h : ChanCfg) (u : Stamp) : Bool := match s.loadOf t, s.taskCfg t, (s.task t).act with
  | some l, some c, some a => l.cfg.sendAbove c (a.origins l (elemOf t)) port h u
  | _, _, _ => true

/-- R378: a request lies above an origin of the running activation. -/
def State.askOk (s : State) (t : TaskRef) (p : Place) (u : Stamp) : Bool := match s.loadOf t, (s.task t).act with
  | some l, some a => l.cfg.askAbove (a.origins l (elemOf t)) p u
  | _, _ => true

/-- R208, R209, R268, R378: a message of a block, or its fault. -/
def State.leavingOf (s : State) (t : TaskRef) (stamp : Stamp) : Nat × Defer → Option (Except Record Leaving)
  | (i, .send port payload) => (s.portChan t port).map fun x => match x.2.summary.apply stamp with
    | none => .error { code := .addrRange, index := i }
    | some u =>
      if u.depth ≠ x.2.depth ∨ !s.sendOk t port x.2 u then .error { code := .blockFormat, index := i } else .ok ⟨i, port, x.1, x.2, u, payload⟩
  | _ => none

/-- R269: the depth of the stamps at a location of a task's load. -/
def State.depthAt (s : State) (t : TaskRef) (p : Place) : Nat := match s.loadOf t with
  | some l => ((l.cfg.chans.find? fun c => c.place == p).map (·.depth)).getD 0
  | none => 0

/-- R269, R378: a request of a block with its key, or its fault. -/
def State.askingOf (s : State) (t : TaskRef) (stamp : Stamp) : Nat × Defer → Option (Except Record (Nat × Key))
  | (i, .notify vc) =>
    let p := s.placeOf t vc
    some (if s.depthAt t p ≠ stamp.depth then .error { code := .blockFormat, index := i, detail := vc }
      else if !s.askOk t p stamp then .error { code := .blockFormat, index := i }
      else .ok (i, ⟨true, p, stamp⟩))
  | _ => none

/-- The faults among results. -/
def faultsOf (l : List (Except Record α)) : List Record := l.filterMap fun x => match x with
  | .error r => some r
  | .ok _ => none

/-- The results that are no faults. -/
def okOf (l : List (Except Record α)) : List α := l.filterMap fun x => match x with
  | .ok a => some a
  | .error _ => none

/-- The last block of an activation (R202, R219). -/
def Next.ends : Next → Bool | .block _ => false | _ => true

/-- R377: the decrements of an activation's last block. -/
def Activation.consumes (a : Activation) (l : Load) (e : ElemRef) : List (Key × Nat) :=
  (a.msgs.map fun m => (⟨false, l.placeAt e m.vc, m.stamp⟩, m.count)) ++ match a.note with
    | some n => [(⟨true, n.place, n.stamp⟩, n.count)]
    | none => []

/-- R377: the progress batch of a block. -/
def batchOf (load : Nat) (t : TaskRef) (msgs : List Leaving) (asks : List (Nat × Key)) (takes : List (Key × Nat)) : Batch :=
  let up := (msgs.map fun m => ((⟨false, m.cfg.place, m.stamp⟩ : Key), (1 : Int))) ++ asks.map fun q => (q.2, 1)
  let down := takes.map fun d => (d.1, -(d.2 : Int))
  { load := load, deltas := (up ++ down).foldl addDelta [], decs := takes, asks := asks.map fun q => (q.2, t) }

/-- R105, R108: the pushes of a block's stores, made before it commits; a push that finds no slot is the block's fault. -/
def State.pushStores (s : State) (ctx : Nat) : List (Nat × LineUse) → Option Record × State
  | [] => (none, s)
  | (i, u) :: r =>
    let s := if paPackage u.line = s.package then s.prepare u else s
    let e := s.attachEpoch ctx u.va u.mtype u.line
    match s.push u.line ctx e with
    | some s => State.pushStores s ctx r
    | none => (some { s.exhausted u.line ctx e u.va .write with index := i }, s)

/-- The lines of a block's stores with their instructions. -/
def Firing.storeLines (f : Firing) : List (Nat × LineUse) := f.stores.flatMap fun r => r.lines.map fun u => (r.idx, u)

/-- A commit that has passed its checks. -/
structure Passed where
  msgs : List Leaving
  asks : List (Nat × Key)
  batch : Batch
  deriving DecidableEq, Repr

/-- R65: a message of the activation that a block consumes cannot be read. -/
def Activation.unreadable (a : Activation) : Option Record := match a.msgs.find? fun m => m.bad with
  | some m => some { code := .uncorrectable, addr := m.vc * 256 }
  | none => none

/-- R377: what a block takes when it ends its activation. -/
def State.takesOf (s : State) (t : TaskRef) (f : Firing) : List (Key × Nat) := match f.branch, (s.task t).act, s.loadOf t with
  | some n, some a, some l => if n.ends then a.consumes l (elemOf t) else []
  | _, _, _ => []

/-- R65, R377: the checks of a commit that no one instruction makes: at most 64 keys, and the messages it consumes. -/
def State.batchFault (s : State) (t : TaskRef) (f : Firing) (b : Batch) : Option Record :=
  if 64 < b.deltas.length then some { code := .blockFormat }
  else if f.branch.any Next.ends then (s.task t).act.bind Activation.unreadable else none

/-- R35, R208, R209, R267 to R269, R329, R377, R378: the checks at commit: the fault of the lowest instruction index, those of the batch as a
whole last. -/
def State.commitChecks (s : State) (t : TaskRef) (f : Firing) : Except Record Passed :=
  let k := s.task t
  let d := f.deferred
  let stage := (s.stageFault t d).toList
  match sendStamp d k.stamp with
  | .error i => .error (stage.foldl (fun b r => if r.index < b.index then r else b) { code := .addrRange, index := i })
  | .ok stamp =>
    let ms := d.filterMap (s.leavingOf t stamp)
    let qs := d.filterMap (s.askingOf t stamp)
    match (stage ++ faultsOf ms ++ faultsOf qs).foldl lowerFault none with
    | some r => .error r
    | none =>
      let b := batchOf k.load t (okOf ms) (okOf qs) (s.takesOf t f)
      match s.batchFault t f b with
      | some r => .error r
      | none => .ok ⟨okOf ms, okOf qs, b⟩

/-- R216, R241: the register file after a commit. -/
def State.commitRegs (s : State) (t : TaskRef) (f : Firing) : State :=
  let fed := s.fedWrites t f
  let file : List Reg := (s.task t).regs.zipIdx.map fun x =>
    match f.regs.find x.2 with
    | some (.value v) => match v.tok with
      | none => { v := v.v, full := true }
      | some q => if s.released t q then { v := v.v, full := true } else { v := v.v, full := false, due := some (.token q) }
    | some .null => x.1
    | none => match fed.find? fun y => y.2.1 == x.2 with
      | some y => { full := false, due := some (.result y.2.2.1 y.2.2.2) }
      | none => x.1
  s.modTask t fun k => { k with regs := file }

/-- R277: the temporaries after a commit. -/
def State.commitVt (s : State) (t : TaskRef) (f : Firing) : State :=
  let k := s.task t
  let new (x : Row × Nat) : Row :=
    if (f.vt.any fun w => w.vt == x.2) then
      BitVec.ofNat 512 (natOfBytes ((List.range 64).map fun i => f.vtByte (k.vtOld x.2 i) none x.2 i s.tick 1))
    else x.1
  s.modTask t fun k => { k with vt := k.vt.zipIdx.map new }

/-- R10, R230: committed writes to a matched message's payload; those whose token is not yet released follow it. -/
def State.commitChan (s : State) (t : TaskRef) (f : Firing) : State :=
  let free (r : StoreRec) : Bool := r.wait.all (s.released t) && !s.behindWrite t f.serial (r.chan.map fun b => chKey + b.1 * 256 + b.2.1)
  s.putChan t ((f.stores.filter free).flatMap (·.chan))

/-- The requests of one committed store: one for each line, one for local bytes, and one for payload bytes whose token is not released. -/
def State.storeReqs (s : State) (t : TaskRef) (f : Firing) (r : StoreRec) : List Req :=
  let k := s.task t
  let base : Req :=
    { id := 0, op := .store [], task := some t, serial := f.serial, idx := r.idx, ctx := k.ctx, load := k.load, start := s.cycle, wait := r.wait,
      order := if k.waved then f.waveNumber r.idx else 0, act := k.acts }
  let loc := r.bytes.filter fun b => !isGl b.1
  let keys := r.chan.map fun b => chKey + b.1 * 256 + b.2.1
  (if loc.isEmpty then [] else [{ base with op := .store loc, loc := (loc.headD (0, 0)).1 }])
    ++ (if r.chan.isEmpty || r.wait.all (s.released t) && !s.behindWrite t f.serial keys then [] else [{ base with op := .chwrite r.chan, loc := lsKey, order := 0 }])
    ++ r.lines.filterMap fun u =>
      let mine := r.bytes.filter fun b => isGl b.1 && lineOf b.1 == u.line
      if mine.isEmpty then none
      else some { base with op := .store mine, loc := (mine.headD (0, 0)).1, va := u.va, use := some { u with epoch := s.attachEpoch k.ctx u.va u.mtype u.line } }

/-- Requests enter the list of those pending, numbered in their order. -/
def State.addReqs (s : State) : List Req → List Nat × State
  | [] => ([], s)
  | r :: l =>
    let (id, s) := s.newId
    let (ids, s) := State.addReqs { s with reqs := s.reqs ++ [{ r with id := id }] } l
    (id :: ids, s)

/-- A committed store: local bytes that nothing holds up are written at once (R49); all else goes to its home (R125, R456). -/
def State.startStore (s : State) (id : Nat) : State := match s.req id with
  | none => s
  | some r => match r.use, r.op with
    | none, .store b => if s.mayPerform r then s.performStore r b else s.post (.l2Access id)
    | none, _ => s.post (.l2Access id)
    | some u, _ =>
      let s := match r.task with
        | some t => s.markDirty (dieOf t.tile) r.ctx u
        | none => s
      s.route id

/-- The stores of a block by instruction index. -/
def Firing.storesInOrder (f : Firing) : List StoreRec := (List.range f.words.length).flatMap fun i => f.stores.filter fun r => r.idx == i

/-- R125, R131: the stores of a block are issued together. -/
def State.commitStores (s : State) (t : TaskRef) (f : Firing) : State :=
  let x := s.addReqs (f.storesInOrder.flatMap (s.storeReqs t f))
  x.1.foldl State.startStore x.2

/-- Writes of a block that are still to be performed. -/
def State.writesOf (s : State) (t : TaskRef) (serial : Nat) : List Nat :=
  (s.reqs.filter fun r => r.task == some t && r.serial == serial && r.answer.isNone && match r.op with | .store _ => true | _ => false).map (·.id)

/-- R129: what the token in slot p of an instruction of a committed block still waits for. -/
def State.tokensAt (s : State) (t : TaskRef) (f : Firing) (idx : Nat) : List Nat := match (f.slots.find (idx, 3)).bind (·.tok) with
  | some k => s.tokenReqs t k
  | none => []

/-- R204, R268, R442: a message leaves, to its channel or to its reduction group. -/
def State.sendMessage (s : State) (t : TaskRef) (l : Load) (m : Leaving) (ftz : Bool) (after : List Nat) : State :=
  let p := m.cfg.place
  let dest := routerOf (l.tileAt p)
  let s := s.modElem (elemOf t) fun e => { e with sent := e.sent + 1 }
  match m.cfg.group with
  | none => s.sendPacket
      { id := 0, net := 2, load := l.id, at_ := routerOf t.tile, dest := dest, by_ := some t, slot := m.cfg.circuit, after := after
        payload := .message { ctx := l.ctx, stamp := m.stamp, payload := m.payload, load := l.id, elem := p.elem, vc := p.vc } }
  | some (gi, i) => match l.cfg.groups[gi]? with
    | none => s
    | some g =>
      let elems := (List.range (m.payload.length / 4)).map fun j => BitVec.ofNat 32 (natOfBytes ((m.payload.drop (4 * j)).take 4))
      match g.start i with
      | some (node, child, _) => s.inject 4 l.id (routerOf t.tile) dest (.contribution gi node child m.stamp elems (2 ^ i) ftz) after
      | none => s.forwardReduced l gi g none m.stamp elems (2 ^ i) ftz

/-- One deferred effect (R216, R276, R324 to R331, R334, R342, R343, R364, R366). -/
def State.doDefer (s : State) (t : TaskRef) (f : Firing) (d : Nat × Defer) : State :=
  let k := s.task t
  let sh (n : Nat) (g : Row → Row) : State := s.modTask t fun k => { k with sh := listMod k.sh n g }
  match d.2 with
  | .shdef n num => sh n fun _ => (s.shapeTable t).getD num 0
  | .shset n fld v => sh n fun r => shSetField r fld v
  | .shadv n dim v => sh n fun r => shAdvance r dim v
  | .stamp _ | .send _ _ | .notify _ => s
  | .rsplit hi => s.cutRange t hi
  | .stgput q v req => s.commitPut t q v req (s.writesOf t f.serial ++ s.tokensAt t f d.1)
  | .stgclose q => s.commitClose t q (s.writesOf t f.serial ++ s.tokensAt t f d.1)
  | .tlbump tl =>
    let (n, s) := s.takeNumber k.ctx tl
    let (id, s) := s.newId
    let r : Req := { id := id, op := .tlbump tl n, task := some t, serial := f.serial, idx := d.1, ctx := k.ctx, load := k.load, start := s.cycle
                     wait := (f.slots.find (d.1, 3)).bind (·.tok) }
    ({ s with reqs := s.reqs ++ [r] } : State).post (.tlbumpComplete k.ctx tl n)
  | .csrwr n v => s.modCtx k.ctx fun c => c.writeCsr n v
  | .eret h a v => s.eret k.ctx h a v
  | .engine unit c => s.issueCommand t.tile unit c
  | .cpysus cx => s.copySuspend t.tile cx
  | .cpyres unit cx tile discard => s.engineResume unit cx tile discard
  | .snapOpen h => s.modCtx k.ctx fun c => c.openHeld h

/-- A message of a tag, taken off a queue: the oldest but for a number of older ones (R202). -/
def takeNth (st : Stamp) : Nat → List Msg → List Msg
  | _, [] => []
  | n, m :: r => if m.stamp ≠ st then m :: takeNth st n r else match n with
    | 0 => r
    | n + 1 => m :: takeNth st n r

/-- R206, R213: messages of a tag on a channel that activations abandoned by a drain hold; they began before the running one. -/
def Task.droppedOn (k : Task) (vc : Nat) (st : Stamp) : Nat :=
  (k.dropped.filter fun a => a.stamp == st && a.msgs.any fun m => m.vc == vc).length

/-- R202, R448: the activation's messages leave their receive queues, which fill again once all have left. -/
def State.consume (s : State) (t : TaskRef) (a : Activation) : State :=
  let e := elemOf t
  let old := (s.task t).droppedOn
  let s := a.msgs.foldl (fun (s : State) m => s.modVc e m.vc fun v => { v with queue := takeNth m.stamp (old m.vc m.stamp) v.queue }) s
  let s := s.modTask t fun k => { k with act := none }
  (a.msgs.foldl (fun (s : State) m => s.refill e t m.vc 80) s).retry e

/-- R379: the batch leaves, or waits for the earlier ones of its activation; a batch without a delta is not sent (R377). -/
def State.sendBatch (s : State) (t : TaskRef) (l : Load) (b : Batch) (last : Bool) (after : List Nat) : State :=
  if b.deltas.isEmpty && b.decs.isEmpty then s
  else
    let (id, s) := s.newId
    let b := { b with ack := some (.task t id) }
    if last then
      (s.modTask t fun k => { k with ended := k.ended ++ (k.act.map fun a => { a with held := [b], after := after }).toList }).sendEnded t
    else
      (s.modTask t fun k => { k with act := k.act.map fun a => { a with unacked := a.unacked ++ [id] } }).inject 3 l.id (routerOf t.tile) l.tracker (.batch b) after

/-- R219: the end of an activation: its messages are consumed, and the task is Idle, Ready or Exited. A Ready one is passed over from now
on (R420). -/
def State.endActivation (s : State) (t : TaskRef) (exit : Bool) : State :=
  let s := match (s.task t).act with
    | some a => s.consume t a
    | none => s
  let s := ((s.openRange t).dropWaits t).modTask t fun k =>
    { k with
      act := none, fetch := none, flights := [], pending := k.pending.map fun a => { a with since := s.cycle }
      phase := if exit then Phase.exited else if k.pending.isEmpty then Phase.idle else Phase.ready }
  if exit then (s.closeStages t).deadAll t false else s

/-- R430: the launch keeps a digest. -/
def State.digests (s : State) (launch : Nat) : Bool := match s.launch launch with
  | some l => l.level == 2
  | none => false

/-- R430: the bytes of a block's stores in wave order, that is by instruction index (R224), those to payloads under the payload's keys. -/
def Firing.waveStores (f : Firing) : List (List (Nat × Byte)) :=
  f.storesInOrder.map fun r => r.bytes ++ r.chan.map fun b => (chKey + b.1 * 256 + b.2.1, b.2.2)

/-- R216: everything a commit does, at one point. -/
def State.commit (s : State) (t : TaskRef) (f : Firing) (p : Passed) : State :=
  let k := s.task t
  let s := ((s.commitRegs t f).commitVt t f).commitChan t f
  let s := (s.commitStores t f).commitCanopy t f
  let s := s.modTask t fun k => { k with
    flights := k.flights.drop 1, replay := []
    stored := if s.digests k.launch then k.stored ++ f.waveStores.map (fun b => (k.stamp.issue, k.acts, b)) else k.stored }
  let s := f.deferred.foldl (fun (s : State) d => s.doDefer t f d) s
  let after := s.writesOf t f.serial
  let s := (s.modElem (elemOf t) fun e => { e with blocks := e.blocks + 1 }).copyModes (elemOf t) k.ctx
  let last := match f.branch with
    | some n => n.ends
    | none => false
  let s := match s.load k.load with
    | some l =>
      let asks := p.asks.flatMap fun (q : Nat × Key) => s.tokensAt t f q.1
      (p.msgs.foldl (fun (s : State) (m : Leaving) => s.sendMessage t l m (f.fpmode.getLsbD 0) (after ++ s.tokensAt t f m.idx)) s).sendBatch t l p.batch last (after ++ asks)
    | none => s
  let s := match f.branch with
    | some .yield => s.endActivation t false
    | some .exit => s.endActivation t true
    | _ => s
  s.takeFault t

/-- BLOCK_COMMIT (R216). -/
def execBlockCommit (s : State) : Host.Outcome State Fault Refusal :=
  match s.cur.work with
  | some (.blockCommit t) =>
    if !s.mayCommit t then .next s
    else match (s.task t).flights with
      | [] => .next s
      | f :: _ => match s.commitChecks t f with
        | .error r => .next ((s.raise t 0 r).takeFault t)
        | .ok p => match s.pushStores (s.task t).ctx f.storeLines with
          | (some r, s) => .next ((s.raise t 0 r).takeFault t)
          | (none, s) => .next (s.commit t f p)
  | _ => .next s

/-! Activations (R200, R201, R420). -/

/-- R200: the pending activation that starts first: lowest issue key, the earlier among equals. -/
def firstPending (l : List Activation) : Option Activation :=
  l.foldl (fun (b : Option Activation) a => match b with
    | some x => if a.stamp.issue < x.stamp.issue then some a else b
    | none => some a) none

/-- R383, R404, R418, R424: the load's elements start activations. -/
def State.mayStartTask (s : State) (t : TaskRef) : Bool :=
  (s.task t).phase == .ready && match s.loadOf t with
    | some l => !l.suspended && l.reloads.isEmpty && (l.phase == .placed || l.phase == .draining)
    | none => false

/-- R420: the order among two Ready tasks: promoted first, then the lowest issue key, then round robin after the slot started last. -/
def State.startsBefore (s : State) (last : Nat) (x y : TaskRef) : Bool :=
  let key (t : TaskRef) : Nat := match firstPending (s.task t).pending with
    | some a => a.stamp.issue
    | none => 2 ^ 80
  match (s.task x).promoted, (s.task y).promoted with
  | some a, some b => decide (a < b)
  | some _, none => true
  | none, some _ => false
  | none, none => decide (key x < key y) || (key x == key y && decide ((x.slot + 8 - last - 1) % 8 < (y.slot + 8 - last - 1) % 8))

/-- R420: the Ready task an element starts next. -/
def State.nextReady (s : State) (e : ElemRef) : Option TaskRef :=
  let last := (s.elem e).last
  (((List.range 8).map fun n => (⟨e.tile, e.elem, n⟩ : TaskRef)).filter s.mayStartTask).foldl (fun (b : Option TaskRef) t => match b with
    | some x => if s.startsBefore last t x then some t else b
    | none => some t) none

/-- R420: the element may start an activation. -/
def State.mayStartOn (s : State) (e : ElemRef) : Bool := decide (s.inFlight e < 4) && (s.nextReady e).isSome

/-- R201, R224: an activation starts: every register is empty, the entry block is fetched. -/
def Task.begin_ (k : Task) (a : Activation) : Task :=
  { k with
    phase := .active, act := some a, pending := k.pending.erase a, regs := List.replicate 32 {}, fetch := some 0, seq := 0, promoted := none, acts := k.acts + 1
    replay := [], refire := none }

/-- ACTIVATION_START (R420). -/
def execActivationStart (s : State) : Host.Outcome State Fault Refusal :=
  match s.cur.work with
  | some (.activationStart e) =>
    if !s.mayStartOn e then .next s
    else match s.nextReady e with
      | none => .next s
      | some t => match firstPending (s.task t).pending with
        | none => .next s
        | some a =>
          .next ((s.modTask t fun k => k.begin_ a).modElem e fun x => { x with last := t.slot, bound := (x.bound.erase t.slot) ++ [t.slot] })
  | _ => .next s

/-- R420: a Ready task passed over for 4,096 cycles is promoted. -/
def State.mayPromote (s : State) (t : TaskRef) : Bool :=
  (s.task t).phase == .ready && (s.task t).promoted.isNone && (s.task t).pending.any fun a => decide (a.since + 4096 ≤ s.cycle)

/-- TASK_PROMOTE (R420). -/
def execTaskPromote (s : State) : Host.Outcome State Fault Refusal :=
  match s.cur.work with
  | some (.taskPromote t) => if s.mayPromote t then .next (s.modTask t fun k => { k with promoted := some s.tick }) else .next s
  | _ => .next s

/-! Results (R241, R300, R301). -/

/-- R301: operations whose completion makes a replay entry. -/
def Req.replayed (r : Req) : Bool := match r.op with
  | .atomic _ _ _ _ _ _ _ | .acasm _ _ _ _ | .aenq _ _ _ _ | .sts _ | .stclr _ | .wenq _ _ _ | .legs _ _ _ | .stgwait _ _ => true
  | _ => false

/-- The operation's result reaches its block, still in flight. -/
def State.deliverTo (s : State) (t : TaskRef) (which : Nat) (f : Firing) (r : Req) (a : Answer) : State :=
  match a.fail with
  | some x => ((s.raise t which { x with index := r.idx }).dropReq r.id).takeFault t
  | none =>
    let ref : Option Ref := if r.event then some ⟨f.serial, r.idx, false⟩ else none
    let s := match f.words[r.idx]? with
      | some w => match decodeHead w with
        | .ok h => s.modFlight t which fun f =>
            (match r.op with | .acasm _ vk _ _ => f.acasmBack r.idx vk a.olds | _ => f).deliver h ⟨a.r0, ref, none⟩ ⟨a.r1, ref, none⟩
        | .error _ => s
      | none => s
    let s := if r.replayed then s.keepReplay t { idx := r.idx, r0 := a.r0, r1 := a.r1, olds := a.olds } else s
    ((s.dropReq r.id).fixFault t which).takeFault t

/-- R241: the result fills the registers that wait for it; one written again meanwhile keeps its own value. -/
def Reg.fill (x : Reg) (id : Nat) (a : Answer) : Reg := match x.due with
  | some (.result q second) => if q = id then { v := if second then a.r1 else a.r0, full := true } else x
  | _ => x

/-- A line of a vector or of an engine's command under way: its answer is taken from the request by the instruction or the command (R282,
R333); of an engine's write only a failure is. -/
def State.keeps (s : State) (r : Req) (inFlight : Bool) : Bool := match r.eng with
  | some e => s.asks (.engine e.1 e.2.1 e.2.2) && (!r.isStore || r.answer.any fun a => a.fail.isSome)
  | none => inFlight && match r.op with
    | .vload _ => true
    | _ => false

/-- R432: a result sets out to the tile that asked, from its home or from the root die that its link's reply has come to. -/
def State.sendReply (s : State) (r : Req) (tile : Nat) : State :=
  s.sendPacket { id := 0, net := 1, load := r.load, at_ := if r.link.isSome then rootB else s.homeRouter r.loc r.atAgent, dest := routerOf tile
                 payload := .reply r.id }

/-- R241, R364: the result of an operation whose block has committed fills the registers that wait for it. -/
def State.fillRegs (s : State) (t : TaskRef) (r : Req) (a : Answer) : State :=
  ((s.modTask t fun k => { k with regs := k.regs.map fun x => x.fill r.id a }).copyModes (elemOf t) r.ctx).dropReq r.id

/-- R241: an operation's answer has come to the one that asked. -/
def State.takeResult (s : State) (r : Req) (a : Answer) : State := match r.task with
  | none => if s.keeps r false then s else s.dropReq r.id
  | some t =>
    if r.isStore then s.dropReq r.id
    else
      let fl := (s.task t).flights
      let which := fl.findIdx fun f => f.serial == r.serial
      match fl[which]? with
      | some f => if s.keeps r true then s else s.deliverTo t which f r a
      | none => s.fillRegs t r a

/-- LONG_LATENCY_RESULT (R241, R432, R453). -/
def execLongLatencyResult (s : State) : Host.Outcome State Fault Refusal :=
  match s.cur.work with
  | some (.longLatencyResult id) => match s.req id with
    | none => .next s
    | some r => match r.answer, r.tileOf with
      | some a, some tile => .next (if s.replyBefore r then s.post (.longLatencyResult id) else if r.returned then s.takeResult r a else s.sendReply r tile)
      | some a, none => .next (s.takeResult r a)
      | none, _ => .next s
  | _ => .next s

/-- R270: the element whose sub-interval is largest; the lowest element number among equals. -/
def largestRange (l : List (Nat × Nat × Nat × Nat × Bool)) (op : Nat) : Option (Nat × Nat × Nat × Nat × Bool) :=
  (l.filter fun x => x.1 == op).foldl (fun (b : Option (Nat × Nat × Nat × Nat × Bool)) x => match b with
    | some y =>
      let sx := x.2.2.2.1 - x.2.2.1
      let sy := y.2.2.2.1 - y.2.2.1
      if sy < sx ∨ sx = sy ∧ x.2.1 < y.2.1 then some x else b
    | none => some x) none

/-- R270: a draw: the value and the intervals after it. -/
def drawRange (l : List (Nat × Nat × Nat × Nat × Bool)) (op e : Nat) : Word × List (Nat × Nat × Nat × Nat × Bool) :=
  let empty : Word := 0xFFFFFFFFFFFFFFFF
  match l.find? fun x => x.1 == op && x.2.1 == e with
  | none => (empty, l)
  | some (_, _, lo, hi, closed) =>
    if lo < hi then (BitVec.ofNat 64 lo, setRange l op e (lo + 1) hi closed)
    else if closed then (empty, l)
    else match largestRange l op with
      | none => (empty, l)
      | some (_, g, lf, hf, cf) =>
        if hf - lf < 2 then (empty, l)
        else
          let m := lf + (hf - lf) / 2
          (BitVec.ofNat 64 m, setRange (setRange l op g lf m cf) op e (m + 1) hf closed)

/-- RNEXT_SERVE (R270): held until the task's previous block has committed. -/
def execRnextServe (s : State) : Host.Outcome State Fault Refusal :=
  match s.cur.work with
  | some (.rnextServe id) => match s.req id with
    | none => .next s
    | some r => match r.task with
      | none => .next s
      | some t =>
        if r.answer.isSome then .next s
        else if (s.task t).flights.any (fun f => decide (f.serial < r.serial)) then .next (s.post (.rnextServe id))
        else match s.loadOf t, s.taskCfg t with
          | some l, some c =>
            let x := drawRange l.ranges c.op t.elem
            .next ((s.modLoad l.id fun l => { l with ranges := x.2 }).reply id { r0 := x.1, r1 := x.1 })
          | _, _ => .next s
  | _ => .next s

/-! Walks (R19, R31, R32). -/

/-- R32: the oldest queued entry of a die. -/
def State.oldestMiss (s : State) (die : Nat) : Option Miss := s.misses.find? fun m => m.die == die && !m.walking

/-- PAGE_WALK (R20, R32): one of the die's 64 walkers takes the oldest queued entry. -/
def execPageWalk (s : State) : Host.Outcome State Fault Refusal :=
  match s.cur.work with
  | some (.pageWalk die) =>
    if 64 ≤ (s.misses.filter fun m => m.die == die && m.walking).length then .next (s.post (.pageWalk die))
    else match s.oldestMiss die with
      | none => .next s
      | some m =>
        .next (({ s with misses := s.misses.map fun (x : Miss) => if x.id = m.id then { x with walking := true } else x } : State).post (.walkComplete die m.id))
  | _ => .next s

/-- R35: an instruction that waits for a translation faults; it counts as fired. -/
def State.faultAt (s : State) (t : TaskRef) (which idx : Nat) (r : Record) : State :=
  let s := s.modFlight t which fun f => { f with fired := idx :: f.fired }
  ((s.modElem (elemOf t) fun e => { e with instrs := e.instrs + 1 }).raise t which { r with index := idx }).takeFault t

/-- R306: the instruction is a PREF, which takes its fault as an engine does. -/
def Firing.isPref (f : Firing) (idx : Nat) : Bool := match f.words[idx]? with
  | some w => bits 55 9 w == 0x104
  | none => false

/-- A walk's fault reaches one waiter (R32, R35, R36): a block's instruction faults; an engine, an agent or a PREF finds it when it tries again. -/
def State.faultWaiter (s : State) (x : XFault) (w : Waiter) : State :=
  let left : State := { s with xfaults := s.xfaults ++ [(w.who, w.va / 2 ^ 16, x)] }
  match w.who with
  | .instr t n i =>
    let fl := (s.task t).flights
    let which := fl.findIdx fun f => f.serial == n
    match fl[which]? with
    | none => s
    | some f => if f.isPref i then left else s.faultAt t which i (x.record w.use w.va)
  | _ => left

/-- WALK_COMPLETE (R19, R20, R30, R32): the translation enters the die's cache and every waiter within the page tries again, or each of the
entry's waiters gets the fault. -/
def execWalkComplete (s : State) : Host.Outcome State Fault Refusal :=
  match s.cur.work with
  | some (.walkComplete die id) => match s.misses.find? fun m => m.id == id with
    | none => .next s
    | some m =>
      let va := m.page * 2 ^ 16
      match s.walk die m.ctx va m.use with
      | (.ok (l, ptrs), s) =>
        let inside (x : Miss) : Bool := x.id == id || (x.die == die && x.ctx == m.ctx && x.page * 2 ^ 16 / l.size == va / l.size)
        let s := s.fillTc die m.ctx va l ptrs
        .next { s with misses := s.misses.filter fun x => !inside x }
      | (.error x, s) =>
        let s := { s with misses := s.misses.filter fun y => decide (y.id ≠ id) }
        .next (m.waiters.foldl (fun (s : State) w => s.faultWaiter x w) s)
  | _ => .next s

end Sys2Proof.Machine
end

