-- ==== Sys2Proof/Machine/Launch.lean ====
section
/-! DEFINITION. Launches: context descriptors (spec/20_multichip.md R457, R462), launch queues and packets, completion entries
(spec/18_scheduling.md R412 to R415, R428 to R430), and the delivery of fault records (spec/21_faults_and_system.md R468, R469). -/

namespace Sys2Proof.Machine

/-! Context descriptors (R40, R107, R412, R457, R462). -/

/-- R462: the pod physical address of a context's descriptor. -/
def State.descBase (s : State) (c : Nat) : Nat := s.package * 2 ^ 43 + field s.mgmt.ctxbase.toNat 42 16 * 2 ^ 16 + 1024 * c

/-- R462: the 8,192 bits of a context's descriptor, as their home serves them (R113). -/
def State.descriptor (s : State) (c : Nat) : Nat := s.seen (s.descBase c) 1024

/-- The 2 KiB lines that n bytes at a physical address lie in. -/
def lineSpan (key n : Nat) : List Nat := (List.range ((key + n - 1) / 2048 + 1 - key / 2048)).map fun i => (key / 2048 + i) * 2048

/-- R113, R460: the descriptor's line as the device meets it. -/
def State.meetDesc (s : State) (c : Nat) : State := s.deviceMeet (lineSpan (s.descBase c) 1024)

/-- R412: launch queue descriptor q. -/
def descLq (d q : Nat) : Nat := field d (2048 + 256 * q + 255) (2048 + 256 * q)

/-- R457: pull queue descriptor k. -/
def descPq (d k : Nat) : Nat := field d (6144 + 256 * k + 255) (6144 + 256 * k)

/-- R40: the reserved fields of the translation words are zero. -/
def transWordsOk (ptw ttw : Nat) : Bool := field ptw 62 52 == 0 && field ptw 23 0 == 0 && field ttw 11 0 == 0

/-- R107: the shadow-pool word. -/
def snapWordOk (w : Nat) : Bool :=
  field w 49 43 == 0 && field w 20 0 == 0 && (field w 63 63 == 0 || decide (0 < field w 62 50))
    && decide (field w 42 21 * 2 ^ 21 + 12 * field w 62 50 * 1024 * 2048 ≤ 0x018000000000)

/-- R412, R457, R462: the reserved fields of a descriptor are zero. -/
def descReservedOk (d : Nat) : Bool :=
  field d 2047 448 == 0 && field d 368 320 == 0 && field d 283 256 == 0 && field d 219 192 == 0
    && ((List.range 16).all fun q => field (descLq d q) 246 244 == 0 && field (descLq d q) 169 64 == 0 && field (descLq d q) 31 0 == 0)
    && ((List.range 8).all fun k => field (descPq d k) 245 243 == 0 && field (descPq d k) 156 128 == 0 && field (descPq d k) 63 0 == 0)

/-- R40, R107, R462, R463: a valid descriptor. -/
def descOk (d : Nat) : Bool := transWordsOk (field d 63 0) (field d 127 64) && snapWordOk (field d 191 128) && descReservedOk d

/-- R412: a launch queue as its descriptor stands, its counters kept. -/
def LaunchQ.read (x : LaunchQ) (base d : Nat) : LaunchQ :=
  { x with
    valid := field d 255 255 == 1, prio := field d 254 252, log2n := field d 251 247
    lqbase := base + field d 243 207 * 64, cqbase := base + field d 206 170 * 64 }

/-- R457: a pull queue as its descriptor stands, its count kept. -/
def PullQ.read (x : PullQ) (base d : Nat) : PullQ :=
  { x with
    valid := field d 255 255 == 1, lq := field d 254 251, log2n := field d 250 246, src := field d 242 197 * 64
    taddr := base + field d 196 157 * 8 }

/-- R462: a context as its descriptor stands. -/
def Ctx.readDesc (c : Ctx) (base d : Nat) : Ctx :=
  { c with
    ptw := BitVec.ofNat 64 (field d 63 0), ttw := BitVec.ofNat 64 (field d 127 64), snapw := BitVec.ofNat 64 (field d 191 128)
    dlbase := field d 255 225 * 4096, dllog2n := field d 224 220, ovbase := base + field d 319 298 * 2 ^ 21, ovn := field d 297 284
    ten := field d 383 383 == 1, ttile := field d 382 373, telem := field d 372 369
    lqs := c.lqs.zipIdx.map fun x => x.1.read base (descLq d x.2)
    pqs := c.pqs.zipIdx.map fun x => x.1.read base (descPq d x.2) }

/-- The context takes what its descriptor holds. -/
def State.readDesc (s : State) (c : Nat) : State :=
  let base := s.package * 2 ^ 43
  let d := s.descriptor c
  s.modCtx c fun x => x.readDesc base d

/-- A launch queue of a context. -/
def State.lq (s : State) (c q : Nat) : LaunchQ := (s.ctx c).lqs.getD q {}

/-- Changes a launch queue. -/
def State.modLq (s : State) (c q : Nat) (f : LaunchQ → LaunchQ) : State := s.modCtx c fun x => { x with lqs := listMod x.lqs q f }

/-- R412: HEAD advances, in the queue and in its descriptor. -/
def State.advanceHead (s : State) (c q : Nat) : State :=
  let s := s.modLq c q fun x => { x with head := (x.head + 1) % 2 ^ 32 }
  s.deviceWrite (placeBytes (s.descBase c + 256 + 32 * q + 4) (bytesOfNat 4 (s.lq c q).head))

/-- R462: RUN: launches placed and not completed. -/
def State.running (s : State) (c : Nat) : Nat := (s.launches.filter fun l => l.ctx == c && !(s.loads.any fun x => x.launch == l.id && x.first)).length

/-- R121, R462: PEND: shadows not yet settled. -/
def State.pending (s : State) (c : Nat) : Nat := (s.shadows.filter fun h => h.ctx == c).length

/-- R462: the device writes RUN and PEND into the descriptor. -/
def State.writeStatus (s : State) (c : Nat) : State :=
  s.deviceWrite (placeBytes (s.descBase c + 52) (bytesOfNat 4 (min (s.running c) 255 + min (s.pending c) 0xFFFFFF * 2 ^ 8)))

/-! Completion (R415). -/

/-- R415: a completion entry. -/
def completionBytes (tag : Word) (status code fload time : Nat) (phase : Bool) (digest : BitVec 256) : List Byte :=
  bytesOfNat 32 digest.toNat ++ bytesOfNat 8 phase.toNat ++ bytesOfNat 8 time ++ bytesOfNat 8 (fload * 2 ^ 36 + code * 2 ^ 48 + status * 2 ^ 56)
    ++ bytesOfNat 8 tag.toNat

/-- R415: writes the next completion entry of a queue. -/
def State.completion (s : State) (c q : Nat) (tag : Word) (status code fload : Nat) (digest : BitVec 256) : State :=
  let x := s.lq c q
  let n := 2 ^ x.log2n
  let b := completionBytes tag status code fload s.podtime (x.done / n % 2 == 0) digest
  (s.deviceWrite (placeBytes (x.cqbase + 64 * (x.done % n)) b)).modLq c q fun x => { x with done := x.done + 1 }

/-- R122, R430: the result digest of a launch. -/
def Launch.result (l : Launch) : BitVec 256 := if l.level = 2 then Config.sha3 l.digest.flatten else 0

/-! The elements of a load that leaves its beds. -/

/-- The channels' receive queues, the matching and binding stores of an element are empty again; its counters stay (R368). -/
def Elem.vacant (e : Elem) : Elem := { e with vcs := [], store := [], unmatched := [], bound := [], last := 0, overlays := [] }

/-- Whether a tile lies on one of a load's beds. -/
def Load.on (l : Load) (tile : Nat) : Bool := decide (bedOf tile ∈ l.beds)

/-- A STGWAIT that no value has reached: when its activation has ended, nothing is left that a value could reach (R201, R241). -/
def Req.lateWait (r : Req) : Bool := r.answer.isNone && match r.op with
  | .stgwait _ _ => true
  | _ => false

/-- A load's tasks, elements and claims leave the fabric; its packets have been delivered. -/
def State.vacate (s : State) (l : Load) : State :=
  { s with
    tasks := s.tasks.filter fun x => !l.on x.1.tile
    elems := s.elems.map fun x => if l.on x.1.tile then (x.1, x.2.vacant) else x
    stages := s.stages.filter fun x => decide (x.1.1 ∉ l.beds)
    claims := s.claims.filter fun c => decide (c ∉ l.claims)
    reqs := s.reqs.filter fun r => !(r.load == l.id && r.lateWait)
    packets := s.packets.filter fun p => decide (p.load ≠ l.id) }

/-- A load ends. -/
def State.dropLoad (s : State) (l : Load) : State :=
  let s := if l.phase = .placed ∨ l.phase = .draining then s.vacate l else s
  { s with loads := s.loads.filter fun x => decide (x.id ≠ l.id) }

/-! The digest of a launch of level 2 (R122, R430). -/

/-- The order of R430 within a load: bed, element, slot, stamp issue key, activation index. -/
def digestBefore (x y : List Nat) : Bool := match x, y with
  | a :: r, b :: q => decide (a < b) || (a == b && digestBefore r q)
  | _, _ => false

/-- Inserts an activation's stores in the order of R430; stores of one activation keep their order. -/
def insertDigest (x : List Nat × List (Nat × Byte)) : List (List Nat × List (Nat × Byte)) → List (List Nat × List (Nat × Byte))
  | [] => [x]
  | y :: r => if digestBefore x.1 y.1 then x :: y :: r else y :: insertDigest x r

/-- R430: the stores of a load's tasks, by task number: those of its tasks where it stands, or those it was saved with. -/
def State.storesOf (s : State) (l : Load) : List (Nat × List (Nat × Nat × List (Nat × Byte))) := match l.saved with
  | some v => v.runs.map fun x => (x.task, x.stored)
  | none => (s.tasks.filter fun x => x.2.load == l.id).map fun x => (x.2.number, x.2.stored)

/-- R430: the bytes that the load's committed stores add to the digest: each byte with its address. -/
def State.digestOf (s : State) (l : Load) : List (List Byte) :=
  let all := (s.storesOf l).flatMap fun x => match l.cfg.tasks[x.1]? with
    | some c => x.2.map fun y => ([c.bed, c.tile % 4 * 16 + c.elem, c.slot, y.1, y.2.1], y.2.2)
    | none => []
  (all.foldl (fun q x => insertDigest x q) []).map fun x => x.2.flatMap fun b => bytesOfNat 8 b.1 ++ [b.2]

/-- R122, R430: the launch of a load that leaves takes the load's stores into its digest; the loads of a launch follow one another, so its
transitions come in order. -/
def State.keepDigest (s : State) (l : Load) : State :=
  if s.digests l.launch then
    { s with launches := s.launches.map fun (x : Launch) => if x.id = l.launch then { x with digest := x.digest ++ s.digestOf l } else x }
  else s

/-- R415, R122: the launch completes with a status; its loads leave, what they have stored in its digest. -/
def State.complete (s : State) (id status code : Nat) : State := match s.launch id with
  | none => s
  | some l =>
    let mine := s.loads.filter fun x => x.launch == id
    let fload := match mine with
      | x :: _ => x.number
      | [] => 0
    let status := if status = 0 ∧ l.lost ∧ l.level = 2 then 7 else status
    let s := mine.foldl State.keepDigest s
    let l := (s.launch id).getD l
    let s := mine.foldl State.dropLoad s
    let s := { s with launches := s.launches.filter fun x => decide (x.id ≠ id), mgmt := { s.mgmt with killing := s.mgmt.killing.filter fun x => decide (x ≠ id) } }
    (s.completion l.ctx l.queue l.tag status code fload l.result).writeStatus l.ctx

/-! Doorbells and packets (R412, R413, R414). -/

/-- LAUNCH_DOORBELL (R412, R463): the host's count of packets written; ignored for a queue not in use or a context not live. -/
def execLaunchDoorbell (s : State) : Host.Outcome State Fault Refusal :=
  match s.cur.work with
  | some (.launchDoorbell c q count) =>
    if !(s.ctx c).live then .next s
    else
      let s := s.meetDesc c
      let d := descLq (s.descriptor c) q
      if field d 255 255 = 0 then .next s
      else
        let base := s.package * 2 ^ 43
        .next (s.modLq c q fun x => { x.read base d with bell := count.toNat })
  | _ => .next s

/-- R412: packets doorbelled and not taken. -/
def LaunchQ.waiting (x : LaunchQ) : Nat := (x.bell + 2 ^ 32 - x.head) % 2 ^ 32

/-- R412: packet n of a queue, as a number of 512 bits. -/
def State.packetAt (s : State) (c q n : Nat) : Nat :=
  let x := s.lq c q
  s.seen (x.lqbase + 64 * (n % 2 ^ x.log2n)) 64

/-- R113, R460: the lines of a queue's head packet and of its context's descriptor as the device meets them. -/
def State.meetHead (s : State) (c q : Nat) : State :=
  let x := s.lq c q
  (s.meetDesc c).deviceMeet (lineSpan (x.lqbase + 64 * (x.head % 2 ^ x.log2n)) 64)

/-- R413: the kind of a packet. -/
def packetKind (p : Nat) : Nat := field p 511 504

/-- R413, R415: the fields of a packet are as they must be. -/
def packetOk (p : Nat) : Bool :=
  let kind := packetKind p
  let det := field p 495 494
  let n := field p 503 496
  (kind == 1 || kind == 2) && decide (n ≤ 32) && field p 493 480 == 0 && field p 319 256 == 0 && field p 255 0 / 2 ^ (8 * n) == 0
    && (if kind = 1 then det == 0 else det != 3 && field p 383 320 == 0)

/-- R414, R416: the head packet of a queue may be taken: the earlier launches of the queue are placed; a level change waits until they
have completed. -/
def State.mayTake (s : State) (c q : Nat) (level : Bool) : Bool :=
  let x := s.lq c q
  let mine := s.launches.filter fun l => l.ctx == c && l.queue == q
  let kind := packetKind (s.packetAt c q x.head)
  (s.ctx c).live && !(s.ctx c).busy && x.valid && decide (0 < x.waiting) && !s.mgmt.resetting && decide (level ↔ kind = 2)
    && (if level then mine.isEmpty else !(mine.any fun l => s.loads.any fun y => y.launch == l.id && y.first))

/-- R428: an FP32 AADD. -/
def isFpAadd (w : Word) : Bool := match decodeWord w with
  | .ok (.aadd _ _ _ _ fp) => fp
  | _ => false

/-- R221: the instruction words of a task's code, block by block: two header words, then NM1 + 1 instructions, up to the next multiple of 16
bytes; n bounds the blocks. -/
def instrWords : Nat → List Word → List Word
  | n + 1, a :: b :: r =>
    let m := (decodeHeader (b ++ a)).nm1.toNat + 1
    r.take m ++ instrWords n (r.drop (m + m % 2))
  | _, _ => []

/-- The instruction words of a task (R221). -/
def TaskCfg.instrs (c : TaskCfg) : List Word := instrWords c.code.length c.code

/-- R430: a task that stores. -/
def TaskCfg.stores (c : TaskCfg) : Bool := c.instrs.any fun w => match decodeWord w with
  | .ok (.st _ _ _ _) | .ok (.stp _ _ _) => true
  | .ok _ => (vecSid w).isSome
  | .error _ => false

/-- R428, R430: an image a level refuses. -/
def Image.refused (i : Image) (level : Nat) : Bool :=
  let tasks := i.loads.flatMap (·.tasks)
  (decide (1 ≤ level) && tasks.any fun c => c.instrs.any isFpAadd) || (decide (2 ≤ level) && tasks.any fun c => c.stores && !c.waved)

/-! Images (R193, R194). -/

/-- R39, R194, R113, R460: bytes of an image, 64 KiB page by 64 KiB page, their lines met as the device meets them, or the code of the first
fault; n bounds the pages. -/
def State.readImage (s : State) (die ctx : Nat) (u : Use) : Nat → Nat → Nat → Except FCode (List Byte) × State
  | 0, _, _ => (.ok [], s)
  | n + 1, va, len =>
    if len = 0 then (.ok [], s)
    else
      let m := min len (2 ^ 16 - va % 2 ^ 16)
      match s.checkNow die ctx va u with
      | (.ok key _, s) =>
        let s := s.deviceMeet (lineSpan key m)
        if (s.badIn key m).isSome then (.error .uncorrectable, s)
        else match State.readImage s die ctx u n (va + m) (len - m) with
          | (.ok r, t) => (.ok (s.bytes key m ++ r), t)
          | e => e
      | (.bad x, s) => (.error x.code, s)
      | (.miss _, s) => (.error .pageFault, s)

/-- Bytes of an image that the scheduler reads in a context. -/
def State.imageBytes (s : State) (ctx va len : Nat) : Except FCode (List Byte) × State := s.readImage 0 ctx .read (len / 2 ^ 16 + 2) va len

/-- R193: the fields of a header that must be as they are: MAGIC, VER, NSEC, FLAGS, NFL, ENTRY, DEPTH, and reserved zeros. R193 gives the
fields and R415 a failed check of them, but no list of the values that fail: VER other than 1, NSEC 0 or above 64, NFL 0 or above 4,096, ENTRY
not below NFL and DEPTH above 3 fail here, and any LEN passes (log 49). DESIGN CHOICE. -/
def headerFieldsOk (h : Nat) : Bool :=
  field h 511 480 == 0x58464C46 && field h 479 464 == 1 && decide (1 ≤ field h 463 456) && decide (field h 463 456 ≤ 64) && field h 455 449 == 0
    && decide (1 ≤ field h 383 368) && decide (field h 383 368 ≤ 4096) && decide (field h 367 352 < field h 383 368)
    && decide (field h 351 344 ≤ 3) && field h 343 0 == 0

/-- R193: the directory entries of n sections. -/
def directory (l : List Byte) : Nat → List Nat
  | 0 => []
  | n + 1 => natOfBytes (l.take 32) :: directory (l.drop 32) n

/-- R193: KIND of a directory entry. -/
def secKind (e : Nat) : Nat := field e 255 248
/-- R193: OFF of a directory entry. -/
def secOff (e : Nat) : Nat := field e 191 128
/-- R193: SIZE of a directory entry. -/
def secSize (e : Nat) : Nat := field e 127 64

/-- R193: a directory entry as it must be. Which values fail is not listed: KIND outside 1 to 8, OFF off a 64 KiB boundary and a field that is
not 0 where its kind has none fail here, and a DATA section's MTYPE and CLASS pass whatever they are (log 49). DESIGN CHOICE. -/
def sectionOk (e : Nat) : Bool :=
  decide (1 ≤ secKind e) && decide (secKind e ≤ 8) && field e 242 192 == 0 && secOff e % 2 ^ 16 == 0
    && (secKind e == 5 || field e 247 243 == 0) && (secKind e == 4 || secKind e == 5 || secKind e == 6 || field e 63 0 == 0)

/-- R194: how many sections of each kind there are: CONFIG, PORTS and SEQ once, DATA at most 48 times, the others at most once, SIGN
last and there exactly when FLAGS says so. -/
def sectionsOk (h : Nat) (d : List Nat) : Bool :=
  let count (k : Nat) : Nat := (d.filter fun e => secKind e == k).length
  d.all sectionOk && count 1 == 1 && count 2 == 1 && count 3 == 1 && decide (count 4 ≤ 1) && decide (count 5 ≤ 48) && decide (count 6 ≤ 1)
    && decide (count 7 ≤ 1) && decide (count 8 ≤ 1) && decide ((count 8 = 1) ↔ field h 448 448 = 1)
    && (count 8 == 0 || d.getLast?.any fun e => secKind e == 8)

/-- R194: whether the digest and the two signatures of a SIGN section verify for the bytes before it. -/
def signatureOk (before sign : List Byte) : Bool :=
  BitVec.ofNat 256 (natOfBytes (sign.take 32)) == Config.sha3 before && Config.signatureVerifies (Config.sha3 before) (sign.drop 32)

/-- The scheduler reads parts of an image in turn; the code of the first fault. -/
def State.readParts (s : State) (ctx va : Nat) : List (Nat × Nat) → Option FCode × State
  | [] => (none, s)
  | (off, len) :: r => match s.imageBytes ctx (va + off) len with
    | (.ok _, s) => State.readParts s ctx va r
    | (.error c, s) => (some c, s)

/-- R194: an image without a SIGN section is accepted by IMGPOL, one with it by its signatures; a failure is recorded (R473). -/
def State.signFault (s : State) (ctx va : Nat) (d : List Nat) : Option (Nat × Nat) × State := match d.find? fun e => secKind e == 8 with
  | none => if s.mgmt.imgpol.getLsbD 0 then (none, s) else (some (1, 0), s.event 0x0D 12 ctx va 0)
  | some e => match s.imageBytes ctx va (secOff e) with
    | (.error c, s) => (some (2, c.num), s)
    | (.ok before, s) => match s.imageBytes ctx (va + secOff e) (secSize e) with
      | (.error c, s) => (some (2, c.num), s)
      | (.ok sign, s) => if signatureOk before sign then (none, s) else (some (1, 0), s.event 0x0D 12 ctx va 0)

/-- R193, R194, R415, R428, R430: why an image is not accepted, a status and a code, or its header. PORTS and SEQ are read; what they and
CONFIG hold is the image's content (log 7). -/
def State.imageFault (s : State) (ctx va level : Nat) : Except (Nat × Nat) Nat × State :=
  match s.imageBytes ctx va 64 with
  | (.error c, s) => (.error (2, c.num), s)
  | (.ok l, s) =>
    let h := natOfBytes l
    if !headerFieldsOk h then (.error (1, 0), s)
    else match s.imageBytes ctx (va + 64) (32 * field h 463 456) with
      | (.error c, s) => (.error (2, c.num), s)
      | (.ok b, s) =>
        let d := directory b (field h 463 456)
        if !sectionsOk h d then (.error (1, 0), s)
        else match s.signFault ctx va d with
          | (some x, s) => (.error x, s)
          | (none, s) => match s.readParts ctx va ((d.filter fun e => secKind e == 2 || secKind e == 3).map fun e => (secOff e, secSize e)) with
            | (some c, s) => (.error (2, c.num), s)
            | (none, s) => match s.images.find (ctx, va) with
              | none => (.error (1, 0), s)
              | some i =>
                if i.loads.length ≤ field h 367 352 then (.error (1, 0), s)
                else if i.refused level then (.error (7, 0), s)
                else (.ok h, s)

/-- R468: the load's trap operator, if it has one, has one element and stands where TEN, TTILE and TELEM of the context say. -/
def LoadCfg.trapOk (cfg : LoadCfg) (c : Ctx) : Bool := match cfg.trapTask with
  | none => true
  | some n => c.ten && match cfg.tasks[n]? with
    | some t => (match cfg.ops[t.op]? with
        | some o => o.elems.length == 1
        | none => false) && t.tile == c.ttile % 4 && t.elem == c.telem
    | none => false

/-- R196, R414: a launch in flight, its first load waiting for beds. -/
def State.beginLaunch (s : State) (c q p entry : Nat) (i : Image) : State :=
  let x := s.lq c q
  let (id, s) := s.newId
  let (lid, s) := s.newId
  let l : Launch :=
    { id := id, ctx := c, queue := q, tag := BitVec.ofNat 64 (field p 447 384), epoch := field p 479 448,
      args := bytesOfNat (field p 503 496) (field p 255 0), image := field p 383 320, level := x.level }
  match i.loads[entry]? with
  | none => s
  | some cfg =>
    let y : Load :=
      { id := lid, launch := id, ctx := c, number := entry, cfg := cfg, shapes := i.shapes, prio := x.prio, since := s.tick, first := true }
    { s with launches := s.launches ++ [l], loads := s.loads ++ [y] }

/-- LAUNCH_TAKE (R412 to R415, R194, R428, R430, R468): the head packet is taken; the descriptor is read; a launch that fails completes. -/
def execLaunchTake (s : State) : Host.Outcome State Fault Refusal :=
  match s.cur.work with
  | some (.launchTake c q) =>
    if !s.mayTake c q false then .next s
    else
      let s := s.meetHead c q
      let p := s.packetAt c q (s.lq c q).head
      let tag := BitVec.ofNat 64 (field p 447 384)
      let ok := descOk (s.descriptor c)
      let level := (s.lq c q).level
      let s := (s.advanceHead c q)
      if !packetOk p then .next (s.completion c q tag 6 0 0 0)
      else if !ok then .next (s.completion c q tag 8 0 0 0)
      else
        let s := s.readDesc c
        match s.imageFault c (field p 383 320) level with
        | (.error x, s) => .next (s.completion c q tag x.1 x.2 0 0)
        | (.ok h, s) => match s.images.find (c, field p 383 320) with
          | some i =>
            if i.loads.all fun y => y.trapOk (s.ctx c) then .next (s.beginLaunch c q p (field h 367 352) i)
            else .next (s.completion c q tag 3 0 0 0)
          | none => .next (s.completion c q tag 1 0 0 0)
  | _ => .next s

/-- DETERMINISM_CHANGE (R414): the queue's level changes once its earlier launches have completed. -/
def execDeterminismChange (s : State) : Host.Outcome State Fault Refusal :=
  match s.cur.work with
  | some (.determinismChange c q) =>
    if !s.mayTake c q true then .next s
    else
      let s := s.meetHead c q
      let p := s.packetAt c q (s.lq c q).head
      let tag := BitVec.ofNat 64 (field p 447 384)
      let s := s.advanceHead c q
      if !packetOk p then .next (s.completion c q tag 6 0 0 0)
      else .next ((s.modLq c q fun x => { x with level := field p 495 494 }).completion c q tag 0 0 0 0)
  | _ => .next s

/-! Fault records (R468, R469). -/

/-- R468: the load of a context that takes its fault records, and the channel they travel on. -/
def State.trapChannel (s : State) (c : Nat) : Option (Load × ChanCfg) :=
  (s.loads.filter fun l => l.ctx == c && (l.phase == .placed || l.phase == .draining)).findSome? fun l =>
    (l.cfg.chans.find? fun h => h.src == .trap).map fun h => (l, h)

/-- R469, R382: the oldest record of a context may be delivered: the channel and the tracker's table have room. -/
def State.mayDeliver (s : State) (c : Nat) : Bool := match (s.ctx c).traps, s.trapChannel c with
  | _ :: _, some (l, h) =>
    let v := s.vc ⟨l.tileAt h.place, h.place.elem⟩ h.place.vc
    l.phase == .placed && decide (v.queue.length < 16) && !v.spilled && v.held.isEmpty && decide (s.entriesUsed l.home < 8192)
  | _, _ => false

/-- A message from the bed manager: its +1 is written, and it is delivered (R380, R198, R468). -/
def State.deliverFrom (s : State) (l : Load) (h : ChanCfg) (stamp : Stamp) (payload : List Byte) : State :=
  let s := s.applyBatch l.id { load := l.id, deltas := [((⟨false, h.place, stamp⟩ : Key), 1)] }
  s.takeMessage ⟨l.tileAt h.place, h.place.elem⟩
    { ctx := l.ctx, stamp := stamp, payload := payload, load := l.id, elem := h.place.elem, vc := h.place.vc } none

/-- TRAP_RECORD_DELIVER (R468, R469). -/
def execTrapRecordDeliver (s : State) : Host.Outcome State Fault Refusal :=
  match s.cur.work with
  | some (.trapRecordDeliver c) =>
    if !s.mayDeliver c then .next s
    else match (s.ctx c).traps, s.trapChannel c with
      | r :: rest, some (l, h) =>
        let s := s.modCtx c fun x => { x with traps := rest }
        .next (s.deliverFrom l h { c0 := r.epoch } r.bytes)
      | _, _ => .next s
  | _ => .next s

end Sys2Proof.Machine
end

