-- ==== Sys2Proof/Machine/Fetch.lean ====
section
/-! DEFINITION. What a bed fetches from the image while it runs (spec/09_execution_model.md R212, R215, R218, R224; spec/08_assembly_language.md
R190): the bed configuration cache, bindings, overlay blocks and blocks, with the errors of their stores (spec/02_storage_levels.md R65). -/

namespace Sys2Proof.Machine

/-! Keys of failing words that are no part of an address space (R65): they lie above the keys of every level. -/

/-- The key of a byte of an element's instruction store: the task slot and the address in the task's code (R221). -/
def codeKey (e : ElemRef) (slot addr : Nat) : Nat := 2 ^ 64 + ((e.tile * 16 + e.elem) * 8 + slot) * 2 ^ 32 + addr

/-- The key of a byte of a bed configuration cache, by the image's virtual address. -/
def cacheKey (bed va : Nat) : Nat := 2 ^ 80 + bed * 2 ^ 56 + va

/-- The key of a byte of a place of a receive queue. -/
def queueKey (e : ElemRef) (vc n off : Nat) : Nat := 2 ^ 90 + ((((e.tile * 16 + e.elem) * 32 + vc) * 16 + n) * 256 + off)

/-- R65: the failing words among n bytes of an instruction store or a configuration cache are fetched again from the image; one that fails
again makes the bed fail (R471). A word that fails twice is listed twice. -/
def State.refetch (s : State) (bed key n : Nat) : State :=
  let hit := s.bad.filter fun u => decide (key ≤ u) && decide (u < key + n)
  if hit.isEmpty then s
  else
    let s := { s with bad := s.bad.filter fun u => !(decide (key ≤ u) && decide (u < key + n)) }
    if hit.eraseDups.length = hit.length then s else s.post (.bedFail (bed / 16) (bed % 16))

/-! The bed configuration cache (R1, R39, R212). -/

/-- R1: 64 KiB pages of a bed configuration cache of 256 KiB. -/
def cachePages : Nat := 4

/-- R39, R212: a page of the image is in a bed's configuration cache, filled if it is not: the fill needs X; the least recently used page
leaves a full cache. The code is that of a fill's fault. The spec does not say what the cache holds and replaces at a time: whole 64 KiB
pages, least recently used (log 47). DESIGN CHOICE. -/
def State.fillPage (s : State) (ctx bed page : Nat) : Option FCode × State :=
  let l := s.cfgCache.get bed []
  let keep (s : State) (l : List Nat) : State := { s with cfgCache := s.cfgCache.put bed (l ++ [page]) }
  if page ∈ l then (none, (keep s (l.erase page)).refetch bed (cacheKey bed page) (2 ^ 16))
  else match s.readImage (bed / 16) ctx .fetch 1 page (2 ^ 16) with
    | (.error c, s) => (some c, s)
    | (.ok _, s) =>
      -- a page filled afresh has no failing word
      let s := { s with bad := s.bad.filter fun u => !(decide (cacheKey bed page ≤ u) && decide (u < cacheKey bed page + 2 ^ 16)) }
      (none, keep s (if l.length < cachePages then l else l.drop 1))

/-- Pages fill a bed's configuration cache in turn. -/
def State.fillPages (s : State) (ctx bed : Nat) : List Nat → Option FCode × State
  | [] => (none, s)
  | p :: r => match s.fillPage ctx bed p with
    | (some c, s) => (some c, s)
    | (none, s) => State.fillPages s ctx bed r

/-- R39, R418: the configuration of a load's beds enters their caches, which hold nothing of their last loads. -/
def State.fillBeds (s : State) (ctx : Nat) : List (Nat × List Nat) → Option FCode × State
  | [] => (none, s)
  | (bed, pages) :: r => match ({ s with cfgCache := s.cfgCache.put bed [] } : State).fillPages ctx bed pages with
    | (some c, s) => (some c, s)
    | (none, s) => State.fillBeds s ctx r

/-- R212: a task's binding is read from its bed's configuration cache. -/
def State.fillBinding (s : State) (t : TaskRef) : Option FCode × State := match s.taskCfg t with
  | some c => s.fillPage (s.task t).ctx (bedOf t.tile) c.page
  | none => (none, s)

/-- BINDING_FILL (R212): the binding enters the store; an entry whose task is Idle or Exited makes room, the least recently
used first; the arrivals that waited are matched, and activations that pend on a task now Ready have waited since now (R420). A fill of the configuration cache that faults fails the launch. -/
def execBindingFill (s : State) : Host.Outcome State Fault Refusal :=
  match s.cur.work with
  | some (.bindingFill t) =>
    let e := elemOf t
    let b := (s.elem e).bound
    if t.slot ∈ b then .next s
    else
      let free (n : Nat) : Bool := match (s.task ⟨t.tile, t.elem, n⟩).phase with
        | .idle | .exited => true
        | _ => false
      let out := if b.length < 16 then none else b.find? free
      if b.length < 16 ∨ out.isSome then
        match s.fillBinding t with
        | (some c, s) => .next (s.complete (s.task t).launch 2 c.num)
        | (none, s) =>
          let s := match out with
            | some n => s.modTask ⟨t.tile, t.elem, n⟩ fun k => { k with phase := if k.phase == Phase.idle then Phase.unbound else k.phase }
            | none => s
          let s := s.modElem e fun x => { x with bound := (x.bound.filter fun n => decide (some n ≠ out)) ++ [t.slot] }
          let s := s.modTask t fun k =>
            if k.phase == Phase.unbound then
              { k with phase := if k.pending.isEmpty then Phase.idle else Phase.ready, pending := k.pending.map fun a => { a with since := s.cycle } }
            else k
          .next (s.retry e)
      else .next (s.post (.bindingFill t))
  | _ => .next s

/-! Overlay blocks (R212, R190, R1). -/

/-- The overlay block of a task at an address: its length and the page of the image it comes from. -/
def TaskCfg.overlayAt (c : TaskCfg) (addr : Nat) : Option (Nat × Nat) := (c.blocks.find? fun x => x.1 == addr).map (·.2)

/-- R1, R261: bytes of a task's code that stay in its element's instruction store. -/
def TaskCfg.resident (c : TaskCfg) : Nat := 8 * c.code.length - c.blocks.foldl (fun n x => n + x.2.1) 0

/-- The configurations of the tasks of an element. -/
def State.tasksOn (s : State) (e : ElemRef) : List TaskCfg := (List.range 8).filterMap fun n => s.taskCfg ⟨e.tile, e.elem, n⟩

/-- The length of an overlay block in an element's instruction store. -/
def State.overlayLen (s : State) (e : ElemRef) (x : Nat × Nat) : Nat := match s.taskCfg ⟨e.tile, e.elem, x.1⟩ with
  | some c => ((c.overlayAt x.2).map (·.1)).getD 0
  | none => 0

/-- A block of an element is in flight. -/
def State.blockInFlight (s : State) (e : ElemRef) (x : Nat × Nat) : Bool :=
  (s.task ⟨e.tile, e.elem, x.1⟩).flights.any fun f => f.addr == x.2

/-- R212: overlay blocks leave, the least recently used first, those in flight staying, until at most room bytes are taken. -/
def makeRoom (busy : Nat × Nat → Bool) (len : Nat × Nat → Nat) (room : Nat) : Nat → List (Nat × Nat) → List (Nat × Nat)
  | _, [] => []
  | taken, x :: r => if taken ≤ room ∨ busy x then x :: makeRoom busy len room taken r else makeRoom busy len room (taken - len x) r

/-- R1, R212: the overlay blocks left in an element's instruction store of 64 KiB once a block of a length has room; none while blocks in
flight take it. -/
def State.overlayRoom (s : State) (e : ElemRef) (need : Nat) : Option (List (Nat × Nat)) :=
  let l := (s.elem e).overlays
  let room := 2 ^ 16 - (s.tasksOn e).foldl (fun n c => n + c.resident) 0
  let sum (l : List (Nat × Nat)) : Nat := l.foldl (fun n x => n + s.overlayLen e x) need
  let left := makeRoom (s.blockInFlight e) (s.overlayLen e) room (sum l) l
  if sum left ≤ room then some left else none

/-- What the fetch of a block finds: it may fire, it waits for room, or the launch fails. -/
inductive Fetched where
  | ready (s : State)
  | wait
  | failed (code : FCode) (s : State)
  deriving DecidableEq, Repr

/-- R212: the block stands in the instruction store: an overlay block is fetched through the configuration cache when it is named. -/
def State.fetchCode (s : State) (t : TaskRef) (addr : Nat) : Fetched :=
  let e := elemOf t
  match (s.taskCfg t).bind fun c => c.overlayAt addr with
  | none => .ready s
  | some (len, page) =>
    let put (s : State) (l : List (Nat × Nat)) : State := s.modElem e fun x => { x with overlays := l ++ [(t.slot, addr)] }
    if (t.slot, addr) ∈ (s.elem e).overlays then .ready (put s ((s.elem e).overlays.erase (t.slot, addr)))
    else match s.overlayRoom e len with
      | none => .wait
      | some l => match s.fillPage (s.task t).ctx (bedOf t.tile) page with
        | (some c, s) => .failed c s
        | (none, s) =>
          let key := codeKey e t.slot addr
          .ready (put { s with bad := s.bad.filter fun u => !(decide (key ≤ u) && decide (u < key + len)) } l)

/-- R215: the block is fetched whole and checked; a block that fails the checks fires nothing. It samples csr.fpmode and csr.cntol (R364);
failing words of the instruction store are fetched again first (R65). -/
def State.fetchBlock (s : State) (t : TaskRef) (addr : Nat) : State :=
  let k := s.task t
  let b := k.blockAt addr
  let s := s.refetch (bedOf t.tile) (codeKey (elemOf t) t.slot addr) (16 + 8 * b.2.length)
  let (modes, s) := s.sampleModes t
  let bad := fetchFault k.waved k.sh b.1 b.2
  let (id, s) := s.newId
  let first := k.seq + b.1.pdelta.toNat
  let f : Firing :=
    { serial := id, addr := addr, hdr := b.1, words := if bad.isSome then [] else b.2, fpmode := modes.1, cntol := modes.2, wave := first
      suppress := k.refire, fault := bad.map (s.fillRecord t) }
  let s := s.modTask t fun k =>
    { k with flights := k.flights ++ [f], fetch := none, refire := none, seq := if k.waved then first + b.1.scount.toNat - 1 else 0 }
  s.takeFault t

/-- BLOCK_FETCH (R215, R212). -/
def execBlockFetch (s : State) : Host.Outcome State Fault Refusal :=
  match s.cur.work with
  | some (.blockFetch t) => match (s.task t).fetch with
    | none => .next s
    | some addr =>
      if !s.mayFetch t then .next s
      else match s.fetchCode t addr with
        | .wait => .next s
        | .failed c s => .next (s.complete (s.task t).launch 2 c.num)
        | .ready s => .next (s.fetchBlock t addr)
  | _ => .next s

end Sys2Proof.Machine
end

