-- ==== Sys2Proof/Machine/Place.lean ====
section
/-! DEFINITION. Placement and pre-emption of fabric loads: the choice of beds (spec/18_scheduling.md R416, R417; spec/02_storage_levels.md
R51), placement (R418, R419), drains and the sequencing table (spec/09_execution_model.md R205; spec/08_assembly_language.md R190),
pre-emption and resume (R423 to R426; spec/16_matrix_engine.md R402 to R404), and failed beds (spec/21_faults_and_system.md R471, R482). -/

namespace Sys2Proof.Machine

/-! Beds (R482, R416, R417). -/

/-- R482, R471: the beds in service of a die by logical number: logical number and physical bed, as die × 16 + number. -/
def State.bedsOf (s : State) (die : Nat) : List (Nat × Nat) :=
  let fuse := s.beds.fuse.getD die 15
  let now (n : Nat) : Nat := if s.beds.used.any (fun u => u == (die, n)) then fuse else n  -- as State.standIn
  ((((List.range 16).filter fun n => n != fuse).map now).zipIdx.map fun x => (x.2, die * 16 + x.1)).filter fun x => decide (x.2 ∉ s.beds.out)

/-- A load that stands on its beds. -/
def Load.stands (l : Load) : Bool := l.phase == .placed || l.phase == .draining

/-- R471: the bed that stands in for a physical bed, as die × 16 + number: its die's spare once that has replaced it. -/
def State.standIn (s : State) (b : Nat) : Nat :=
  if s.beds.used.any (fun u => u == (b / 16, b % 16)) then b / 16 * 16 + s.beds.fuse.getD (b / 16) 15 else b

/-- Physical beds that a load cannot take: other loads stand on them, or a spare is held for a load of the failed bed it replaces (R471). -/
def State.bedsTaken (s : State) (l : Load) : List Nat := (s.loads.filter fun x => x.id != l.id).flatMap fun x =>
  if x.stands then x.beds ++ x.beds.map s.standIn
  else match x.saved with
    | some v => v.hold
    | none => []

/-- R417: the latency class. -/
def Load.latency (l : Load) : Bool := decide (6 ≤ l.prio)

/-- R417: a bed of the latency reserve, by logical number. -/
def State.isReserve (s : State) (logical : Nat) : Bool := decide (15 ≤ logical + s.mgmt.lrsv.toNat % 16)

/-- R417: a load may stand on a bed of a logical number: on a reserve bed only a pre-emptible one, of the latency class or borrowing. The
last rule of R417 is taken at its word for the latency class too (log 33). DEDUCED. -/
def State.mayUse (s : State) (l : Load) (logical : Nat) : Bool :=
  !s.isReserve logical || (l.cfg.preemptible && (l.latency || s.mgmt.lrsv.getLsbD 4))

/-- R51: two ranges of a die's scratchpad overlap. -/
def rangesMeet (a b : LoadCfg) : Bool :=
  decide (a.dsBase < b.dsBase + b.dsLen) && decide (b.dsBase < a.dsBase + a.dsLen) && a.dsLen != 0 && b.dsLen != 0

/-- The dies on which a load holds its range: those it stands on, or left when it was saved (R51). -/
def Load.diesHeld (l : Load) : List Nat := match l.phase, l.saved with
  | .saved, some v => v.dies
  | .waiting, _ => []
  | _, _ => (l.beds.map (· / 16)).eraseDups

/-- R51: no other load holds a range over a load's on a die. -/
def State.dsFree (s : State) (l : Load) (die : Nat) : Bool :=
  !(s.loads.any fun x => x.id != l.id && decide (die ∈ x.diesHeld) && rangesMeet x.cfg l.cfg)

/-- R403: what a bed of a load reserves in the pre-emption area: 96 KiB + 8 bytes for each accumulator named in a tile's code, and 8,320
bytes for each tile with a matrix command. -/
def LoadCfg.reserve (c : LoadCfg) (bed : Nat) : Nat :=
  (c.named.filter fun x => x.1 == bed).foldl (fun n x => n + 98312 * x.2.2.1 + if x.2.2.2 then 8320 else 0) 0

/-- R403: bytes of a die's pre-emption area that pre-emptible loads have reserved. -/
def State.reservedOn (s : State) (l : Load) (die : Nat) : Nat :=
  (s.loads.filter fun x => x.id != l.id && x.cfg.preemptible).foldl (fun n x =>
    let beds : List Nat := match x.saved with
      | some v => if x.phase = LoadPhase.saved then v.beds else x.beds
      | none => x.beds
    n + (beds.zipIdx.filter fun b => decide (b.1 / 16 = die)).foldl (fun n b => n + x.cfg.reserve b.2) 0) 0

/-- R403: the part of a die's pre-emption area that reservations share. -/
def reserveLimit : Nat := 15794176

/-- R468: the bed, by number, that must stand on the physical bed TTILE names. -/
def State.trapBed (s : State) (l : Load) : Option (Nat × Nat) := match l.cfg.trapTask with
  | none => none
  | some n => (l.cfg.tasks[n]?).map fun c => (c.bed, bedOf (s.ctx l.ctx).ttile)

/-- R468: the trap operator is where TTILE and TELEM say. -/
def State.trapOk (s : State) (l : Load) : Bool := l.cfg.trapOk (s.ctx l.ctx)

/-- Inserts a die in the order of R416: the most free beds first, the lower number among equals. -/
def insertDie (x : Nat × Nat) : List (Nat × Nat) → List (Nat × Nat)
  | [] => [x]
  | y :: r => if y.2 < x.2 ∨ y.2 = x.2 ∧ x.1 < y.1 then x :: y :: r else y :: insertDie x r

/-- R416, R417: the beds a load may take, given those taken, in the order in which it takes them. -/
def State.bedOrder (s : State) (l : Load) (taken : List Nat) : List Nat :=
  let free (d : Nat) : List (Nat × Nat) := (s.bedsOf d).filter fun b => s.mayUse l b.1 && decide (b.2 ∉ taken)
  let dies := (((List.range Config.dies).filter (s.dsFree l)).map fun d => (d, (free d).length)).foldl (fun q x => insertDie x q) []
  let all := dies.flatMap fun d => free d.1
  let first := if l.latency then (all.filter fun b => s.isReserve b.1) ++ all.filter fun b => !s.isReserve b.1 else all
  first.map (·.2)

/-! Overflow rings and claims (R448, R462, R436). -/

/-- The locations that take messages, one for each channel number that is the first at its place. -/
def LoadCfg.receivers (c : LoadCfg) : List (Nat × Place) :=
  (c.chans.zipIdx.filter fun h => c.chanAt h.1.place == some h.2).map fun h => (h.2, h.1.place)

/-- Overflow rings of a context in use. -/
def State.ringsUsed (s : State) (c : Nat) : List Nat :=
  (s.loads.filter fun l => l.ctx == c).flatMap fun l =>
    if l.phase = .saved then (match l.saved with
      | some v => v.rings.map (·.2)
      | none => [])
    else if l.phase = .waiting then []
    else l.cfg.receivers.filterMap fun x => (s.vc ⟨l.tileAt x.2, x.2.elem⟩ x.2.vc).ringBase

/-- R448, R462: the free overflow rings of a context, lowest first. -/
def State.ringsFree (s : State) (c : Nat) (n : Nat) : List Nat :=
  let used := s.ringsUsed c
  let x := s.ctx c
  (((List.range (min x.ovn (used.length + n))).map fun i => x.ovbase + 20480 * i).filter fun a => decide (a ∉ used)).take n

/-- R436: a claim as it stands once the load has its beds: routers below 1,024 are the load's own, bed × 4 + tile. -/
def Claim.at_ (x : Claim) (beds : List Nat) : Claim :=
  if x.router < 1024 then { x with router := routerOf (beds.getD (x.router / 4) 0 * 4 + x.router % 4) } else { x with router := x.router - 1024 }

/-- R436: the claims of a load on its beds meet none that is written. -/
def State.claimsFree (s : State) (l : Load) (beds : List Nat) : Bool :=
  (l.cfg.claims.map fun c => c.at_ beds).all fun c => !(s.claims.any fun d => d.router == c.router && d.slot == c.slot && d.out == c.out)

/-- R382, R426: the tracker table of the die where a load will have its root tracker has room for the entries it begins with: one for each
stamp of its start channels, or those of its saved state. The spec does not say what a full table does to a placement: it waits
(log 47). DESIGN CHOICE. -/
def State.trackerRoom (s : State) (l : Load) (die : Nat) : Bool :=
  let need := match l.saved with
    | some v => v.entries.length - (if l.home = die then v.swapped else 0)
    | none => (l.cfg.chans.filter fun h => h.src == .start).length
  decide (s.entriesUsed die + need ≤ 8192)

/-! The choice of beds (R403, R416, R436, R468, R471). -/

/-- A physical bed suits a bed of a load, by number: the trap operator's is the one TTILE names (R468), the first one's die has room in its
tracker table, the claims at its routers meet none that is written (R436), and a saved load with a ds range goes back to the die it left (R51). -/
def State.suits (s : State) (l : Load) (i b : Nat) : Bool :=
  (match s.trapBed l with
    | some (j, y) => (b == y) == (i == j)
    | none => true)
    && (i != 0 || s.trackerRoom l (b / 16))
    && ((l.cfg.claims.filter fun c => decide (c.router < 1024) && c.router / 4 == i).all fun c =>
      !(s.claims.any fun d => d.router == routerOf (b * 4 + c.router % 4) && d.slot == c.slot && d.out == c.out))
    && match l.phase, l.saved with
      | .saved, some v => l.cfg.dsLen == 0 || b / 16 == v.beds.getD i 0 / 16
      | _, _ => true

/-- One bed of each kind: beds of one die that suit the same beds of the load are alike. -/
def bedKinds (suits : Nat → Nat → Bool) (rest free : List Nat) : List Nat :=
  free.foldl (fun q b => if q.any fun x => x / 16 == b / 16 && rest.all fun i => suits i x == suits i b then q else q ++ [b]) []

/-- Gives each bed of a load, by number, a bed of the list that suits it and whose die has room for its reservation (R403): the first in the
list's order with which the others find theirs. -/
def assignBeds (need : Nat → Nat) (suits : Nat → Nat → Bool) (used : Nat → Nat) : List Nat → List Nat → Table Nat Nat → Option (List (Nat × Nat))
  | [], _, _ => some []
  | i :: r, free, more =>
    if free.length ≤ r.length then none
    else (bedKinds suits (i :: r) free).findSome? fun b =>
      if suits i b && decide (used (b / 16) + more.get (b / 16) 0 + need i ≤ reserveLimit) then
        (assignBeds need suits used r (free.filter fun x => decide (x ≠ b)) (more.put (b / 16) (more.get (b / 16) 0 + need i))).map fun x => (i, b) :: x
      else none

/-- The bed of a load that a number has been given. -/
def bedList (n : Nat) (x : List (Nat × Nat)) : List Nat := (List.range n).map fun i => ((x.find? fun y => y.1 == i).map (·.2)).getD 0

/-- R403, R416, R468: the beds of a load, given the beds taken and the reservations held. -/
def State.freshBeds (s : State) (l : Load) (taken : List Nat) (used : Nat → Nat) : Option (List Nat) :=
  let need (i : Nat) : Nat := if l.cfg.preemptible then l.cfg.reserve i else 0
  (assignBeds need (s.suits l) used (List.range l.cfg.beds) (s.bedOrder l taken) []).map (bedList l.cfg.beds)

/-- R417: a load may stand on a physical bed. -/
def State.mayStand (s : State) (l : Load) (b : Nat) : Bool := (s.bedsOf (b / 16)).any fun x => x.2 == b && s.mayUse l x.1

/-- R416, R468, R471: the beds of a resumed load: the same beds, a spare for a bed it has replaced, or as for a fresh one. -/
def State.resumeBeds (s : State) (l : Load) (v : Saved) (taken : List Nat) : Option (List Nat) :=
  let same := v.beds.map s.standIn
  if l.stay && same.all (fun b => decide (b ∉ s.beds.out)) then
    let trap := match s.trapBed l with
      | some (i, y) => same[i]? == some y
      | none => true
    if trap && same.all (fun b => s.mayStand l b && decide (b ∉ taken)) then some same else none
  else s.freshBeds l taken (s.reservedOn l)

/-- R416: the beds the scheduler gives a load that waits or resumes. -/
def State.bedsGiven (s : State) (l : Load) : Option (List Nat) := match l.phase, l.saved with
  | .saved, some v => s.resumeBeds l v (s.bedsTaken l)
  | .waiting, _ => s.freshBeds l (s.bedsTaken l) (s.reservedOn l)
  | _, _ => none

/-! Which load is placed next (R416). -/

/-- R416: the beds on which a load may be placed or resumed now. -/
def State.bedsFor (s : State) (l : Load) : Option (List Nat) :=
  if l.phase = .waiting ∧ (s.ringsFree l.ctx l.cfg.receivers.length).length < l.cfg.receivers.length then none
  else match s.bedsGiven l with
    | some b => if s.claimsFree l b then some b else none
    | none => none

/-- The state with a load alone on the fabric, every bed open to it. -/
def State.alone (s : State) (l : Load) : State := { s with loads := [l], claims := [], mgmt := { s.mgmt with lrsv := 0 } }

/-- R415, R468, R471: a load that can never be placed: not even alone. -/
def State.neverFits (s : State) (l : Load) : Bool :=
  !s.trapOk l || decide ((s.ctx l.ctx).ovn < l.cfg.receivers.length) || ((s.alone l).bedsGiven l).isNone

/-- The queue of a load's launch, as context × 16 + queue. -/
def State.queueOf (s : State) (l : Load) : Nat := match s.launch l.launch with
  | some x => x.ctx * 16 + x.queue
  | none => l.ctx * 16

/-- R416: how far a queue, as context × 16 + queue, is from its turn at a level. -/
def State.turnOf (s : State) (prio queue : Nat) : Nat := (queue + 1024 - s.turns.get prio 0 - 1) % 1024

/-- R416, R427: of two loads that fit, the one placed first: the higher level, a pre-empted one among equals, then round robin. -/
def State.placedBefore (s : State) (x y : Load) : Bool :=
  let saved (l : Load) : Bool := l.phase == .saved
  let turn (l : Load) : Nat := s.turnOf l.prio (s.queueOf l)
  decide (y.prio < x.prio) || (x.prio == y.prio && ((saved x && !saved y) || (saved x == saved y && (decide (turn x < turn y)
    || (turn x == turn y && decide (x.id < y.id))))))

/-- R416, R427: a launch at the head of a queue is considered before a load: it is taken first. -/
def State.headBefore (s : State) (l : Load) : Bool := (List.range 64).any fun c => (s.ctx c).live && (List.range 16).any fun q =>
  s.mayTake c q false && (let p := (s.lq c q).prio
    decide (l.prio < p) || (p == l.prio && l.phase != .saved && decide (s.turnOf p (c * 16 + q) < s.turnOf p (s.queueOf l))))

/-- R416: the load is the next to be placed. -/
def State.mayPlaceNow (s : State) (l : Load) : Bool :=
  (s.bedsFor l).isSome && !s.headBefore l && !(s.loads.any fun x => x.id != l.id && s.placedBefore x l && (s.bedsFor x).isSome)

/-- R478: the load's launch ends as KILL ends it. -/
def State.killed (s : State) (l : Load) : Bool := match s.launch l.launch with
  | some x => x.killed
  | none => false

/-- LOAD_PLACE may take place. -/
def State.mayPlace (s : State) (l : Load) : Bool := l.phase == .waiting && !s.killed l && (s.neverFits l || s.mayPlaceNow l)

/-- LOAD_RESUME may take place. -/
def State.mayResume (s : State) (l : Load) : Bool := l.phase == .saved && !s.killed l && (s.neverFits l || s.mayPlaceNow l)

/-! Placing (R418, R419). -/

/-- R51, R352: with the clear flag, bs and ts of the beds are zero and their envelope registers empty. -/
def State.clearBeds (s : State) (l : Load) : State :=
  if !l.cfg.clear then s
  else
    let inside (key : Nat) : Bool :=
      l.beds.any fun b => (decide (bsKey + b * 2 ^ 23 ≤ key) && decide (key < bsKey + (b + 1) * 2 ^ 23))
        || (decide (tsKey + b * 4 * 2 ^ 20 ≤ key) && decide (key < tsKey + (b + 1) * 4 * 2 ^ 20))
    { s with
      mem := s.mem.filter fun c => !inside c.1
      bad := s.bad.filter fun u => !inside u
      tiles := s.tiles.map fun t => if l.on t.1 then (t.1, { t.2 with envs := List.replicate 8 {} }) else t }

/-- R328, R396, R402: stage queues, scale ports, macros and the live marks of a load's beds at placement. -/
def State.freshUnits (s : State) (l : Load) (lost : Bool) : State :=
  let tiles := l.beds.flatMap fun b => (List.range 4).map fun i => b * 4 + i
  let fresh (t : Tile) : Tile :=
    { t with
      copies := List.replicate 4 {}, matrix := [], canopy := [], scale := [], macros := List.replicate 8 {}
      accs := t.accs.map fun a => { a with live := false }, envs := t.envs.map fun e => { e with lost := lost } }
  tiles.foldl (fun (s : State) n => s.modTile n fresh) { s with stages := s.stages.filter fun x => decide (x.1.1 ∉ l.beds) }

/-- R200, R212, R272: the tasks of a load at placement. -/
def State.placeTasks (s : State) (l : Load) : State :=
  let s := { s with
    tasks := s.tasks.filter fun x => !l.on x.1.tile
    elems := s.elems.map fun x => if l.on x.1.tile then (x.1, x.2.vacant) else x }
  l.cfg.tasks.zipIdx.foldl (fun (s : State) c => s.setTask (l.taskRef c.2)
    { ctx := l.ctx, launch := l.launch, load := l.id, number := c.2, gen := l.gen, code := c.1.code, waved := c.1.waved }) s

/-- R448: each receiving channel gets its overflow ring. -/
def State.giveRings (s : State) (l : Load) (rings : List (Place × Nat)) : State :=
  rings.foldl (fun (s : State) r => s.modVc ⟨l.tileAt r.1, r.1.elem⟩ r.1.vc fun v => { v with ringBase := some r.2 }) s

/-- R419: the intervals of the range operators. -/
def LoadCfg.intervals (c : LoadCfg) (args : List Byte) : List (Nat × Nat × Nat × Nat × Bool) :=
  ((c.ops.zipIdx.filter fun o => o.1.range).zipIdx).flatMap fun r =>
    let n := min (natOfBytes ((args.drop (8 * r.2)).take 8)) (2 ^ 63)
    let low := r.1.1.elems.foldl min 16
    r.1.1.elems.map fun e => (r.1.2, e, 0, if e = low then n else 0, false)

/-- R198: the stamp of an entry message. -/
def entryStamp (epoch depth : Nat) : Stamp := { depth := depth, c0 := epoch }

/-- R436: the slot-table claims of a load, as its beds place them. -/
def Load.claimsOn (l : Load) (beds : List Nat) : List Claim := l.cfg.claims.map fun c => c.at_ beds

/-- R382: the lowest slot of a die's tracker table that no load homed there has. -/
def State.freeFls (s : State) (die : Nat) : Nat :=
  let used := (s.loads.filter fun l => l.stands && l.home == die).map (·.fls)
  ((List.range (used.length + 1)).find? fun n => decide (n ∉ used)).getD 0

/-- R416: the bookkeeping of a placement: beds, generation, claims, the queue's turn. -/
def State.seat (s : State) (l : Load) (beds : List Nat) : Load × State :=
  let gen := (s.placements + 1) % 2 ^ 32
  let x : Load := { l with phase := .placed, fls := s.freeFls (beds.headD 0 / 16), beds := beds, gen := gen, since := gen, first := false, claims := l.claimsOn beds, suspended := !l.held.isEmpty }
  let s := { s with placements := gen, turns := s.turns.put l.prio (s.queueOf l), claims := s.claims ++ x.claims }
  -- R438: a circuit of a level-2 launch that crosses a disabled link is lost
  let cut := x.claims.any fun c => decide ((c.router, c.out) ∈ s.ports.links)
  let s := { s with launches := s.launches.map fun (y : Launch) => if y.id = l.launch ∧ y.level = 2 ∧ cut then { y with lost := true } else y }
  (x, s.modLoad l.id fun _ => x)

/-- R418: the load is placed afresh on its beds. -/
def State.place (s : State) (l : Load) (beds : List Nat) : State :=
  let rings := s.ringsFree l.ctx l.cfg.receivers.length
  let (l, s) := s.seat l beds
  let args := match s.launch l.launch with
    | some x => x.args
    | none => []
  let s := ((s.clearBeds l).freshUnits l false).placeTasks l
  let s := s.giveRings l ((l.cfg.receivers.map (·.2)).zip rings)
  let s := s.modLoad l.id fun l => { l with ranges := l.cfg.intervals args }
  let s := (l.cfg.chans.filter fun h => h.src == .start).foldl (fun (s : State) h =>
    s.deliverFrom l h (entryStamp (s.epochOf l.launch) h.depth) args) s
  s.writeStatus l.ctx

/-- LOAD_PLACE (R39, R415 to R419). -/
def execLoadPlace (s : State) : Host.Outcome State Fault Refusal :=
  match s.cur.work with
  | some (.loadPlace id) => match s.load id with
    | none => .next s
    | some l =>
      if !s.mayPlace l then .next s
      else if s.neverFits l then .next (s.complete l.launch 3 0)
      else match s.bedsFor l with
        | none => .next s
        | some beds =>
          match s.fillBeds l.ctx (beds.zip (l.cfg.pages ++ List.replicate beds.length [])) with
          | (some c, s) => .next (s.complete l.launch 2 c.num)
          | (none, s) => .next (s.place l beds)
  | _ => .next s

/-! Drains (R205, R190, R415, R430). -/

/-- The tiles of a load. -/
def Load.tiles (l : Load) : List Nat := l.beds.flatMap fun b => (List.range 4).map fun i => b * 4 + i

/-- R205: no engine command of the load is outstanding. -/
def State.enginesIdle (s : State) (l : Load) : Bool := l.tiles.all fun n =>
  let t := s.tile n
  t.matrix.isEmpty && t.canopy.isEmpty && t.copies.all fun x => x.cmds.isEmpty

/-- R205: no task of the load is Active, Ready or Parked; nor does one wait for acknowledgements of its batches (R379). -/
def State.tasksIdle (s : State) (l : Load) : Bool := s.tasks.all fun x =>
  x.2.load != l.id || ((x.2.phase == .idle || x.2.phase == .exited || x.2.phase == .unbound) && x.2.ended.isEmpty)

/-- R205, R387, R139: the load has drained, and its writes are performed. -/
def State.drained (s : State) (l : Load) : Bool :=
  l.stands && l.entries.isEmpty && l.held.isEmpty && s.tasksIdle l && s.enginesIdle l
    && !(s.reqs.any fun r => r.load == l.id && !r.lateWait) && !(s.packets.any fun p => p.load == l.id)

/-- LOAD_DRAIN may take place; a killed launch ends with KILL_COMPLETE. -/
def State.mayDrain (s : State) (l : Load) : Bool := s.drained l && !s.killed l

/-- What the sequencing table gives: a next load, the end of the graph, or the fault of a row's word. -/
inductive SeqNext where
  | load (n : Nat)
  | ends
  | fault (code : FCode)
  deriving DecidableEq, Repr

/-- R190: a row's word. -/
def State.seqWord (s : State) (die ctx va : Nat) : Except FCode Nat × State :=
  match s.checkNow die ctx va .read with
  | (.ok key u, s) =>
    let s := match u with
      | some u => s.prepare u
      | none => s
    if (s.badIn key 8).isSome then (.error .uncorrectable, s) else (.ok (s.num key 8), s)
  | (.bad x, s) => (.error x.code, s)
  | (.miss _, s) => (.error .pageFault, s)

/-- R190: the rows are tried in source order. -/
def State.sequence (s : State) (die ctx from_ : Nat) : List (Nat × Nat × SeqWhen) → SeqNext × State
  | [] => (.ends, s)
  | (f, t, w) :: r =>
    if f ≠ from_ then State.sequence s die ctx from_ r
    else match w with
      | .always => (.load t, s)
      | .ifz va => match s.seqWord die ctx va with
        | (.error c, s) => (.fault c, s)
        | (.ok v, s) => if v = 0 then (.load t, s) else State.sequence s die ctx from_ r
      | .ifnz va => match s.seqWord die ctx va with
        | (.error c, s) => (.fault c, s)
        | (.ok v, s) => if v ≠ 0 then (.load t, s) else State.sequence s die ctx from_ r

/-- R196, R198: the load that follows, waiting for its beds. -/
def State.follow (s : State) (l : Load) (i : Image) (n : Nat) : State := match i.loads[n]? with
  | none => s.complete l.launch 1 0
  | some cfg =>
    let (id, s) := s.newId
    let y : Load := { id := id, launch := l.launch, ctx := l.ctx, number := n, cfg := cfg, shapes := i.shapes, prio := l.prio, since := s.tick }
    let s := (s.keepDigest l).dropLoad l
    { s with loads := s.loads ++ [y] }

/-- LOAD_DRAIN (R205, R190, R196, R415, R430). -/
def execLoadDrain (s : State) : Host.Outcome State Fault Refusal :=
  match s.cur.work with
  | some (.loadDrain id) => match s.load id with
    | none => .next s
    | some l =>
      if !s.mayDrain l then .next s
      else match (s.launch l.launch).bind fun x => s.images.find (x.ctx, x.image) with
        | none => .next (s.complete l.launch 0 0)
        | some i => match s.sequence (l.tracker / 64) l.ctx l.number i.rows with
          | (.ends, s) => .next (s.complete l.launch 0 0)
          | (.fault c, s) => .next (s.complete l.launch 2 c.num)
          | (.load n, s) => .next (s.follow l i n)
  | _ => .next s

/-! Pre-emption (R423 to R425). -/

/-- R203, R423: a load with a Parked task. -/
def State.hasParked (s : State) (l : Load) : Bool := s.tasks.any fun x => x.2.load == l.id && x.2.phase == .parked

/-- R423: a load that may be a victim. -/
def State.victim? (s : State) (l : Load) : Bool :=
  l.phase == .placed && !l.latency && l.cfg.preemptible && !s.hasParked l && !s.killed l

/-- R423: the victim taken first: the lowest level, then the most recently placed. -/
def victimBefore (x y : Load) : Bool := decide (x.prio < y.prio) || (x.prio == y.prio && decide (y.since < x.since))

/-- R424, R426: the messages of a load's channels go to their backing queues, in order: number of the channel and message. -/
def State.backing (s : State) (l : Load) : List (Nat × Msg) := l.cfg.receivers.flatMap fun x =>
  let v := s.vc ⟨l.tileAt x.2, x.2.elem⟩ x.2.vc
  (v.queue ++ v.ring ++ v.held).map fun m => (x.1, m)

/-- R426, R402: the state saved of a load. -/
def State.savedOf (s : State) (l : Load) : Saved :=
  let mine := s.tasks.filter fun x => x.2.load == l.id
  { tasks := mine.map fun x => (x.2.number, if x.2.phase = .exited then .exited else .swapped)
    runs := mine.map fun x => ⟨x.2.number, x.2.acts, x.2.cut, x.2.stored⟩
    entries := l.entries, loops := l.loops, held := l.held
    copies := l.tiles.zipIdx.flatMap fun n => (s.tile n.1).copies.map fun c => (n.2 / 4, n.2 % 4, c)
    matrix := l.tiles.zipIdx.map fun n =>
      let t := s.tile n.1
      (n.2, t.accs, t.scale, t.macros.map fun m => if m.valid then { loaded := m.loaded, ty := m.ty, valid := true } else {})
    stages := l.beds.zipIdx.flatMap fun b => (s.stages.filter fun x => x.1.1 == b.1).map fun x => (b.2, x.1.2, x.2)
    ranges := l.ranges
    back := s.backing l
    rings := l.cfg.receivers.filterMap fun x => ((s.vc ⟨l.tileAt x.2, x.2.elem⟩ x.2.vc).ringBase).map fun b => (x.1, b)
    notes := mine.flatMap fun x => ((x.2.dropped ++ x.2.pending).filter fun a => a.note.isSome).map fun a => (x.2.number, a)
    dies := (l.beds.map (· / 16)).eraseDups, beds := l.beds }

/-- R210: waiting messages of a loop, each on its element where the load now stands; before it stood on other beds. -/
def LoopState.moved (x : LoopState) (old new : List Nat) : LoopState :=
  let tile (n : Nat) : Nat := new.getD (old.idxOf (n / 4)) 0 * 4 + n % 4
  { x with waiting := x.waiting.map fun m => { m with elem := tile (m.elem / 16) * 16 + m.elem % 16 } }

/-- R426: a load as it is once it has been saved: it has no beds, and keeps its range, its reservation and its rings. -/
def State.asSaved (s : State) (l : Load) (beds : List Nat) : Load :=
  { l with
    phase := .saved, beds := [], entries := [], loops := [], held := [], ranges := [], claims := [], suspended := false
    saved := some { s.savedOf l with
      loops := l.loops.map fun (x : LoopState) => x.moved l.beds beds
      beds := beds, dies := (beds.map (· / 16)).eraseDups, hold := beds.filter fun b => decide (b ∉ l.beds) } }

/-- The state as it would be with some loads of the fabric pre-empted. -/
def State.without (s : State) (gone : Load → Bool) : State :=
  let out := s.loads.filter fun l => l.stands && gone l
  { s with
    loads := s.loads.map fun l => if l.stands && gone l then s.asSaved l (l.beds.map s.standIn) else l
    claims := s.claims.filter fun c => !(out.any fun l => decide (c ∈ l.claims)) }

/-- R423: a latency load waits for beds that batch loads hold, and the loads already draining do not free enough. -/
def State.wantsBeds (s : State) (l : Load) : Bool :=
  l.latency && (l.phase == .waiting || l.phase == .saved) && !s.neverFits l && (s.bedsFor l).isNone
    && ((s.without fun x => x.phase == .draining).bedsFor l).isNone
    && ((s.without fun x => x.phase == .draining || s.victim? x).bedsFor l).isSome

/-- R423: the victims on the beds a latency load needs: those without whose beds it cannot be placed, or, where no one of them is needed by
itself, those on beds it may take. -/
def State.victimsFor (s : State) (l : Load) : List Load :=
  let all := s.loads.filter s.victim?
  let bare (but : Nat) : State := s.without fun x => x.phase == .draining || (s.victim? x && x.id != but)
  let needed := all.filter fun x => ((bare x.id).bedsFor l).isNone
  let none_ : State := s.without fun x => x.phase == .draining || s.victim? x
  if needed.isEmpty then all.filter fun x => x.beds.any fun b => decide (b ∈ none_.bedOrder l (none_.bedsTaken l)) else needed

/-- R423: a load is the next victim of some latency load. -/
def State.nextVictim (s : State) (l : Load) : Bool := s.loads.any fun x =>
  s.wantsBeds x && (let q := s.victimsFor x; q.any (fun y => y.id == l.id) && !(q.any fun y => y.id != l.id && victimBefore y l))

/-- R471: a load that stands on a failed bed. -/
def State.onFailed (s : State) (l : Load) : Bool :=
  l.stands && l.beds.any fun b => decide (b ∈ s.beds.out) || s.beds.used.any fun u => u.1 == b / 16 && u.2 == b % 16

/-- R424, R425: an unlimited wait of a draining load that has received nothing. -/
def Req.unlimited (r : Req) : Bool := r.answer.isNone && match r.op with
  | .lds w => w
  | .stgwait _ _ => true
  | .tlwait _ _ n => n == 0
  | _ => false

/-- A block waits to READ a register that an operation of a block committed before it will fill (R216, R242). -/
def Task.awaits (k : Task) (f : Firing) (id : Nat) : Bool := f.words.zipIdx.any fun w =>
  bits 55 9 w.1 == 0x060 && f.canFire w.2 w.1 && match k.regs[(bits 14 5 w.1).toNat]? with
    | some { due := some (.result q _), .. } => q == id
    | _ => false

/-- R424: the operation holds the oldest block in flight of its task: it is that block's own, or fills a register the block waits to
read. -/
def State.holdsOldest (s : State) (r : Req) : Bool := match r.task with
  | some t => match (s.task t).flights with
    | f :: _ => f.serial == r.serial || (s.task t).awaits f r.id
    | [] => false
  | none => false

/-- R342, R424: a copy of a draining load whose start condition is unmet. -/
def State.unmetCopies (s : State) (l : Load) : List (Nat × Nat) := l.tiles.flatMap fun n =>
  ((List.range 4).filter fun cx => match (s.tile n).queue cx with
    | c :: _ => c.state == .waiting && (match c.op with
        | .copy _ _ _ _ _ _ start _ => !s.mayStart c start
        | _ => false)
    | [] => false).map fun cx => (n, cx)

/-- R425: the waits of a draining load that its drain cancels with the wait itself: STGWAIT and TLWAIT. -/
def State.idleWaits (s : State) (l : Load) : List Req := s.reqs.filter fun r => r.load == l.id && r.unlimited && s.holdsOldest r && match r.op with
  | .lds _ => false
  | _ => true

/-- PREEMPT_START may take place, or has more to do for a load that drains. -/
def State.mayPreempt (s : State) (l : Load) : Bool :=
  (l.phase == .draining && (!(s.unmetCopies l).isEmpty || !(s.idleWaits l).isEmpty))
    || (l.phase == .placed && !s.killed l && !s.hasParked l
        && (s.onFailed l || (s.victim? l && s.nextVictim l)))

/-- R424: the activation of a task is abandoned: its messages stay at the head of their channels, its keys counted. -/
def State.abandon (s : State) (t : TaskRef) : State :=
  let s := s.withdraw t
  s.modTask t fun k =>
    { k with
      act := none, dropped := k.dropped ++ k.act.toList, flights := [], fetch := none, replay := []
      pending := k.pending.map fun a => { a with since := s.cycle }
      phase := if k.pending.isEmpty then Phase.idle else Phase.ready }

/-- R342, R424: a copy is suspended by the drain. -/
def State.drainCopy (s : State) (x : Nat × Nat) : State := match (s.tile x.1).queue x.2 with
  | c :: _ => s.modCmd x.1 x.2 c.id fun k => { k with state := .suspended, suspend := true }
  | [] => s

/-- PREEMPT_START (R423 to R425, R342, R471): the drain markers leave; unmet copies are suspended, and waits cancelled. -/
def execPreemptStart (s : State) : Host.Outcome State Fault Refusal :=
  match s.cur.work with
  | some (.preemptStart id) => match s.load id with
    | none => .next s
    | some l =>
      if !s.mayPreempt l then .next s
      else
        let s := s.modLoad id fun l => { l with phase := .draining }
        let s := (s.unmetCopies l).foldl State.drainCopy s
        .next (((s.idleWaits l).filterMap (·.task)).eraseDups.foldl State.abandon s)
  | _ => .next s

/-- R425: a waiting LDS that a drain cancels. -/
def State.mayCancel (s : State) (r : Req) : Bool := s.draining r.load && r.unlimited && s.holdsOldest r && match r.op with
  | .lds _ => true
  | _ => false

/-- READER_CANCEL (R87, R425): the reader leaves its word's list, and its block's activation is abandoned; a value already sent stands. -/
def execReaderCancel (s : State) : Host.Outcome State Fault Refusal :=
  match s.cur.work with
  | some (.readerCancel id) => match s.req id with
    | none => .next s
    | some r => match s.cancelReader id, r.task with
      | none, some t =>
        -- a reader held at a full pool leaves it (R85)
        if s.draining r.load && r.answer.isNone && decide (8192 ≤ s.poolUsed r.loc) then .next (s.abandon t) else .next s
      | none, none => .next s
      | some s, some t => .next (if s.draining r.load then s.abandon t else s.dropReq id)
      | some s, none => .next (s.dropReq id)
  | _ => .next s

/-! Saving (R388, R402, R426). -/

/-- R424: the engines hold nothing but copies that are suspended, those behind them, and their follow-ons. -/
def State.enginesSaved (s : State) (l : Load) : Bool := l.tiles.all fun n =>
  let t := s.tile n
  t.canopy.isEmpty && (t.matrix.all fun m => m.copyOf.any fun c => t.copies.any fun x => x.cmds.any fun k => k.id == c) && t.copies.all fun x => match x.cmds with
    | [] => true
    | c :: _ => c.state == .suspended

/-- PREEMPT_SAVE may take place: the load is quiescent (R424). -/
def State.mayPreemptSave (s : State) (l : Load) : Bool :=
  l.phase == .draining && l.reloads.isEmpty && s.tasksIdle l && s.enginesSaved l && !(s.reqs.any fun r => r.load == l.id && !r.lateWait) && !(s.packets.any fun p => p.load == l.id)
    && (l.nodes.all fun n => n.sent)

/-- R213, R448: the records of a channel's backing queue, from the start of its ring; 64 fit. -/
def State.writeBacking (s : State) (l : Load) (x : Nat × Place) : State :=
  let e : ElemRef := ⟨l.tileAt x.2, x.2.elem⟩
  let v := s.vc e x.2.vc
  let t := match l.receiver x.2 with
    | some k => l.taskRef k
    | none => ⟨e.tile, e.elem, 0⟩
  match v.ringBase with
  | none => s
  | some base => (((s.backing l).filter fun y => y.1 == x.1).take 64).zipIdx.foldl (fun (s : State) y =>
      s.deviceWrite (placeBytes (base + 320 * y.2)
        (letterBytes y.1.2.ctx y.1.2.stamp y.1.2.vc 0 y.1.2.payload s.podtime (s.handle t)))) s

/-- PREEMPT_SAVE (R426): the state is saved, the beds are free. -/
def execPreemptSave (s : State) : Host.Outcome State Fault Refusal :=
  match s.cur.work with
  | some (.preemptSave id) => match s.load id with
    | none => .next s
    | some l =>
      if !s.mayPreemptSave l then .next s
      else
        let failed := s.onFailed l
        let level := match s.launch l.launch with
          | some x => x.level
          | none => 0
        -- R471: on a failed bed the configuration moves to the die's spare
        let moved := l.beds.map s.standIn
        let stay := (failed && !(l.beds.any fun b => decide (b ∈ s.beds.out))) || decide (2 ≤ level)
        let y := { s.asSaved l moved with stay := stay }
        let s := (l.cfg.receivers.foldl (fun (s : State) x => s.writeBacking l x) s)
        let s := s.vacate l
        let s := s.freshUnits l false
        .next (s.modLoad id fun _ => y)
  | _ => .next s

/-! Resuming (R404, R410, R416, R418). -/

/-- R402, R404: accumulators and scale ports are restored. -/
def State.restoreMatrix (s : State) (l : Load) (v : Saved) : State :=
  v.matrix.foldl (fun (s : State) x => s.modTile (l.beds.getD (x.1 / 4) 0 * 4 + x.1 % 4) fun t =>
    { t with accs := (t.accs.zip x.2.1).map fun a => if a.2.live then a.2 else a.1, scale := x.2.2.1 }) s

/-- R404: the MLDBs of the kept load records enter the matrix queues of their tiles, ahead of all else. The record of R402 keeps no FTZ: they run
under the context's csr.fpmode at the resume (log 49). DESIGN CHOICE. -/
def State.queueReloads (s : State) (l : Load) : List (Nat × Nat × Macro) → List (Nat × Nat) × State
  | [] => ([], s)
  | (n, m, x) :: r => match x.loaded with
    | none => State.queueReloads s l r
    | some (ctx, b, scale) =>
      let tile := l.beds.getD (n / 4) 0 * 4 + n % 4
      let (id, s) := s.newId
      let c : Cmd := { id := id, op := .mldb m x.ty b scale, ctx := ctx, load := l.id, ftz := (s.ctx ctx).fpmode.getLsbD 0 }
      let s := s.modTile tile fun t => { t with matrix := t.matrix ++ [c] }
      let (q, s) := State.queueReloads s l r
      ((tile, id) :: q, s)

/-- Puts a command into a queue by its number. -/
def insertCmd (c : Cmd) : List Cmd → List Cmd
  | [] => [c]
  | x :: r => if c.id < x.id then c :: x :: r else x :: insertCmd c r

/-- R340, R341, R426: copies are restored; those the drain suspended go on, with their follow-ons in the matrix queue. -/
def State.restoreCopies (s : State) (l : Load) (v : Saved) : State :=
  v.copies.zipIdx.foldl (fun (s : State) x =>
    let tile := l.beds.getD x.1.1 0 * 4 + x.1.2.1
    let cx := x.2 % 4
    let wake (c : Cmd) : Cmd := if c.suspend then { c with state := .waiting, suspend := false } else c
    let cmds := x.1.2.2.cmds.map wake
    let follows := cmds.filterMap fun c => match c.op with
      | .copy _ d _ _ _ _ _ (some f) =>
        some ({ id := c.id + 2 ^ 64, op := f.op d, tl := c.tl, num := c.num, ctx := c.ctx, load := c.load, task := c.task, ftz := c.ftz,
                copyOf := some c.id, ready := false } : Cmd)
      | _ => none
    let s := s.modTile tile fun t => { t with copies := listMod t.copies cx fun _ => { cmds := cmds }, matrix := follows.foldl (fun q c => insertCmd c q) t.matrix }
    if cmds.isEmpty then s else s.post (.copyStart tile cx)) s

/-- R200, R203, R213: the tasks of a resumed load: Exited ones stay so; a Swapped one is bound and Idle, or Ready when a notification
activation that its drain abandoned pends again; the digest goes on (R122), and so does a cut of the activation that starts again (R271). -/
def State.restoreTasks (s : State) (l : Load) (v : Saved) : State :=
  let s := v.runs.foldl (fun (s : State) x => s.modTask (l.taskRef x.task) fun k => { k with acts := x.acts, cut := x.cut, stored := x.stored }) s
  v.tasks.foldl (fun (s : State) x =>
    let t := l.taskRef x.1
    if x.2 = .exited then s.modTask t fun k => { k with phase := .exited }
    else
      let mine := (v.notes.filter fun y => y.1 == x.1).map fun y => { y.2 with since := s.cycle }
      (s.modTask t fun k => { k with pending := mine, phase := if mine.isEmpty then .idle else .ready }).modElem (elemOf t) fun e =>
        { e with bound := e.bound ++ [t.slot] }) s

/-- R213: the backing queues are delivered before any new arrival. -/
def State.restoreQueues (s : State) (l : Load) (v : Saved) : State :=
  l.cfg.receivers.foldl (fun (s : State) x =>
    let e : ElemRef := ⟨l.tileAt x.2, x.2.elem⟩
    let t := match l.receiver x.2 with
      | some k => l.taskRef k
      | none => ⟨e.tile, e.elem, 0⟩
    let ms := (v.back.filter fun y => y.1 == x.1).map (·.2)
    if ms.isEmpty then s
    else if (s.task t).phase = .exited then ms.foldl (fun (s : State) m => s.deadMessage m e t 0) s
    else (s.modVc e x.2.vc fun c => { c with ring := ms.take 64, held := ms.drop 64, ringHead := 0, spilled := true }).refill e t x.2.vc 160) s

/-- R418, R404, R410, R416: a saved load resumes; it finds its registers, shapes and temporaries empty. -/
def State.resume (s : State) (l : Load) (v : Saved) (beds : List Nat) : State :=
  let (l, s) := s.seat { l with held := v.held, saved := none } beds
  let s := (((s.clearBeds l).freshUnits l true).placeTasks l).restoreMatrix l v
  let macros := v.matrix.flatMap fun x => x.2.2.2.zipIdx.filterMap fun m => if m.1.valid then some (x.1, m.2, m.1) else none
  let (reloads, s) := s.queueReloads l macros
  let s := s.giveRings l (v.rings.filterMap fun r => (l.cfg.chans[r.1]?).map fun h => (h.place, r.2))
  let s := { s with stages := s.stages ++ v.stages.map fun (x : Nat × Nat × Stage) => ((l.beds.getD x.1 0, x.2.1), { x.2.2 with waiters := [] }) }
  let s := s.modLoad l.id fun y =>
    { y with entries := v.entries, loops := v.loops.map (fun (x : LoopState) => x.moved v.beds l.beds), ranges := v.ranges, resumed := true, reloads := reloads }
  let s := v.held.foldl (fun (s : State) _ => s.post (.frontierResume (l.tracker / 64))) s
  let s := ((s.restoreTasks l v).restoreCopies l v).restoreQueues l v
  let s := if reloads.isEmpty then s else s.post (.loadResume l.id)
  (s.sweepLoops l.id).writeStatus l.ctx

/-- R404, R336: the reload of a macro that stands first: it goes on, is done, or fails the launch; while it runs no block of the load fires. -/
def State.reloadMacro (s : State) (l : Load) (tile id : Nat) (rest : List (Nat × Nat)) : State :=
  let again (s : State) : State := s.post (.loadResume l.id)
  match s.matrixCmd tile id with
  | none => again (s.modLoad l.id fun l => { l with reloads := rest })
  | some c => match c.op with
    | .mldb m ty b scale => match s.performMldb tile c m ty b scale with
      | .wait s => again s
      | .bad r s => s.complete l.launch 4 r.code.num
      | .got _ s =>
        let s := (s.dropEngReads tile 4 c).modTile tile fun t => { t with matrix := t.matrix.filter fun x => decide (x.id ≠ id) }
        let s := s.modLoad l.id fun l => { l with reloads := rest }
        if rest.isEmpty then s else again s
    | _ => s

/-- R65: the saved state of a load meets an uncorrectable error in the pre-emption area of one of its dies; where its bytes lie there is
not given (log 10). -/
def State.savedBad (s : State) (v : Saved) : Bool := v.dies.any fun d =>
  (s.badIn (localKey .ds (d * 64) 0 0x03000000) 0x01000000).isSome && Config.freeBit s.tick d

/-- LOAD_RESUME (R416, R418, R39, R404, R65, R410): the configuration is filled, the saved state restored, and the macros are reloaded. -/
def execLoadResume (s : State) : Host.Outcome State Fault Refusal :=
  match s.cur.work with
  | some (.loadResume id) => match s.load id with
    | none => .next s
    | some l => match l.reloads with
      | (tile, cmd) :: rest => .next (s.reloadMacro l tile cmd rest)
      | [] =>
        if !s.mayResume l then .next s
        else if s.neverFits l then .next (s.complete l.launch 3 0)
        else match s.bedsFor l, l.saved with
          | some beds, some v =>
            if s.savedBad v then .next (s.complete l.launch 4 FCode.uncorrectable.num)
            else match s.fillBeds l.ctx (beds.zip (l.cfg.pages ++ List.replicate beds.length [])) with
              | (some c, s) => .next (s.complete l.launch 2 c.num)
              | (none, s) => .next (s.resume l v beds)
          | _, _ => .next s
  | _ => .next s

/-! Failed beds (R471, R482). -/

/-- BED_FAIL (R471): the die's spare takes the bed's place, or the bed is disabled; the load on it drains, and a level-2 launch that
ran on a substituted bed will complete with DETERM. -/
def execBedFail (s : State) : Host.Outcome State Fault Refusal :=
  match s.cur.work with
  | some (.bedFail die bed) =>
    if !s.tileEnabled (die * 64 + bed * 4) then .next s
    else
      let here := die * 16 + bed
      let hit := s.loads.filter fun l => l.stands && decide (here ∈ l.beds)
      let kept (l : Load) : Bool := l.saved.any fun v => l.stay && decide (here ∈ v.beds)
      let first := !(s.beds.used.any fun u => u.1 == die)
      let s := if first then { s with beds := { s.beds with used := s.beds.used ++ [(die, bed)] } }
        else { s with beds := { s.beds with out := s.beds.out ++ [here] } }
      let lost (x : Launch) : Launch := if x.level = 2 ∧ (hit ++ s.loads.filter kept).any (fun l => l.launch == x.id) then { x with lost := true } else x
      let s := if first then { s with launches := s.launches.map lost } else s
      .next (((hit.map fun l => Work.preemptStart l.id).foldl State.post s).event 0x09 die 0 here (if first then 0 else 1))
  | _ => .next s

end Sys2Proof.Machine
end

