-- ==== Sys2Proof/Machine/Links.lean ====
section
/-! DEFINITION. The Sladom links: requests, reply tables, retransmission and time-outs (spec/03_memory_side_agents.md R78 to R82, R86;
spec/20_multichip.md R453, R456), and the failure of lanes and planes (R455). -/

namespace Sys2Proof.Machine

/-- R78: cycles of a number of microseconds. -/
def usCycles (n : Nat) : Nat := n * Config.cyclesPerUs

/-- R79: operations that take a reply-table entry. -/
def Req.needsEntry (r : Req) : Bool := match r.op with
  | .atomic _ _ _ _ _ _ _ | .acasm _ _ _ _ | .aenq _ _ _ _ | .sts _ | .stclr _ | .wenq _ _ _ => true
  | _ => false

/-- R456: operations that are retransmitted; of an AENQ or a WENQ so are the writes that its agent makes over a link. -/
def Req.retransmitted (r : Req) : Bool := r.needsEntry || match r.op with
  | .load _ _ | .pair | .vload _ | .achase _ _ _ | .lds _ | .legs _ _ _ => true
  | _ => false

/-- R299, R456: operations that answer TIMEOUT when no reply has come. -/
def Req.timesOut (r : Req) : Bool := r.needsEntry || match r.op with
  | .legs _ _ _ => true
  | _ => false

/-- R86: a waiting LDS is on its word's list: its deferred acknowledgement has stopped the sender's timer. -/
def State.deferredAck (s : State) (id : Nat) : Bool := s.words.any fun w => match w.2 with
  | .deferred l => decide (id ∈ l)
  | .full _ => false

/-- R476: for 1 ms after a warm reset this package's agents answer REPLAY_UNKNOWN to every retransmitted request. -/
def State.refusesRetries (s : State) (r : Req) : Bool := paPackage r.loc == s.package && decide (s.cycle < s.noRetry)

/-- R79: an agent, by its package too. -/
def agentOf (pa : Nat) : Nat := paPackage pa * 1024 + homeAgent pa

/-- R78, R317, R453: a request leaves for the link to its package: it takes its identifier and its timers, and its way to the plane's
switch; with a circuit, a .c request takes that (R435). -/
def State.sendRemote (s : State) (r : Req) : State :=
  let unit := match r.tileOf with
    | some n => n * 16 + (match r.task with
      | some t => t.elem
      | none => 15)
    | none => 0xFFFF
  let s := s.modReq r.id fun q => { q with link := some ⟨s.package, unit, r.id % 2 ^ 32⟩, start := s.cycle, sent := s.tick + 1 }
  let s := s.postAll [.linkRetransmit r.id, .linkTimeout r.id]
  match r.tileOf with
  | none => s.post (.linkRequestArrive r.id 0)
  | some tile =>
    let dest := s.homeRouter r.loc r.atAgent
    s.sendPacket { id := 0, net := 0, load := r.load, at_ := routerOf tile, dest := dest, payload := .request r.id
                   slot := match r.op with | .atomic _ _ _ _ true _ _ => s.combSlot r.load tile dest | _ => none }

/-- R453: a request that the same unit issued earlier to the same line has still to arrive on the same plane. -/
def State.arrivesBefore (s : State) (r : Req) (n : Nat) : Bool := s.reqs.any fun q =>
  q.id != r.id && decide (q.sent < r.sent) && q.sameStream r
    && ((s.agenda.any fun w => match w with
        | .linkRequestArrive j m => j == q.id && m % 48 == n % 48
        | _ => false)
      || (n == 0 && s.packets.any fun p => p.payload == .request q.id))

/-- R476: what an agent that has just been reset answers a retransmitted request that it does not execute: REPLAY_UNKNOWN; an access that delivers
no status (R299) has no data then, and its block faults UNCORRECTABLE (log 49). DESIGN CHOICE. -/
def refusal (r : Req) : Answer := match r.op with
  | .load _ _ | .pair | .vload _ => failWith { code := .uncorrectable, link := true, addr := r.loc, auxB := r.va, cause := if r.eng.isSome then 24 else 0 }
  | _ => { r0 := 0, r1 := statusUnknown }

/-- R80, R82: an operation with a reply-table entry arrives at its agent: executed, replayed, attached, refused or held. -/
def State.takeAtAgent (s : State) (r : Req) (k : LinkId) (n : Nat) : State :=
  let agent := agentOf r.loc
  match s.replies.find? fun e => e.agent == agent && e.link == k with
  | some e => match e.done with
    | some a => s.reply r.id a
    | none => s
  | none =>
    if n ≠ 0 ∧ (usCycles 900 ≤ s.cycle - r.start ∨ s.refusesRetries r) then s.reply r.id { r0 := 0, r1 := statusUnknown }
    else if 4096 ≤ (s.replies.filter fun e => e.agent == agent).length then s.post (.linkRequestArrive r.id n)
    else
      (({ s with replies := s.replies ++ [({ agent := agent, link := k, req := r.id, first := r.start, born := s.cycle } : ReplyEntry)] } : State).arriveHome r).post
        (.replyEntryAgeOut agent)

/-- R74, R91: an AENQ or a WENQ whose agent is not at work on a write over a link: a retransmission of it finds it pending (R80). -/
def Req.atOwnHome (r : Req) : Bool := match r.op with
  | .legs home _ _ => r.loc == home
  | _ => false

/-- LINK_REQUEST_ARRIVE (R80, R82, R86, R453): a request that has no identifier yet sets out once it may be sent; one that has comes to its home,
with the retry count of the packet that brings it, unless its plane is out of use (R455). -/
def execLinkRequestArrive (s : State) : Host.Outcome State Fault Refusal :=
  match s.cur.work with
  | some (.linkRequestArrive id n) => match s.req id with
    | none => .next s
    | some r => match r.link with
      | none =>
        if r.answer.isSome then .next s
        else if !s.mayPerform r then .next (s.post (.linkRequestArrive id n))
        else .next (s.sendRemote r)
      | some k =>
        if planeOf r.loc n ∈ s.ports.disabled then .next s
        else if s.arrivesBefore r n then .next (s.post (.linkRequestArrive id n))
        else
          let s := s.modReq id fun q => { q with via := n }
          let r := { r with via := n }
          if r.needsEntry then .next (s.takeAtAgent r k n)
          else if r.answer.isSome || s.deferredAck id || r.atOwnHome then .next s
          else if n ≠ 0 ∧ s.refusesRetries r then .next (s.reply id (refusal r))
          else .next (s.arriveHome r)
  | _ => .next s

/-- R78: the times of the retransmissions, by the number already made. -/
def retryAt : Nat → Nat
  | 0 => usCycles 50
  | 1 => usCycles 100
  | 2 => usCycles 200
  | _ => usCycles 400

/-- R93, R95: a request that has merged into another: the port that merged them retransmits and times that one. -/
def State.merged (s : State) (id : Nat) : Bool := s.combines.any fun c => c.first == id || c.second == id

/-- LINK_RETRANSMIT (R78, R453, R456): an unanswered request goes out again on the next plane. -/
def execLinkRetransmit (s : State) : Host.Outcome State Fault Refusal :=
  match s.cur.work with
  | some (.linkRetransmit id) => match s.req id with
    | none => .next s
    | some r =>
      if r.answer.isSome || !r.retransmitted || s.deferredAck id || s.merged id || decide (4 ≤ r.retries) then .next s
      else if s.cycle - r.start < retryAt r.retries then .next (s.post (.linkRetransmit id))
      else .next ((s.modReq id fun q => { q with retries := q.retries + 1 }).postAll [.linkRequestArrive id (r.retries + 1), .linkRetransmit id])
  | _ => .next s

/-- A packet or a step that is still to come carries a request to its home, or it is there. -/
def State.underWay (s : State) (r : Req) : Bool :=
  r.held || (s.packets.any fun p => p.payload == .request r.id) || s.agenda.any fun w => w == r.homeWork || match w with
    | .linkRequestArrive j _ => j == r.id
    | _ => false

/-- R78, R80: the sender gives up: what is under way may still be executed at the home and answers nobody; the sender's side goes on under a
number of its own. -/
def State.giveUp (s : State) (r : Req) : Nat × State :=
  let (new, s) := s.newId
  let stays := if s.underWay r then [{ r with task := none, eng := none, load := 0, wait := none }] else []
  let due (x : Reg) : Reg := match x.due with
    | some (.result q second) => if q = r.id then { x with due := some (.result new second) } else x
    | _ => x
  let s := { s with
    reqs := (s.reqs.filter fun q => decide (q.id ≠ r.id)) ++ stays ++ [{ r with id := new, link := none, held := false, back := true }]
    combines := s.combines.map fun c => if c.merged = r.id then { c with merged := new } else c }
  (new, match r.task with
    | some t => s.modTask t fun k => { k with regs := k.regs.map due }
    | none => s)

/-- LINK_TIMEOUT (R78, R317, R456): 500 µs have passed since the first issue. -/
def execLinkTimeout (s : State) : Host.Outcome State Fault Refusal :=
  match s.cur.work with
  | some (.linkTimeout id) => match s.req id with
    | none => .next s
    | some r =>
      if r.answer.isSome || s.deferredAck id || s.merged id then .next s
      else if s.cycle - r.start < usCycles 500 then .next (s.post (.linkTimeout id))
      else if r.timesOut then
        let (new, s) := s.giveUp r
        .next (s.finish new { r0 := 0, r1 := statusTimeout })
      else match r.op with
        | .store _ =>
          let (new, s) := s.giveUp r
          .next (s.writeLost { r with id := new } 24 true)
        | _ => .next ((s.modReq id fun q => { q with back := true }).finish id
            (failWith { code := .uncorrectable, link := true, addr := r.loc, auxB := r.va, cause := if r.eng.isSome then 24 else 0 }))
  | _ => .next s

/-- REPLY_ENTRY_AGE_OUT (R79, R82): the agent's oldest entry has lived 1 ms. -/
def execReplyEntryAgeOut (s : State) : Host.Outcome State Fault Refusal :=
  match s.cur.work with
  | some (.replyEntryAgeOut agent) => match s.replies.find? fun e => e.agent == agent with
    | none => .next s
    | some e =>
      if s.cycle - e.born < usCycles 1000 then .next (s.post (.replyEntryAgeOut agent))
      else .next { s with replies := s.replies.filter fun x => decide (x ≠ e) }
  | _ => .next s

/-! Lanes and planes (R455). -/

/-- A request, with the retry count of its packet, in the custody of a port: it is on the port's plane, and where it stands is free (log 10). -/
def State.inCustody (s : State) (port id n : Nat) : Bool := match s.req id with
  | some r => r.link.isSome && planeOf r.loc n == port && Config.freeBit s.tick id
  | none => false

/-- R455: the reply of a request in the custody of a port: the home has made it, and it has not come back to this package. -/
def State.replyInCustody (s : State) (port : Nat) (r : Req) : Bool :=
  r.answer.isSome && !r.back && s.remote r.loc && s.inCustody port r.id r.via && !(s.packets.any fun p => p.payload == .reply r.id)

/-- R455: a port is disabled: requests and replies in its custody are lost, the event is recorded. -/
def State.disablePort (s : State) (port : Nat) : State :=
  let lost : List Req := s.reqs.filter (s.replyInCustody port)
  let kept (w : Work) : Bool := match w with
    | .linkRequestArrive id n => !s.inCustody port id n
    | _ => true
  let back (r : Req) : Req := if lost.any (fun q => q.id == r.id) then { r with answer := none } else r
  let s : State := { s with
                     ports := { s.ports with disabled := s.ports.disabled ++ [port] }
                     agenda := s.agenda.filter kept
                     packets := s.packets.filter fun p => !(decide (1024 ≤ p.at_) && (p.at_ - 1024) / 512 == port)
                     reqs := s.reqs.map back }
  (s.postAll (lost.flatMap fun r => [Work.linkRetransmit r.id, .linkTimeout r.id])).event 0x05 13 0 port 0

/-- LANE_FAIL (R455): the port's spare lane takes over; a second failure disables the port. -/
def execLaneFail (s : State) : Host.Outcome State Fault Refusal :=
  match s.cur.work with
  | some (.laneFail port) =>
    if port ∈ s.ports.disabled then .next s
    else if port ∈ s.ports.lanes then .next (s.disablePort port)
    else .next (({ s with ports := { s.ports with lanes := s.ports.lanes ++ [port] } } : State).event 0x04 13 0 port 0)
  | _ => .next s

/-- PLANE_FAIL (R452, R455): the port cabled to the plane is disabled. -/
def execPlaneFail (s : State) : Host.Outcome State Fault Refusal :=
  match s.cur.work with
  | some (.planeFail plane) => if plane ∈ s.ports.disabled then .next s else .next (s.disablePort plane)
  | _ => .next s

end Sys2Proof.Machine
end

