-- ==== Sys2Proof/Machine/Services.lean ====
section
/-! DEFINITION. What the host and the management do to the part: KILL and DBGACT (spec/21_faults_and_system.md R478), contexts
(spec/20_multichip.md R463), the invalidation registers (spec/01_address_spaces.md R41, R42), resets (R475, R476), registers, power and
temperature (R474), and the security processor (R477). -/

namespace Sys2Proof.Machine

/-! Ending launches (R478). -/

/-- R478, R343: the commands of one unit of a tile that do not run are discarded; running ones complete. A follow-on ends with its copy. -/
def State.discardUnit (s : State) (load tile unit : Nat) : State :=
  ((s.tile tile).queue unit).foldl (fun (s : State) c =>
    if c.load ≠ load ∨ c.state = .running ∨ c.copyOf.isSome then s else s.discardCmd tile unit c) s

/-- R478, R343: the engine commands of a load complete or are discarded. -/
def State.discardEngines (s : State) (l : Load) : State :=
  l.tiles.foldl (fun (s : State) n => (List.range 6).foldl (fun (s : State) u => s.discardUnit l.id n u) s) s

/-- R444: contributions that nodes of an ending load still hold go to the dead letters. -/
def State.endNodes (s : State) (l : Load) : State :=
  let s := s.modLoad l.id fun (l : Load) => { l with nodes := l.nodes.map fun (n : RedNode) => { n with a := none, b := none, sent := true } }
  l.nodes.foldl (fun (s : State) n => match l.cfg.groups[n.group]? with
    | none => s
    | some g => ([n.a, n.b].filterMap id).foldl (fun (s : State) c => s.lateReduced l g n.stamp c.1 c.2.1 2) s) s

/-- R404: the MLDBs that a resume has still to run end without a trace. -/
def State.dropReloads (s : State) (l : Load) : State :=
  (l.reloads.foldl (fun (s : State) x => s.modTile x.1 fun t => { t with matrix := t.matrix.filter fun c => decide (c.id ≠ x.2) }) s).modLoad l.id
    fun (l : Load) => { l with reloads := [] }

/-- R478: a load that stands on the fabric stops: each task as ERET's action 1 stops it, its engine commands, its nodes. -/
def State.stopLoad (s : State) (l : Load) : State :=
  let s := (s.dropReloads l).modLoad l.id fun (l : Load) => { l with phase := .placed }
  let s := (List.range l.cfg.tasks.length).foldl (fun (s : State) n => s.killTask (l.taskRef n)) s
  (s.discardEngines l).endNodes l

/-- R363, R214: the handle of a task of a pre-empted load, on the beds it left. -/
def Load.savedHandle (l : Load) (v : Saved) (task : Nat) : Nat :=
  let t := { l with beds := v.beds }.taskRef task
  t.tile + t.elem * 2 ^ 10 + t.slot * 2 ^ 14 + l.ctx * 2 ^ 17 + l.gen * 2 ^ 32

/-- R213: the messages that a pre-empted load keeps, with the channel number of each: its backing queues, and what waits at its loops. -/
def Load.savedMessages (l : Load) (v : Saved) : List (Nat × Msg) :=
  let y := { l with beds := v.beds }
  v.back ++ v.loops.flatMap fun (x : LoopState) => x.waiting.filterMap fun m =>
    (y.chanAt (y.placeAt ⟨m.elem / 16, m.elem % 16⟩ m.vc)).map fun c => (c, m)

/-- R478, R213, R214: a pre-empted load ends: the numbers of its saved commands complete, and what it kept is dead; it leaves with its launch. -/
def State.stopSaved (s : State) (l : Load) (v : Saved) : State :=
  let s := s.modLoad l.id fun l => { l with saved := some { v with
    copies := [], back := [], notes := [], loops := v.loops.map fun (x : LoopState) => { x with waiting := [] } } }
  let cmds := v.copies.flatMap fun x => x.2.2.cmds
  let s := cmds.foldl (fun (s : State) c => s.timelineDone c.ctx c.tl c.num) s
  let s := (l.savedMessages v).foldl (fun (s : State) x => match (l.cfg.chans[x.1]?).bind fun h => l.receiver h.place with
    | none => s
    | some k => s.deadLetter x.2.ctx x.2.stamp x.2.vc 0 x.2.payload (l.savedHandle v k)) s
  v.notes.foldl (fun (s : State) x => match x.2.note with
    | some n => s.deadLetter l.ctx n.stamp n.place.vc 1 (bytesOfNat 4 n.count) (l.savedHandle v x.1)
    | none => s) s

/-- R478: a launch is ended; the event is recorded. What its tasks have sent still runs out before it completes. -/
def State.killLaunch (s : State) (x : Launch) : State :=
  if x.killed then s
  else
    let mine := s.loads.filter fun l => l.launch == x.id
    let s := { s with launches := s.launches.map fun (y : Launch) => if y.id = x.id then { y with killed := true } else y }
    let s := mine.foldl (fun (s : State) l =>
      if l.stands then s.stopLoad l
      else match l.saved with
        | some v => s.stopSaved l v
        | none => s) s
    s.event 0x0F 12 x.ctx x.image 0

/-- R415: the status KILLED. -/
def statusKilled : Nat := 5

/-- R478: the packets doorbelled and not taken complete with KILLED; HEAD advances past them. -/
def State.killPackets (s : State) (c q : Nat) : Nat → State
  | 0 => s
  | n + 1 =>
    let s := s.meetHead c q
    let p := s.packetAt c q (s.lq c q).head
    State.killPackets ((s.completion c q (BitVec.ofNat 64 (field p 447 384)) statusKilled 0 0 0).advanceHead c q) c q n

/-- R478: BUSY of KILL. -/
def State.killBusy (s : State) : Bool := s.mgmt.kill.getLsbD 63

/-- R478: a KILL write with its selection: the launches of these queues, and their packets. -/
def State.killQueues (s : State) (v : Word) (qs : List Nat) : State :=
  let c := field v.toNat 5 0
  let mine := s.launches.filter fun l => l.ctx == c && decide (l.queue ∈ qs)
  let s := { s with mgmt := { s.mgmt with kill := BitVec.ofNat 64 (field v.toNat 10 0) ||| 0x8000000000000000#64, killing := mine.map (·.id) } }
  let s := qs.foldl (fun (s : State) q => if (s.lq c q).valid then s.killPackets c q (s.lq c q).waiting else s) s
  mine.foldl State.killLaunch s

/-- KILL_QUEUE (R478, R415): a write of KILL that names one queue. -/
def execKillQueue (s : State) : Host.Outcome State Fault Refusal :=
  match s.cur.work with
  | some (.killQueue v) => if s.killBusy then .next s else .next (s.killQueues v [field v.toNat 9 6])
  | _ => .next s

/-- KILL_CONTEXT (R478): a write of KILL with bit 10 set. -/
def execKillContext (s : State) : Host.Outcome State Fault Refusal :=
  match s.cur.work with
  | some (.killContext v) => if s.killBusy then .next s else .next (s.killQueues v (List.range 16))
  | _ => .next s

/-- R478: a killed launch may complete: its loads have run out, or do not stand on the fabric. -/
def State.killReady (s : State) (x : Launch) : Bool := x.killed && s.loads.all fun l => l.launch != x.id || !l.stands || s.drained l

/-- R478: a load of a killed launch still holds engine commands that do not run. -/
def State.killMore (s : State) (l : Load) : Bool :=
  s.killed l && l.stands && l.tiles.any fun n => (List.range 6).any fun u =>
    ((s.tile n).queue u).any fun c => c.load == l.id && c.state != .running && c.copyOf.isNone

/-- KILL_COMPLETE may take place. -/
def State.mayKillComplete (s : State) : Bool :=
  s.launches.any s.killReady || s.loads.any s.killMore || (s.killBusy && s.mgmt.killing.isEmpty)

/-- KILL_COMPLETE (R478, R415): commands that have failed or become idle since are discarded, launches that have run out complete with
KILLED, and BUSY clears once every selected one has. -/
def execKillComplete (s : State) : Host.Outcome State Fault Refusal :=
  match s.cur.work with
  | some .killComplete =>
    let s := (s.loads.filter s.killMore).foldl State.discardEngines s
    let s := (s.launches.filter s.killReady).foldl (fun (s : State) x => s.complete x.id statusKilled 0) s
    .next (if s.mgmt.killing.isEmpty then { s with mgmt := { s.mgmt with kill := s.mgmt.kill &&& 0x7FFFFFFFFFFFFFFF#64 } } else s)
  | _ => .next s

/-! DBGACT (R478, R366). -/

/-- R478: the action on the task that DBGRES names, as an ERET from the trap operator of its context. -/
def State.debugAct (s : State) (action value : Word) : State := s.eret (field s.mgmt.dbgres.toNat 22 17) s.mgmt.dbgres action value

/-- DBG_REFIRE (R478): action 0. -/
def execDbgRefire (s : State) : Host.Outcome State Fault Refusal :=
  match s.cur.work with
  | some .dbgRefire => .next (s.debugAct 0 0)
  | _ => .next s

/-- DBG_KILL (R478): action 1. -/
def execDbgKill (s : State) : Host.Outcome State Fault Refusal :=
  match s.cur.work with
  | some .dbgKill => .next (s.debugAct 1 0)
  | _ => .next s

/-- DBG_REFIRE_SUPPRESS (R478): action 2; the value that ERET takes from slot c is not given here (log 10): it is free. -/
def execDbgRefireSuppress (s : State) : Host.Outcome State Fault Refusal :=
  match s.cur.work with
  | some .dbgRefireSuppress => .next (s.debugAct 2 (BitVec.ofNat 64 (Config.freeNat s.tick)))
  | _ => .next s

/-! Contexts (R463). -/

/-- R463: the command of a control write, if it starts one: no reserved bit is set. -/
def ctlCommand (ctl : Word) : Nat := if field ctl.toNat 62 3 = 0 then field ctl.toNat 1 0 else 0

/-- R463: the HEAD fields of a context's descriptor, RUN and PEND are written 0. -/
def State.clearHeads (s : State) (c : Nat) : State :=
  let b := s.descBase c
  let lq := (List.range 16).flatMap fun q => placeBytes (b + 256 + 32 * q + 4) (bytesOfNat 4 0)
  let pq := (List.range 8).flatMap fun k => placeBytes (b + 768 + 32 * k + 8) (bytesOfNat 8 0)
  s.deviceWrite (lq ++ pq ++ placeBytes (b + 52) (bytesOfNat 4 0))

/-- CONTEXT_CREATE (R463, R2, R40, R107, R475): the checks, the start state, LIVE; there are 64 contexts. The kind of a failure's event is
not given (log 10). Whether the generations of the range-table slots (R101) survive the emptying of the table is not given either: they
do, and a warm reset clears them (log 46). DESIGN CHOICE. Nor what becomes of shadows of an earlier life of the context that are still
unsettled (R121, PEND): the epoch table is emptied with them, so that they are never restored, and marks of theirs stay (log 49). DESIGN
CHOICE. -/
def execContextCreate (s : State) : Host.Outcome State Fault Refusal :=
  match s.cur.work with
  | some (.contextCreate c ctl) =>
    let x := s.ctx c
    if decide (64 ≤ c) || x.live || x.busy || ctlCommand ctl != 1 || !s.power.booted then .next s
    else
    let s := s.meetDesc c
    if !descOk (s.descriptor c) then .next (s.event (Config.freeNat s.tick % 256) 12 c (s.descBase c) 0)
    else
      let y : Ctx := { live := true, gens := x.gens }
      let s := { s with elems := s.elems.map fun (e : ElemRef × Elem) => (e.1, { e.2 with modes := e.2.modes.erase c }) }
      .next (((s.modCtx c fun _ => y).clearHeads c).readDesc c)
  | _ => .next s

/-- R121, R463: every open snapshot of a context is accepted; a held one is released. -/
def Ctx.acceptAll (c : Ctx) : Ctx :=
  let held : Ctx := { c with
                      epochs := c.epochs.map fun e =>
                        if e.2.state = .held then (e.1, { e.2 with state := EpState.retiring })
                        else if e.2.state = .opened then (e.1, { e.2 with state := if e.2.parent = 0 then EpState.retiring else .merging }) else e
                      ranges := [] }
  held.sweep 255

/-- R41, R463: every translation of a context leaves the caches of all dies, its descriptors and its misses with them. -/
def State.dropTranslations (s : State) (c : Nat) : State :=
  { s with
    tc := s.tc.filter fun e => e.ctx != c
    wc := s.wc.filter fun e => e.ctx != c
    tdc := s.tdc.filter fun d => d.1 % 64 != c
    misses := s.misses.filter fun m => m.ctx != c }

/-- CONTEXT_DESTROY (R463, R121): the launches end; then the snapshots are accepted, the translations and the trap queue dropped. -/
def execContextDestroy (s : State) : Host.Outcome State Fault Refusal :=
  match s.cur.work with
  | some (.contextDestroy c ctl) =>
    let x := s.ctx c
    if !x.live || ctlCommand ctl != 2 then .next s
    else
      let mine := s.launches.filter fun l => l.ctx == c
      if mine.isEmpty then
        let s := (s.modCtx c fun y => { y.acceptAll with live := false, busy := false, traps := [] }).dropTranslations c
        .next ((s.settleSoon c).writeStatus c)
      else if x.busy ∧ mine.all (·.killed) then .next (s.post (.contextDestroy c ctl))
      else .next ((mine.foldl State.killLaunch (s.modCtx c fun y => { y with busy := true })).post (.contextDestroy c ctl))
  | _ => .next s

/-! Invalidations (R41, R42). -/

/-- R41: the size of the page an invalidation names. -/
def invalSize (ctl : Word) : Nat := [2 ^ 16, 2 ^ 21, 2 ^ 30, 2 ^ 35].getD (field ctl.toNat 1 0) 0

/-- Two intervals meet. -/
def spansMeet (a n b m : Nat) : Bool := decide (a < b + m) && decide (b < a + n)

/-- R42: the blocks that have used a translation of [va, va + n) of a context, of another one by the slot of a ring (R91), and have not
committed or faulted, and the accesses of
engines to lines that they have translated with one. -/
def State.usersOf (s : State) (c va n : Nat) : List Nat :=
  let within (u : LineUse) : Bool := decide (va ≤ u.va) && decide (u.va < va + n)
  let hit (own : Bool) (p : Nat) : Bool := p / 2 ^ 40 == (if own then 0 else c + 1) && spansMeet (p % 2 ^ 40 * 2 ^ 16) (2 ^ 16) va n  -- pageIn
  (s.tasks.flatMap fun x => (x.2.flights.filter fun f =>
      f.used.any (hit (x.2.ctx == c)) || x.2.ctx == c && f.stores.any fun r => r.lines.any within).map (·.serial))
    ++ (s.reqs.filter fun r => r.eng.isSome && r.ctx == c && r.answer.isNone && r.use.any within).map (·.id)

/-- R41: BUSY is set, and the blocks that completion waits for are noted. -/
def State.startInval (s : State) (c : Nat) (ctl : Word) (users : List Nat) : State :=
  s.modCtx c fun x => { x with inval := { x.inval with ctl := ctl, busy := true, blocks := users } }

/-- R41: a control write starts an invalidation: the context exists, and none runs. -/
def State.mayInval (s : State) (c : Nat) : Bool := (s.ctx c).live && !(s.ctx c).inval.busy

/-- R41, R42: every translation of the context leaves, with every walk-cache entry and miss. -/
def State.invalAll (s : State) (c : Nat) : State :=
  { s with tc := s.tc.filter fun e => e.ctx != c, wc := s.wc.filter fun e => e.ctx != c, misses := s.misses.filter fun m => m.ctx != c }

/-- TRANSLATION_INVALIDATE_PAGE (R41, R42): one virtual page, on all dies. -/
def execTranslationInvalidatePage (s : State) : Host.Outcome State Fault Refusal :=
  match s.cur.work with
  | some (.translationInvalidatePage c ctl) =>
    if !s.mayInval c || ctl.getLsbD 3 || ctl.getLsbD 4 then .next s
    else
      let n := invalSize ctl
      let va := field (s.ctx c).inval.addr.toNat 55 16 * 2 ^ 16 / n * n
      let s := s.startInval c ctl (s.usersOf c va n)
      .next { s with
        tc := s.tc.filter fun e => !(e.ctx == c && spansMeet e.page e.leaf.size va n)
        wc := s.wc.filter fun e => !(e.ctx == c && spansMeet (e.page * 2 ^ levelShift e.level) (2 ^ levelShift e.level) va n)
        misses := s.misses.filter fun m => !(m.ctx == c && spansMeet (m.page * 2 ^ 16) (2 ^ 16) va n) }
  | _ => .next s

/-- TRANSLATION_INVALIDATE_ALL (R41, R42). -/
def execTranslationInvalidateAll (s : State) : Host.Outcome State Fault Refusal :=
  match s.cur.work with
  | some (.translationInvalidateAll c ctl) =>
    if !s.mayInval c || !ctl.getLsbD 3 || ctl.getLsbD 4 then .next s
    else .next ((s.startInval c ctl (s.usersOf c 0 (2 ^ 56))).invalAll c)
  | _ => .next s

/-- TENSOR_INVALIDATE (R41, R57): the descriptor leaves the caches; every L2 line of the tensor in this context is written back and
dropped. With ALL set too, the translations leave as well. -/
def execTensorInvalidate (s : State) : Host.Outcome State Fault Refusal :=
  match s.cur.work with
  | some (.tensorInvalidate c ctl) =>
    if !s.mayInval c || !ctl.getLsbD 4 then .next s
    else
      let tid := field (s.ctx c).inval.addr.toNat 27 16
      let lines := (s.frames.filter fun f => f.st != 0 && f.ctx == c && f.tid == tid).map fun f => lineAt s.package f.die f.sln
      let s := s.startInval c ctl (if ctl.getLsbD 3 then s.usersOf c 0 (2 ^ 56) else [])
      let s := { s with tdc := s.tdc.filter fun d => !(d.1 % 64 == c && d.2.1 == tid) }
      let s := lines.foldl State.dropLine s
      .next (if ctl.getLsbD 3 then s.invalAll c else s)
  | _ => .next s

/-- R42: the blocks an invalidation waits for have committed or faulted, and the engines have finished their lines. -/
def State.mayEndInval (s : State) (c : Nat) : Bool :=
  (s.ctx c).inval.busy && (s.ctx c).inval.blocks.all fun b =>
    !(s.tasks.any fun x => x.2.flights.any fun f => f.serial == b) && !(s.reqs.any fun r => r.id == b && r.answer.isNone)

/-- INVALIDATION_COMPLETE (R42). -/
def execInvalidationComplete (s : State) : Host.Outcome State Fault Refusal :=
  match s.cur.work with
  | some (.invalidationComplete c) =>
    if !s.mayEndInval c then .next s
    else .next (s.modCtx c fun x => { x with inval := { x.inval with busy := false, blocks := [], ctl := x.inval.ctl &&& 0x7FFFFFFFFFFFFFFF#64 } })
  | _ => .next s

/-! Resets and power (R474 to R476). -/

/-- A step that comes from outside the part, or a sparing under way (R67, R68): it stays on the agenda through a reset. -/
def Work.outside : Work → Bool
  | .hostCxlMemRead _ _ | .hostCxlMemWrite _ _ | .registerWrite _ _ | .identWrite _ | .contextCreate _ _ | .contextDestroy _ _
  | .launchDoorbell _ _ _ | .killQueue _ | .killContext _ | .dbgRefire | .dbgKill | .dbgRefireSuppress | .coldReset | .powerLoss
  | .spdmRequest _ | .spdmSlhDsaRequest _ | .doeDiscovery _ | .powerGrant _ _ | .thermalThrottle _ | .thermalRecover _
  | .thermalShutdown _ | .laneFail _ | .planeFail _ | .hostSnoop _ | .translationInvalidatePage _ _ | .translationInvalidateAll _ _
  | .tensorInvalidate _ _ | .hbmRefresh _ _ | .hbmScrub _ _ | .replyEntryAgeOut _ | .l2FrameSpare _ _ _ _ | .pseudoChannelSpare _ _
  | .pseudoChannelCopyDone _ _ | .stackDegrade _ _ => true
  | _ => false

/-- R79, R476: the reply tables of other packages' agents: a reset of this package leaves them. -/
def State.farReplies (s : State) : List ReplyEntry := s.replies.filter fun e => e.agent / 1024 != s.package

/-- R67: the 32 KiB part of a local array or instruction store in which a word lies. -/
def arrayPart (key : Nat) : Nat := if key < 2 ^ 64 then key / 2 ^ 15 else 2 ^ 60 + (key - 2 ^ 64) / 2 ^ 35 * 2 + key / 2 ^ 15 % 2

/-- R363, R6: the bed of a word of ls, ts, bs or an instruction store. -/
def bedOfKey (key : Nat) : Option Nat :=
  if 2 ^ 64 ≤ key then some ((key - 2 ^ 64) / 2 ^ 35 / 64)
  else if lsKey ≤ key then some ((key - lsKey) / 2 ^ 15 / 64)
  else if tsKey ≤ key then some ((key - tsKey) / 2 ^ 20 / 4)
  else if bsKey ≤ key then some ((key - bsKey) / 2 ^ 23)
  else none

/-- R67, R471: what the self-test of a reset does about a failing word: a spare row of its part, of two, takes its place; a bed that has no
spare row left fails, and in ds the word goes on failing. The size of a row is not given: each failing word is a row of its own (log 47).
DESIGN CHOICE. -/
def State.testWord (s : State) (u : Nat) : State :=
  let part := arrayPart u
  if (s.spares.tested.filter fun x => x.1 == part).length < 2 then
    ({ s with spares := { s.spares with tested := s.spares.tested ++ [(part, u)] } } : State).event 0x02 (match bedOfKey u with
      | some b => b / 16
      | none => (u - dsKey) / 2 ^ 26) 0 u 0
  else match bedOfKey u with
    | some b => s.post (.bedFail (b / 16) (b % 16))
    | none => { s with bad := s.bad ++ [u] }

/-- R67, R475: the self-test of a reset, given the words that failed. Configuration caches and receive queues are empty after it. -/
def State.selfTest (s : State) (failing : List Nat) : State :=
  (failing.filter fun u => !isGl u && decide (u < cacheKey 0 0)).foldl State.testWord s

/-- R475: the ROM's check of a firmware image against the fuses: 0 running, 1 a signature that does not verify, 2 a version below the rollback
counter (R478). -/
def Security.verdict (x : Security) (image : List Byte) : Nat :=
  if !(Config.rsaVerifies x.rsaKey image && Config.slhVerifies x.slhKey image) then 1
  else if (Config.firmwareVersion image).toNat < x.rollback then 2
  else 0

/-- R475, R478: the ROM reads the boot flash and checks the firmware: BOOTSTAT, and the event of a failure. -/
def State.boot (s : State) : State :=
  let image := Config.bootFlash s.tick
  let r := s.sec.verdict image
  let s := { s with
    sec := { s.sec with firmware := image }
    power := { s.power with booted := decide (r = 0) }
    mgmt := { s.mgmt with bootstat := BitVec.ofNat 64 (r + (Config.firmwareVersion image).toNat * 2 ^ 16) } }
  if r = 0 then s else s.event 0x0D 12 0 0 r

/-- R450, R12: memory keys of the package's old number become keys of its new one, and the other way round. -/
def swapKey (old new key : Nat) : Nat :=
  if !isGl key then key
  else if paPackage key = old then new * 2 ^ 43 + paOffset key
  else if paPackage key = new then old * 2 ^ 43 + paOffset key
  else key

/-- R450: the package takes its number; what its HBM holds lies under that number from now on. -/
def State.rename (s : State) (old new : Nat) : State :=
  if old = new then s
  else
    let k := swapKey old new
    { s with
      mem := Memory.writeAll [] (s.mem.map fun c => (k c.1, c.2))
      l2mem := Memory.writeAll [] (s.l2mem.map fun c => (k c.1, c.2))
      hostmem := Memory.writeAll [] (s.hostmem.map fun c => (k c.1, c.2))
      bad := s.bad.map k
      words := s.words.map fun w => (k w.1, w.2)
      marks := s.marks.map fun m => (k m.1, m.2)
      hostLines := s.hostLines.map fun l => k (l * 64) / 64
      hostBias := s.hostBias.map k
      shadows := s.shadows.map fun h => { h with line := k h.line, slot := k h.slot } }

/-- R475: what a reset leaves of the security processor: its fuses. -/
def Security.fused (x : Security) : Security := { rollback := x.rollback, rsaKey := x.rsaKey, slhKey := x.slhKey }

/-- COLD_RESET (R475, R51, R67, R368, R473): the state after reset; the fuses, and what belongs to the host and to other packages, their
structure words (R83) and reply tables included, stay. The package's number is 0 again (R450). -/
def execColdReset (s : State) : Host.Outcome State Fault Refusal :=
  match s.cur.work with
  | some .coldReset =>
    let mine (key : Nat) : Bool := !isGl key || (paPackage key == s.package && paIsHbm key)
    let t : State := { State.reset with
                       agenda := s.agenda.filter Work.outside, cur := s.cur, tick := s.tick, nextId := s.nextId, cycle := s.cycle
                       timeBase := s.timeBase, perfBase := s.cycle, mem := s.mem.filter fun c => !mine c.1
                       replies := s.farReplies
                       words := s.words.filter fun w => !mine w.1
                       bad := s.bad.filter fun u => !mine u, images := s.images, beds := { fuse := s.beds.fuse }, ring := [], ringSeq := 0
                       sec := s.sec.fused
                       power := { State.reset.power with since := s.cycle } }
    .next ((((t.rename s.package 0).event 0x0E 12 0 0 0).selfTest s.bad).boot)
  | _ => .next s

/-- POWER_LOSS (R475): the package loses power; nothing acts until power returns and cold reset runs. -/
def execPowerLoss (s : State) : Host.Outcome State Fault Refusal :=
  match s.cur.work with
  | some .powerLoss => .next { s with power := { s.power with on := false } }
  | _ => .next s

/-- R476 step 2: every listed reader is answered EMPTY, and its word returns to EMPTY. -/
def State.endReaders (s : State) : State :=
  let ids := s.words.flatMap fun w => match w.2 with
    | .deferred l => l
    | .full _ => []
  let full : List (Nat × SWord) := s.words.filter fun w => match w.2 with
    | .full _ => true
    | .deferred _ => false
  ids.foldl (fun (s : State) id => s.reply id { r0 := 0, r1 := statusEmpty }) { s with words := full }

/-- R476 steps 3 and 4: snapshots are accepted, settlement finishes, every dirty line is written back. -/
def State.settleAll (s : State) : State :=
  let s : State := { s with ctxs := s.ctxs.map fun (c : Nat × Ctx) => (c.1, c.2.acceptAll) }
  let s := ((s.shadows.map (·.line)).eraseDups).foldl State.settle s
  let s := (s.frames.map fun f => lineAt s.package f.die f.sln).foldl State.dropLine s
  s.hostLines.foldl State.hostDrop s

/-- R476, R67, R368: the state after a warm reset. -/
def State.afterWarm (s : State) : State :=
  let t : State := { State.reset with
                     agenda := s.agenda.filter Work.outside, cur := s.cur, tick := s.tick, nextId := s.nextId, cycle := s.cycle
                     timeBase := s.timeBase, perfBase := s.cycle, mem := s.mem.filter fun c => isGl c.1
                     replies := s.farReplies
                     bad := s.bad.filter isGl, words := s.words, images := s.images, beds := s.beds, spares := s.spares
                     ports := s.ports, ring := s.ring, ringSeq := s.ringSeq, noRetry := s.cycle + usCycles 1000
                     power := s.power, sec := s.sec.fused
                     mgmt := { State.reset.mgmt with ident := s.mgmt.ident, ctxbase := s.mgmt.ctxbase, lrsv := s.mgmt.lrsv, fabtmr := s.mgmt.fabtmr,
                                                     pwrcap := s.mgmt.pwrcap, imgpol := s.mgmt.imgpol, dbgctl := s.mgmt.dbgctl, dbgq := s.mgmt.dbgq } }
  ((t.event 0x0E 12 0 0 1).selfTest s.bad).boot

/-- WARM_RESET (R476, R475): packets are no longer taken and every launch ends; once all have completed, the other steps run. -/
def execWarmReset (s : State) : Host.Outcome State Fault Refusal :=
  match s.cur.work with
  | some .warmReset =>
    if s.launches.isEmpty then .next ((s.endReaders).settleAll).afterWarm
    else if s.mgmt.resetting then .next (s.post .warmReset)
    else .next ((s.launches.foldl State.killLaunch { s with mgmt := { s.mgmt with resetting := true } }).post .warmReset)
  | _ => .next s

/-- POWER_GRANT (R474, R399): the cap less the root dies' draw, in proportion to demand; a hot die receives half. The share when no die
has a demand is not given: it is free. -/
def execPowerGrant (s : State) : Host.Outcome State Fault Refusal :=
  match s.cur.work with
  | some (.powerGrant demand rootDraw) =>
    let total := ((List.range 12).map fun d => demand.getD d 0).foldl (· + ·) 0
    let watts := s.mgmt.pwrcap.toNat - rootDraw
    let grant (d : Nat) : Nat × Nat :=
      let half := if d ∈ s.power.hot then 2 else 1
      if total = 0 then (Config.freeNat (s.tick + d), half) else (watts * demand.getD d 0, total * half)
    .next { s with power := { s.power with grants := (List.range 12).map grant } }
  | _ => .next s

/-- THERMAL_THROTTLE (R474). -/
def execThermalThrottle (s : State) : Host.Outcome State Fault Refusal :=
  match s.cur.work with
  | some (.thermalThrottle d) =>
    if d ∈ s.power.hot then .next s
    else .next (({ s with power := { s.power with hot := s.power.hot ++ [d] } } : State).event 0x0A d 0 d 0)
  | _ => .next s

/-- THERMAL_RECOVER (R474): below 100 °C. -/
def execThermalRecover (s : State) : Host.Outcome State Fault Refusal :=
  match s.cur.work with
  | some (.thermalRecover d) => .next { s with power := { s.power with hot := s.power.hot.filter fun x => decide (x ≠ d) } }
  | _ => .next s

/-- THERMAL_SHUTDOWN (R474): the ring records the event, then the package stops. -/
def execThermalShutdown (s : State) : Host.Outcome State Fault Refusal :=
  match s.cur.work with
  | some (.thermalShutdown d) =>
    let s := s.event 0x0B d 0 d 0
    .next { s with power := { s.power with stopped := true } }
  | _ => .next s

/-! Registers (R478, R41, R450). -/

/-- IDENT_WRITE (R478, R450, R451, R12): package number and pod size; VALID, both fields having been written. The first write is the package's
part of pod bring-up, from which the pod time base counts. -/
def execIdentWrite (s : State) : Host.Outcome State Fault Refusal :=
  match s.cur.work with
  | some (.identWrite v) =>
    let s := s.rename s.package (field v.toNat 8 0)
    let s := if s.mgmt.ident.getLsbD 63 then s else { s with timeBase := s.cycle }
    .next { s with mgmt := { s.mgmt with ident := (v &&& 0x1FF01FF#64) ||| 0x8000000000000000#64 } }
  | _ => .next s

/-- R478: a number within bounds. -/
def clampTo (lo hi n : Nat) : Nat := if n < lo then lo else if hi < n then hi else n

/-- R478: a write of a management register that only keeps its value; others are ignored. -/
def Mgmt.write (m : Mgmt) (off : Nat) (v : Word) : Mgmt :=
  if off = 0x08 then { m with ctxbase := v &&& 0x7FFFFFF0000#64 }
  else if off = 0x10 then { m with lrsv := v &&& 0x1F#64 }
  else if off = 0x40 then { m with fabtmr := v &&& 0xFFFFFFFF#64 }
  else if off = 0x48 then { m with pwrcap := BitVec.ofNat 64 (clampTo 600 3400 (field v.toNat 11 0)) }
  else if off = 0x50 then { m with imgpol := v &&& 1#64 }
  else if off = 0x58 then { m with dbgctl := v }
  else if off = 0x60 then { m with dbgq := (v &&& 0x7FFFFFFF000#64) ||| (m.dbgq &&& 0xFFFF000000000000#64) }
  else if off = 0x70 then { m with dbgres := v }
  else if off = 0xC0 then { m with bbidx := v &&& 0xFFF#64 }
  else if off = 0x200 then { m with dbgsel := v &&& 0xFFFFFF3F#64 }
  else m

/-! The Data Object Exchange capability (R477). Its registers are those of the PCI Express Base Specification, which the spec does not write
out (log 11). PRESUMED. -/

/-- R477: data objects have up to 64 KiB. -/
def objectOk (b : List Byte) : Bool := decide (b.length ≤ 65536)

/-- R477: where the capability lies in the configuration space. -/
def doeBase : Nat := 0x800

/-- R477: what a read of the capability's registers returns: header, capabilities, control, status, and the two mailboxes. -/
def State.doeRead (s : State) (off : Nat) : Nat :=
  if off = doeBase then 0x0001002E
  else if off = doeBase + 0x0C then (if s.sec.failed then 4 else 0) + (if s.sec.answers.isEmpty then 0 else 2 ^ 31)
  else if off = doeBase + 0x14 then natOfBytes ((s.sec.answers.headD []).take 4)
  else 0

/-- R477: the step that takes a data object: discovery, an SPDM request, or a vendor-defined one (code 0xFE), which asks for the second signature;
an object of any other type is dropped. -/
def objectWork (b : List Byte) : Option Work :=
  if natOfBytes (b.take 2) ≠ 1 then none
  else match (b.getD 2 0).toNat with
    | 0 => some (.doeDiscovery b)
    | 1 => some (if b.getD 9 0 = 0xFE then .spdmSlhDsaRequest b else .spdmRequest b)
    | 2 => some (.spdmRequest b)
    | _ => none

/-- R477: the object in the write mailbox is taken; its length, in 32-bit words, must be the one its header gives. -/
def State.doeGo (s : State) : State :=
  let b := s.sec.sent
  let s := { s with sec := { s.sec with sent := [] } }
  let words := natOfBytes ((b.drop 4).take 4) % 2 ^ 18
  if b.length < 8 ∨ !objectOk b ∨ 4 * words ≠ b.length then { s with sec := { s.sec with failed := true } }
  else match objectWork b with
    | some w => s.post w
    | none => s

/-- R477: a write of one of the capability's registers: abort and go, the next word of an object, or a word of an answer that has been read. -/
def State.doeWrite (s : State) (off : Nat) (v : Word) : State :=
  if off = doeBase + 0x08 then
    if v.getLsbD 0 then { s with sec := { s.sec with sent := [], answers := [], failed := false } }
    else if v.getLsbD 31 then s.doeGo else s
  else if off = doeBase + 0x10 then { s with sec := { s.sec with sent := s.sec.sent ++ bytesOfNat 4 (v.toNat % 2 ^ 32) } }
  else if off = doeBase + 0x14 then
    { s with sec := { s.sec with answers := match s.sec.answers with
      | a :: r => if a.length ≤ 4 then r else a.drop 4 :: r
      | [] => [] } }
  else s

/-- REGISTER_WRITE (R478, R41, R443, R461, R463, R477): management registers below 0x4_0000; from 2^32 on the configuration space (log 11); of a doorbell page the invalidation address, while
its context lives and no invalidation runs: R41 forbids a write of it while BUSY is 1 and gives none an effect; it is ignored, as one of
the control register is (log 46). DESIGN CHOICE. -/
def execRegisterWrite (s : State) : Host.Outcome State Fault Refusal :=
  match s.cur.work with
  | some (.registerWrite off v) =>
    if off < 0x40000 then .next { s with mgmt := s.mgmt.write off v }
    else if 2 ^ 32 ≤ off then .next (s.doeWrite (off - 2 ^ 32) v)
    else
      let c := (off - 0x40000) / 0x1000
      if c < 64 ∧ (off - 0x40000) % 0x1000 = 0x40 ∧ s.mayInval c then
        .next (s.modCtx c fun x => { x with inval := { x.inval with addr := v &&& 0xFFFFFFFFFF0000#64 } })
      else .next s
  | _ => .next s

/-- R455, R471, R472, R478: HEALTH. -/
def State.health (s : State) : Nat :=
  let bit (n : Nat) (b : Bool) : Nat := if b then 2 ^ n else 0
  ((List.range 12).map fun d =>
    bit d (s.beds.used.any fun u => u.1 == d) + bit (12 + d) (s.beds.out.any fun b => b / 16 == d)
      + bit (24 + d) (s.spares.failed.any fun f => f.1 == d)).foldl (· + ·) 0 + s.ports.disabled.length * 2 ^ 36

/-- R478, R482: BEDMAP. -/
def State.bedmap (s : State) : Nat :=
  ((List.range 12).map fun d => 16 ^ d * (match s.beds.used.find? fun u => u.1 == d with
    | some u => u.2
    | none => s.beds.fuse.getD d 15)).foldl (· + ·) 0

/-- R473: the bits of an event record. -/
def Event.word (e : Event) : Nat :=
  e.data + e.addr * 2 ^ 64 + e.ctx * 2 ^ 138 + e.src * 2 ^ 144 + e.kind * 2 ^ 152 + e.seq * 2 ^ 160 + e.time * 2 ^ 192

/-- R473: the record at an index of the ring; its place follows from its sequence number. -/
def State.ringAt (s : State) (i : Nat) : Nat := match s.ring.find? fun e => e.seq % 4096 == i with
  | some e => e.word
  | none => 0

/-- R55: a tag record. -/
def Frame.tag (f : Frame) : Nat :=
  f.st * 2 ^ 94 + f.cls * 2 ^ 92 + f.snp.toNat * 2 ^ 91 + f.epoch * 2 ^ 83 + f.ctx * 2 ^ 77 + f.tid * 2 ^ 65 + f.sln * 2 ^ 39 + f.tile * 2 ^ 7

/-- R382: a tracker entry. -/
def Entry.word (x : Entry) (ctx fls : Nat) : Nat :=
  2 ^ 191 + x.key.req.toNat * 2 ^ 190 + x.dlv.toNat * 2 ^ 189 + ctx * 2 ^ 183 + fls % 4096 * 2 ^ 171 + x.key.place.loc * 2 ^ 152
    + (x.key.stamp.issue + x.key.stamp.depth * 2 ^ 80) * 2 ^ 70 + (x.count % 2 ^ 24).toNat * 2 ^ 46 + x.dcnt * 2 ^ 22

/-- R478: DBGDATA; how an index names a tag record or an entry is not given (log 8). -/
def State.debugData (s : State) : Nat :=
  let sel := s.mgmt.dbgsel.toNat
  let die := field sel 3 0
  let i := field sel 31 8
  if field sel 5 4 = 0 then
    match s.frames.find? fun f => f.st != 0 && f.die == die && (f.slice * 256 + f.set) * 16 + f.way == i with
    | some f => f.tag
    | none => 0
  else if field sel 5 4 = 1 then
    ((s.loads.filter fun l => l.stands && l.tracker / 64 == die).flatMap fun l => l.entries.map fun x => x.word l.ctx l.fls).getD i 0
  else 0

/-- R478: what a read of a management register returns. -/
def State.mgmtRead (s : State) (off : Nat) : Nat :=
  let m := s.mgmt
  if off = 0 then m.ident.toNat else if off = 0x08 then m.ctxbase.toNat else if off = 0x10 then m.lrsv.toNat
  else if off = 0x40 then m.fabtmr.toNat else if off = 0x48 then m.pwrcap.toNat else if off = 0x50 then m.imgpol.toNat
  else if off = 0x58 then m.dbgctl.toNat else if off = 0x60 then m.dbgq.toNat else if off = 0x80 then s.health
  else if off = 0x90 then m.bootstat.toNat else if off = 0x98 then m.kill.toNat else if off = 0xA0 then s.bedmap
  else if off = 0xC0 then m.bbidx.toNat + (s.ringSeq + 2 ^ 32 - 1) % 2 ^ 32 * 2 ^ 32
  else if 0x100 ≤ off ∧ off < 0x120 then s.ringAt m.bbidx.toNat / 2 ^ (8 * (off - 0x100)) % 2 ^ 64
  else if off = 0x200 then m.dbgsel.toNat
  else if 0x210 ≤ off ∧ off < 0x228 then s.debugData / 2 ^ (8 * (off - 0x210)) % 2 ^ 64
  else 0

/-- R461, R463, R41: what a read of a doorbell page returns. -/
def State.doorbellRead (s : State) (c off : Nat) : Nat :=
  let x := s.ctx c
  if off = 0 then x.busy.toNat * 2 ^ 63 + x.live.toNat * 4
  else if off = 0x40 then x.inval.addr.toNat
  else if off = 0x48 then x.inval.ctl.toNat % 2 ^ 63 + x.inval.busy.toNat * 2 ^ 63
  else if 0x100 ≤ off ∧ off < 0x180 ∧ off % 8 = 0 then (s.lq c ((off - 0x100) / 8)).bell
  else 0

/-! The security processor (R477, R459). -/

/-- R477: what is measured: the ROM, the firmware, the fuse configuration, the image keys and IMGPOL. -/
def State.measurements (s : State) : List (List Byte) :=
  [Config.rom, s.sec.firmware,
    bytesOfNat 4 s.sec.rollback ++ bytesOfNat 32 s.sec.rsaKey.toNat ++ bytesOfNat 32 s.sec.slhKey.toNat ++ s.beds.fuse.map (BitVec.ofNat 8),
    Config.imageKeys, bytesOfNat 8 s.mgmt.imgpol.toNat]

/-- R477: the security processor answers an SPDM request; the request and the answer join the transcript, whose hash up to the request it signs. -/
def State.spdmAnswer (s : State) (b : List Byte) : State :=
  let h := Config.transcriptHash (s.sec.transcript ++ b)
  let a := Config.spdmAnswer s.measurements h b
  { s with sec := { s.sec with answers := s.sec.answers ++ [a], transcript := s.sec.transcript ++ b ++ a, signed := h } }

/-- SPDM_REQUEST (R477): the answer, a data object of the capability. -/
def execSpdmRequest (s : State) : Host.Outcome State Fault Refusal :=
  match s.cur.work with
  | some (.spdmRequest b) => .next (if objectOk b then s.spdmAnswer b else s)
  | _ => .next s

/-- SPDM_SLH_DSA_REQUEST (R477): the second signature over the same transcript hash. -/
def execSpdmSlhDsaRequest (s : State) : Host.Outcome State Fault Refusal :=
  match s.cur.work with
  | some (.spdmSlhDsaRequest b) => .next (if objectOk b then { s with sec := { s.sec with answers := s.sec.answers ++ [Config.slhDsaSignature s.sec.signed b] } } else s)
  | _ => .next s

/-- DOE_DISCOVERY (R477): the object of an index: discovery, SPDM, secured SPDM; the words are those of the PCI Express Base
Specification (log 11). -/
def execDoeDiscovery (s : State) : Host.Outcome State Fault Refusal :=
  match s.cur.work with
  | some (.doeDiscovery b) =>
    let i := (b.getD 8 0).toNat
    if 3 ≤ i then .next s
    else
      let answer := bytesOfNat 4 1 ++ bytesOfNat 4 3 ++ bytesOfNat 4 (1 + i * 2 ^ 16 + (i + 1) % 3 * 2 ^ 24)
      .next { s with sec := { s.sec with answers := s.sec.answers ++ [answer] } }
  | _ => .next s

end Sys2Proof.Machine
end

