-- ==== Sys2Proof/Machine/HostPort.lean ====
section
/-! DEFINITION. The host port: CXL.mem accesses and bias (spec/20_multichip.md R459, R460; spec/03_memory_side_agents.md R88), snoops of
the host-line cache (spec/02_storage_levels.md R60), and pull queues (R457, R458). -/

namespace Sys2Proof.Machine

/-- The entries of a page table of n entries that are not zero, with their addresses. -/
def State.entriesIn (s : State) (tbl n : Nat) : List (Nat × Nat) :=
  (((s.mem.slice tbl (8 * n) ++ s.l2mem.slice tbl (8 * n)).map fun c => c.1 / 8 * 8).eraseDups).map fun a => (a, s.num a 8)

/-- R15: entries of a table of a level. -/
def levelEntries (lvl : Nat) : Nat := if lvl = 3 then 2 ^ 21 else if lvl = 1 then 512 else 32

/-- R15 to R18: a leaf in or below a table, of level n − 1, maps a physical address under a memory type. -/
def State.mapsAs (s : State) (pa mtype : Nat) : Nat → Nat → Bool
  | 0, _ => false
  | lvl + 1, tbl => (s.entriesIn tbl (levelEntries lvl)).any fun e =>
      if e.2 % 4 = 1 then pointerOk e.2 lvl && State.mapsAs s pa mtype lvl (field e.2 51 8 * 2 ^ 8)
      else
        let l := leafOf e.2 lvl e.1 false
        e.2 % 4 == 2 && leafOk e.2 lvl && l.mtype == mtype && decide (l.pa ≤ pa) && decide (pa < l.pa + l.size)

/-- What the home knows of the memory type of a host's access (log 10): a translation cache of the part, or the page tables of a context
that exists, map the physical address under it. -/
def State.mappedAs (s : State) (pa mtype : Nat) : Bool :=
  (s.tc.any fun e => e.leaf.mtype == mtype && decide (e.leaf.pa ≤ pa) && decide (pa < e.leaf.pa + e.leaf.size))
    || s.ctxs.any fun c => c.2.live && c.2.ptw.getLsbD 63 && s.mapsAs pa mtype 4 (field c.2.ptw.toNat 51 24 * 2 ^ 24)

/-- R83, R88: a line of a structure page: it is mapped so, or its 64 KiB page holds a word that is not EMPTY. -/
def State.structureAt (s : State) (pa : Nat) : Bool :=
  (s.words.any fun w => w.1 / 2 ^ 16 == pa / 2 ^ 16) || s.mappedAs pa 2

/-- R459: host offset o reaches package physical address o of the 1.5 TiB of HBM. -/
def hostReach (pa n : Nat) : Bool := decide (pa + n ≤ 0x018000000000)

/-- The lines that n bytes from a key touch. -/
def hostLinesOf (key n : Nat) : List Nat := ((keysOf key n).map lineOf).eraseDups

/-- R57, R113, R460: what the home does before it serves a host access: settlement, the hit, and host bias for a host-shared line. -/
def State.hostMeet (s : State) (line : Nat) : State :=
  let s := s.settle line
  let s := match s.frameOf line with
    | some f => s.touch f.die f.slice f.set f.way true
    | none => s
  if s.mappedAs line 3 ∧ line ∉ s.hostBias then { s with hostBias := s.hostBias ++ [line] } else s

/-- R462: RUN and PEND are written before a host read that may see them. -/
def State.freshStatus (s : State) (key n : Nat) : State :=
  ((s.ctxs.map (·.1)).filter fun c => spanMeets (s.descBase c + 52) 4 key n).foldl State.writeStatus s
where spanMeets (a n b m : Nat) : Bool := decide (a < b + m) && decide (b < a + n)

/-- R88: a byte of a structure page as the host reads it: FULL words give their value, others 0. -/
def State.structByte (s : State) (key : Nat) : Byte := match s.words.find (key / 8 * 8) with
  | some (.full v) => (bytesOfNat 8 v.toNat).getD (key % 8) 0
  | _ => 0

/-- R57, R139: a host access waits for the fill of its line, ahead of what the host sent after it. -/
def State.postFirst (s : State) (w : Work) : State := { s with agenda := w :: s.agenda }

/-- HOST_CXL_MEM_READ (R460, R57, R88): the bytes go to the host; of a failing unit nothing does (R65). -/
def execHostCxlMemRead (s : State) : Host.Outcome State Fault Refusal :=
  match s.cur.work with
  | some (.hostCxlMemRead pa n) =>
    let key := s.package * 2 ^ 43 + pa
    if !hostReach pa n then .next s
    else if (hostLinesOf key n).any s.filling then .next (s.postFirst (.hostCxlMemRead pa n))
    else
      let s := (hostLinesOf key n).foldl State.hostMeet (s.freshStatus key n)
      let pages := (hostLinesOf key n).filter s.structureAt
      match s.badIn key n with
      | some u => .next (({ s with hostRead := none, hostAbort := false } : State).event 0x01 12 0 u 0)
      | none =>
        let bytes := (keysOf key n).map fun k => if lineOf k ∈ pages then s.structByte k else s.byte k
        .next { s with hostRead := some bytes, hostAbort := false }
  | _ => .next s

/-- HOST_CXL_MEM_WRITE (R460, R57, R88, R139): performed at the home; a write to a structure page changes no memory and ends with a
completer abort. -/
def execHostCxlMemWrite (s : State) : Host.Outcome State Fault Refusal :=
  match s.cur.work with
  | some (.hostCxlMemWrite pa bytes) =>
    let key := s.package * 2 ^ 43 + pa
    let lines := hostLinesOf key bytes.length
    if !hostReach pa bytes.length then .next s
    else if lines.any s.structureAt then .next { s with hostAbort := true }
    else if lines.any s.filling then .next (s.postFirst (.hostCxlMemWrite pa bytes))
    else .next ((lines.foldl State.hostMeet { s with hostAbort := false }).commitBytes (placeBytes key bytes))
  | _ => .next s

/-- HOST_SNOOP (R60): the host-line cache gives its 64-byte line back. -/
def execHostSnoop (s : State) : Host.Outcome State Fault Refusal :=
  match s.cur.work with
  | some (.hostSnoop line) => .next (s.hostDrop line)
  | _ => .next s

/-! Pull queues (R457, R458). -/

/-- A pull queue of a context. -/
def State.pq (s : State) (c k : Nat) : PullQ := (s.ctx c).pqs.getD k {}

/-- Changes a pull queue. -/
def State.modPq (s : State) (c k : Nat) (f : PullQ → PullQ) : State := s.modCtx c fun x => { x with pqs := listMod x.pqs k f }

/-- R458: a packet of the source ring cannot be read: its home is beyond the pod or cannot be reached, or a unit fails once the home has served
its line (R113). -/
def State.pullFault (s : State) (key : Nat) : Bool := s.beyondPod key || !paIsHbm key || s.linkDown key false || (s.badIn key 64).isSome

/-- R458: the places of packets from n on in the source ring. -/
def PullQ.places (x : PullQ) (n : Nat) : List Nat := (List.range n).map fun i => x.src + 64 * ((x.head + i) % 2 ^ x.log2n)

/-- R458: packets join a launch queue, after those doorbelled. -/
def State.joinQueue (s : State) (c q : Nat) (packets : List (List Byte)) : State :=
  packets.foldl (fun (s : State) b =>
    let x := s.lq c q
    (s.deviceWrite (placeBytes (x.lqbase + 64 * (x.bell % 2 ^ x.log2n)) b)).modLq c q fun y => { y with bell := (y.bell + 1) % 2 ^ 32 }) s

/-- PULL_QUEUE_PULL (R458): the packets up to the tail are read and join the launch queue, and HEAD advances; a failing read stops the
queue with HEAD unchanged until the tail word is written again. -/
def execPullQueuePull (s : State) : Host.Outcome State Fault Refusal :=
  match s.cur.work with
  | some (.pullQueuePull c k) =>
    let x := s.pq c k
    let s := s.deviceMeet (lineSpan x.taddr 8)
    let tail := s.num x.taddr 8
    if !(s.ctx c).live || !x.valid || decide (tail ≤ x.head) || s.mgmt.resetting then .next s
    else
      let n := min (tail - x.head) (2 ^ x.log2n)
      let at_ := x.places n
      let s := s.deviceMeet (at_.flatMap fun a => lineSpan a 64)
      if at_.any s.pullFault || !(s.lq c x.lq).valid then
        .next ((s.modPq c k fun y => { y with stopped := true }).event 0x0C 12 c x.taddr k)
      else
        let s := s.joinQueue c x.lq (at_.map fun a => s.bytes a 64)
        let s := s.modPq c k fun y => { y with head := x.head + n, stopped := false }
        let s := s.deviceWrite (placeBytes (s.descBase c + 768 + 32 * k + 8) (bytesOfNat 8 (x.head + n)))
        .next (if x.head + n < tail then s.post (.pullQueuePull c k) else s)
  | _ => .next s

end Sys2Proof.Machine
end

