-- ==== Sys2Proof/Machine/Scalar.lean ====
section
/-! DEFINITION. Integer, address, logic and test instructions (spec/11_scalar_control_ops.md R247 to R257). -/

namespace Sys2Proof

/-- Bits of an operation width (R248). -/
def Width.bits : Width → Nat | .w64 => 64 | .w32 => 32 | .w16 => 16 | .w8 => 8

/-- Operand b: slot b, or the immediate sign-extended to 64 bits (R249). -/
def OpB.value (b : OpB) (slot : Word) : Word := match b with
  | .slot => slot
  | .imm v => v.signExtend 64

/-- Whether operand b comes from slot b (R249). -/
def OpB.isSlot : OpB → Bool | .slot => true | .imm _ => false

end Sys2Proof

namespace Sys2Proof.Machine

/-- R248: an operand at width w. -/
def low (w : Nat) (v : Word) : Nat := v.toNat % 2 ^ w
/-- R248: an operand at width w, read as signed. -/
def lowS (w : Nat) (v : Word) : Int := (BitVec.ofNat w v.toNat).toInt
/-- R248 Ext Z: a w-bit result, zero-extended. -/
def extZ (w : Nat) (r : Nat) : Word := BitVec.ofNat 64 (r % 2 ^ w)
/-- R248 Ext S: a w-bit result, sign-extended. -/
def extS (w : Nat) (r : Nat) : Word := (BitVec.ofNat w r).signExtend 64
/-- R248 Ext S of an exact integer result, taken modulo 2^w. -/
def extSI (w : Nat) (r : Int) : Word := (BitVec.ofInt w r).signExtend 64

/-- R252: quotient and remainder; division by 0 gives 0 and the dividend, and the quotient truncates toward zero. -/
def divideS (a b : Int) : Int × Int := if b = 0 then (0, a) else (Int.tdiv a b, a - b * Int.tdiv a b)
/-- R252, unsigned. -/
def divideW (a b : Nat) : Nat × Nat := if b = 0 then (0, a) else (a / b, a % b)

/-- R253: shifts by the full 64-bit count. -/
def shlAt (w : Nat) (a n : Word) : Word := if w ≤ n.toNat then 0 else extS w (low w a * 2 ^ n.toNat)
/-- R253 SHR. -/
def shrAt (w : Nat) (a n : Word) : Word := if w ≤ n.toNat then 0 else extZ w (low w a / 2 ^ n.toNat)
/-- R253 SAR: Int division by a power of two rounds toward minus infinity, which is the arithmetic shift. -/
def sarAt (w : Nat) (a n : Word) : Word := extSI w (lowS w a / 2 ^ (min n.toNat w))
/-- R253 ROT: left by n mod w. -/
def rotAt (w : Nat) (a n : Word) : Word :=
  let k := n.toNat % w
  extS w (low w a * 2 ^ k + low w a / 2 ^ (w - k))

/-- R251: leading zero bits. -/
def clzAt (w : Nat) (a : Word) : Nat := (List.range w).foldl (fun r i => if a.getLsbD i then w - 1 - i else r) w
/-- R251: trailing zero bits. -/
def ctzAt (w : Nat) (a : Word) : Nat := (List.range w).foldr (fun i r => if a.getLsbD i then i else r) w
/-- R251: one bits. -/
def popAt (w : Nat) (a : Word) : Nat := ((List.range w).filter fun i => a.getLsbD i).length
/-- R251: bit i of the result is bit w − 1 − i. -/
def brevAt (w : Nat) (a : Word) : Nat := (List.range w).foldl (fun r i => if a.getLsbD (w - 1 - i) then r + 2 ^ i else r) 0

/-- R254: position and length from IMM or from slot b in the same packing. -/
def fieldSpec (b : Word) : Nat × Nat := (b.toNat / 32 % 64, b.toNat % 32 + 1)
/-- R254: the field of A, whose bits at or above w read as 0. -/
def fieldAt (w : Nat) (a b : Word) : Nat := low w a / 2 ^ (fieldSpec b).1 % 2 ^ (fieldSpec b).2
/-- R254 BFI: bits of A replaced by bits of c; bits at or above w are discarded. -/
def insertAt (w : Nat) (a b c : Word) : Word :=
  let (p, l) := fieldSpec b
  extS w (low w a - fieldAt w a b * 2 ^ p + c.toNat % 2 ^ l * 2 ^ p)

/-- R251: the address arithmetic of LEA, on the full operands; .i64 scales by 8. -/
def leaAt (w : Nat) (a b : Word) : Word := BitVec.ofNat 64 (a.toNat + b.toNat * (w / 8))

/-- An ALU instruction of two operands (R248). -/
def execBinary (h : Head) (b : OpB) (f : Word → Word → Word) (s : State) : Host.Outcome State Fault Refusal :=
  match s.operands h true b.isSlot false with
  | some o => .next (s.fire1 h (f o.a.v (b.value o.b.v)))
  | none => .next s

/-- An ALU instruction of one operand (R248). -/
def execUnary (h : Head) (f : Word → Word) (s : State) : Host.Outcome State Fault Refusal :=
  match s.operands h true false false with
  | some o => .next (s.fire1 h (f o.a.v))
  | none => .next s

/-- An ALU instruction of three operands (R248). -/
def execTernary (h : Head) (b : OpB) (f : Word → Word → Word → Word) (s : State) : Host.Outcome State Fault Refusal :=
  match s.operands h true b.isSlot true with
  | some o => .next (s.fire1 h (f o.a.v (b.value o.b.v) o.c.v))
  | none => .next s

/-- A test of two operands (R256). -/
def execTest (h : Head) (b : OpB) (pd : Option (BitVec 4)) (f : Word → Word → Bool) (s : State) : Host.Outcome State Fault Refusal :=
  match s.operands h true b.isSlot false with
  | some o => .next (s.fireTest h pd (f o.a.v (b.value o.b.v)))
  | none => .next s

/-- ADD (R251: A + B). -/
def execAdd (h : Head) (w : Width) (b : OpB) (s : State) : Host.Outcome State Fault Refusal :=
  execBinary h b (fun x y => extS w.bits (x.toNat + y.toNat)) s

/-- SUB (R251: A − B). -/
def execSub (h : Head) (w : Width) (b : OpB) (s : State) : Host.Outcome State Fault Refusal :=
  execBinary h b (fun x y => extSI w.bits (lowS w.bits x - lowS w.bits y)) s

/-- MUL (R251: low bits of A × B). -/
def execMul (h : Head) (w : Width) (b : OpB) (s : State) : Host.Outcome State Fault Refusal :=
  execBinary h b (fun x y => extS w.bits (x.toNat * y.toNat)) s

/-- MULH (R251: high bits of the signed product). -/
def execMulh (h : Head) (w : Width) (b : OpB) (s : State) : Host.Outcome State Fault Refusal :=
  execBinary h b (fun x y => extSI w.bits (lowS w.bits x * lowS w.bits y / 2 ^ w.bits)) s

/-- MULHW (R251: high bits of the unsigned product). -/
def execMulhw (h : Head) (w : Width) (b : OpB) (s : State) : Host.Outcome State Fault Refusal :=
  execBinary h b (fun x y => extZ w.bits (low w.bits x * low w.bits y / 2 ^ w.bits)) s

/-- DIV (R252, signed quotient). -/
def execDiv (h : Head) (w : Width) (b : OpB) (s : State) : Host.Outcome State Fault Refusal :=
  execBinary h b (fun x y => extSI w.bits (divideS (lowS w.bits x) (lowS w.bits y)).1) s

/-- DIVW (R252, unsigned quotient). -/
def execDivw (h : Head) (w : Width) (b : OpB) (s : State) : Host.Outcome State Fault Refusal :=
  execBinary h b (fun x y => extZ w.bits (divideW (low w.bits x) (low w.bits y)).1) s

/-- REM (R252, signed remainder). -/
def execRem (h : Head) (w : Width) (b : OpB) (s : State) : Host.Outcome State Fault Refusal :=
  execBinary h b (fun x y => extSI w.bits (divideS (lowS w.bits x) (lowS w.bits y)).2) s

/-- REMW (R252, unsigned remainder). -/
def execRemw (h : Head) (w : Width) (b : OpB) (s : State) : Host.Outcome State Fault Refusal :=
  execBinary h b (fun x y => extZ w.bits (divideW (low w.bits x) (low w.bits y)).2) s

/-- NEG (R251: 0 − A). -/
def execNeg (h : Head) (w : Width) (s : State) : Host.Outcome State Fault Refusal :=
  execUnary h (fun x => extSI w.bits (-lowS w.bits x)) s

/-- ABS (R251: the most negative value gives itself). -/
def execAbs (h : Head) (w : Width) (s : State) : Host.Outcome State Fault Refusal :=
  execUnary h (fun x => extSI w.bits (lowS w.bits x).natAbs) s

/-- MIN (R251, signed). -/
def execMin (h : Head) (w : Width) (b : OpB) (s : State) : Host.Outcome State Fault Refusal :=
  execBinary h b (fun x y => extSI w.bits (min (lowS w.bits x) (lowS w.bits y))) s

/-- MAX (R251, signed). -/
def execMax (h : Head) (w : Width) (b : OpB) (s : State) : Host.Outcome State Fault Refusal :=
  execBinary h b (fun x y => extSI w.bits (max (lowS w.bits x) (lowS w.bits y))) s

/-- MINW (R251, unsigned). -/
def execMinw (h : Head) (w : Width) (b : OpB) (s : State) : Host.Outcome State Fault Refusal :=
  execBinary h b (fun x y => extZ w.bits (min (low w.bits x) (low w.bits y))) s

/-- MAXW (R251, unsigned). -/
def execMaxw (h : Head) (w : Width) (b : OpB) (s : State) : Host.Outcome State Fault Refusal :=
  execBinary h b (fun x y => extZ w.bits (max (low w.bits x) (low w.bits y))) s

/-- AND (R251). -/
def execAnd (h : Head) (w : Width) (b : OpB) (s : State) : Host.Outcome State Fault Refusal :=
  execBinary h b (fun x y => extS w.bits (x &&& y).toNat) s

/-- OR (R251). -/
def execOr (h : Head) (w : Width) (b : OpB) (s : State) : Host.Outcome State Fault Refusal :=
  execBinary h b (fun x y => extS w.bits (x ||| y).toNat) s

/-- XOR (R251). -/
def execXor (h : Head) (w : Width) (b : OpB) (s : State) : Host.Outcome State Fault Refusal :=
  execBinary h b (fun x y => extS w.bits (x ^^^ y).toNat) s

/-- ANDN (R251: A AND NOT B). -/
def execAndn (h : Head) (w : Width) (b : OpB) (s : State) : Host.Outcome State Fault Refusal :=
  execBinary h b (fun x y => extS w.bits (x &&& ~~~y).toNat) s

/-- NOT (R251). -/
def execNot (h : Head) (w : Width) (s : State) : Host.Outcome State Fault Refusal :=
  execUnary h (fun x => extS w.bits (~~~x).toNat) s

/-- SHL (R253). -/
def execShl (h : Head) (w : Width) (b : OpB) (s : State) : Host.Outcome State Fault Refusal :=
  execBinary h b (fun x y => shlAt w.bits x y) s

/-- SHR (R253). -/
def execShr (h : Head) (w : Width) (b : OpB) (s : State) : Host.Outcome State Fault Refusal :=
  execBinary h b (fun x y => shrAt w.bits x y) s

/-- SAR (R253). -/
def execSar (h : Head) (w : Width) (b : OpB) (s : State) : Host.Outcome State Fault Refusal :=
  execBinary h b (fun x y => sarAt w.bits x y) s

/-- ROT (R253). -/
def execRot (h : Head) (w : Width) (b : OpB) (s : State) : Host.Outcome State Fault Refusal :=
  execBinary h b (fun x y => rotAt w.bits x y) s

/-- CLZ (R251). -/
def execClz (h : Head) (w : Width) (s : State) : Host.Outcome State Fault Refusal :=
  execUnary h (fun x => extZ w.bits (clzAt w.bits x)) s

/-- CTZ (R251). -/
def execCtz (h : Head) (w : Width) (s : State) : Host.Outcome State Fault Refusal :=
  execUnary h (fun x => extZ w.bits (ctzAt w.bits x)) s

/-- POPC (R251). -/
def execPopc (h : Head) (w : Width) (s : State) : Host.Outcome State Fault Refusal :=
  execUnary h (fun x => extZ w.bits (popAt w.bits x)) s

/-- BREV (R251). -/
def execBrev (h : Head) (w : Width) (s : State) : Host.Outcome State Fault Refusal :=
  execUnary h (fun x => extS w.bits (brevAt w.bits x)) s

/-- BFX (R254, sign-extended from the field). -/
def execBfx (h : Head) (w : Width) (b : OpB) (s : State) : Host.Outcome State Fault Refusal :=
  execBinary h b (fun x y => extSI w.bits (BitVec.ofNat (fieldSpec y).2 (fieldAt w.bits x y)).toInt) s

/-- BFXW (R254, zero-extended). -/
def execBfxw (h : Head) (w : Width) (b : OpB) (s : State) : Host.Outcome State Fault Refusal :=
  execBinary h b (fun x y => extZ w.bits (fieldAt w.bits x y)) s

/-- BFI (R254). -/
def execBfi (h : Head) (w : Width) (b : OpB) (s : State) : Host.Outcome State Fault Refusal :=
  execTernary h b (fun x y z => insertAt w.bits x y z) s

/-- LEA (R251). -/
def execLea (h : Head) (w : Width) (b : OpB) (s : State) : Host.Outcome State Fault Refusal :=
  execBinary h b (fun x y => leaAt w.bits x y) s

/-- MOV (R251): a. -/
def execMov (h : Head) (s : State) : Host.Outcome State Fault Refusal := execUnary h (fun x => x) s

/-- MOVI (R255): K sign-extended. -/
def execMovi (h : Head) (k : BitVec 19) (s : State) : Host.Outcome State Fault Refusal :=
  match s.operands h false false false with
  | some _ => .next (s.fire1 h (k.signExtend 64))
  | none => .next s

/-- R255: a with one 16-bit quarter replaced. -/
def quarterAt (q : BitVec 2) (chunk : BitVec 16) (a : Word) : Word :=
  (a &&& ~~~((0xFFFF : Word) <<< (16 * q.toNat))) ||| (chunk.setWidth 64 <<< (16 * q.toNat))

/-- MOVHI (R255). -/
def execMovhi (h : Head) (q : BitVec 2) (chunk : BitVec 16) (s : State) : Host.Outcome State Fault Refusal :=
  execUnary h (quarterAt q chunk) s

/-- SEL (R251): B if a is not 0 over all 64 bits, else c. -/
def execSel (h : Head) (w : Width) (b : OpB) (s : State) : Host.Outcome State Fault Refusal :=
  execTernary h b (fun x y z => extS w.bits (if x ≠ 0 then y.toNat else z.toNat)) s

/-- SEXT (R251). -/
def execSext (h : Head) (w : Width) (s : State) : Host.Outcome State Fault Refusal :=
  execUnary h (fun x => extS w.bits x.toNat) s

/-- ZEXT (R251). -/
def execZext (h : Head) (w : Width) (s : State) : Host.Outcome State Fault Refusal :=
  execUnary h (fun x => extZ w.bits x.toNat) s

/-- TEQ (R256: A = B). -/
def execTeq (h : Head) (w : Width) (b : OpB) (pd : Option (BitVec 4)) (s : State) : Host.Outcome State Fault Refusal :=
  execTest h b pd (fun x y => low w.bits x == low w.bits y) s

/-- TNE (R256: A ≠ B). -/
def execTne (h : Head) (w : Width) (b : OpB) (pd : Option (BitVec 4)) (s : State) : Host.Outcome State Fault Refusal :=
  execTest h b pd (fun x y => low w.bits x != low w.bits y) s

/-- TLT (R256: A < B, signed). -/
def execTlt (h : Head) (w : Width) (b : OpB) (pd : Option (BitVec 4)) (s : State) : Host.Outcome State Fault Refusal :=
  execTest h b pd (fun x y => decide (lowS w.bits x < lowS w.bits y)) s

/-- TLE (R256: A ≤ B, signed). -/
def execTle (h : Head) (w : Width) (b : OpB) (pd : Option (BitVec 4)) (s : State) : Host.Outcome State Fault Refusal :=
  execTest h b pd (fun x y => decide (lowS w.bits x ≤ lowS w.bits y)) s

/-- TLTW (R256: A < B, unsigned). -/
def execTltw (h : Head) (w : Width) (b : OpB) (pd : Option (BitVec 4)) (s : State) : Host.Outcome State Fault Refusal :=
  execTest h b pd (fun x y => decide (low w.bits x < low w.bits y)) s

/-- TLEW (R256: A ≤ B, unsigned). -/
def execTlew (h : Head) (w : Width) (b : OpB) (pd : Option (BitVec 4)) (s : State) : Host.Outcome State Fault Refusal :=
  execTest h b pd (fun x y => decide (low w.bits x ≤ low w.bits y)) s

/-- TBIT (R256: bit n of A, 0 from w up). -/
def execTbit (h : Head) (w : Width) (b : OpB) (pd : Option (BitVec 4)) (s : State) : Host.Outcome State Fault Refusal :=
  execTest h b pd (fun x y => decide (y.toNat < w.bits) && x.getLsbD y.toNat) s

/-- TNUL (R257): 0 if the running activation holds a matched message on the channel, else 1. -/
def execTnul (h : Head) (vc : BitVec 5) (pd : Option (BitVec 4)) (s : State) : Host.Outcome State Fault Refusal :=
  match s.operands h false false false with
  | some _ => .next (s.fireTest h pd ((s.task s.cur.task).matched vc.toNat).isNone)
  | none => .next s

end Sys2Proof.Machine
end

