-- ==== Sys2Proof/Machine/Upkeep.lean ====
section
/-! DEFINITION. Upkeep of storage: refresh, scrubbing and correctable errors (spec/02_storage_levels.md R63 to R66), sparing of rows, L2
frames and pseudo-channels (R67, R68), and degraded stacks (spec/21_faults_and_system.md R472). -/

namespace Sys2Proof.Machine

/-- An array with a correctable-error counter (R64): a pseudo-channel of a stack, by R62. -/
def channelArray (stack pc : Nat) : Nat := stack * 192 + pc

/-- An array with a correctable-error counter (R64): a frame of an L2 slice. -/
def frameArray (die slice set way : Nat) : Nat := 4096 + ((die * 48 + slice) * 256 + set) * 16 + way

/-- R64: a correctable error of an array is counted; errors older than an hour no longer count towards sparing (R67). -/
def State.countError (s : State) (arr : Nat) : State :=
  let hour := usCycles 3600000000
  let recent := (s.spares.errors.get arr []).filter fun t => decide (s.cycle < t + hour)
  { s with spares := { s.spares with
    errors := s.spares.errors.put arr (recent ++ [s.cycle])
    counts := s.spares.counts.put arr (s.spares.counts.get arr 0 + 1) } }

/-- R67: correctable errors of an array within an hour. -/
def State.errorsOf (s : State) (arr : Nat) : Nat := (s.spares.errors.get arr []).length

/-- R65, R473: an uncorrectable error is found: the unit fails and the event is recorded. -/
def State.unitFails (s : State) (src u : Nat) : State :=
  ({ s with bad := if u ∈ s.bad then s.bad else s.bad ++ [u] } : State).event 0x01 src 0 u 0

/-- R64: an array with a correctable-error counter: a lane slice, a tile scratchpad, a bed's or a die's memory, an instruction store, a
configuration cache, or the receive queues of an element, by a word's key. -/
def otherArray (key : Nat) : Nat :=
  if queueKey ⟨0, 0⟩ 0 0 0 ≤ key then 2 ^ 46 + (key - queueKey ⟨0, 0⟩ 0 0 0) / 2 ^ 17
  else if cacheKey 0 0 ≤ key then 2 ^ 45 + (key - cacheKey 0 0) / 2 ^ 56
  else if 2 ^ 64 ≤ key then 2 ^ 44 + (key - 2 ^ 64) / 2 ^ 35
  else if lsKey ≤ key then 2 ^ 43 + (key - lsKey) / 2 ^ 15
  else if tsKey ≤ key then 2 ^ 42 + (key - tsKey) / 2 ^ 20
  else if bsKey ≤ key then 2 ^ 41 + (key - bsKey) / 2 ^ 23
  else 2 ^ 40 + (key - dsKey) / 2 ^ 26

/-- R363: the die of a word that is not of global memory. -/
def dieOfKey (key : Nat) : Nat :=
  if queueKey ⟨0, 0⟩ 0 0 0 ≤ key then (key - queueKey ⟨0, 0⟩ 0 0 0) / 2 ^ 17 / 1024
  else if cacheKey 0 0 ≤ key then (key - cacheKey 0 0) / 2 ^ 56 / 16
  else match bedOfKey key with
    | some b => b / 16
    | none => (key - dsKey) / 2 ^ 26

/-- R65: the j-th activation of a stamp that holds a message of a channel can no longer read it. -/
def spoilMsg (st : Stamp) (vc : Nat) : Nat → List Activation → List Activation
  | _, [] => []
  | j, a :: r =>
    if a.stamp = st ∧ a.msgs.any (fun m => m.vc == vc) then
      (if j = 0 then { a with msgs := a.msgs.map fun (m : Msg) => if m.vc = vc then { m with bad := true } else m } :: r else a :: spoilMsg st vc (j - 1) r)
    else a :: spoilMsg st vc j r

/-- R65: the activations of a task after a message of theirs has failed. -/
def Task.spoil (k : Task) (st : Stamp) (vc j : Nat) : Task :=
  let l := spoilMsg st vc j (k.act.toList ++ k.dropped ++ k.pending)
  let n := k.act.toList.length
  { k with act := k.act.bind fun _ => l.head?, dropped := (l.drop n).take k.dropped.length, pending := l.drop (n + k.dropped.length) }

/-- R65: the n-th message of a receive queue meets an uncorrectable error: it stays in its place, and with it what an activation holds of
it cannot be read. -/
def State.queueFails (s : State) (e : ElemRef) (vc n : Nat) : State := match (s.vc e vc).queue[n]? with
  | none => s
  | some m =>
    let j := (((s.vc e vc).queue.take n).filter fun x => x.stamp == m.stamp).length
    let s := s.modVc e vc fun v => { v with queue := listMod v.queue n fun (x : Msg) => { x with bad := true } }
    { s with tasks := s.tasks.map fun x => if x.1.tile = e.tile ∧ x.1.elem = e.elem then (x.1, x.2.spoil m.stamp vc j) else x }

/-- R65: an uncorrectable error in a word of an array other than HBM and the L2; an instruction store and a configuration cache count how
often a word fails, a receive queue's message is marked. -/
def State.wordFails (s : State) (key : Nat) : State :=
  let u := key / 8 * 8
  let q := u - queueKey ⟨0, 0⟩ 0 0 0
  let s := s.event 0x01 (dieOfKey u) 0 u 0
  if queueKey ⟨0, 0⟩ 0 0 0 ≤ u then s.queueFails ⟨q / 2 ^ 21, q / 2 ^ 17 % 16⟩ (q / 2 ^ 12 % 32) (q / 2 ^ 8 % 16)
  else if u < 2 ^ 64 ∧ u ∈ s.bad then s
  else { s with bad := s.bad ++ [u] }

/-- R67: 65,536 rows bear the number of a bank: the spec does not say how a stack numbers its rows (log 47). DESIGN CHOICE. -/
def bankOf (row : Nat) : Nat := row / 2 ^ 16

/-- HBM_REFRESH (R63, R67): the agent refreshes; with it the stack may repair a row, by one of the bank's 8 spare rows. -/
def execHbmRefresh (s : State) : Host.Outcome State Fault Refusal :=
  match s.cur.work with
  | some (.hbmRefresh stack (some row)) =>
    if 8 ≤ (s.spares.rows.filter fun x => x.1 == stack && bankOf x.2 == bankOf row).length then .next s
    else .next (({ s with spares := { s.spares with rows := s.spares.rows ++ [(stack, row)] } } : State).event 0x02 stack 0 row 0)
  | _ => .next s

/-- HBM_SCRUB (R64, R65, R67): a patrol read meets a correctable error, counted, or an uncorrectable one. The errors that a word of any
other array meets arrive as this step too: no row of the opcode table stands for them (log 48). DESIGN CHOICE. -/
def execHbmScrub (s : State) : Host.Outcome State Fault Refusal :=
  match s.cur.work with
  | some (.hbmScrub u correctable) =>
    if !isGl u then .next (if correctable then s.countError (otherArray u) else s.wordFails u)
    else if !paIsHbm u then .next s
    else if correctable then
      let pc := stackLine u % 192
      let s := s.countError (channelArray (homeDie u) pc)
      .next (if s.errorsOf (channelArray (homeDie u) pc) = 1024 then s.post (.pseudoChannelSpare (homeDie u) pc) else s)
    else .next (s.unitFails (homeDie u) (u / 64 * 64))
  | _ => .next s

/-- L2_SCRUB (R64, R65, R67): the same in a line the L2 holds. -/
def execL2Scrub (s : State) : Host.Outcome State Fault Refusal :=
  match s.cur.work with
  | some (.l2Scrub u correctable) => match s.frameOf u with
    | none => .next s
    | some f =>
      let arr := frameArray f.die f.slice f.set f.way
      let spare := Work.l2FrameSpare f.die f.slice f.set f.way
      if correctable then
        let s := s.countError arr
        .next (if s.errorsOf arr = 16 then s.post spare else s)
      else .next (((s.unitFails f.die (u / 64 * 64)).modFrame u fun f => { f with st := 3 }).post spare)
  | _ => .next s

/-- L2_FRAME_SPARE (R67): the line is written back; a spare takes the frame's place, or the set loses a way. -/
def execL2FrameSpare (s : State) : Host.Outcome State Fault Refusal :=
  match s.cur.work with
  | some (.l2FrameSpare die slice set way) =>
    if (die, slice, set, way) ∈ s.spares.dead then .next s
    else
      let s := match s.frames.find? fun f => f.st != 0 && f.die == die && f.slice == slice && f.set == set && f.way == way with
        | some f => s.dropLine (lineAt s.package die f.sln)
        | none => s
      let n := s.spares.frames.get (die, slice) 0
      let s := { s with spares := { s.spares with errors := s.spares.errors.erase (frameArray die slice set way) } }
      if n < 32 then
        .next (({ s with spares := { s.spares with frames := s.spares.frames.put (die, slice) (n + 1) } } : State).event 0x02 die 0 (slice * 4096 + set * 16 + way) 0)
      else .next { s with spares := { s.spares with dead := s.spares.dead ++ [(die, slice, set, way)] } }
  | _ => .next s

/-- R68: spare pseudo-channels of a stack in use or being filled. -/
def State.sparesUsed (s : State) (stack : Nat) : Nat := ((s.spares.copying ++ s.spares.spared).filter fun x => x.1 == stack).length

/-- PSEUDO_CHANNEL_SPARE (R67, R68): the copy to a spare starts; without one the stack is degraded. -/
def execPseudoChannelSpare (s : State) : Host.Outcome State Fault Refusal :=
  match s.cur.work with
  | some (.pseudoChannelSpare stack pc) =>
    if (stack, pc) ∈ s.spares.copying ∨ (stack, pc) ∈ s.spares.failed then .next s
    else if 4 ≤ s.sparesUsed stack then .next (s.post (.stackDegrade stack pc))
    else .next ((({ s with spares := { s.spares with copying := s.spares.copying ++ [(stack, pc)] } } : State).event 0x02 stack 0 pc 0).post
      (.pseudoChannelCopyDone stack pc))
  | _ => .next s

/-- PSEUDO_CHANNEL_COPY_DONE (R68): the spare serves every line of the channel; no address, result or ordering has changed. -/
def execPseudoChannelCopyDone (s : State) : Host.Outcome State Fault Refusal :=
  match s.cur.work with
  | some (.pseudoChannelCopyDone stack pc) =>
    if (stack, pc) ∈ s.spares.copying then
      .next { s with spares := { s.spares with
        copying := s.spares.copying.filter fun x => decide (x ≠ (stack, pc))
        spared := s.spares.spared ++ [(stack, pc)]
        errors := s.spares.errors.erase (channelArray stack pc) } }
    else .next s
  | _ => .next s

/-- STACK_DEGRADE (R472, R68): from now on an access to a line of the failed pseudo-channel meets an uncorrectable error. -/
def execStackDegrade (s : State) : Host.Outcome State Fault Refusal :=
  match s.cur.work with
  | some (.stackDegrade stack pc) =>
    if (stack, pc) ∈ s.spares.failed then .next s
    else .next (({ s with spares := { s.spares with failed := s.spares.failed ++ [(stack, pc)] } } : State).event 0x03 stack 0 pc 0)
  | _ => .next s

end Sys2Proof.Machine
end

