-- ==== Sys2Proof/Machine/Dispatch.lean ====
section
/-! DEFINITION. One arm for every row of spec/opcode_table.json: each calls its meaning, or is rejected by name. -/

namespace Sys2Proof.Machine

def exec (i : Instr) (s : State) : Host.Outcome State Fault Refusal :=
  match i with
  | .illg => Sys2Proof.Machine.execIllg s
  | .add h w b => Sys2Proof.Machine.execAdd h w b s
  | .sub h w b => Sys2Proof.Machine.execSub h w b s
  | .mul h w b => Sys2Proof.Machine.execMul h w b s
  | .mulh h w b => Sys2Proof.Machine.execMulh h w b s
  | .mulhw h w b => Sys2Proof.Machine.execMulhw h w b s
  | .div h w b => Sys2Proof.Machine.execDiv h w b s
  | .divw h w b => Sys2Proof.Machine.execDivw h w b s
  | .rem h w b => Sys2Proof.Machine.execRem h w b s
  | .remw h w b => Sys2Proof.Machine.execRemw h w b s
  | .neg h w => Sys2Proof.Machine.execNeg h w s
  | .abs h w => Sys2Proof.Machine.execAbs h w s
  | .min h w b => Sys2Proof.Machine.execMin h w b s
  | .max h w b => Sys2Proof.Machine.execMax h w b s
  | .minw h w b => Sys2Proof.Machine.execMinw h w b s
  | .maxw h w b => Sys2Proof.Machine.execMaxw h w b s
  | .and h w b => Sys2Proof.Machine.execAnd h w b s
  | .or h w b => Sys2Proof.Machine.execOr h w b s
  | .xor h w b => Sys2Proof.Machine.execXor h w b s
  | .andn h w b => Sys2Proof.Machine.execAndn h w b s
  | .not h w => Sys2Proof.Machine.execNot h w s
  | .shl h w b => Sys2Proof.Machine.execShl h w b s
  | .shr h w b => Sys2Proof.Machine.execShr h w b s
  | .sar h w b => Sys2Proof.Machine.execSar h w b s
  | .rot h w b => Sys2Proof.Machine.execRot h w b s
  | .clz h w => Sys2Proof.Machine.execClz h w s
  | .ctz h w => Sys2Proof.Machine.execCtz h w s
  | .popc h w => Sys2Proof.Machine.execPopc h w s
  | .brev h w => Sys2Proof.Machine.execBrev h w s
  | .bfx h w b => Sys2Proof.Machine.execBfx h w b s
  | .bfxw h w b => Sys2Proof.Machine.execBfxw h w b s
  | .bfi h w b => Sys2Proof.Machine.execBfi h w b s
  | .lea h w b => Sys2Proof.Machine.execLea h w b s
  | .mov h => Sys2Proof.Machine.execMov h s
  | .movi h k => Sys2Proof.Machine.execMovi h k s
  | .movhi h q chunk => Sys2Proof.Machine.execMovhi h q chunk s
  | .sel h w b => Sys2Proof.Machine.execSel h w b s
  | .sext h w => Sys2Proof.Machine.execSext h w s
  | .zext h w => Sys2Proof.Machine.execZext h w s
  | .teq h w b pd => Sys2Proof.Machine.execTeq h w b pd s
  | .tne h w b pd => Sys2Proof.Machine.execTne h w b pd s
  | .tlt h w b pd => Sys2Proof.Machine.execTlt h w b pd s
  | .tle h w b pd => Sys2Proof.Machine.execTle h w b pd s
  | .tltw h w b pd => Sys2Proof.Machine.execTltw h w b pd s
  | .tlew h w b pd => Sys2Proof.Machine.execTlew h w b pd s
  | .tbit h w b pd => Sys2Proof.Machine.execTbit h w b pd s
  | .tnul h vc pd => Sys2Proof.Machine.execTnul h vc pd s
  | .read h r te => Sys2Proof.Machine.execRead h r te s
  | .write h r => Sys2Proof.Machine.execWrite h r s
  | .nul h store n => Sys2Proof.Machine.execNul h store n s
  | .br h off => Sys2Proof.Machine.execBr h off s
  | .brx h => Sys2Proof.Machine.execBrx h s
  | .jtab h off => Sys2Proof.Machine.execJtab h off s
  | .call h off => Sys2Proof.Machine.execCall h off s
  | .ret h => Sys2Proof.Machine.execRet h s
  | .exit h => Sys2Proof.Machine.execExit h s
  | .fan h t2 t3 => Sys2Proof.Machine.execFan h t2 t3 s
  | .stamp h k => Sys2Proof.Machine.execStamp h k s
  | .lpin h => Sys2Proof.Machine.execLpin h s
  | .lpnext h => Sys2Proof.Machine.execLpnext h s
  | .lpout h => Sys2Proof.Machine.execLpout h s
  | .send h port => Sys2Proof.Machine.execSend h port s
  | .sends h port => Sys2Proof.Machine.execSends h port s
  | .msg h port => Sys2Proof.Machine.execMsg h port s
  | .notify h vc => Sys2Proof.Machine.execNotify h vc s
  | .rnext h => Sys2Proof.Machine.execRnext h s
  | .rsplit h => Sys2Proof.Machine.execRsplit h s
  | .yield h => Sys2Proof.Machine.execYield h s
  | .shdef h sh num => Sys2Proof.Machine.execShdef h sh num s
  | .shset h sh f => Sys2Proof.Machine.execShset h sh f s
  | .shget h sh f => Sys2Proof.Machine.execShget h sh f s
  | .shadv h sh d => Sys2Proof.Machine.execShadv h sh d s
  | .vadd h d a b ty rm sat => Sys2Proof.Machine.execVadd h d a b ty rm sat s
  | .vsub h d a b ty rm sat => Sys2Proof.Machine.execVsub h d a b ty rm sat s
  | .vmul h d a b ty rm sat => Sys2Proof.Machine.execVmul h d a b ty rm sat s
  | .vfma h d a b c ty rm => Sys2Proof.Machine.execVfma h d a b c ty rm s
  | .vfms h d a b c ty rm => Sys2Proof.Machine.execVfms h d a b c ty rm s
  | .vmin h d a b ty => Sys2Proof.Machine.execVmin h d a b ty s
  | .vmax h d a b ty => Sys2Proof.Machine.execVmax h d a b ty s
  | .vabs h d a ty sat => Sys2Proof.Machine.execVabs h d a ty sat s
  | .vneg h d a ty sat => Sys2Proof.Machine.execVneg h d a ty sat s
  | .vdiv h d a b ty rm => Sys2Proof.Machine.execVdiv h d a b ty rm s
  | .vsqrt h d a ty rm => Sys2Proof.Machine.execVsqrt h d a ty rm s
  | .vrcp h d a ty rm => Sys2Proof.Machine.execVrcp h d a ty rm s
  | .vrsq h d a ty rm => Sys2Proof.Machine.execVrsq h d a ty rm s
  | .vexp2 h d a ty rm => Sys2Proof.Machine.execVexp2 h d a ty rm s
  | .vlog2 h d a ty rm => Sys2Proof.Machine.execVlog2 h d a ty rm s
  | .vsin h d a ty rm => Sys2Proof.Machine.execVsin h d a ty rm s
  | .vcos h d a ty rm => Sys2Proof.Machine.execVcos h d a ty rm s
  | .vtanh h d a ty rm => Sys2Proof.Machine.execVtanh h d a ty rm s
  | .vsigm h d a ty rm => Sys2Proof.Machine.execVsigm h d a ty rm s
  | .vcvt h d a dty sty rm => Sys2Proof.Machine.execVcvt h d a dty sty rm s
  | .vscale h d a by_ ty rm => Sys2Proof.Machine.execVscale h d a by_ ty rm s
  | .vqnt h d a pass ty sty rm => Sys2Proof.Machine.execVqnt h d a pass ty sty rm s
  | .vand h d a b ty => Sys2Proof.Machine.execVand h d a b ty s
  | .vor h d a b ty => Sys2Proof.Machine.execVor h d a b ty s
  | .vxor h d a b ty => Sys2Proof.Machine.execVxor h d a b ty s
  | .vshl h d a b ty => Sys2Proof.Machine.execVshl h d a b ty s
  | .vshr h d a b ty => Sys2Proof.Machine.execVshr h d a b ty s
  | .vcmp h d a b ty cond => Sys2Proof.Machine.execVcmp h d a b ty cond s
  | .vselm h d a b m ty => Sys2Proof.Machine.execVselm h d a b m ty s
  | .vclamp h d a ty => Sys2Proof.Machine.execVclamp h d a ty s
  | .vsum h a ty opt => Sys2Proof.Machine.execVsum h a ty opt s
  | .vrmax h a ty => Sys2Proof.Machine.execVrmax h a ty s
  | .vrmin h a ty => Sys2Proof.Machine.execVrmin h a ty s
  | .vargmx h a ty => Sys2Proof.Machine.execVargmx h a ty s
  | .vdot h a b ty opt => Sys2Proof.Machine.execVdot h a b ty opt s
  | .vperm h d a b ty => Sys2Proof.Machine.execVperm h d a b ty s
  | .vgath h d a b ty => Sys2Proof.Machine.execVgath h d a b ty s
  | .vscat h d a b ty => Sys2Proof.Machine.execVscat h d a b ty s
  | .vjoin h d a b outer => Sys2Proof.Machine.execVjoin h d a b outer s
  | .viota h d ty rm => Sys2Proof.Machine.execViota h d ty rm s
  | .vfill h d ty => Sys2Proof.Machine.execVfill h d ty s
  | .vcopy h d a ty => Sys2Proof.Machine.execVcopy h d a ty s
  | .ld h sp sz sx => Sys2Proof.Machine.execLd h sp sz sx s
  | .st h sp sz sid => Sys2Proof.Machine.execSt h sp sz sid s
  | .ldp h sp => Sys2Proof.Machine.execLdp h sp s
  | .stp h sp sid => Sys2Proof.Machine.execStp h sp sid s
  | .pref h sp => Sys2Proof.Machine.execPref h sp s
  | .flush h sp => Sys2Proof.Machine.execFlush h sp s
  | .inval h sp => Sys2Proof.Machine.execInval h sp s
  | .lds h sp wait => Sys2Proof.Machine.execLds h sp wait s
  | .sts h sp => Sys2Proof.Machine.execSts h sp s
  | .stclr h sp => Sys2Proof.Machine.execStclr h sp s
  | .aadd h sp sz m fp => Sys2Proof.Machine.execAadd h sp sz m fp s
  | .amin h sp sz m => Sys2Proof.Machine.execAmin h sp sz m s
  | .amax h sp sz m => Sys2Proof.Machine.execAmax h sp sz m s
  | .aminw h sp sz m => Sys2Proof.Machine.execAminw h sp sz m s
  | .amaxw h sp sz m => Sys2Proof.Machine.execAmaxw h sp sz m s
  | .aand h sp sz m => Sys2Proof.Machine.execAand h sp sz m s
  | .aor h sp sz m => Sys2Proof.Machine.execAor h sp sz m s
  | .axor h sp sz m => Sys2Proof.Machine.execAxor h sp sz m s
  | .aswp h sp sz m => Sys2Proof.Machine.execAswp h sp sz m s
  | .acas h sp sz sc => Sys2Proof.Machine.execAcas h sp sz sc s
  | .acasm h sp n vk sc => Sys2Proof.Machine.execAcasm h sp n vk sc s
  | .aenq h sp sc => Sys2Proof.Machine.execAenq h sp sc s
  | .achase h sp => Sys2Proof.Machine.execAchase h sp s
  | .abxa h sp m => Sys2Proof.Machine.execAbxa h sp m s
  | .wenq h => Sys2Proof.Machine.execWenq h s
  | .otok h sc => Sys2Proof.Machine.execOtok h sc s
  | .ojoin h => Sys2Proof.Machine.execOjoin h s
  | .fence h sc => Sys2Proof.Machine.execFence h sc s
  | .tlwait h tl => Sys2Proof.Machine.execTlwait h tl s
  | .tlread h tl => Sys2Proof.Machine.execTlread h tl s
  | .tlbump h tl => Sys2Proof.Machine.execTlbump h tl s
  | .snap h => Sys2Proof.Machine.execSnap h s
  | .snacc h => Sys2Proof.Machine.execSnacc h s
  | .snrej h => Sys2Proof.Machine.execSnrej h s
  | .snqry h => Sys2Proof.Machine.execSnqry h s
  | .stgput h q => Sys2Proof.Machine.execStgput h q s
  | .stgwait h q => Sys2Proof.Machine.execStgwait h q s
  | .stgclose h q => Sys2Proof.Machine.execStgclose h q s
  | .cpy h tl cx ty start follow mask => Sys2Proof.Machine.execCpy h tl cx ty start follow mask s
  | .cpyt h tl cx ty start follow mask => Sys2Proof.Machine.execCpyt h tl cx ty start follow mask s
  | .cpyg h tl cx ty start follow mask => Sys2Proof.Machine.execCpyg h tl cx ty start follow mask s
  | .cpys h tl cx ty start follow mask => Sys2Proof.Machine.execCpys h tl cx ty start follow mask s
  | .cpysus h cx => Sys2Proof.Machine.execCpysus h cx s
  | .cpyres h cx => Sys2Proof.Machine.execCpyres h cx s
  | .mldb h tl m ty => Sys2Proof.Machine.execMldb h tl m ty s
  | .mscl h tl => Sys2Proof.Machine.execMscl h tl s
  | .mma h tl acc m ty => Sys2Proof.Machine.execMma h tl acc m ty s
  | .macrd h acc => Sys2Proof.Machine.execMacrd h acc s
  | .macpk h acc => Sys2Proof.Machine.execMacpk h acc s
  | .macclr h acc => Sys2Proof.Machine.execMacclr h acc s
  | .macst h tl acc => Sys2Proof.Machine.execMacst h tl acc s
  | .cnclr h e => Sys2Proof.Machine.execCnclr h e s
  | .cnfeed h e => Sys2Proof.Machine.execCnfeed h e s
  | .cnmax h e m => Sys2Proof.Machine.execCnmax h e m s
  | .cnsum h e m => Sys2Proof.Machine.execCnsum h e m s
  | .cninf h e m => Sys2Proof.Machine.execCninf h e m s
  | .cnconj h e => Sys2Proof.Machine.execCnconj h e s
  | .cneval h e => Sys2Proof.Machine.execCneval h e s
  | .cnmin h e => Sys2Proof.Machine.execCnmin h e s
  | .cnsimp h e => Sys2Proof.Machine.execCnsimp h e s
  | .cnld h tl e => Sys2Proof.Machine.execCnld h tl e s
  | .cnst h tl e => Sys2Proof.Machine.execCnst h tl e s
  | .cninfo h e => Sys2Proof.Machine.execCninfo h e s
  | .trap h code => Sys2Proof.Machine.execTrap h code s
  | .eret h => Sys2Proof.Machine.execEret h s
  | .csrrd h csr => Sys2Proof.Machine.execCsrrd h csr s
  | .csrwr h csr => Sys2Proof.Machine.execCsrwr h csr s
  | .bkpt h code => Sys2Proof.Machine.execBkpt h code s
  | .sleep h => Sys2Proof.Machine.execSleep h s
  | .perf h n => Sys2Proof.Machine.execPerf h n s
  | .blockFetch => Sys2Proof.Machine.execBlockFetch s
  | .blockCommit => Sys2Proof.Machine.execBlockCommit s
  | .blockQuiescentFault => Sys2Proof.Machine.execBlockQuiescentFault s
  | .activationStart => Sys2Proof.Machine.execActivationStart s
  | .taskPromote => Sys2Proof.Machine.execTaskPromote s
  | .messageArrive => Sys2Proof.Machine.execMessageArrive s
  | .bindingFill => Sys2Proof.Machine.execBindingFill s
  | .longLatencyResult => Sys2Proof.Machine.execLongLatencyResult s
  | .rnextServe => Sys2Proof.Machine.execRnextServe s
  | .stageWaiterServe => Sys2Proof.Machine.execStageWaiterServe s
  | .sleepExpire => Sys2Proof.Machine.execSleepExpire s
  | .tlwaitTimeout => Sys2Proof.Machine.execTlwaitTimeout s
  | .tlbumpComplete => Sys2Proof.Machine.execTlbumpComplete s
  | .spillTimeout => Sys2Proof.Machine.execSpillTimeout s
  | .batchApply => Sys2Proof.Machine.execBatchApply s
  | .frontierResume => Sys2Proof.Machine.execFrontierResume s
  | .notificationArrive => Sys2Proof.Machine.execNotificationArrive s
  | .batchAck => Sys2Proof.Machine.execBatchAck s
  | .loopAdmit => Sys2Proof.Machine.execLoopAdmit s
  | .packetAccept => Sys2Proof.Machine.execPacketAccept s
  | .linkDisable => Sys2Proof.Machine.execLinkDisable s
  | .reductionNodeArrive => Sys2Proof.Machine.execReductionNodeArrive s
  | .reductionTimeout => Sys2Proof.Machine.execReductionTimeout s
  | .homeAtomic => Sys2Proof.Machine.execHomeAtomic s
  | .aenqAtHome => Sys2Proof.Machine.execAenqAtHome s
  | .achaseHop => Sys2Proof.Machine.execAchaseHop s
  | .structLdsAtAgent => Sys2Proof.Machine.execStructLdsAtAgent s
  | .structStsAtAgent => Sys2Proof.Machine.execStructStsAtAgent s
  | .structStclrAtAgent => Sys2Proof.Machine.execStructStclrAtAgent s
  | .readerCancel => Sys2Proof.Machine.execReaderCancel s
  | .wenqAtTarget => Sys2Proof.Machine.execWenqAtTarget s
  | .wenqHeadWake => Sys2Proof.Machine.execWenqHeadWake s
  | .wenqRingTimeout => Sys2Proof.Machine.execWenqRingTimeout s
  | .linkRequestArrive => Sys2Proof.Machine.execLinkRequestArrive s
  | .linkRetransmit => Sys2Proof.Machine.execLinkRetransmit s
  | .linkTimeout => Sys2Proof.Machine.execLinkTimeout s
  | .replyEntryAgeOut => Sys2Proof.Machine.execReplyEntryAgeOut s
  | .l2Access => Sys2Proof.Machine.execL2Access s
  | .l2FillComplete => Sys2Proof.Machine.execL2FillComplete s
  | .pageWalk => Sys2Proof.Machine.execPageWalk s
  | .walkComplete => Sys2Proof.Machine.execWalkComplete s
  | .settleBackground => Sys2Proof.Machine.execSettleBackground s
  | .hbmRefresh => Sys2Proof.Machine.execHbmRefresh s
  | .hbmScrub => Sys2Proof.Machine.execHbmScrub s
  | .l2Scrub => Sys2Proof.Machine.execL2Scrub s
  | .l2FrameSpare => Sys2Proof.Machine.execL2FrameSpare s
  | .pseudoChannelSpare => Sys2Proof.Machine.execPseudoChannelSpare s
  | .pseudoChannelCopyDone => Sys2Proof.Machine.execPseudoChannelCopyDone s
  | .stackDegrade => Sys2Proof.Machine.execStackDegrade s
  | .copyStart => Sys2Proof.Machine.execCopyStart s
  | .copyStep => Sys2Proof.Machine.execCopyStep s
  | .followOnStart => Sys2Proof.Machine.execFollowOnStart s
  | .macroLoad => Sys2Proof.Machine.execMacroLoad s
  | .scaleTokenAccept => Sys2Proof.Machine.execScaleTokenAccept s
  | .mmaStart => Sys2Proof.Machine.execMmaStart s
  | .mmaComplete => Sys2Proof.Machine.execMmaComplete s
  | .macclrPerform => Sys2Proof.Machine.execMacclrPerform s
  | .macstPerform => Sys2Proof.Machine.execMacstPerform s
  | .canopyLoad => Sys2Proof.Machine.execCanopyLoad s
  | .canopyStore => Sys2Proof.Machine.execCanopyStore s
  | .launchDoorbell => Sys2Proof.Machine.execLaunchDoorbell s
  | .launchTake => Sys2Proof.Machine.execLaunchTake s
  | .determinismChange => Sys2Proof.Machine.execDeterminismChange s
  | .loadPlace => Sys2Proof.Machine.execLoadPlace s
  | .loadDrain => Sys2Proof.Machine.execLoadDrain s
  | .preemptStart => Sys2Proof.Machine.execPreemptStart s
  | .preemptSave => Sys2Proof.Machine.execPreemptSave s
  | .loadResume => Sys2Proof.Machine.execLoadResume s
  | .bedFail => Sys2Proof.Machine.execBedFail s
  | .pullQueuePull => Sys2Proof.Machine.execPullQueuePull s
  | .trapRecordDeliver => Sys2Proof.Machine.execTrapRecordDeliver s
  | .laneFail => Sys2Proof.Machine.execLaneFail s
  | .planeFail => Sys2Proof.Machine.execPlaneFail s
  | .hostCxlMemRead => Sys2Proof.Machine.execHostCxlMemRead s
  | .hostCxlMemWrite => Sys2Proof.Machine.execHostCxlMemWrite s
  | .translationInvalidatePage => Sys2Proof.Machine.execTranslationInvalidatePage s
  | .translationInvalidateAll => Sys2Proof.Machine.execTranslationInvalidateAll s
  | .tensorInvalidate => Sys2Proof.Machine.execTensorInvalidate s
  | .invalidationComplete => Sys2Proof.Machine.execInvalidationComplete s
  | .contextCreate => Sys2Proof.Machine.execContextCreate s
  | .contextDestroy => Sys2Proof.Machine.execContextDestroy s
  | .identWrite => Sys2Proof.Machine.execIdentWrite s
  | .killQueue => Sys2Proof.Machine.execKillQueue s
  | .killContext => Sys2Proof.Machine.execKillContext s
  | .killComplete => Sys2Proof.Machine.execKillComplete s
  | .dbgRefire => Sys2Proof.Machine.execDbgRefire s
  | .dbgKill => Sys2Proof.Machine.execDbgKill s
  | .dbgRefireSuppress => Sys2Proof.Machine.execDbgRefireSuppress s
  | .warmReset => Sys2Proof.Machine.execWarmReset s
  | .coldReset => Sys2Proof.Machine.execColdReset s
  | .registerWrite => Sys2Proof.Machine.execRegisterWrite s
  | .spdmRequest => Sys2Proof.Machine.execSpdmRequest s
  | .spdmSlhDsaRequest => Sys2Proof.Machine.execSpdmSlhDsaRequest s
  | .doeDiscovery => Sys2Proof.Machine.execDoeDiscovery s
  | .powerGrant => Sys2Proof.Machine.execPowerGrant s
  | .thermalThrottle => Sys2Proof.Machine.execThermalThrottle s
  | .thermalRecover => Sys2Proof.Machine.execThermalRecover s
  | .thermalShutdown => Sys2Proof.Machine.execThermalShutdown s
  | .flitResend => Sys2Proof.Machine.execFlitResend s
  | .hostSnoop => Sys2Proof.Machine.execHostSnoop s
  | .powerLoss => Sys2Proof.Machine.execPowerLoss s

end Sys2Proof.Machine
end

