-- ==== Sys2Proof/Machine/Choose.lean ====
section
/-! DEFINITION. What the machine may do next (log 2): the instructions that are ready, the pending work, and the steps whose conditions
hold; and the choice among them. -/

namespace Sys2Proof.Machine

/-- The row of the opcode table that a piece of work is a step of. -/
def Work.row : Work → Instr
  | .blockFetch _ => .blockFetch
  | .blockCommit _ => .blockCommit
  | .blockQuiescentFault _ => .blockQuiescentFault
  | .activationStart _ => .activationStart
  | .taskPromote _ => .taskPromote
  | .messageArrive _ => .messageArrive
  | .bindingFill _ => .bindingFill
  | .longLatencyResult _ => .longLatencyResult
  | .rnextServe _ => .rnextServe
  | .stageWaiterServe _ _ => .stageWaiterServe
  | .sleepExpire _ => .sleepExpire
  | .tlwaitTimeout _ => .tlwaitTimeout
  | .tlbumpComplete _ _ _ => .tlbumpComplete
  | .spillTimeout _ _ => .spillTimeout
  | .batchApply _ => .batchApply
  | .frontierResume _ => .frontierResume
  | .notificationArrive _ => .notificationArrive
  | .batchAck _ _ => .batchAck
  | .loopAdmit _ _ => .loopAdmit
  | .packetAccept _ => .packetAccept
  | .linkDisable _ _ => .linkDisable
  | .reductionNodeArrive _ => .reductionNodeArrive
  | .reductionTimeout _ _ _ _ => .reductionTimeout
  | .homeAtomic _ => .homeAtomic
  | .aenqAtHome _ => .aenqAtHome
  | .achaseHop _ => .achaseHop
  | .structLdsAtAgent _ => .structLdsAtAgent
  | .structStsAtAgent _ => .structStsAtAgent
  | .structStclrAtAgent _ => .structStclrAtAgent
  | .readerCancel _ => .readerCancel
  | .wenqAtTarget _ => .wenqAtTarget
  | .wenqHeadWake _ => .wenqHeadWake
  | .wenqRingTimeout _ => .wenqRingTimeout
  | .linkRequestArrive _ _ => .linkRequestArrive
  | .linkRetransmit _ => .linkRetransmit
  | .linkTimeout _ => .linkTimeout
  | .replyEntryAgeOut _ => .replyEntryAgeOut
  | .l2Access _ => .l2Access
  | .l2FillComplete _ => .l2FillComplete
  | .pageWalk _ => .pageWalk
  | .walkComplete _ _ => .walkComplete
  | .settleBackground _ => .settleBackground
  | .hbmRefresh _ _ => .hbmRefresh
  | .hbmScrub _ _ => .hbmScrub
  | .l2Scrub _ _ => .l2Scrub
  | .l2FrameSpare _ _ _ _ => .l2FrameSpare
  | .pseudoChannelSpare _ _ => .pseudoChannelSpare
  | .pseudoChannelCopyDone _ _ => .pseudoChannelCopyDone
  | .stackDegrade _ _ => .stackDegrade
  | .copyStart _ _ => .copyStart
  | .copyStep _ _ => .copyStep
  | .followOnStart _ _ => .followOnStart
  | .macroLoad _ _ => .macroLoad
  | .scaleTokenAccept _ _ => .scaleTokenAccept
  | .mmaStart _ _ => .mmaStart
  | .mmaComplete _ _ => .mmaComplete
  | .macclrPerform _ _ => .macclrPerform
  | .macstPerform _ _ => .macstPerform
  | .canopyLoad _ => .canopyLoad
  | .canopyStore _ => .canopyStore
  | .launchDoorbell _ _ _ => .launchDoorbell
  | .launchTake _ _ => .launchTake
  | .determinismChange _ _ => .determinismChange
  | .loadPlace _ => .loadPlace
  | .loadDrain _ => .loadDrain
  | .preemptStart _ => .preemptStart
  | .preemptSave _ => .preemptSave
  | .loadResume _ => .loadResume
  | .bedFail _ _ => .bedFail
  | .pullQueuePull _ _ => .pullQueuePull
  | .trapRecordDeliver _ => .trapRecordDeliver
  | .laneFail _ => .laneFail
  | .planeFail _ => .planeFail
  | .hostCxlMemRead _ _ => .hostCxlMemRead
  | .hostCxlMemWrite _ _ => .hostCxlMemWrite
  | .translationInvalidatePage _ _ => .translationInvalidatePage
  | .translationInvalidateAll _ _ => .translationInvalidateAll
  | .tensorInvalidate _ _ => .tensorInvalidate
  | .invalidationComplete _ => .invalidationComplete
  | .contextCreate _ _ => .contextCreate
  | .contextDestroy _ _ => .contextDestroy
  | .identWrite _ => .identWrite
  | .killQueue _ => .killQueue
  | .killContext _ => .killContext
  | .killComplete => .killComplete
  | .dbgRefire => .dbgRefire
  | .dbgKill => .dbgKill
  | .dbgRefireSuppress => .dbgRefireSuppress
  | .warmReset => .warmReset
  | .coldReset => .coldReset
  | .registerWrite _ _ => .registerWrite
  | .spdmRequest _ => .spdmRequest
  | .spdmSlhDsaRequest _ => .spdmSlhDsaRequest
  | .doeDiscovery _ => .doeDiscovery
  | .powerGrant _ _ => .powerGrant
  | .thermalThrottle _ => .thermalThrottle
  | .thermalRecover _ => .thermalRecover
  | .thermalShutdown _ => .thermalShutdown
  | .flitResend _ _ => .flitResend
  | .hostSnoop _ => .hostSnoop
  | .powerLoss => .powerLoss

/-! Ready instructions (R215, R216). -/

/-- The instructions of a block in flight that may fire (R35). -/
def Firing.fires (f : Firing) (t : TaskRef) (which : Nat) : List Cursor :=
  (f.words.zipIdx.filter fun w => f.canFire w.2 w.1 && !f.stopped w.2).map fun w => ({ task := t, which := which, idx := w.2 } : Cursor)

/-- The instructions of a task that may fire. -/
def Task.fires (k : Task) (t : TaskRef) : List Cursor :=
  k.flights.zipIdx.flatMap fun f => f.1.fires t f.2

/-- The instructions that may fire. -/
def State.fires (s : State) : List Cursor := s.tasks.flatMap fun x => x.2.fires x.1

/-! Steps whose conditions hold. -/

/-- Steps of blocks and tasks (R215 to R217, R420). -/
def State.taskSteps (s : State) : List Work := s.tasks.flatMap fun x =>
  (if s.mayFetch x.1 then [Work.blockFetch x.1] else []) ++ (if s.mayCommit x.1 then [Work.blockCommit x.1] else [])
    ++ (if (s.quiescentFault x.1).isSome then [Work.blockQuiescentFault x.1] else [])
    ++ (if s.mayPromote x.1 then [Work.taskPromote x.1] else [])

/-- Starts of activations (R420). -/
def State.startSteps (s : State) : List Work :=
  (((s.tasks.map fun x => elemOf x.1).eraseDups).filter s.mayStartOn).map Work.activationStart

/-- Steps of the graph scheduler (R412 to R427). -/
def State.loadSteps (s : State) : List Work := s.loads.flatMap fun l =>
  (if s.mayPlace l then [Work.loadPlace l.id] else []) ++ (if s.mayResume l then [Work.loadResume l.id] else [])
    ++ (if s.mayDrain l then [Work.loadDrain l.id] else []) ++ (if s.mayPreempt l then [Work.preemptStart l.id] else [])
    ++ (if s.mayPreemptSave l then [Work.preemptSave l.id] else [])

/-- Packets that may be taken (R412 to R414), records that may be delivered (R469), invalidations that may end (R42). -/
def State.ctxSteps (s : State) : List Work := s.ctxs.flatMap fun c =>
  ((List.range 16).flatMap fun q => (if s.mayTake c.1 q false then [Work.launchTake c.1 q] else [])
      ++ if s.mayTake c.1 q true then [Work.determinismChange c.1 q] else [])
    ++ (if s.mayDeliver c.1 then [Work.trapRecordDeliver c.1] else [])
    ++ (if s.mayEndInval c.1 then [Work.invalidationComplete c.1] else [])

/-- Waits that a drain cancels (R425), and the end of killed launches (R478). -/
def State.endSteps (s : State) : List Work :=
  ((s.reqs.filter s.mayCancel).map fun r => Work.readerCancel r.id) ++ (if s.mayKillComplete then [Work.killComplete] else [])

/-- Steps whose conditions hold. -/
def State.derived (s : State) : List Work := s.taskSteps ++ s.startSteps ++ s.loadSteps ++ s.ctxSteps ++ s.endSteps

/-! Pending work. -/

/-- R139: what the host sends through its port; it takes place in the order in which it came. -/
def Work.fromHost : Work → Bool
  | .hostCxlMemRead _ _ | .hostCxlMemWrite _ _ | .registerWrite _ _ | .identWrite _ | .contextCreate _ _ | .contextDestroy _ _
  | .launchDoorbell _ _ _ | .killQueue _ | .killContext _ | .dbgRefire | .dbgKill | .dbgRefireSuppress | .translationInvalidatePage _ _
  | .translationInvalidateAll _ _ | .tensorInvalidate _ _ => true
  | _ => false

/-- The pending work that may be taken: all of it but what the host sent behind something else that it sent. -/
def agendaReady (seen : Bool) : List Work → List Work
  | [] => []
  | w :: r => if Work.fromHost w then (if seen then agendaReady true r else w :: agendaReady true r) else w :: agendaReady seen r

/-- R474, R475: a package that has stopped, or has no power, does nothing but a cold reset. -/
def State.asleep (s : State) : Bool := s.power.stopped || !s.power.on

/-- What may come next. -/
def State.choices (s : State) : List Cursor :=
  if s.asleep then (if Work.coldReset ∈ s.agenda then [{ work := some .coldReset }] else [])
  else s.fires ++ (agendaReady false s.agenda ++ s.derived).map fun w => ({ work := some w } : Cursor)

/-- The choice among the steps that may come next; one alone is taken. -/
def chosen (n tick : Nat) : Nat := if n = 1 then 0 else Config.pick tick % n

/-- The elements that have an instruction ready (R368). -/
def State.busyElems (s : State) : List ElemRef := (s.fires.map fun c => elemOf c.task).eraseDups

/-- Time passes: the counters of cycles advance (log 1); in a package that has stopped no element is busy. -/
def State.passTime (s : State) : State :=
  let n := Config.elapsed s.tick
  let s := if s.asleep then s else s.busyElems.foldl (fun (s : State) e => s.modElem e fun x => { x with busy := x.busy + BitVec.ofNat 64 n }) s
  { s with tick := s.tick + 1, cycle := s.cycle + n }

/-- The machine turns to a step: time passes, the work leaves the agenda, and the cursor names it. -/
def State.turnTo (s : State) (c : Cursor) : State :=
  let s := s.passTime
  match c.work with
  | some w => { s with cur := c, agenda := s.agenda.erase w }
  | none => { s with cur := c }

/-- The word the cursor names. -/
def State.wordAt (s : State) (c : Cursor) : Option Word := match (s.task c.task).flight c.which with
  | some f => f.words[c.idx]?
  | none => none

/-- The row of the opcode table that a choice is a step of. -/
def State.rowAt (s : State) (c : Cursor) : Option Instr := match c.work with
  | some w => some (Work.row w)
  | none => match s.wordAt c with
    | some w => match decodeWord w with
      | .ok i => some i
      | .error _ => none
    | none => none

end Sys2Proof.Machine
end

