-- ==== Sys2Proof/Machine/Step.lean ====
section
/-! DEFINITION. One step of the machine: the choice among what may come next (log 2), and its meaning. -/

namespace Sys2Proof.Machine

/-- One step. With nothing to do, time passes. -/
def step (s : State) : Host.Outcome State Fault Refusal :=
  match s.choices[chosen s.choices.length s.tick]? with
  | none => .next s.passTime
  | some c => match s.rowAt c with
    | some i => exec i (s.turnTo c)
    | none => .fault .notAnInstruction

/-- A block of one word, all its inputs arrived, its guards holding. -/
def loneBlock (w : Word) : Firing :=
  { serial := 0, addr := 0, hdr := decodeHeader 0, words := [w]
    slots := [((0, 0), { v := 0 }), ((0, 1), { v := 0 }), ((0, 2), { v := 0 }), ((0, 3), { v := 0, tok := some {} })]
    preds := ((guardsOf w).1.toList ++ (guardsOf w).2.toList).map fun g => (g.pred.toNat, g.sense) }

/-- Where step finds its next instruction: the only thing that may come next is the firing of the word, in a block of its own on an
active task of die 0 (log 7). -/
def State.withFetchWord (s : State) (nbits w : Nat) : State :=
  let word := BitVec.ofNat 64 (w % 2 ^ nbits)
  { s with
    agenda := [], reqs := [], loads := [], launches := [], ctxs := [], mgmt := { s.mgmt with kill := 0, killing := [] }
    power := { s.power with stopped := false, on := true }
    tasks := [(⟨0, 0, 0⟩, { phase := .active, act := some { stamp := {} }, regs := List.replicate 32 { full := true }, flights := [loneBlock word] })] }

end Sys2Proof.Machine
end

