-- ==== Sys2Proof/Safety.lean ====
section
/-! DEFINITION. What counts as a safe run, the invariants of the machine, and the words in which the statements say what an instruction
leaves unchanged. -/

namespace Sys2Proof.Safety

open Sys2Proof.Machine

/-- The storages of a state are in canonical form, so that equal contents are equal data. -/
def MemoryOk (s : State) : Prop := s.mem.wf = true ∧ s.l2mem.wf = true ∧ s.hostmem.wf = true

/-- A step that goes on. -/
def StepOk (s : State) : Prop := ∃ t, step s = .next t

/-- A state that a run reaches from another. -/
inductive Reaches (s : State) : State → Prop
  | here : Reaches s s
  | more {t u : State} : Reaches s t → step t = .next u → Reaches s u

/-- A safe run from a state: every state it reaches steps on. -/
def Safe (s : State) : Prop := ∀ t, Reaches s t → StepOk t

/-- R474, R475: a package that has stopped or lost power, with no cold reset waiting. -/
def Asleep (s : State) : Prop := s.asleep = true ∧ Work.coldReset ∉ s.agenda

/-- Every pending operation has a number that the machine has given, so that the next one is new. -/
def IdsFresh (s : State) : Prop := ∀ q ∈ s.reqs, q.id < s.nextId

/-! What an instruction of a block leaves unchanged. -/

/-- The slot a target names. -/
def slotOf (t : Target) : Nat × Nat := (t.idx.toNat, Slot.num t.slot)

/-- Of the tasks and elements, only the block the cursor names, its task's next block address, and the count of instructions its element
has fired may differ: every register, shape register, temporary, replay entry and message of every task stands. -/
def BlockFrame (s t : State) : Prop :=
  (∀ u, u ≠ s.cur.task → t.task u = s.task u)
  ∧ { t.task s.cur.task with flights := (s.task s.cur.task).flights, fetch := (s.task s.cur.task).fetch } = s.task s.cur.task
  ∧ (∀ n, n ≠ s.cur.which → (t.task s.cur.task).flight n = (s.task s.cur.task).flight n)
  ∧ (∀ e, t.elem e = if e = elemOf s.cur.task then { s.elem e with instrs := (s.elem e).instrs + 1 } else s.elem e)

/-- Nothing but the block and its task's next block address differs: no storage, no context, no engine, no pending operation. -/
def OnlyBlock (s t : State) : Prop := { t with tasks := s.tasks, elems := s.elems } = s ∧ BlockFrame s t

/-- Nothing but the block differs. -/
def FiresOnly (s t : State) : Prop := OnlyBlock s t ∧ (t.task s.cur.task).fetch = (s.task s.cur.task).fetch

/-- A branch has become the block's branch, and the task fetches the block it names. -/
def TakesBranch (s t : State) (f : Firing) (n : Next) : Prop :=
  t.here = some { f with branch := some n, fired := s.cur.idx :: f.fired }
  ∧ (t.task s.cur.task).fetch = (match n with | .block a => some a | _ => (s.task s.cur.task).fetch) ∧ OnlyBlock s t

/-- The instruction has fired, and its effect waits for the block's commit; nothing else differs. -/
def Defers (s t : State) (f : Firing) (d : Defer) : Prop :=
  t.here = some { f with fired := s.cur.idx :: f.fired, defer := f.defer ++ [(s.cur.idx, d)] } ∧ FiresOnly s t

/-- The instruction has fired, and an operation of it is on its way: the request names the task, the block, the instruction, the context,
the bytes' place and the line, and has no answer yet. No storage differs, nor anything else but the block and the pending work: on its way
the request may already have merged with another (R93), whose merged request is no task's. -/
def Sends (s t : State) (f : Firing) (op : Op) (loc va : Nat) (use : Option LineUse) : Prop :=
  (∃ r l, t.reqs = s.reqs ++ r :: l ∧ (∀ q ∈ l, q.task = none) ∧ r.id = s.nextId ∧ r.op = op ∧ r.task = some s.cur.task ∧ r.serial = f.serial
    ∧ r.idx = s.cur.idx ∧ r.ctx = (s.task s.cur.task).ctx ∧ r.loc = loc ∧ r.va = va ∧ r.use = use ∧ r.answer = none)
  ∧ (∃ g, t.here = some g ∧ g.fired = s.cur.idx :: f.fired ∧ { g with fired := f.fired, used := f.used } = f)
  ∧ { t with reqs := s.reqs, nextId := s.nextId, tasks := s.tasks, elems := s.elems, agenda := s.agenda, packets := s.packets
             circuits := s.circuits, combines := s.combines } = s
  ∧ BlockFrame s t ∧ (t.task s.cur.task).fetch = (s.task s.cur.task).fetch

/-- R231: the targets of these slots meet a value that stands, or one another; n is the lowest instruction index whose slot does. -/
def Collides (f : Firing) (slots : List (Nat × Nat)) (n : Nat) : Prop :=
  let meets (i : Nat) (k : Nat × Nat) : Prop := slots[i]? = some k ∧ ((f.slots.find k).isSome ∨ k ∈ slots.take i)
  (∃ i k, meets i k ∧ k.1 = n) ∧ ∀ i k, meets i k → n ≤ k.1

/-- R231, R35: a block after a second arrival at a slot of instruction n: it has faulted BLOCK_FORMAT, and what stood in its slots stands. -/
def Blocked (f g : Firing) (n : Nat) : Prop :=
  (∃ r, g.fault = some r ∧ r.code = .blockFormat ∧ r.index = n) ∧ ∀ k v, f.slots.find k = some v → g.slots.find k = some v

/-- R231, R35: the task has parked with that block. -/
def ParksBlocked (t : TaskRef) (f : Firing) (s : State) (n : Nat) : Prop :=
  ∃ g r, (s.task t).parked = some (g, r) ∧ Blocked f g n ∧ r.code = .blockFormat ∧ r.index = n ∧ (s.task t).phase = .parked
    ∧ (s.task t).flights = []

/-- R432, R453: the way of the operation that is sent next, to a place: a local one is performed by a step to come, one of another package's
line waits for its link, and any other is a packet on its way to the router of its home, or of the memory agents where one of them performs
it (R69). -/
def Routed (s t : State) (key : Nat) (agent : Bool) (w : Work) : Prop :=
  (isGl key = false → w ∈ t.agenda)
  ∧ (s.remote key = true → Work.linkRequestArrive s.nextId 0 ∈ t.agenda)
  ∧ (isGl key = true → s.remote key = false →
      ∃ p ∈ t.packets, p.payload = .request s.nextId ∧ p.dest = s.homeRouter key agent ∧ Work.packetAccept p.id ∈ t.agenda)

/-- R300, R19, R105: an operation that writes is sent: the die has attached its epoch to the line and marked the page dirty, unless it knows it
dirty; nothing else is written before the operation, and nothing at all for a local place. -/
def SendsWrite (s t : State) (f : Firing) (op : Op) (loc va : Nat) (use : Option LineUse) (w : Nat → Work) : Prop :=
  let ctx := (s.task s.cur.task).ctx
  let d := s.forWrite ctx s.cur.task.tile va loc use
  Sends d.2 t f op loc va d.1 ∧ Routed d.2 t loc (op.atAgent || d.1.any fun u => u.ms) (w d.2.nextId)
  ∧ d.1 = use.map (fun u => { u with epoch := s.attachEpoch ctx va u.mtype loc }) ∧ (use = none → d.2 = s)
  ∧ ∀ u e, use = some u → e ∈ s.tc → e.die = dieOf s.cur.task.tile → e.ctx = ctx → e.leaf.entry = u.entry →
      e.page = u.va / e.leaf.size * e.leaf.size → (∀ x ∈ s.tc, x.leaf.entry = u.entry → x.leaf.dirty = true) → d.2 = s

/-! Numbers, as the rules compare them (R170, R291). -/

/-- The number of a floating-point value that is no NaN, between the infinities. -/
def numberOf : FV → WithBot (WithTop Rat)
  | .inf true => ⊥
  | .inf false => ⊤
  | .rat s n d => (((if s then -(n : Rat) / d else (n : Rat) / d : Rat) : WithTop Rat) : WithBot (WithTop Rat))
  | .nan => ⊥

/-- R170: the order of minimum and maximum: by the number, −0 below +0. -/
def rankOf : FV → Lex (WithBot (WithTop Rat) × Bool)
  | .rat s n d => toLex (numberOf (.rat s n d), !s)
  | x => toLex (numberOf x, true)

/-! Envelopes of lines, over the rational numbers (R352 to R360). -/

/-- The number of a finite value. -/
def ratOf : FV → Rat
  | .rat s n d => if s then -(n : Rat) / d else (n : Rat) / d
  | _ => 0

/-- The number of a finite FP32 pattern. -/
def r32 (b : BitVec 32) : Rat := ratOf (f32 b)

/-- A pattern is an exact number rounded once (R354). -/
def Rounds (ftz : Bool) (b : BitVec 32) (q : Rat) : Prop := ∃ s n d, 0 < d ∧ ratOf (.rat s n d) = q ∧ b = toF32 ftz (.rat s n d)

/-- The value of a segment's line at a point. -/
def lineAt (g : Seg) (x : Rat) : Rat := r32 g.slope * x + r32 g.icpt

/-- Where two lines of different slopes meet. -/
def meetOf (g k : Seg) : Rat := (r32 g.icpt - r32 k.icpt) / (r32 k.slope - r32 g.slope)

/-- A rational number among the infinities. -/
def point (x : Rat) : WithBot (WithTop Rat) := ((x : WithTop Rat) : WithBot (WithTop Rat))

/-- A point of a register's domain. -/
def InDomain (e : Env) (x : Rat) : Prop := numberOf (f32 e.xlo) ≤ point x ∧ point x ≤ numberOf (f32 e.xhi)

/-- R354: a domain as CNCLR admits it. -/
def DomainOk (e : Env) : Prop :=
  f32 e.xlo ≠ .nan ∧ f32 e.xhi ≠ .nan ∧ f32 e.xlo ≠ .inf false ∧ f32 e.xhi ≠ .inf true ∧ numberOf (f32 e.xlo) ≤ numberOf (f32 e.xhi)

/-- R354: lines of finite slope and intercept. -/
def LinesOk (l : List Seg) : Prop := ∀ g ∈ l, (f32 g.slope).finite = true ∧ (f32 g.icpt).finite = true

/-- R352: a register's segments: finite lines of ascending slope over a domain, with breakpoints that do not fall, the last one xhi. -/
def EnvOk (e : Env) : Prop :=
  DomainOk e ∧ LinesOk e.segs ∧ e.segs.Pairwise (fun g k => r32 g.slope < r32 k.slope)
  ∧ e.segs.Pairwise (fun g k => numberOf (f32 g.right) ≤ numberOf (f32 k.right))
  ∧ (∀ g ∈ e.segs, f32 g.right ≠ .nan ∧ numberOf (f32 e.xlo) ≤ numberOf (f32 g.right))
  ∧ ∀ g, e.segs.getLast? = some g → numberOf (f32 g.right) = numberOf (f32 e.xhi)

/-- R352: segment i covers a point: from the breakpoint before it, or xlo, up to its own; the last one covers xhi too. -/
def Covers (e : Env) (i : Nat) (x : Rat) (g : Seg) : Prop :=
  e.segs[i]? = some g
  ∧ (if i = 0 then numberOf (f32 e.xlo) ≤ point x else ∀ k, e.segs[i - 1]? = some k → numberOf (f32 k.right) ≤ point x)
  ∧ (point x < numberOf (f32 g.right) ∨ i + 1 = e.segs.length ∧ point x ≤ numberOf (f32 e.xhi))

/-- R355: a register holds the upper envelope of lines over its domain: of the lines, those that are the maximum over an interval of positive length,
or, on a domain of one point, the one of greatest value and then of larger slope; of lines equal in slope and intercept one of the lowest tag; at every
point of the domain one of them reaches each line; and each breakpoint is the exact intersection of neighbours, rounded. -/
structure IsUpper (ftz : Bool) (lines : List Seg) (v : Env) : Prop where
  among : ∀ g ∈ v.segs, ∃ l ∈ lines, r32 l.slope = r32 g.slope ∧ r32 l.icpt = r32 g.icpt ∧ l.tag = g.tag
  ascending : v.segs.Pairwise fun g k => r32 g.slope < r32 k.slope
  highest : ∀ x, InDomain v x → ∀ l ∈ lines, ∃ g ∈ v.segs, lineAt l x ≤ lineAt g x
  somewhere : numberOf (f32 v.xlo) < numberOf (f32 v.xhi) → ∀ g ∈ v.segs, ∃ a b, a < b ∧ InDomain v a ∧ InDomain v b
    ∧ ∀ x, a ≤ x → x ≤ b → ∀ l ∈ lines, lineAt l x ≤ lineAt g x
  onePoint : numberOf (f32 v.xlo) = numberOf (f32 v.xhi) → v.segs.length ≤ 1
    ∧ ∀ g ∈ v.segs, ∀ l ∈ lines, lineAt l (r32 v.xlo) = lineAt g (r32 v.xlo) → r32 l.slope ≤ r32 g.slope
  tags : ∀ g ∈ v.segs, ∀ l ∈ lines, r32 l.slope = r32 g.slope → r32 l.icpt = r32 g.icpt → g.tag ≤ l.tag
  breaks : ∀ i g k, v.segs[i]? = some g → v.segs[i + 1]? = some k → Rounds ftz g.right (meetOf g k)
  last : ∀ g, v.segs.getLast? = some g → g.right = v.xhi

/-- R355, R356: the intersection of two domains. -/
def MeetsDomains (e m v : Env) : Prop :=
  v.xlo ∈ [e.xlo, m.xlo] ∧ numberOf (f32 v.xlo) = Max.max (numberOf (f32 e.xlo)) (numberOf (f32 m.xlo))
  ∧ v.xhi ∈ [e.xhi, m.xhi] ∧ numberOf (f32 v.xhi) = Min.min (numberOf (f32 e.xhi)) (numberOf (f32 m.xhi))

/-- R356: at every point of the domain but its right end, the sum's segment comes of the pieces there, or, of neighbours that round to one slope, of the
one of larger exact intercept, of equal ones of the one of lower tag. -/
def IsSum (ftz : Bool) (e m v : Env) : Prop :=
  ∀ x i j g k, InDomain v x → point x < numberOf (f32 v.xhi) → Covers e i x g → Covers m j x k →
    ∃ n q c x' i' j' g' k' c', Covers v n x q ∧ Rounds ftz c (r32 g.slope + r32 k.slope) ∧ r32 q.slope = r32 c
      ∧ InDomain v x' ∧ Covers e i' x' g' ∧ Covers m j' x' k' ∧ Rounds ftz c' (r32 g'.slope + r32 k'.slope) ∧ r32 c' = r32 c
      ∧ Rounds ftz q.icpt (r32 g'.icpt + r32 k'.icpt) ∧ q.tag = g'.tag
      ∧ r32 g.icpt + r32 k.icpt ≤ r32 g'.icpt + r32 k'.icpt
      ∧ (r32 g.icpt + r32 k.icpt = r32 g'.icpt + r32 k'.icpt → q.tag ≤ g.tag)

/-- R357: a register's segments with their lengths. -/
def lengthsOf : Rat → List Seg → List (Seg × Rat)
  | _, [] => []
  | left, g :: r => (g, r32 g.right - left) :: lengthsOf (r32 g.right) r

/-- R357: two lists merged by ascending slope, the first one's segments first among equal slopes. -/
inductive Merges : List (Seg × Rat) → List (Seg × Rat) → List (Seg × Rat) → Prop
  | left (l : List (Seg × Rat)) : Merges l [] l
  | right (l : List (Seg × Rat)) : Merges [] l l
  | first (x y : Seg × Rat) (xs ys l : List (Seg × Rat)) : r32 x.1.slope ≤ r32 y.1.slope → Merges xs (y :: ys) l → Merges (x :: xs) (y :: ys) (x :: l)
  | second (x y : Seg × Rat) (xs ys l : List (Seg × Rat)) : r32 y.1.slope < r32 x.1.slope → Merges (x :: xs) ys l → Merges (x :: xs) (y :: ys) (y :: l)

/-- R357: the segments emitted from a point on. -/
inductive Emits (ftz : Bool) : Rat → Rat → List (Seg × Rat) → List Seg → Prop
  | done (x y : Rat) : Emits ftz x y [] []
  | emit (x y : Rat) (g q : Seg) (n : Rat) (r : List (Seg × Rat)) (l : List Seg) : r32 q.slope = r32 g.slope → q.tag = g.tag →
      Rounds ftz q.icpt (y - r32 g.slope * x) → Rounds ftz q.right (x + n) → Emits ftz (x + n) (y + r32 g.slope * n) r l →
      Emits ftz x y ((g, n) :: r) (q :: l)

/-- R357: neighbours of equal slope joined: the first one's line up to the last one's breakpoint. -/
inductive JoinsEqual : List Seg → List Seg → Prop
  | nil : JoinsEqual [] []
  | one (g : Seg) : JoinsEqual [g] [g]
  | same (g k q : Seg) (r l : List Seg) : r32 g.slope = r32 k.slope → JoinsEqual (k :: r) (q :: l) → JoinsEqual (g :: k :: r) ({ g with right := q.right } :: l)
  | apart (g k : Seg) (r l : List Seg) : r32 g.slope ≠ r32 k.slope → JoinsEqual (k :: r) l → JoinsEqual (g :: k :: r) (g :: l)

/-- R358: the points of the conjugate with their segments: xlo if it is finite, each inner breakpoint with the segment after it, xhi if it is finite. -/
def conjOf (e : Env) : List (BitVec 32 × Seg) :=
  (e.segs.take 1).flatMap (fun g => if (f32 e.xlo).finite then [(e.xlo, g)] else [])
    ++ (List.range (e.segs.length - 1)).flatMap (fun i => (e.segs[i]?.toList.flatMap fun g => (e.segs[i + 1]?).toList.map fun k => (g.right, k)))
    ++ (e.segs.drop (e.segs.length - 1)).flatMap (fun g => if (f32 e.xhi).finite then [(e.xhi, g)] else [])

/-- R358: the conjugate of a register with a point: one line for each point, slope x and intercept −f(x) rounded, of equal slopes the one of larger exact
intercept and then of lower tag; its breakpoints are the slopes. -/
def IsConj (ftz : Bool) (e v : Env) : Prop :=
  v.segs.Pairwise (fun g k => r32 g.slope < r32 k.slope)
  ∧ (∀ p ∈ conjOf e, ∃ q ∈ v.segs, r32 q.slope = r32 p.1 ∧ ∃ z ∈ conjOf e, r32 z.1 = r32 p.1 ∧ Rounds ftz q.icpt (-lineAt z.2 (r32 z.1)) ∧ q.tag = z.2.tag
      ∧ lineAt z.2 (r32 z.1) ≤ lineAt p.2 (r32 p.1) ∧ (lineAt z.2 (r32 z.1) = lineAt p.2 (r32 p.1) → q.tag ≤ p.2.tag))
  ∧ (∀ q ∈ v.segs, ∃ p ∈ conjOf e, r32 q.slope = r32 p.1)
  ∧ (∀ i p y, (conjOf e)[i]? = some p → (conjOf e)[i + 1]? = some y → r32 p.1 ≠ r32 y.1 →
      ∀ q ∈ v.segs, r32 q.slope = r32 p.1 → r32 q.right = r32 p.2.slope)
  ∧ (∀ g, v.segs.getLast? = some g → g.right = v.xhi)
  ∧ (∀ g, e.segs.head? = some g → if (f32 e.xlo).finite then f32 v.xlo = .inf true else v.xlo = g.slope)
  ∧ ∀ g, e.segs.getLast? = some g → if (f32 e.xhi).finite then f32 v.xhi = .inf false else v.xhi = g.slope

/-- R360, R171: the tolerance; a negative one or a NaN acts as 0. -/
def tolOf (ftz : Bool) (t : BitVec 32) : WithBot (WithTop Rat) :=
  if f32 (flush32 ftz t) = .nan then point 0 else Max.max (point 0) (numberOf (f32 (flush32 ftz t)))

/-- R360: Simplify, from a segment that stands. -/
inductive Simplifies (ftz : Bool) (t : WithBot (WithTop Rat)) : List Seg → List Seg → Prop
  | short (l : List Seg) : l.length ≤ 2 → Simplifies ftz t l l
  | keep (p g k : Seg) (r l : List Seg) : t < point (lineAt g (meetOf p k) - lineAt p (meetOf p k)) → Simplifies ftz t (g :: k :: r) l →
      Simplifies ftz t (p :: g :: k :: r) (p :: l)
  | drop (p g k : Seg) (c : BitVec 32) (r l : List Seg) : point (lineAt g (meetOf p k) - lineAt p (meetOf p k)) ≤ t → Rounds ftz c (meetOf p k) →
      Simplifies ftz t ({ p with right := c } :: k :: r) l → Simplifies ftz t (p :: g :: k :: r) l

/-! Reductions and merges, as the rules give them (R181, R295). -/

/-- R181: the elements of a lane, in iteration order. -/
def laneOf (x : List α) (j : Nat) : List α := (List.range x.length).filterMap fun i => if i % 16 = j then x[i]? else none

/-- R181: a lane's total; a lane that received no element is empty. -/
def laneTotal (first : α → Nat) (next : Nat → α → Nat) : List α → Option Nat
  | [] => none
  | a :: r => some (r.foldl next (first a))

/-- R181: two lanes folded, the lower one as slot a; an empty one passes the other unchanged. -/
def foldTwo (ftz : Bool) : Option Nat → Option Nat → Option Nat
  | some a, some b => some (fp32.add .rne ftz a b)
  | some a, none => some a
  | none, b => b

/-- R181: the tree over the 16 lanes: j with j + 8, then j + 4, j + 2, j + 1. -/
def treeTotal (ftz : Bool) (lane : Nat → Option Nat) : Option Nat :=
  let by8 (j : Nat) := foldTwo ftz (lane j) (lane (j + 8))
  let by4 (j : Nat) := foldTwo ftz (by8 j) (by8 (j + 4))
  let by2 (j : Nat) := foldTwo ftz (by4 j) (by4 (j + 2))
  foldTwo ftz (by2 0) (by2 1)

/-- R295: an output of VJOIN. -/
def joined (key va vb : Nat) : Nat := key + va * 2 ^ 32 + vb * 2 ^ 64

/-- R295: the outputs of a merge of two streams into a destination without end; elements hold a key in bits 31 to 0 and a value above. -/
inductive Joins (outer : Bool) : List Nat → List Nat → List Nat → Prop
  | done : Joins outer [] [] []
  | innerEndA (y : Nat) (ys : List Nat) : outer = false → Joins outer [] (y :: ys) []
  | innerEndB (x : Nat) (xs : List Nat) : outer = false → Joins outer (x :: xs) [] []
  | restA (x : Nat) (xs l : List Nat) : outer = true → Joins outer xs [] l →
      Joins outer (x :: xs) [] (joined (x % 2 ^ 32) (x / 2 ^ 32) 0 :: l)
  | restB (y : Nat) (ys l : List Nat) : outer = true → Joins outer [] ys l →
      Joins outer [] (y :: ys) (joined (y % 2 ^ 32) 0 (y / 2 ^ 32) :: l)
  | equal (x y : Nat) (xs ys l : List Nat) : x % 2 ^ 32 = y % 2 ^ 32 → Joins outer xs ys l →
      Joins outer (x :: xs) (y :: ys) (joined (x % 2 ^ 32) (x / 2 ^ 32) (y / 2 ^ 32) :: l)
  | less (x y : Nat) (xs ys l : List Nat) : x % 2 ^ 32 < y % 2 ^ 32 → Joins outer xs (y :: ys) l →
      Joins outer (x :: xs) (y :: ys) (if outer then joined (x % 2 ^ 32) (x / 2 ^ 32) 0 :: l else l)
  | more (x y : Nat) (xs ys l : List Nat) : y % 2 ^ 32 < x % 2 ^ 32 → Joins outer (x :: xs) ys l →
      Joins outer (x :: xs) (y :: ys) (if outer then joined (y % 2 ^ 32) 0 (y / 2 ^ 32) :: l else l)

/-- R278, R333: a valid record of elements of n bytes, in a storage that an engine reaches. -/
def EngineShape (r : Row) (n : Nat) : Prop :=
  r ≠ 0 ∧ shBadField r = false ∧ shEsz r = n ∧ 1 ≤ shCount r ∧ shCount r ≤ 65536 ∧ shEngine r = true

/-- R334, R364: the command waits for the commit with the context, the modes and the token of its instruction, and has no number yet. -/
def Issues (s t : State) (f : Firing) (unit : Nat) (op : EngOp) (tl : Nat) (p : SlotVal) : Prop :=
  ∃ c, Defers s t f (.engine unit c) ∧ c.op = op ∧ c.tl = tl ∧ c.num = 0 ∧ c.state = .waiting ∧ c.ready = true
    ∧ c.ctx = (s.task s.cur.task).ctx ∧ c.load = (s.task s.cur.task).load ∧ c.ftz = f.fpmode.getLsbD 0 ∧ c.after = p.tok

/-- R6, R9, R50: elements j0 up to j1 of a shape, of n bytes each, lie in a local storage of the tile that an engine reaches. -/
def InLocal (r : Row) (n j0 j1 : Nat) : Prop :=
  (shSpace r = .ds ∨ shSpace r = .bs ∨ shSpace r = .ts)
  ∧ ∀ j, j0 ≤ j → j < j1 → shAddr r j + n ≤ if shSpace r = .ds then 0x03000000 else spaceSize (shSpace r)

/-- R6: where element j of a shape in local storage stands. -/
def keyAt (tile : Nat) (r : Row) (j : Nat) : Nat := localKey (shSpace r) tile 0 (shAddr r j)

/-- An operation's answer stands, and its delivery is a step to come. -/
def Answered (t : State) (id : Nat) (a : Answer) : Prop :=
  (∃ q, t.req id = some q ∧ q.answer = some a) ∧ Work.longLatencyResult id ∈ t.agenda

end Sys2Proof.Safety
end

