-- ==== Sys2Proof/Certificates/Slice0/Obligations.lean ====
section
/-! DEFINITION. The statements about the machine, for the provers: what each instruction and each step leaves, under the readiness of its operands, and
what stays as it was; the rules of spec/ that each follows stand in its docstring. -/

open Sys2Proof Sys2Proof.Machine Sys2Proof.Safety

/-- R226, R233 to R244: a well-formed instruction, with every operand at every value that its encoding admits, is read back from its word; a row of the
opcode table without a word is the step that some pending work stands for, and a block header is read back from its 128 bits, and they from it. -/
def Obligations.DecodeReadsBackEveryInstruction : Prop :=
  (∀ i : Instr, i.wf = true → ∀ w, encode i = some w → decodeWord w = .ok i) ∧ (∀ i : Instr, encode i = none ↔ ∃ w : Work, Work.row w = i)
    ∧ (∀ h : Header, decodeHeader (encodeHeader h) = h) ∧ ∀ q : Quad, encodeHeader (decodeHeader q) = q

/-- The storages keep their canonical form through every step, so that equal contents stay equal data, and the ring keeps its 4,096 places (R473). -/
def Obligations.StorageKeepsItsForm : Prop :=
  ∀ s : State, MemoryOk s ∧ s.ring.length ≤ 4096 → ∀ t, step s = .next t → MemoryOk t ∧ t.ring.length ≤ 4096

/-- R78, R301 (log 9): the number that the machine gives to the next operation is new in every state that a step reaches from one in which it was. -/
def Obligations.OperationsHaveTheirOwnNumbers : Prop :=
  ∀ s : State, IdsFresh s → ∀ t, step s = .next t → IdsFresh t

/-- R215 (order free, log 2): a choice alone is taken. The step runs the instruction that the chosen word decodes to, or the row that the chosen work
is, at the machine turned to it: time has passed, the cursor names the choice, and the work has left the agenda. With nothing to do only time
passes. -/
def Obligations.StepRunsTheDecodedInstruction : Prop :=
  ∀ s : State,
    (∀ c, s.choices[chosen s.choices.length s.tick]? = some c →
      (∀ w i, c.work = none → s.wordAt c = some w → decodeWord w = .ok i → step s = exec i (s.turnTo c))
      ∧ (∀ w, c.work = some w → step s = exec (Work.row w) (s.turnTo c)))
    ∧ (∀ c, s.choices = [c] → s.choices[chosen s.choices.length s.tick]? = some c)
    ∧ (s.choices = [] → step s = .next s.passTime)
    ∧ ∀ c : Cursor, (s.turnTo c).cur = c ∧ (s.turnTo c).agenda = (match c.work with | some w => s.agenda.erase w | none => s.agenda)
        ∧ (s.turnTo c).tick = s.tick + 1 ∧ { s.turnTo c with cur := s.cur, agenda := s.agenda, tick := s.tick, cycle := s.cycle, elems := s.elems } = s
        ∧ ∀ e, { (s.turnTo c).elem e with busy := (s.elem e).busy } = s.elem e

/-- R51, R55, R463, R473, R478: what reset leaves: storage zero and nothing cached, no context live, the management registers at their values, the ring
with the reset's event; and the invariants of the machine hold. A byte of HBM that nothing has written reads 0 by the model's choice (log 3). -/
def Obligations.ResetState : Prop :=
  (∀ key, State.reset.byte key = 0) ∧ State.reset.frames = [] ∧ State.reset.words = [] ∧ State.reset.tc = [] ∧ (∀ c, (State.reset.ctx c).live = false)
    ∧ (∀ t, (State.reset.task t).phase = .unbound) ∧ State.reset.mgmt.ident = 0 ∧ State.reset.mgmt.ctxbase = 0 ∧ State.reset.mgmt.lrsv = 0
    ∧ State.reset.mgmt.fabtmr = 0x00320014 ∧ State.reset.mgmt.pwrcap = 3400 ∧ State.reset.mgmt.imgpol = 0 ∧ State.reset.mgmt.dbgctl = 0
        ∧ State.reset.mgmt.dbgq = 0
    ∧ State.reset.health = 0 ∧ State.reset.mgmt.kill = 0 ∧ State.reset.ring.map (·.kind) = [0x0E]
    ∧ MemoryOk State.reset ∧ IdsFresh State.reset ∧ State.reset.ring.length ≤ 4096

/-- R474, R475: a package that has stopped or has no power does nothing until a cold reset comes: no storage, register or task of it changes. -/
def Obligations.AsleepUntilColdReset : Prop :=
  ∀ s : State, Asleep s → ∃ t, step s = .next t ∧ Asleep t ∧ { t with tick := s.tick, cycle := s.cycle } = s

/-- R222, R226, R234, R239, R244, R250, R265, R304, R319: words that the manual writes out are read as it says, and a word of zeros as ILLG. -/
def Obligations.WordsOfTheManualDecode : Prop :=
  let dst (i : BitVec 7) (k : Slot) : Option Target := some ⟨i, k⟩
  let head (t u : Option Target) : Head := ⟨none, none, t, u, 0, 0⟩
  decodeWord 0 = .ok .illg
  ∧ decodeWord 0x1100040800000000 = .ok (.movi (head (dst 1 .a) none) 0)
  ∧ decodeWord 0x0080042200010003 = .ok (.add (head (dst 4 .b) none) .w64 (.imm 3))
  ∧ decodeWord 0x348004190880584B = .ok (.fan (head (dst 3 .a) (dst 4 .b)) ⟨5, .c⟩ (some ⟨9, .b⟩))
  ∧ decodeWord 0x8000044000006000 = .ok (.ld (head (dst 8 .a) none) .gl .b8 false)
  ∧ decodeWord 0x8C80042E00001400 = .ok (.otok (head (dst 5 .p) none) .pod)
  ∧ decodeWord 0xC100041800000080 = .ok (.csrrd (head (dst 3 .a) none) 0x001)

/-- R251, R248, R249: the arithmetic and logic instructions of two operands, at the width SZ selects; and the address arithmetic of LEA and the choice
of SEL, over all 64 bits of slot a. Under the readiness of R215 each answers the firing with the table's result.
R251, R248: the instructions of one operand, and SEL. A count of leading or trailing zeros is given by what it counts.
R251: SEL takes B if slot a is not 0 over all 64 bits, else slot c, at width w. -/
def Obligations.IntegerResults : Prop :=
  (∀ (h : Head) (w : Width) (b : OpB) (s : State) (o : Opnds), s.operands h true b.isSlot false = some o →
      let x := o.a.v
      let y := b.value o.b.v
      let A := x.setWidth w.bits
      let B := y.setWidth w.bits
      exec (.add h w b) s = .next (s.fire1 h ((A + B).signExtend 64))
      ∧ exec (.sub h w b) s = .next (s.fire1 h ((A - B).signExtend 64))
      ∧ exec (.mul h w b) s = .next (s.fire1 h ((A * B).signExtend 64))
      ∧ exec (.mulh h w b) s = .next (s.fire1 h (((A.signExtend (2 * w.bits) * B.signExtend (2 * w.bits)).extractLsb' w.bits w.bits).signExtend 64))
      ∧ exec (.mulhw h w b) s = .next (s.fire1 h (((A.setWidth (2 * w.bits) * B.setWidth (2 * w.bits)).extractLsb' w.bits w.bits).setWidth 64))
      ∧ exec (.min h w b) s = .next (s.fire1 h ((if A.slt B then A else B).signExtend 64))
      ∧ exec (.max h w b) s = .next (s.fire1 h ((if A.slt B then B else A).signExtend 64))
      ∧ exec (.minw h w b) s = .next (s.fire1 h ((if A.ult B then A else B).setWidth 64))
      ∧ exec (.maxw h w b) s = .next (s.fire1 h ((if A.ult B then B else A).setWidth 64))
      ∧ exec (.and h w b) s = .next (s.fire1 h ((A &&& B).signExtend 64))
      ∧ exec (.or h w b) s = .next (s.fire1 h ((A ||| B).signExtend 64))
      ∧ exec (.xor h w b) s = .next (s.fire1 h ((A ^^^ B).signExtend 64))
      ∧ exec (.andn h w b) s = .next (s.fire1 h ((A &&& ~~~B).signExtend 64))
      ∧ exec (.lea h w b) s = .next (s.fire1 h (x + y * (match w with | .w64 => 8 | .w32 => 4 | .w16 => 2 | .w8 => 1))))
  ∧ (∀ (h : Head) (w : Width) (s : State) (o : Opnds), s.operands h true false false = some o →
      let A := o.a.v.setWidth w.bits
      exec (.neg h w) s = .next (s.fire1 h ((-A).signExtend 64))
      ∧ exec (.abs h w) s = .next (s.fire1 h ((if A.msb then -A else A).signExtend 64))
      ∧ exec (.not h w) s = .next (s.fire1 h ((~~~A).signExtend 64))
      ∧ (∃ n, n ≤ w.bits ∧ (∀ i, w.bits - n ≤ i → A.getLsbD i = false) ∧ (n < w.bits → A.getLsbD (w.bits - 1 - n) = true)
          ∧ exec (.clz h w) s = .next (s.fire1 h (BitVec.ofNat 64 n)))
      ∧ (∃ n, n ≤ w.bits ∧ (∀ i, i < n → A.getLsbD i = false) ∧ (n < w.bits → A.getLsbD n = true)
          ∧ exec (.ctz h w) s = .next (s.fire1 h (BitVec.ofNat 64 n)))
      ∧ exec (.popc h w) s = .next (s.fire1 h (BitVec.ofNat 64 ((List.range w.bits).countP fun i => A.getLsbD i)))
      ∧ exec (.brev h w) s = .next (s.fire1 h (A.reverse.signExtend 64))
      ∧ exec (.sext h w) s = .next (s.fire1 h (A.signExtend 64))
      ∧ exec (.zext h w) s = .next (s.fire1 h (A.setWidth 64))
      ∧ exec (.mov h) s = .next (s.fire1 h o.a.v))
  ∧ (∀ (h : Head) (w : Width) (b : OpB) (s : State) (o : Opnds), s.operands h true b.isSlot true = some o →
      exec (.sel h w b) s =
        .next (s.fire1 h (((if o.a.v = 0 then o.c.v else b.value o.b.v).setWidth w.bits).signExtend 64)))

/-- R252: quotients and remainders at width w, with the cases of a zero divisor and of the wrapping quotient, for every operand. -/
def Obligations.DivisionResults : Prop :=
  ∀ (h : Head) (w : Width) (b : OpB) (s : State) (o : Opnds), s.operands h true b.isSlot false = some o →
    let A := o.a.v.setWidth w.bits
    let B := (b.value o.b.v).setWidth w.bits
    exec (.div h w b) s = .next (s.fire1 h ((if B = 0 then 0 else if A = BitVec.intMin w.bits ∧ B = -1 then A
        else BitVec.ofInt w.bits (A.toInt.tdiv B.toInt)).signExtend 64))
    ∧ exec (.rem h w b) s = .next (s.fire1 h ((if B = 0 then A else if A = BitVec.intMin w.bits ∧ B = -1 then 0
        else BitVec.ofInt w.bits (A.toInt - A.toInt.tdiv B.toInt * B.toInt)).signExtend 64))
    ∧ exec (.divw h w b) s = .next (s.fire1 h ((if B = 0 then 0 else BitVec.ofNat w.bits (A.toNat / B.toNat)).setWidth 64))
    ∧ exec (.remw h w b) s = .next (s.fire1 h ((if B = 0 then A
        else BitVec.ofNat w.bits (A.toNat - A.toNat / B.toNat * B.toNat)).setWidth 64))

/-- R253: the shifts, by the full 64-bit count of slot b or the sign-extended immediate, bit by bit at width w. -/
def Obligations.ShiftResults : Prop :=
  ∀ (h : Head) (w : Width) (b : OpB) (s : State) (o : Opnds), s.operands h true b.isSlot false = some o →
    let A := o.a.v.setWidth w.bits
    let n := (b.value o.b.v).toNat
    ∃ shl shr sar rot : BitVec w.bits,
      (∀ i, i < w.bits → shl.getLsbD i = (decide (n ≤ i) && A.getLsbD (i - n)))
      ∧ (∀ i, i < w.bits → shr.getLsbD i = A.getLsbD (i + n))
      ∧ (∀ i, i < w.bits → sar.getLsbD i = A.getLsbD (if i + n < w.bits then i + n else w.bits - 1))
      ∧ (∀ i, i < w.bits → rot.getLsbD ((i + n) % w.bits) = A.getLsbD i)
      ∧ exec (.shl h w b) s = .next (s.fire1 h (shl.signExtend 64))
      ∧ exec (.shr h w b) s = .next (s.fire1 h (shr.setWidth 64))
      ∧ exec (.sar h w b) s = .next (s.fire1 h (sar.signExtend 64))
      ∧ exec (.rot h w b) s = .next (s.fire1 h (rot.signExtend 64))

/-- R254: the bit fields. Bits of A at or above w read as 0; the field's position and length come from IMM or slot b in one packing.
R255: MOVI delivers K sign-extended; MOVHI replaces one 16-bit quarter of slot a and leaves its other bits. -/
def Obligations.FieldResults : Prop :=
  ((∀ (h : Head) (w : Width) (b : OpB) (s : State) (o : Opnds), s.operands h true b.isSlot false = some o →
      let A := o.a.v.setWidth w.bits
      let p := ((b.value o.b.v).extractLsb' 5 6).toNat
      let l := ((b.value o.b.v).extractLsb' 0 5).toNat + 1
      exec (.bfx h w b) s = .next (s.fire1 h ((((A.extractLsb' p l).signExtend 64).setWidth w.bits).signExtend 64))
      ∧ exec (.bfxw h w b) s = .next (s.fire1 h ((((A.extractLsb' p l).setWidth 64).setWidth w.bits).setWidth 64)))
    ∧ (∀ (h : Head) (w : Width) (b : OpB) (s : State) (o : Opnds), s.operands h true b.isSlot true = some o →
      let A := o.a.v.setWidth w.bits
      let p := ((b.value o.b.v).extractLsb' 5 6).toNat
      let l := ((b.value o.b.v).extractLsb' 0 5).toNat + 1
      ∃ r : BitVec w.bits,
        (∀ i, i < w.bits → r.getLsbD i = if p ≤ i ∧ i < p + l then o.c.v.getLsbD (i - p) else A.getLsbD i)
        ∧ exec (.bfi h w b) s = .next (s.fire1 h (r.signExtend 64))))
  ∧ ((∀ (h : Head) (k : BitVec 19) (s : State) (o : Opnds), s.operands h false false false = some o →
      exec (.movi h k) s = .next (s.fire1 h (k.signExtend 64)))
    ∧ (∀ (h : Head) (q : BitVec 2) (chunk : BitVec 16) (s : State) (o : Opnds), s.operands h true false false = some o →
      ∃ r : Word, (∀ i, r.getLsbD i = if 16 * q.toNat ≤ i ∧ i < 16 * q.toNat + 16 then chunk.getLsbD (i - 16 * q.toNat) else o.a.v.getLsbD i)
        ∧ exec (.movhi h q chunk) s = .next (s.fire1 h r)))

/-- R256, R257: what a test delivers and writes to its predicate. TNUL gives 0 exactly when the running activation holds a matched message on the
channel.
R256, R228: a test delivers 1 or 0 and, with a predicate named that is not yet written, writes it; a second write of one predicate is the block's
BLOCK_FORMAT. -/
def Obligations.TestsDeliverAndWrite : Prop :=
  ((∀ (h : Head) (w : Width) (b : OpB) (pd : Option (BitVec 4)) (s : State) (o : Opnds), s.operands h true b.isSlot false = some o →
      let y := b.value o.b.v
      let A := o.a.v.setWidth w.bits
      let B := y.setWidth w.bits
      exec (.teq h w b pd) s = .next (s.fireTest h pd (A == B))
      ∧ exec (.tne h w b pd) s = .next (s.fireTest h pd (A != B))
      ∧ exec (.tlt h w b pd) s = .next (s.fireTest h pd (A.slt B))
      ∧ exec (.tle h w b pd) s = .next (s.fireTest h pd (A.sle B))
      ∧ exec (.tltw h w b pd) s = .next (s.fireTest h pd (A.ult B))
      ∧ exec (.tlew h w b pd) s = .next (s.fireTest h pd (A.ule B))
      ∧ exec (.tbit h w b pd) s = .next (s.fireTest h pd (A.getLsbD y.toNat)))
    ∧ (∀ (h : Head) (vc : BitVec 5) (pd : Option (BitVec 4)) (s : State) (o : Opnds), s.operands h false false false = some o →
      exec (.tnul h vc pd) s = .next (s.fireTest h pd (match (s.task s.cur.task).act with
        | some a => !(a.msgs.any fun m => m.vc == vc.toNat)
        | none => true))))
  ∧ (∀ (s : State) (h : Head) (p : BitVec 4) (v : Bool) (f : Firing), s.here = some f → f.fault = none → h.t0 = none → h.t1 = none →
      (f.preds.find p.toNat = none →
        ∃ g, (s.fireTest h (some p) v).here = some g ∧ g.preds.find p.toNat = some v ∧ (∀ q, q ≠ p.toNat → g.preds.find q = f.preds.find q)
          ∧ { g with fired := f.fired, preds := f.preds } = f ∧ FiresOnly s (s.fireTest h (some p) v))
      ∧ ((f.preds.find p.toNat).isSome → s.cur.which ≠ 0 → (∀ g, (s.task s.cur.task).flights.head? = some g → g.fault = none) →
        ∃ g r, (s.fireTest h (some p) v).here = some g ∧ g.fault = some r ∧ r.code = .blockFormat ∧ r.index = s.cur.idx ∧ r.detail = p.toNat))

/-- R215, R229, R368: what the firing of an instruction with one result leaves when its targets' slots are empty: it is marked fired, its valid targets
hold the result, counter 2 of its element has advanced, and nothing else of the machine differs.
R265: FAN delivers slot a to targets 0, 1, 2 and 3, whichever are valid, when it fires. -/
def Obligations.FiringDelivers : Prop :=
  (∀ (s : State) (h : Head) (v : Word) (f : Firing), s.here = some f → f.fault = none →
      (∀ t, h.t0 = some t → f.slots.find (slotOf t) = none) → (∀ t, h.t1 = some t → f.slots.find (slotOf t) = none) →
      (∀ t u, h.t0 = some t → h.t1 = some u → slotOf t ≠ slotOf u) →
      ∃ g, (s.fire1 h v).here = some g ∧ g.fired = s.cur.idx :: f.fired
        ∧ (∀ k, g.slots.find k = if h.t0.map slotOf = some k ∨ h.t1.map slotOf = some k then some (plain v) else f.slots.find k)
        ∧ { g with fired := f.fired, slots := f.slots } = f
        ∧ FiresOnly s (s.fire1 h v))
  ∧ (∀ (h : Head) (t2 : Target) (t3 : Option Target) (s : State) (o : Opnds) (f : Firing), s.operands h true false false = some o →
      s.here = some f → f.fault = none →
      let targets := (h.t0.toList ++ h.t1.toList ++ [t2] ++ t3.toList).map slotOf
      targets.Nodup → (∀ k ∈ targets, f.slots.find k = none) →
      ∃ t g, exec (.fan h t2 t3) s = .next t ∧ t.here = some g ∧ g.fired = s.cur.idx :: f.fired
        ∧ (∀ k, g.slots.find k = if k ∈ targets then some o.a else f.slots.find k)
        ∧ { g with fired := f.fired, slots := f.slots } = f ∧ FiresOnly s t)

/-- R231: a value for a slot that already holds one makes the block fault BLOCK_FORMAT, whichever target of the instruction names the slot, FAN's
four included, and two targets that name one slot do so too; the value that stands stays. Where several targets do, the record names the one of the lowest
instruction index (R35). The oldest block, with nothing of it outstanding and none of its instructions waiting for a walk, parks at once; the fault of
a successor waits. The same holds of a result that arrives after the firing. -/
def Obligations.SecondArrivalFaults : Prop :=
  (∀ (s : State) (h : Head) (v : Word) (f : Firing) (n : Nat), s.here = some f → f.fault = none →
      Collides f ((h.t0.toList ++ h.t1.toList).map slotOf) n →
      (s.cur.which ≠ 0 → (∀ g, (s.task s.cur.task).flights.head? = some g → g.fault = none) →
        ∃ g, (s.fire1 h v).here = some g ∧ Blocked f g n)
      ∧ (s.cur.which = 0 → (∀ q ∈ s.reqs, q.task = some s.cur.task → q.serial = f.serial → q.holds = false) →
        (∀ i ∈ f.issued, i ∈ s.cur.idx :: f.fired) → ParksBlocked s.cur.task f (s.fire1 h v) n))
  ∧ (∀ (s : State) (h : Head) (t2 : Target) (t3 : Option Target) (o : Opnds) (f : Firing) (n : Nat), s.operands h true false false = some o →
      s.here = some f → f.fault = none →
      Collides f (([t2] ++ t3.toList ++ h.t0.toList ++ h.t1.toList).map slotOf) n →
      (s.cur.which ≠ 0 → (∀ g, (s.task s.cur.task).flights.head? = some g → g.fault = none) →
        ∃ t g, exec (.fan h t2 t3) s = .next t ∧ t.here = some g ∧ Blocked f g n)
      ∧ (s.cur.which = 0 → (∀ q ∈ s.reqs, q.task = some s.cur.task → q.serial = f.serial → q.holds = false) →
        (∀ i ∈ f.issued, i ∈ s.cur.idx :: f.fired) → ∃ t, exec (.fan h t2 t3) s = .next t ∧ ParksBlocked s.cur.task f t n))
  ∧ (∀ (s : State) (id : Nat) (r : Req) (t : TaskRef) (a : Answer) (f : Firing) (w : Word) (h : Head) (which n : Nat),
      s.cur.work = some (.longLatencyResult id) → s.req id = some r → r.id = id → r.task = some t → r.answer = some a → a.fail = none →
      r.returned = true → s.replyBefore r = false → r.isStore = false → s.keeps r true = false → (∀ m vk ops sc, r.op ≠ .acasm m vk ops sc) →
      (s.task t).flights[which]? = some f → f.serial = r.serial →
      (∀ m g, m < which → (s.task t).flights[m]? = some g → g.serial ≠ r.serial) →
      f.words[r.idx]? = some w → decodeHead w = .ok h → f.fault = none → Collides f ((h.t0.toList ++ h.t1.toList).map slotOf) n →
      (which ≠ 0 → (∀ g, (s.task t).flights.head? = some g → g.fault = none) →
        ∃ u g, exec .longLatencyResult s = .next u ∧ (u.task t).flight which = some g ∧ Blocked f g n)
      ∧ (which = 0 → (∀ q ∈ s.reqs, q.id ≠ id → q.task = some t → q.serial = f.serial → q.holds = false) →
        (∀ i ∈ f.issued, i ∈ f.fired) → ∃ u, exec .longLatencyResult s = .next u ∧ ParksBlocked t f u n))

/-- R35, R200, R369: taking a fault of the oldest block, nothing of it outstanding nor waiting for a walk, whether an instruction raises it when it fires or, as ILLG does, in
the place of firing: the task parks with the block and the record, which names the instruction, the task and its stamp; no register, shape register,
temporary or replay entry changes, and no storage does.
R366, R302: the return from a fault: for a Parked task of the context, action 0 fetches its block again from the start, action 2 does so with ERET's
value standing for every trap of that firing, and the registers and replay entries stay. A handle that names no Parked task changes nothing but the
event ring, which records it.
R365: in an ordinary firing TRAP and BKPT raise a software-trap record with their code and, for TRAP, slot a; in a firing that ERET has suppressed
TRAP delivers ERET's value and BKPT delivers 0. -/
def Obligations.FaultsParkAndReturn : Prop :=
  (∀ (s : State) (r : Record) (f : Firing), s.here = some f → s.cur.which = 0 → f.fault = none → r.code ≠ .softwareTrap →
      (∀ q ∈ s.reqs, q.task = some s.cur.task → q.serial = f.serial → q.holds = false) → (∀ i ∈ f.issued, i ∈ f.fired) →
      let k := s.task s.cur.task
      let parks (t : State) : Prop :=
        let k' := t.task s.cur.task
        k'.phase = .parked ∧ k'.flights = [] ∧ k'.fetch = none
          ∧ (∃ g p, k'.parked = some (g, p) ∧ g.addr = f.addr ∧ g.words = f.words ∧ p.code = r.code ∧ p.cause = r.cause ∧ p.index = s.cur.idx
              ∧ p.addr = r.addr ∧ p.detail = r.detail ∧ p.ctx = k.ctx ∧ p.handle = s.handle s.cur.task ∧ p.stamp = k.stamp)
          ∧ k'.regs = k.regs ∧ k'.sh = k.sh ∧ k'.vt = k.vt ∧ k'.replay = k.replay
          ∧ t.mem = s.mem ∧ t.l2mem = s.l2mem ∧ t.hostmem = s.hostmem
      parks (s.fireFault r) ∧ parks (s.faultHere r) ∧ (r = { code := .illegalOp } → ∃ t, exec .illg s = .next t ∧ parks t))
  ∧ (∀ (s : State) (ctx : Nat) (handle value : Word),
      (∀ u f r, s.parkedAt ctx handle.toNat = some u → (s.task u).parked = some (f, r) →
        (s.eret ctx handle 0 value).task u = { s.task u with phase := .active, parked := none, fetch := some f.addr, refire := none }
        ∧ { s.eret ctx handle 0 value with tasks := s.tasks } = s
        ∧ (s.eret ctx handle 2 value).task u = { s.task u with phase := .active, parked := none, fetch := some f.addr, refire := some value }
        ∧ { s.eret ctx handle 2 value with tasks := s.tasks } = s
        ∧ ∀ w, w ≠ u → (s.eret ctx handle 0 value).task w = s.task w ∧ (s.eret ctx handle 2 value).task w = s.task w)
      ∧ (∀ a, s.parkedAt ctx handle.toNat = none →
          { s.eret ctx handle a value with ring := s.ring, ringSeq := s.ringSeq } = s ∧ (s.eret ctx handle a value).ringSeq = s.ringSeq + 1))
  ∧ (∀ (h : Head) (code : BitVec 7) (s : State) (f : Firing), s.here = some f →
      (∀ o, s.operandsStore h true false false = some o → f.suppress = none →
        exec (.trap h code) s = .next (s.fireFault { code := .softwareTrap, detail := code.toNat, auxA := o.a.v.toNat }))
      ∧ (∀ o v, s.operandsStore h true false false = some o → f.suppress = some v → exec (.trap h code) s = .next (s.fire1 h v))
      ∧ (∀ o, s.operandsStore h false false false = some o → f.suppress = none →
        exec (.bkpt h code) s = .next (s.fireFault { code := .softwareTrap, detail := code.toNat }))
      ∧ (∀ o v, s.operandsStore h false false false = some o → f.suppress = some v → exec (.bkpt h code) s = .next (s.fire1 h 0)))

/-- R242, R258, R218: READ delivers a full register; in a successor it takes the value its predecessor produced for a register of the predecessor's
write mask; an empty register traps or makes the READ wait.
R217, R241, R259, R260: WRITE and the register NUL make the product of their register once, and no register changes before the commit; the store NUL
stands for a store that is not made. A second product of one register is BLOCK_FORMAT. -/
def Obligations.RegistersAreReadAndProduced : Prop :=
  (∀ (h : Head) (r : BitVec 5) (te : Bool) (s : State) (o : Opnds) (f : Firing), s.operands h false false false = some o → s.here = some f →
      (∀ x, s.cur.which = 0 → (s.task s.cur.task).regs[r.toNat]? = some x → x.full = true → exec (.read h r te) s = .next (s.fire1 h x.v))
      ∧ (∀ x, s.cur.which = 0 → (s.task s.cur.task).regs[r.toNat]? = some x → x.full = false → x.due = none →
          exec (.read h r te) s = .next (if te || f.hdr.trapEmpty then s.fireFault { code := .emptyRead, detail := r.toNat } else s))
      ∧ (∀ g v l, s.cur.which ≠ 0 → (s.task s.cur.task).flights = g :: l → g.hdr.wmask.getLsbD r.toNat = true →
          g.regs.find r.toNat = some (.value v) → v.tok = none → exec (.read h r te) s = .next (s.fire1 h v.v))
      ∧ (∀ g l, s.cur.which ≠ 0 → (s.task s.cur.task).flights = g :: l → g.hdr.wmask.getLsbD r.toNat = true →
          g.regs.find r.toNat = none → exec (.read h r te) s = .next s)
      ∧ (∀ g x l, s.cur.which ≠ 0 → (s.task s.cur.task).flights = g :: l → g.hdr.wmask.getLsbD r.toNat = false →
          (s.task s.cur.task).regs[r.toNat]? = some x → x.full = true → exec (.read h r te) s = .next (s.fire1 h x.v)))
  ∧ (∀ (h : Head) (r : BitVec 5) (s : State) (f : Firing), s.here = some f →
      (∀ o, s.operands h true false false = some o → f.regs.find r.toNat = none →
        ∃ t g, exec (.write h r) s = .next t ∧ t.here = some g ∧ (∃ v, g.regs.find r.toNat = some (.value v) ∧ v.v = o.a.v ∧ v.tok = o.a.tok)
          ∧ (∀ n, n ≠ r.toNat → g.regs.find n = f.regs.find n) ∧ { g with fired := f.fired, regs := f.regs } = f ∧ FiresOnly s t)
      ∧ (∀ o, s.operands h false false false = some o → f.regs.find r.toNat = none →
        ∃ t g, exec (.nul h false r) s = .next t ∧ t.here = some g ∧ g.regs.find r.toNat = some .null
          ∧ (∀ n, n ≠ r.toNat → g.regs.find n = f.regs.find n) ∧ { g with fired := f.fired, regs := f.regs } = f ∧ FiresOnly s t)
      ∧ (∀ o, s.operands h true false false = some o → (f.regs.find r.toNat).isSome →
        exec (.write h r) s = .next (s.fireFault { code := .blockFormat, detail := r.toNat }))
      ∧ (∀ o, s.operands h false false false = some o → (f.regs.find r.toNat).isSome →
        exec (.nul h false r) s = .next (s.fireFault { code := .blockFormat, detail := r.toNat }))
      ∧ (∀ o, s.operands h false false false = some o → r.toNat < 24 → r.toNat ∉ f.nulls → (∀ x ∈ f.stores, x.sid ≠ r.toNat) →
        ∃ t g, exec (.nul h true r) s = .next t ∧ t.here = some g ∧ g.nulls = r.toNat :: f.nulls
          ∧ { g with fired := f.fired, nulls := f.nulls } = f ∧ FiresOnly s t))

/-- R261, R262, R218: a branch whose target is aligned to 16 bytes and below the code size becomes the block's branch, and the task fetches the named
block next; a target that is not aligned is ALIGN, else one at or above the code size ADDR_RANGE, with the target as the record's address. BR and
CALL take this block's address + 16 × OFF, BRX and RET slot a. CALL also delivers the address of the block that follows.
R264, R217: YIELD and EXIT are the block's branch, without a next block; with a branch already fired, either is BLOCK_FORMAT.
R263: the table jump: with the count n at the table and t at the entry the index selects, read at their homes, the block branches to t; an index at
or above n, as unsigned, takes the default target, this block's address + 16 × OFF. -/
def Obligations.BranchesNameTheNextBlock : Prop :=
  (∀ (h : Head) (off : BitVec 13) (s : State) (f : Firing), s.here = some f → f.branch = none →
      let size := 8 * (s.task s.cur.task).code.length
      let near : Word := BitVec.ofNat 64 f.addr + 16 * off.signExtend 64
      (∀ o, s.operands h false false false = some o → near.toNat % 16 = 0 → near.toNat < size →
        (∃ t, exec (.br h off) s = .next t ∧ TakesBranch s t f (.block near.toNat))
        ∧ (∃ t : State, exec (.call h off) s = .next (t.fire1 h (BitVec.ofNat 64 ((f.addr + 16 + 8 * f.words.length + 15) / 16 * 16)))
            ∧ t.here = some { f with branch := some (.block near.toNat) } ∧ (t.task s.cur.task).fetch = some near.toNat
            ∧ { t with tasks := s.tasks } = s))
      ∧ (∀ o, s.operands h true false false = some o → o.a.v.toNat % 16 = 0 → o.a.v.toNat < size →
        (∃ t, exec (.brx h) s = .next t ∧ TakesBranch s t f (.block o.a.v.toNat))
        ∧ (∃ t, exec (.ret h) s = .next t ∧ TakesBranch s t f (.block o.a.v.toNat)))
      ∧ (∀ o, s.operands h true false false = some o → o.a.v.toNat % 16 ≠ 0 →
        exec (.brx h) s = .next (s.fireFault { code := .align, addr := o.a.v.toNat })
        ∧ exec (.ret h) s = .next (s.fireFault { code := .align, addr := o.a.v.toNat }))
      ∧ (∀ o, s.operands h true false false = some o → o.a.v.toNat % 16 = 0 → size ≤ o.a.v.toNat →
        exec (.brx h) s = .next (s.fireFault { code := .addrRange, addr := o.a.v.toNat })
        ∧ exec (.ret h) s = .next (s.fireFault { code := .addrRange, addr := o.a.v.toNat })))
  ∧ (∀ (h : Head) (s : State) (f : Firing) (o : Opnds), s.here = some f → s.operands h false false false = some o →
      (f.branch = none →
        (∃ t, exec (.yield h) s = .next t ∧ TakesBranch s t f .yield) ∧ (∃ t, exec (.exit h) s = .next t ∧ TakesBranch s t f .exit))
      ∧ (f.branch.isSome →
        exec (.yield h) s = .next (s.fireFault { code := .blockFormat }) ∧ exec (.exit h) s = .next (s.fireFault { code := .blockFormat })))
  ∧ (∀ (h : Head) (off : BitVec 13) (s : State) (o : Opnds) (f : Firing), s.operandsStore h true true false = some o → s.here = some f →
      (∀ n u, s.readTable s.cur.task o.a.v = .value n u → n ≤ o.b.v →
        exec (.jtab h off) s = .next (u.dropVloads.branchTo (BitVec.ofNat 64 f.addr + 16 * off.signExtend 64)))
      ∧ (∀ n u t v, s.readTable s.cur.task o.a.v = .value n u → o.b.v < n → u.readTable u.cur.task (o.a.v + 8 + 8 * o.b.v) = .value t v →
        exec (.jtab h off) s = .next (v.dropVloads.branchTo t))
      ∧ (o.a.v.toNat % 8 ≠ 0 →
        exec (.jtab h off) s = .next (s.dropVloads.fireFault { code := .align, addr := o.a.v.toNat })))

/-- R216, R267 to R269, R271, R276, R364, R366: these instructions fire with their effect waiting for the block's commit, and change nothing but their
block before it.
R268: SENDS reads its payload from ls when it fires, and the message waits for the commit.
R268 to R271, R366: a port without a channel, a payload longer than the channel's size, and a SENDS length of 0 or above 256 are ADDR_RANGE; RNEXT
and RSPLIT in a plain operator PERM; ERET outside the trap operator PRIV, its action above 2 ADDR_RANGE. -/
def Obligations.EffectsWaitForTheCommit : Prop :=
  (∀ (h : Head) (s : State) (f : Firing), s.here = some f →
      (∀ o, s.operands h false false false = some o →
        (∃ t, exec (.lpin h) s = .next t ∧ Defers s t f (.stamp .inn)) ∧ (∃ t, exec (.lpnext h) s = .next t ∧ Defers s t f (.stamp .next))
        ∧ (∃ t, exec (.lpout h) s = .next t ∧ Defers s t f (.stamp .out)))
      ∧ (∀ o port n c, s.operandsStore h true false false = some o → s.portChan s.cur.task (BitVec.toNat port) = some (n, c) → 8 ≤ c.size →
        ∃ t, exec (.send h port) s = .next t ∧ Defers s t f (.send port.toNat ((List.range 8).map fun i => o.a.v.extractLsb' (8 * i) 8)))
      ∧ (∀ o port n c, s.operandsStore h true true false = some o → s.portChan s.cur.task (BitVec.toNat port) = some (n, c) → 16 ≤ c.size →
        ∃ t, exec (.msg h port) s = .next t ∧ Defers s t f (.send port.toNat ((List.range 8).map (fun i => o.a.v.extractLsb' (8 * i) 8)
          ++ (List.range 8).map fun i => o.b.v.extractLsb' (8 * i) 8)))
      ∧ (∀ o vc l c, s.operandsStore h false false false = some o → s.loadOf s.cur.task = some l → c ∈ l.cfg.chans →
        c.place = s.placeOf s.cur.task (BitVec.toNat vc) → ∃ t, exec (.notify h vc) s = .next t ∧ Defers s t f (.notify vc.toNat))
      ∧ (∀ o, s.operandsStore h true false false = some o → s.inRange s.cur.task = true →
        ∃ t, exec (.rsplit h) s = .next t ∧ Defers s t f (.rsplit o.a.v))
      ∧ (∀ o sh fld, s.operandsShp h true false false = some o → ∃ t, exec (.shset h sh fld) s = .next t
          ∧ Defers s t f (.shset (BitVec.toNat sh) fld o.a.v))
      ∧ (∀ o sh d, s.operandsShp h true false false = some o →
        ∃ t, exec (.shadv h sh d) s = .next t ∧ Defers s t f (.shadv (BitVec.toNat sh) (BitVec.toNat d) o.a.v))
      ∧ (∀ o n, s.operandsStore h true false false = some o → ∃ t, exec (.csrwr h n) s = .next t ∧ Defers s t f (.csrwr (BitVec.toNat n) o.a.v))
      ∧ (∀ o, s.operandsStore h true true true = some o → s.isTrapTask s.cur.task = true → o.b.v.toNat ≤ 2 →
        ∃ t, exec (.eret h) s = .next t ∧ Defers s t f (.eret o.a.v o.b.v o.c.v))
      ∧ (∀ o tl, s.operandsStore h false false false = some o → ∃ t, exec (.tlbump h tl) s = .next t ∧ Defers s t f (.tlbump (BitVec.toNat tl))))
  ∧ (∀ (h : Head) (port : BitVec 5) (s : State) (o : Opnds) (f : Firing) (n : Nat) (c : ChanCfg), s.operandsRead h true true false = some o →
      s.here = some f → s.portChan s.cur.task port.toNat = some (n, c) →
      let len := o.b.v.toNat
      let key := localKey .ls s.cur.task.tile s.cur.task.elem o.a.v.toNat
      1 ≤ len → len ≤ 256 → len ≤ c.size → o.a.v.toNat + len ≤ 2 ^ 15 → s.readReady (keysOf key len) = true → s.orderOk false = true →
      s.badIn key len = none →
      ∃ t, exec (.sends h port) s = .next t ∧ Defers s t f (.send port.toNat ((List.range len).map fun i => s.byte (key + i))))
  ∧ (∀ (h : Head) (s : State) (port : BitVec 5),
      (∀ o, s.operandsStore h true false false = some o → s.portChan s.cur.task port.toNat = none →
        exec (.send h port) s = .next (s.fireFault { code := .addrRange, detail := port.toNat }))
      ∧ (∀ o n c, s.operandsStore h true true false = some o → s.portChan s.cur.task port.toNat = some (n, c) → c.size < 16 →
        exec (.msg h port) s = .next (s.fireFault { code := .addrRange, detail := port.toNat }))
      ∧ (∀ o n c, s.operandsRead h true true false = some o → s.portChan s.cur.task port.toNat = some (n, c) → o.b.v = 0 ∨ 256 < o.b.v.toNat →
        exec (.sends h port) s = .next (s.fireFault { code := .addrRange, detail := port.toNat }))
      ∧ (∀ o, s.operandsStore h false false false = some o → s.inRange s.cur.task = false → exec (.rnext h) s = .next (s.fireFault { code := .perm }))
      ∧ (∀ o, s.operandsStore h true false false = some o → s.inRange s.cur.task = false → exec (.rsplit h) s = .next (s.fireFault { code := .perm }))
      ∧ (∀ o, s.operandsStore h true true true = some o → s.isTrapTask s.cur.task = false → exec (.eret h) s = .next (s.fireFault { code := .priv }))
      ∧ (∀ o, s.operandsStore h true true true = some o → s.isTrapTask s.cur.task = true → 2 < o.b.v.toNat →
        exec (.eret h) s = .next (s.fireFault { code := .addrRange })))

/-- R363, R364, R335, R367, R368: CSRRD delivers the register it names, the status word of an engine field by field, PERF the counter (0 and 4 from the
last reset on), and SLEEP with a count of 0 delivers 0 at once; a longer SLEEP waits
for its count, capped at 1,048,576.
R266, R207: STAMP delivers a coordinate of the activation's stamp; one beyond its depth reads 0. -/
def Obligations.SystemReads : Prop :=
  (∀ (h : Head) (s : State) (f : Firing), s.here = some f →
      (∀ o, s.operands h false false false = some o →
        let t := s.cur.task
        let k := s.task t
        exec (.csrrd h 0x001) s = .next (s.fire1 h (s.ctx k.ctx).fpmode)
        ∧ exec (.csrrd h 0x002) s = .next (s.fire1 h ((s.ctx k.ctx).cntol.setWidth 64))
        ∧ exec (.csrrd h 0x010) s = .next (s.fire1 h (BitVec.ofNat 64 k.ctx))
        ∧ exec (.csrrd h 0x011) s = .next (s.fire1 h (BitVec.ofNat 64
            (t.tile + t.elem * 2 ^ 10 + t.slot * 2 ^ 14 + k.ctx * 2 ^ 17 + k.gen * 2 ^ 32)))
        ∧ exec (.csrrd h 0x012) s = .next (s.fire1 h (BitVec.ofNat 64 t.tile))
        ∧ (∀ l, s.launch k.launch = some l → exec (.csrrd h 0x003) s = .next (s.fire1 h (BitVec.ofNat 64 l.level)))
        ∧ exec (.csrrd h 0x013) s = .next (s.fire1 h (BitVec.ofNat 64 s.package))
        ∧ exec (.csrrd h 0x014) s = .next (s.fire1 h s.podtime)
        ∧ (∀ unit, unit < 6 → ∃ v, exec (.csrrd h (BitVec.ofNat 12 (0x020 + unit))) s = .next (s.fire1 h v)
            ∧ ((s.tile t.tile).headCmd unit = none → v = 0)
            ∧ ∀ c, (s.tile t.tile).headCmd unit = some c →
                (c.cause < 32 → c.tl < 16 → c.prog < 2 ^ 32 → ((s.tile t.tile).queue unit).length ≤ 256 →
                  v.toNat / 2 ^ 61 = (match c.state with | .running => 1 | .waiting => 2 | .suspended => 3 | .failed => 4)
                  ∧ v.toNat % 2 ^ 36 / 2 ^ 32 = 0
                  ∧ v.toNat / 2 ^ 53 % 2 ^ 8 = (if c.state = .failed then (c.code.map FCode.num).getD 0 else 0)
                  ∧ v.toNat / 2 ^ 48 % 2 ^ 5 = c.cause ∧ v.toNat / 2 ^ 44 % 2 ^ 4 = c.tl
                  ∧ v.toNat / 2 ^ 36 % 2 ^ 8 = (((s.tile t.tile).queue unit).dropWhile fun x => x.id != c.id).length - 1
                  ∧ v.toNat % 2 ^ 32 = (match c.op with
                      | .copy _ _ _ _ _ _ _ _ | .mma _ _ _ _ _ _ _ | .macst _ _ _ => c.prog
                      | _ => 0)))
        ∧ exec (.perf h 0) s = .next (s.fire1 h (BitVec.ofNat 64 (s.cycle - s.perfBase)))
        ∧ exec (.perf h 4) s = .next (s.fire1 h (BitVec.ofNat 64 (s.cycle - s.perfBase) - (s.elem (elemOf t)).busy))
        ∧ exec (.perf h 6) s = .next (s.fire1 h (s.elem (elemOf t)).spills)
        ∧ exec (.perf h 8) s = .next (s.fire1 h (s.tile t.tile).misses)
        ∧ exec (.perf h 9) s = .next (s.fire1 h (s.tile t.tile).copied)
        ∧ exec (.perf h 10) s = .next (s.fire1 h (s.tile t.tile).planes)
        ∧ exec (.perf h 11) s = .next (s.fire1 h (s.tile t.tile).canopied)
        ∧ exec (.perf h 1) s = .next (s.fire1 h (s.elem (elemOf t)).blocks)
        ∧ exec (.perf h 2) s = .next (s.fire1 h (s.elem (elemOf t)).instrs)
        ∧ exec (.perf h 3) s = .next (s.fire1 h (s.elem (elemOf t)).faults)
        ∧ exec (.perf h 5) s = .next (s.fire1 h (s.elem (elemOf t)).sent)
        ∧ exec (.perf h 7) s = .next (s.fire1 h (s.tile t.tile).hits)
        ∧ ∀ n : BitVec 12, 12 ≤ n.toNat → exec (.perf h n) s = .next (s.fire1 h 0))
      ∧ (∀ o, s.operandsStore h true false false = some o → o.a.v = 0 → exec (.sleep h) s = .next (s.fire1 h 0))
      ∧ (∀ o, s.operandsStore h true false false = some o → o.a.v ≠ 0 →
        ∃ t, exec (.sleep h) s = .next t ∧ Sends s t f (.sleep (min o.a.v.toNat 1048576)) 0 0 none ∧ Work.sleepExpire s.nextId ∈ t.agenda))
  ∧ (∀ (h : Head) (k : BitVec 2) (s : State) (o : Opnds) (a : Activation), s.operands h false false false = some o →
      (s.task s.cur.task).act = some a →
      exec (.stamp h k) s = .next (s.fire1 h (if a.stamp.depth < k.toNat then 0 else BitVec.ofNat 64
        (match k with | 0 => a.stamp.c0 | 1 => a.stamp.c1 | 2 => a.stamp.c2 | 3 => a.stamp.c3))))

/-- R300, R304: LD and LDP of global memory fire by sending their read to its home; no storage changes.
R304, R164, R6: LD and LDP of a local space by a task that is not waved deliver the bytes at the address, little-endian, zero-extended or
sign-extended, when they fire. -/
def Obligations.LoadsDeliver : Prop :=
  (∀ (h : Head) (s : State) (o : Opnds) (f : Firing) (key : Nat) (use : Option LineUse), s.operandsRead h true false false = some o →
      s.here = some f →
      IdsFresh s → s.orderOk false = true →
      (∀ sz sx, s.check s.cur.task .gl o.a.v (Size.num sz) (Size.num sz) .read = .ok key use → s.readReady (keysOf key (Size.num sz)) = true →
        ∃ t, exec (.ld h .gl sz sx) s = .next t ∧ Sends s t f (.load (Size.num sz) sx) key o.a.v.toNat (withHint h use)
          ∧ Routed s t key (use.any fun u => u.ms) (.l2Access s.nextId))
      ∧ (s.check s.cur.task .gl o.a.v 16 16 .read = .ok key use → s.readReady (keysOf key 16) = true →
        ∃ t, exec (.ldp h .gl) s = .next t ∧ Sends s t f .pair key o.a.v.toNat (withHint h use)
          ∧ Routed s t key (use.any fun u => u.ms) (.l2Access s.nextId)))
  ∧ (∀ (h : Head) (s : State) (o : Opnds) (f : Firing) (sp : Space), s.operandsRead h true false false = some o → s.here = some f →
      (s.task s.cur.task).waved = false → s.orderOk false = true → sp ≠ .gl → sp ≠ .ch →
      let key := localKey sp s.cur.task.tile s.cur.task.elem o.a.v.toNat
      let ref : Option Ref := some ⟨f.serial, s.cur.idx, false⟩
      (∀ sz sx, o.a.v.toNat + Size.num sz ≤ spaceSize sp → o.a.v.toNat % Size.num sz = 0 → (sp = .ds → o.a.v.toNat + Size.num sz ≤ 0x03000000) →
        s.readReady (keysOf key (Size.num sz)) = true → s.badIn key (Size.num sz) = none →
        ∃ v : Word, exec (.ld h sp sz sx) s = .next (s.fire h ⟨v, ref, none⟩ ⟨v, ref, none⟩)
          ∧ (∀ i, i < Size.num sz → v.extractLsb' (8 * i) 8 = s.byte (key + i))
          ∧ ∀ i, 8 * Size.num sz ≤ i → i < 64 → v.getLsbD i = (sx && (s.byte (key + Size.num sz - 1)).getLsbD 7))
      ∧ (o.a.v.toNat + 16 ≤ spaceSize sp → o.a.v.toNat % 16 = 0 → (sp = .ds → o.a.v.toNat + 16 ≤ 0x03000000) →
        s.readReady (keysOf key 16) = true → s.badIn key 16 = none →
        ∃ v w : Word, exec (.ldp h sp) s = .next (s.fire h ⟨v, ref, none⟩ ⟨w, ref, none⟩)
          ∧ (∀ i, i < 8 → v.extractLsb' (8 * i) 8 = s.byte (key + i)) ∧ (∀ i, i < 8 → w.extractLsb' (8 * i) 8 = s.byte (key + 8 + i))))

/-- R300, R304, R216, R305: ST and STP make the product of their store identifier when they fire: the bytes, little-endian, at the address of slot a.
Memory does not change before the commit. Within the block the store reaches only the OTOKs that its targets name. -/
def Obligations.StoresAreProducts : Prop :=
  ∀ (h : Head) (s : State) (o : Opnds) (f : Firing) (sp : Space) (sid : BitVec 5) (key : Nat) (use : Option LineUse),
    s.here = some f → f.fault = none → (∀ x ∈ f.stores, x.sid ≠ sid.toNat) → sid.toNat ∉ f.nulls →
    let named (x : Target) : Prop := (h.t0 = some x ∨ h.t1 = some x) ∧ ∃ w, f.words[x.idx.toNat]? = some w ∧ (w.extractLsb' 55 9).toNat = 0x119
    (∀ x, named x → f.slots.find (slotOf x) = none) → (∀ x y, h.t0 = some x → h.t1 = some y → slotOf x ≠ slotOf y) →
    let makes (i : Instr) (bytes : List (Nat × Byte)) : Prop :=
      ∃ t g r, exec i s = .next t ∧ t.here = some g ∧ g.stores = f.stores ++ [r] ∧ r.sid = sid.toNat ∧ r.idx = s.cur.idx
        ∧ (sp ≠ .ch → r.bytes = bytes.map (fun c => (key + c.1, c.2)) ∧ r.chan = [] ∧ r.wait = o.p.tok)
        ∧ (sp = .ch → r.bytes = [] ∧ r.chan = bytes.map fun c => (key / 256, key % 256 + c.1, c.2))
        ∧ (∀ x, named x → g.slots.find (slotOf x) = some ⟨0, some ⟨f.serial, s.cur.idx, true⟩, none⟩)
        ∧ (∀ k, (∀ x, named x → slotOf x ≠ k) → g.slots.find k = f.slots.find k)
        ∧ { g with fired := f.fired, stores := f.stores, slots := f.slots } = f ∧ FiresOnly s t
    (∀ sz, s.operandsStore h true true false = some o → s.check s.cur.task sp o.a.v (Size.num sz) (Size.num sz) .write = .ok key use →
      makes (.st h sp sz sid) ((List.range (Size.num sz)).map fun i => (i, o.b.v.extractLsb' (8 * i) 8)))
    ∧ (s.operandsStore h true true true = some o → s.check s.cur.task sp o.a.v 16 16 .write = .ok key use →
      makes (.stp h sp sid) ((List.range 8).map (fun i => (i, o.b.v.extractLsb' (8 * i) 8))
        ++ (List.range 8).map fun i => (8 + i, o.c.v.extractLsb' (8 * i) 8)))

/-- R8, R33, R36: an access that fails a check of its address takes the fault the check names, in the order of R33, with the address in the record: an
LD, as a read, and an ST, as a write, beyond a local space or not aligned to its size. -/
def Obligations.AddressChecksFault : Prop :=
  ∀ (h : Head) (s : State) (sz : Size) (sx : Bool) (sid : BitVec 5) (sp : Space), sp ≠ .gl → sp ≠ .ch →
    (∀ o, s.operandsRead h true false false = some o → s.orderOk false = true → spaceSize sp < o.a.v.toNat + sz.num →
      exec (.ld h sp sz sx) s = .next (s.fireFault { code := .addrRange, cause := 7, acc := .read, addr := o.a.v.toNat }))
    ∧ (∀ o, s.operandsRead h true false false = some o → s.orderOk false = true → o.a.v.toNat + sz.num ≤ spaceSize sp → o.a.v.toNat % sz.num ≠ 0 →
      exec (.ld h sp sz sx) s = .next (s.fireFault { code := .align, acc := .read, addr := o.a.v.toNat }))
    ∧ (∀ o, s.operandsStore h true true false = some o → spaceSize sp < o.a.v.toNat + sz.num →
      exec (.st h sp sz sid) s = .next (s.fireFault { code := .addrRange, cause := 7, acc := .write, addr := o.a.v.toNat }))
    ∧ (∀ o, s.operandsStore h true true false = some o → o.a.v.toNat + sz.num ≤ spaceSize sp → o.a.v.toNat % sz.num ≠ 0 →
      exec (.st h sp sz sid) s = .next (s.fireFault { code := .align, acc := .write, addr := o.a.v.toNat }))

/-- R306: the cache-control instructions deliver 0. In a local space, and on a line that its home does not hold, FLUSH and INVAL do nothing else; on a
line its home holds they are sent there; PREF in a local space only delivers, and a prefetch of gl whose address fails a check is dropped.
R300, R307 to R309, R19, R105: the structure-memory instructions are sent to the agent of their word, the writing ones after their page is marked
dirty. -/
def Obligations.CacheAndStructureOperations : Prop :=
  (∀ (h : Head) (s : State) (o : Opnds) (f : Firing) (sp : Space), s.operandsRead h true false false = some o → s.here = some f →
      IdsFresh s →
      (sp ≠ .gl → exec (.pref h sp) s = .next (s.fire1 h 0))
      ∧ (2 ^ 56 ≤ o.a.v.toNat → exec (.pref h .gl) s = .next (s.fire1 h 0))
      ∧ (∀ key, s.check s.cur.task sp o.a.v 1 1 (if sp = .ch then .read else .cache) = .ok key none →
          exec (.flush h sp) s = .next (s.fire1 h 0) ∧ exec (.inval h sp) s = .next (s.fire1 h 0))
      ∧ (∀ key u, s.check s.cur.task .gl o.a.v 1 1 .cache = .ok key (some u) → u.ms = false → u.mtype < 2 → s.remote key = false → s.held key = true →
          (∃ t, exec (.flush h .gl) s = .next t ∧ Sends s t f .flush key o.a.v.toNat (withHint h (some u)) ∧ Routed s t key false (.l2Access s.nextId))
          ∧ (∃ t, exec (.inval h .gl) s = .next t ∧ Sends s t f .inval key o.a.v.toNat (withHint h (some u)) ∧ Routed s t key false (.l2Access s.nextId))))
  ∧ (∀ (h : Head) (s : State) (o : Opnds) (f : Firing) (sp : Space) (key : Nat) (use : Option LineUse), s.here = some f → IdsFresh s →
      s.orderOk true = true →
      (∀ wait, s.operandsRead h true false false = some o → s.check s.cur.task sp o.a.v 8 8 .structRead = .ok key use →
        s.readReady (keysOf key 8) = true → ∃ t, exec (.lds h sp wait) s = .next t ∧ Sends s t f (.lds wait) key o.a.v.toNat use
          ∧ Routed s t key true (.structLdsAtAgent s.nextId))
      ∧ (s.operandsSent h true true false = some o → s.replayHere = none → s.check s.cur.task sp o.a.v 8 8 .structWrite = .ok key use →
        ∃ t, exec (.sts h sp) s = .next t ∧ SendsWrite s t f (.sts o.b.v) key o.a.v.toNat use .structStsAtAgent)
      ∧ (s.operandsSent h true true false = some o → s.replayHere = none → 1 ≤ o.b.v.toNat → o.b.v.toNat ≤ 256 →
        o.a.v.toNat % 2048 + 8 * o.b.v.toNat ≤ 2048 → s.check s.cur.task sp o.a.v (8 * o.b.v.toNat) 8 .structWrite = .ok key use →
        ∃ t, exec (.stclr h sp) s = .next t ∧ SendsWrite s t f (.stclr o.b.v.toNat) key o.a.v.toNat use .structStclrAtAgent))

/-- R300, R310 to R312, R316, R72, R19, R105: an atomic that synchronises, that names a local place, or whose line lies in another package, is sent
to its home with its operation, its operand at the width, the block's FTZ bit and the epoch its die attaches, after its page is marked dirty; it changes
nothing else before it is performed.
R92, R311, R69: an atomic of the package's global memory that carries .c enters the mesh at the router of its tile, toward the router of its line's home
slice, or of its die's memory agents for a memory-side line, on the circuit its load has for such requests, if any; it may be combined on its way. -/
def Obligations.AtomicsAreSent : Prop :=
  (∀ (h : Head) (s : State) (f : Firing) (sp : Space) (key : Nat) (use : Option LineUse) (m : AMode), s.here = some f → s.replayHere = none →
      IdsFresh s → s.orderOk true = true → m ≠ .comb ∨ isGl key = false ∨ s.remote key = true →
      let sent (i : Instr) (op : Op) (va : Nat) : Prop := ∃ t, exec i s = .next t ∧ SendsWrite s t f op key va (withHint h use) .homeAtomic
      let ftz := f.fpmode.getLsbD 0
      let c := m == .comb && isGl key
      (∀ o sz, s.operandsSent h true true false = some o → s.check s.cur.task sp o.a.v (ASize.num sz) (ASize.num sz) .atomic = .ok key use →
        let n := ASize.num sz
        let v := o.b.v.toNat % 2 ^ (8 * n)
        let va := o.a.v.toNat
        (∀ fp, sent (.aadd h sp sz m fp) (.atomic 0 n v 0 c fp ftz) va) ∧ sent (.amin h sp sz m) (.atomic 1 n v 0 c false ftz) va
          ∧ sent (.amax h sp sz m) (.atomic 2 n v 0 c false ftz) va ∧ sent (.aminw h sp sz m) (.atomic 3 n v 0 c false ftz) va
          ∧ sent (.amaxw h sp sz m) (.atomic 4 n v 0 c false ftz) va ∧ sent (.aand h sp sz m) (.atomic 5 n v 0 c false ftz) va
          ∧ sent (.aor h sp sz m) (.atomic 6 n v 0 c false ftz) va ∧ sent (.axor h sp sz m) (.atomic 7 n v 0 c false ftz) va
          ∧ sent (.aswp h sp sz m) (.atomic 8 n v 0 c false ftz) va)
      ∧ (∀ o sz sc, s.operandsSent h true true true = some o → s.check s.cur.task sp o.a.v (ASize.num sz) (ASize.num sz) .atomic = .ok key use →
        let n := ASize.num sz
        sent (.acas h sp sz sc) (.atomic 9 n (o.b.v.toNat % 2 ^ (8 * n)) (o.c.v.toNat % 2 ^ (8 * n)) false false ftz) o.a.v.toNat)
      ∧ (∀ o, s.operandsSent h true true true = some o → s.check s.cur.task sp o.a.v 16 16 .atomic = .ok key use →
        sent (.abxa h sp m) (.atomic 0 16 (o.b.v.toNat + o.c.v.toNat * 2 ^ 64) 0 c false ftz) o.a.v.toNat))
  ∧ (∀ (h : Head) (s : State) (f : Firing) (key : Nat) (use : Option LineUse), s.here = some f → s.replayHere = none →
      IdsFresh s → s.orderOk true = true → isGl key = true → s.remote key = false →
      let enters (i : Instr) (op : Op) (va : Nat) : Prop :=
        let d := s.forWrite (s.task s.cur.task).ctx s.cur.task.tile va key (withHint h use)
        ∃ u, Sends d.2 u f op key va d.1
          ∧ exec i s = .next (u.sendPacket { id := 0, net := 0, load := (s.task s.cur.task).load, at_ := routerOf s.cur.task.tile
                                             dest := u.homeRouter key (d.1.any fun u => u.ms)
                                             payload := .request d.2.nextId
                                             slot := u.combSlot (s.task s.cur.task).load s.cur.task.tile (u.homeRouter key (d.1.any fun u => u.ms)) })
      let ftz := f.fpmode.getLsbD 0
      (∀ o sz, s.operandsSent h true true false = some o → s.check s.cur.task .gl o.a.v (ASize.num sz) (ASize.num sz) .atomic = .ok key use →
        let n := ASize.num sz
        let v := o.b.v.toNat % 2 ^ (8 * n)
        (∀ fp, enters (.aadd h .gl sz .comb fp) (.atomic 0 n v 0 true fp ftz) o.a.v.toNat)
          ∧ ∀ i k, (i, k) ∈ [(Instr.amin h .gl sz .comb, 1), (.amax h .gl sz .comb, 2), (.aminw h .gl sz .comb, 3), (.amaxw h .gl sz .comb, 4),
            (.aand h .gl sz .comb, 5), (.aor h .gl sz .comb, 6), (.axor h .gl sz .comb, 7), (.aswp h .gl sz .comb, 8)] →
            enters i (.atomic k n v 0 true false ftz) o.a.v.toNat)
      ∧ (∀ o, s.operandsSent h true true true = some o → s.check s.cur.task .gl o.a.v 16 16 .atomic = .ok key use →
        enters (.abxa h .gl .comb) (.atomic 0 16 (o.b.v.toNat + o.c.v.toNat * 2 ^ 64) 0 true false ftz) o.a.v.toNat))

/-- R313 to R315, R318, R90, R19, R105: for every operand that the checks let pass, ACASM, AENQ, ACHASE and WENQ complete by sending their operation:
ACASM with the n compare words and the n new words that stand at bytes 0 and 32 of its temporary, AENQ with the node's line beside the header's,
ACHASE with its hops and its offset, WENQ with its payload as ls holds it. Nothing else changes but the D bits of pages that were not dirty. In a local
space the first three are PERM.
R302: a replayed instruction whose replay entry stands from an earlier firing of its block answers from the entry and sends nothing again. -/
def Obligations.ListOperationsAndReplay : Prop :=
  (∀ (h : Head) (s : State) (o : Opnds) (f : Firing) (key : Nat) (use : Option LineUse), s.here = some f → s.replayHere = none → IdsFresh s →
      s.orderOk true = true →
      let a := o.a.v.toNat
      let b := o.b.v.toNat
      (∀ n vk sc, s.operandsSent h true false false = some o → a % 32 + 8 * (BitVec.toNat n + 2) ≤ 32 →
        s.check s.cur.task .gl o.a.v (8 * (BitVec.toNat n + 2)) 1 .atomic = .ok key use →
        ∃ t cmp new, exec (.acasm h .gl n vk sc) s = .next t
          ∧ SendsWrite s t f (.acasm (n.toNat + 2) (BitVec.toNat vk) cmp new) key a use .homeAtomic
          ∧ cmp.length = n.toNat + 2 ∧ new.length = n.toNat + 2
          ∧ ∀ i j, i < n.toNat + 2 → j < 8 →
              (cmp.getD i 0).extractLsb' (8 * j) 8 = (s.vtRead vk.toNat 0 (8 * (n.toNat + 2))).getD (8 * i + j) 0
              ∧ (new.getD i 0).extractLsb' (8 * j) 8 = (s.vtRead vk.toNat 32 (8 * (n.toNat + 2))).getD (8 * i + j) 0)
      ∧ (∀ sc node use', s.operandsSent h true true false = some o → s.check s.cur.task .gl o.a.v 16 16 .atomic = .ok key use →
        s.check s.cur.task .gl o.b.v 8 8 .atomic = .ok node use' →
        let d := s.forWrite (s.task s.cur.task).ctx s.cur.task.tile a key (withHint h use)
        let e := d.2.forWrite (s.task s.cur.task).ctx s.cur.task.tile b node use'
        let u := e.2.usePage b
        ∃ t g, exec (.aenq h .gl sc) s = .next t ∧ u.here = some g ∧ { g with used := f.used } = f
          ∧ Sends u t g (.aenq a b node e.1) key a d.1 ∧ Routed u t key true (.aenqAtHome u.nextId))
      ∧ (s.operandsSent h true true false = some o → 1 ≤ b % 128 → b % 128 ≤ 64 → (b / 256 % 2048) % 8 = 0 → b / 128 % 2 = 0 → b < 2 ^ 19 →
        ∃ t, exec (.achase h .gl) s = .next t ∧ Sends s t f (.achase (b % 128) (b / 256 % 2048) 0) 0 a none ∧ Work.achaseHop s.nextId ∈ t.agenda)
      ∧ (s.operandsSent h true true true = some o → let n := o.c.v.toNat
        let src := localKey .ls s.cur.task.tile s.cur.task.elem b
        1 ≤ n → n ≤ 256 → b + n ≤ 2 ^ 15 → a % 32 = 0 → b % 256 + n ≤ 256 →
        s.check s.cur.task .gl o.a.v 32 32 .atomic = .ok key use → s.readReady (keysOf src n) = true → s.badIn src n = none →
        ∃ t, exec (.wenq h) s = .next t
          ∧ SendsWrite s t f (.wenq (b % 256) ((List.range n).map fun i => s.byte (src + i)) none) key a use .wenqAtTarget)
      ∧ (∀ sp : Space, sp ≠ .gl →
        (∀ n vk sc, s.operandsSent h true false false = some o → a + 8 * (BitVec.toNat n + 2) ≤ spaceSize sp → a % 32 + 8 * (n.toNat + 2) ≤ 32 →
          exec (.acasm h sp n vk sc) s = .next (s.fireFault { code := .perm, cause := 5, acc := .atomic, addr := a }))
        ∧ (∀ sc, s.operandsSent h true true false = some o → a + 16 ≤ spaceSize sp → a % 16 = 0 →
          exec (.aenq h sp sc) s = .next (s.fireFault { code := .perm, cause := 5, acc := .atomic, addr := a }))
        ∧ (s.operandsSent h true true false = some o → a + 8 ≤ spaceSize sp → a % 8 = 0 →
          exec (.achase h sp) s = .next (s.fireFault { code := .perm, cause := 5, acc := .read, addr := a }))))
  ∧ (∀ (h : Head) (s : State) (r : Replay) (f : Firing) (sp : Space), s.here = some f → s.replayHere = some r →
      let again : State := s.fire h ⟨r.r0, some ⟨f.serial, s.cur.idx, false⟩, none⟩ ⟨r.r1, some ⟨f.serial, s.cur.idx, false⟩, none⟩
      (∀ o, s.operandsSent h true true false = some o → exec (.sts h sp) s = .next again ∧ exec (.stclr h sp) s = .next again
        ∧ (∀ sc, exec (.aenq h sp sc) s = .next again)
        ∧ ∀ sz m, (∀ fp, exec (.aadd h sp sz m fp) s = .next again) ∧ exec (.amin h sp sz m) s = .next again ∧ exec (.amax h sp sz m) s = .next again
            ∧ exec (.aminw h sp sz m) s = .next again ∧ exec (.amaxw h sp sz m) s = .next again ∧ exec (.aand h sp sz m) s = .next again
            ∧ exec (.aor h sp sz m) s = .next again ∧ exec (.axor h sp sz m) s = .next again ∧ exec (.aswp h sp sz m) s = .next again)
      ∧ (∀ o, s.operandsSent h true true true = some o → exec (.wenq h) s = .next again ∧ (∀ sz sc, exec (.acas h sp sz sc) s = .next again)
        ∧ ∀ m, exec (.abxa h sp m) s = .next again)
      ∧ (∀ o q, s.operandsAfter h false false false = some o → exec (.stgwait h q) s = .next again)
      ∧ (∀ o, s.operandsSnap h true false = some o → exec (.snacc h) s = .next again ∧ exec (.snrej h) s = .next again))

/-- R319 to R321, R129: OTOK makes a token for the access its value refers to, OJOIN one for both of its tokens' accesses with the narrower scope, FENCE
one for every event of the task's earlier blocks; each delivers the value 0.
R322, R323, R140: TLREAD delivers a timeline's value; TLWAIT delivers the value and OK at once when it has reached the number, and otherwise waits,
with a time limit unless its limit is 0. -/
def Obligations.TokensAndTimelines : Prop :=
  (∀ (h : Head) (s : State) (f : Firing), s.here = some f →
      (∀ o sc r, s.operands h true false false = some o → o.a.tok = none → o.a.ref = some r →
        let v : SlotVal := ⟨0, none, some ⟨sc, [r], []⟩⟩
        exec (.otok h sc) s = .next (s.fire h v v))
      ∧ (∀ o x y, s.operands h true true false = some o → o.a.tok = some x → o.b.tok = some y →
        ∃ sc, (sc = x.scope ∨ sc = y.scope) ∧ sc.level ≤ x.scope.level ∧ sc.level ≤ y.scope.level
          ∧ let v : SlotVal := ⟨0, none, some ⟨sc, x.refs ++ y.refs, x.fences ++ y.fences⟩⟩
            exec (.ojoin h) s = .next (s.fire h v v))
      ∧ (∀ o sc, s.operands h false false false = some o → o.p = ⟨0, none, none⟩ →
        let v : SlotVal := ⟨0, none, some ⟨sc, [], [f.serial]⟩⟩
        exec (.fence h sc) s = .next (s.fire h v v)))
  ∧ (∀ (h : Head) (tl : BitVec 4) (s : State) (o : Opnds) (f : Firing) (x : Timeline), s.here = some f →
      (s.ctx (s.task s.cur.task).ctx).tls[tl.toNat]? = some x →
      (s.operands h false false false = some o → exec (.tlread h tl) s = .next (s.fire1 h (BitVec.ofNat 64 x.value)))
      ∧ (s.operandsRead h true true false = some o → o.a.v.toNat ≤ x.value →
        exec (.tlwait h tl) s = .next (s.fire h (plain (BitVec.ofNat 64 x.value)) (plain 0)))
      ∧ (s.operandsRead h true true false = some o → x.value < o.a.v.toNat →
        ∃ t, exec (.tlwait h tl) s = .next t ∧ Sends s t f (.tlwait tl.toNat o.a.v o.b.v.toNat) 0 0 none
          ∧ (o.b.v ≠ 0 → Work.tlwaitTimeout s.nextId ∈ t.agenda)))

/-- R328 to R331, R270: the stage-queue instructions and the draw. STGPUT with a place free reserves it and its value waits for the commit; STGWAIT
joins the waiters; STGCLOSE closes at the commit; on a queue bound to another operator STGPUT and STGCLOSE are PERM. RNEXT of a task of a range
operator asks for the next number of its element's interval. -/
def Obligations.StageInstructions : Prop :=
  ∀ (h : Head) (q : BitVec 4) (s : State) (o : Opnds) (f : Firing), s.here = some f →
    let bed := bedOf s.cur.task.tile
    let x := s.stage bed q.toNat
    (s.operandsStore h true false false = some o → x.foreign (s.operator s.cur.task) = false → x.closed = false →
      x.vals.length + s.reserved bed q.toNat < 16 →
      ∃ t g, exec (.stgput h q) s = .next t ∧ (∃ r, t.reqs = s.reqs ++ [r] ∧ r.op = .stgput bed q.toNat ∧ r.id = s.nextId) ∧ t.here = some g
        ∧ g.defer = f.defer ++ [(s.cur.idx, .stgput q.toNat o.a.v s.nextId)] ∧ g.fired = s.cur.idx :: f.fired ∧ t.stages = s.stages ∧ BlockFrame s t)
    ∧ (s.operandsAfter h false false false = some o → s.replayHere = none →
      ∃ t, exec (.stgwait h q) s = .next t ∧ (∃ r, t.reqs = s.reqs ++ [r] ∧ r.op = .stgwait bed q.toNat ∧ r.id = s.nextId)
        ∧ (t.stage bed q.toNat).waiters = x.waiters ++ [s.nextId] ∧ (t.stage bed q.toNat).vals = x.vals
        ∧ Work.stageWaiterServe bed q.toNat ∈ t.agenda ∧ BlockFrame s t)
    ∧ (s.operandsStore h false false false = some o → x.foreign (s.operator s.cur.task) = false →
      exec (.stgclose h q) s = .next ((s.atCommit (.stgclose q.toNat)).fire1 h 0))
    ∧ (s.operandsStore h true false false = some o → x.foreign (s.operator s.cur.task) = true →
      exec (.stgput h q) s = .next (s.fireFault { code := .perm }))
    ∧ (s.operandsStore h false false false = some o → x.foreign (s.operator s.cur.task) = true →
      exec (.stgclose h q) s = .next (s.fireFault { code := .perm }))
    ∧ (s.operandsStore h false false false = some o → s.inRange s.cur.task = true →
      ∃ t, exec (.rnext h) s = .next t ∧ Sends s t f .rnext 0 0 none ∧ Work.rnextServe s.nextId ∈ t.agenda)

/-- R101, R103, R325: SNAP of a legal range with an epoch value free takes the lowest free value and a free slot (the lowest: the model's choice, log 46), held
until the commit, inside the innermost snapshot that holds the range, and delivers the handle, whose generation has advanced.
R99, R107, R110: SNAP's faults, the first that holds: beyond the address space or not aligned to 64 KiB, a bad length, snapshots not enabled (SNAP_DEPTH
cause 2), a range that meets an open or held one without lying inside it (cause 1), one inside a snapshot of depth 3 (cause 0), and 32 snapshots open or
held (cause 2).
R110, R111, R112, R326: SNACC of an innermost open snapshot ends its range, its epoch merging into the enclosing one or retiring; SNREJ ends it and every
one nested in it, their epochs rejecting; a handle that is not valid or is held is SNAP_DEPTH cause 3, and SNACC of a snapshot with one nested in it
cause 4. SNQRY delivers the word of R123, whose PEND is read by inference (log 20). -/
def Obligations.Snapshots : Prop :=
  (∀ (h : Head) (s : State) (o : Opnds) (parent : Option (Nat × Range)) (e : Nat), s.operandsSnap h true true = some o → s.replayHere = none →
      let n := (s.task s.cur.task).ctx
      let c := s.ctx n
      let slot := c.freeRange
      let gen := (c.gens.get slot 0 + 1) % 2 ^ 32
      c.snapCheck o.a.v.toNat o.b.v.toNat = .ok parent → c.freeEpoch = some e →
      ∃ d : Ctx, exec (.snap h) s = .next (((s.modCtx n fun _ => d).atCommit (.snapOpen (gen * 32 + slot))).completeReplay h
          (BitVec.ofNat 64 (gen * 32 + slot)) (BitVec.ofNat 64 (gen * 32 + slot)))
        ∧ d.ranges.find slot = some ⟨(match parent with | some p => p.2.depth + 1 | none => 0), parent.map (·.1), e, true, o.a.v.toNat / 2 ^ 16,
            o.b.v.toNat / 2 ^ 16, gen⟩
        ∧ d.epochs.find e = some ⟨.held, (match parent with | some p => p.2.epoch | none => 0), 0⟩
        ∧ (∀ k, k ≠ slot → d.ranges.find k = c.ranges.find k) ∧ (∀ k, k ≠ e → d.epochs.find k = c.epochs.find k)
        ∧ { d with ranges := c.ranges, gens := c.gens, epochs := c.epochs } = c)
  ∧ (∀ (h : Head) (s : State) (o : Opnds), s.operandsSnap h true true = some o → s.replayHere = none →
      let base := o.a.v.toNat
      let len := o.b.v.toNat
      (2 ^ 56 ≤ base → exec (.snap h) s = .next (s.fireFault { code := .addrRange, cause := 7, addr := base }))
      ∧ (base < 2 ^ 56 → base % 2 ^ 16 ≠ 0 → exec (.snap h) s = .next (s.fireFault { code := .align, addr := base }))
      ∧ (base < 2 ^ 56 → base % 2 ^ 16 = 0 → len % 2 ^ 16 ≠ 0 ∨ len < 2 ^ 16 ∨ 2 ^ 40 < len ∨ 2 ^ 56 < base + len →
          exec (.snap h) s = .next (s.fireFault { code := .addrRange, cause := 7, addr := base }))
      ∧ (base < 2 ^ 56 → base % 2 ^ 16 = 0 → len % 2 ^ 16 = 0 → 2 ^ 16 ≤ len → len ≤ 2 ^ 40 → base + len ≤ 2 ^ 56 →
          let c := s.ctx (s.task s.cur.task).ctx
          let overlaps (r : Range) : Prop := r.base < (base + len) / 2 ^ 16 ∧ base / 2 ^ 16 < r.base + r.len
          let holds (r : Range) : Prop := r.base ≤ base / 2 ^ 16 ∧ (base + len) / 2 ^ 16 ≤ r.base + r.len
          let stops (cause : Nat) : Prop := exec (.snap h) s = .next (s.fireFault { code := .snapDepth, cause := cause, addr := base })
          (c.snapw.getLsbD 63 = false → stops 2)
          ∧ (c.snapw.getLsbD 63 = true → (∃ x ∈ c.ranges, overlaps x.2 ∧ ¬ holds x.2) → stops 1)
          ∧ (c.snapw.getLsbD 63 = true → (∀ x ∈ c.ranges, overlaps x.2 → holds x.2) →
              ((∃ x ∈ c.ranges, overlaps x.2 ∧ 3 ≤ x.2.depth) → stops 0)
              ∧ ((∀ x ∈ c.ranges, overlaps x.2 → x.2.depth < 3) → 32 ≤ c.ranges.length → stops 2))))
  ∧ (∀ (h : Head) (s : State) (o : Opnds),
      let n := (s.task s.cur.task).ctx
      let c := s.ctx n
      (∀ slot r, s.operandsSnap h true false = some o → s.replayHere = none → c.rangeOf o.a.v = some (slot, r) → r.held = false →
        (∀ x ∈ c.ranges, x.2.parent ≠ some slot) →
        ∃ d : Ctx, exec (.snacc h) s = .next (((s.modCtx n fun _ => d).settleSoon n).completeReplay h 0 0) ∧ d.ranges = c.ranges.erase slot
          ∧ ∀ x ∈ d.epochs, x.1 = r.epoch → x.2.state = if r.parent.isSome then .merging else .retiring)
      ∧ (∀ slot r, s.operandsSnap h true false = some o → s.replayHere = none → c.rangeOf o.a.v = some (slot, r) → r.held = false →
        ∃ d : Ctx, exec (.snrej h) s = .next (((s.modCtx n fun _ => d).settleSoon n).completeReplay h 0 0)
          ∧ (∀ k x, (k, x) ∈ d.ranges ↔ (k, x) ∈ c.ranges ∧ c.within slot 5 k = false)
          ∧ ∀ k x, (k, x) ∈ c.ranges → c.within slot 5 k = true → ∀ y ∈ d.epochs, y.1 = x.epoch → y.2.state = .rejecting)
      ∧ (s.operandsSnap h true false = some o → s.replayHere = none → c.rangeOf o.a.v = none →
        exec (.snacc h) s = .next (s.fireFault { code := .snapDepth, cause := 3 })
        ∧ exec (.snrej h) s = .next (s.fireFault { code := .snapDepth, cause := 3 }))
      ∧ (∀ slot r, s.operandsSnap h true false = some o → s.replayHere = none → c.rangeOf o.a.v = some (slot, r) → r.held = false →
        (∃ x ∈ c.ranges, x.2.parent = some slot) → exec (.snacc h) s = .next (s.fireFault { code := .snapDepth, cause := 4 }))
      ∧ (∀ slot r, s.operandsSnap h true false = some o → s.replayHere = none → c.rangeOf o.a.v = some (slot, r) → r.held = true →
        exec (.snacc h) s = .next (s.fireFault { code := .snapDepth, cause := 3 })
        ∧ exec (.snrej h) s = .next (s.fireFault { code := .snapDepth, cause := 3 }))
      ∧ (s.operands h true false false = some o → exec (.snqry h) s = .next (s.fire1 h (s.snapWord n o.a.v))))

/-- R276, R279: SHGET delivers the field of the task's shape register, and SHDEF of a number the load's shape table has waits for the commit; a number
it has not is ILLEGAL_OP cause 5.
R278, R272: the record checks, of the first operand first and of one operand in this order (the model's choice, log 21): a record of zeros and a count of 0 or above 65,536 are cause 2, a field no valid record
has cause 0, a size the entry does not take cause 1; each is ILLEGAL_OP with the shape register as its detail. -/
def Obligations.Shapes : Prop :=
  (∀ (h : Head) (sh : BitVec 3) (num : BitVec 10) (s : State) (o : Opnds) (f : Firing) (r : Row), s.operandsShp h false false false = some o →
      s.here = some f → (s.task s.cur.task).sh[sh.toNat]? = some r →
      (exec (.shget h sh .hdr) s = .next (s.fire1 h (r.extractLsb' 448 64)) ∧ exec (.shget h sh .base) s = .next (s.fire1 h (r.extractLsb' 384 64))
        ∧ (∀ d f g, (d, f, g) ∈ [(0, ShField.ext0, ShField.str0), (1, .ext1, .str1), (2, .ext2, .str2), (3, .ext3, .str3)] →
            exec (.shget h sh f) s = .next (s.fire1 h ((r.extractLsb' (64 + 96 * d) 32).setWidth 64))
            ∧ exec (.shget h sh g) s = .next (s.fire1 h (r.extractLsb' (96 * d) 64))))
      ∧ (num.toNat < (s.shapeTable s.cur.task).length → ∃ t, exec (.shdef h sh num) s = .next t ∧ Defers s t f (.shdef sh.toNat num.toNat))
      ∧ ((s.shapeTable s.cur.task).length ≤ num.toNat →
          exec (.shdef h sh num) s = .next (s.fireFault { code := .illegalOp, cause := 5, detail := sh.toNat })))
  ∧ (∀ (h : Head) (d a b : BitVec 3) (ty : Ty) (rm : Rm) (sat : Bool) (s : State) (o : Opnds), s.operandsVec h false false = some o →
      let r := (s.task s.cur.task).shape a.toNat
      let size := 2 ^ (r.extractLsb' 503 3).toNat
      let dims := (r.extractLsb' 501 2).toNat + 1
      let count := (((List.range 4).filter (· < dims)).map fun i => (r.extractLsb' (64 + 96 * i) 32).toNat).foldl (· * ·) 1
      let bad := (r.extractLsb' 509 3).toNat ∈ [6, 7] ∨ 4 < (r.extractLsb' 503 3).toNat ∨ r.extractLsb' 448 53 ≠ 0
        ∨ (r.getLsbD 508 = true ∧ r.extractLsb' 509 3 ≠ 0)
      let stops (cause : Nat) := exec (.vadd h d a b ty rm sat) s = .next (s.fireFault { code := .illegalOp, cause := cause, detail := a.toNat })
      (r = 0 → stops 2) ∧ (r ≠ 0 → bad → stops 0) ∧ (r ≠ 0 → ¬ bad → size ≠ ty.bytes → stops 1)
        ∧ (r ≠ 0 → ¬ bad → size = ty.bytes → count = 0 ∨ 65536 < count → stops 2))

/-- R282: what a vector instruction reads and leaves. At its first try, an element of a plain source in local storage is the bytes that stand at its
address, as the task reads them, little-endian. A destination in a temporary takes the bytes of each element in the block's working copy, and one in storage
becomes the one store of the destination's identifier, 24 + its register, of the SMASK; either way the instruction fires and delivers its count. -/
def Obligations.VectorResultsAreWritten : Prop :=
  (∀ (h : Head) (v : VSpec) (p : SlotVal) (s s' : State) (x y z : List Nat) (locs : List ELoc) (touched : Bool), v.kind = .plain → s.vwork = {} →
    s.vecRead h v p = .ok x y z locs s' touched →
    ∀ q l, (q, l) ∈ [(v.a, x), (v.b, y), (v.c, z)] → ∀ opd, q = some opd →
      let r := (s.task s.cur.task).shape opd.reg
      l.length = shCount r
      ∧ ∀ j k, j < shCount r → s.elemCheck r (shAddr r j) .read = .ok (.mem k none) →
          l[j]? = some (natOfBytes ((keysOf k (shEsz r)).map (s.readByte s.cur.task s.cur.which s.cur.idx))))
  ∧ ∀ (h : Head) (d : VOpd) (locs : List ELoc) (res : List Nat) (v : Word) (touched : Bool) (p : SlotVal) (s : State) (f : Firing),
    s.here = some f → f.fault = none → h.t0 = none → h.t1 = none → locs.length = res.length →
    let r := (s.task s.cur.task).shape d.reg
    let n := 2 ^ (r.extractLsb' 503 3).toNat
    let t := s.writeVec h (some d) locs (res.map some) v touched p
    (r.getLsbD 508 = true → (∀ l ∈ locs, ∃ w off, l = .vt w off) →
      ∃ g, t.here = some g ∧ { g with fired := f.fired, vt := f.vt } = f ∧ g.fired = s.cur.idx :: f.fired ∧ FiresOnly s t
        ∧ g.vt = f.vt ++ (locs.zip res).flatMap fun x => match x.1 with
            | .vt w off => (List.range n).map fun i => ⟨s.cur.idx, w, off + i, BitVec.ofNat 8 (x.2 / 256 ^ i), n⟩
            | _ => [])
    ∧ (r.getLsbD 508 = false → f.hdr.smask.getLsbD (24 + d.reg) = true → (∀ x ∈ f.stores, x.sid ≠ 24 + d.reg) → 24 + d.reg ∉ f.nulls →
        (∀ l ∈ locs, ∃ k u, l = .mem k u) →
      ∃ g x, t.here = some g ∧ { g with fired := f.fired, stores := f.stores } = f ∧ g.fired = s.cur.idx :: f.fired ∧ FiresOnly s t
        ∧ g.stores = f.stores ++ [x] ∧ x.sid = 24 + d.reg ∧ x.idx = s.cur.idx
        ∧ x.bytes = (locs.zip res).flatMap fun y => match y.1 with
            | .mem k _ => (List.range n).map fun i => (k + i, BitVec.ofNat 8 (y.2 / 256 ^ i))
            | _ => [])

/-- R285, R286, R291, R293: elementwise integer results: exact, then wrapped to the type or, with the saturation bit, limited to its range. -/
def Obligations.VectorIntegerResults : Prop :=
  ∀ (h : Head) (d a b : BitVec 3) (ty : Ty) (rm : Rm) (sat : Bool) (s : State) (x y z : List Nat) (locs : List ELoc) (s' : State) (touched : Bool),
    ty.isI ∨ ty.isW →
    let w := 8 * ty.bytes
    let val (v : Nat) : Int := if ty.isI then (BitVec.ofNat w v).toInt else (BitVec.ofNat w v).toNat
    let lo : Int := if ty.isI then -(2 ^ (w - 1)) else 0
    let hi : Int := if ty.isI then 2 ^ (w - 1) - 1 else 2 ^ w - 1
    let fin (r : Int) : Nat := (BitVec.ofInt w (if sat then Max.max lo (Min.min hi r) else r)).toNat
    let wrap (r : Int) : Nat := (BitVec.ofInt w r).toNat
    let n := shCount ((s.task s.cur.task).shape d.toNat)
    let gives (o : Opnds) (i : Instr) (res : List Nat) : Prop :=
      exec i s = .next (s'.writeVec h (opd d ty) locs (res.map some) (BitVec.ofNat 64 n) touched o.p)
    (∀ o, s.operandsVec h false false = some o →
      s.vecRead h { a := opd a ty, b := opd b ty, d := opd d ty, counts := countsAll true false } o.p = .ok x y z locs s' touched →
      gives o (.vadd h d a b ty rm sat) (List.zipWith (fun p q => fin (val p + val q)) x y)
      ∧ gives o (.vsub h d a b ty rm sat) (List.zipWith (fun p q => fin (val p - val q)) x y)
      ∧ gives o (.vmul h d a b ty rm sat) (List.zipWith (fun p q => fin (val p * val q)) x y)
      ∧ gives o (.vmin h d a b ty) (List.zipWith (fun p q => if val q < val p then q else p) x y)
      ∧ gives o (.vmax h d a b ty) (List.zipWith (fun p q => if val p < val q then q else p) x y)
      ∧ gives o (.vand h d a b ty) (List.zipWith (fun p q => p &&& q) x y)
      ∧ gives o (.vor h d a b ty) (List.zipWith (fun p q => p ||| q) x y)
      ∧ gives o (.vxor h d a b ty) (List.zipWith (fun p q => p ^^^ q) x y)
      ∧ gives o (.vshl h d a b ty) (List.zipWith (fun p q => (BitVec.ofNat w p <<< q).toNat) x y)
      ∧ gives o (.vshr h d a b ty) (List.zipWith (fun p q =>
          (if ty.isI then (BitVec.ofNat w p).sshiftRight q else BitVec.ofNat w p >>> q).toNat) x y))
    ∧ (∀ o, s.operandsVec h false false = some o →
      s.vecRead h { a := opd a ty, d := opd d ty, counts := countsAll false false } o.p = .ok x y z locs s' touched →
      gives o (.vabs h d a ty sat) (x.map fun p => fin (if val p < 0 then -val p else val p))
      ∧ gives o (.vneg h d a ty sat) (x.map fun p => fin (-val p)) ∧ gives o (.vcopy h d a ty) x)
    ∧ (∀ o, s.operandsVec h true true = some o → s.vecRead h { d := opd d ty } o.p = .ok x y z locs s' touched →
      gives o (.viota h d ty rm) ((List.range n).map fun j : Nat => wrap (o.a.v.toInt + j * o.b.v.toInt)))
    ∧ (∀ o, s.operandsVec h true false = some o → s.vecRead h { d := opd d ty } o.p = .ok x y z locs s' touched →
      gives o (.vfill h d ty) (List.replicate n (o.a.v.setWidth w).toNat))

/-- R284, R285, R287, R169, R171, R172: elementwise floating-point results: operands flushed under FTZ; the first NaN operand, quieted, is the result;
otherwise the exact value is rounded once in the instruction's mode. -/
def Obligations.VectorFloatResults : Prop :=
  ∀ (h : Head) (d a b c : BitVec 3) (ty : Ty) (rm : Rm) (sat : Bool) (s : State) (o : Opnds) (f : Firing) (x y z : List Nat) (locs : List ELoc)
    (s' : State) (touched : Bool), ty.isF = true → s.here = some f → s.operandsVec h false false = some o →
    let g := fmtOf ty
    let ftz := f.fpmode.getLsbD 0
    let once (l : List Nat) (exact : List FV → FV) : Nat := match (l.map (g.flush ftz)).find? g.isNan with
      | some e => g.quiet e
      | none => g.round rm ftz (exact ((l.map (g.flush ftz)).map g.value))
    let at_ (l : List FV) (i : Nat) : FV := l.getD i .nan
    let n := shCount ((s.task s.cur.task).shape d.toNat)
    let gives (i : Instr) (res : List Nat) : Prop :=
      exec i s = .next (s'.writeVec h (opd d ty) locs (res.map some) (BitVec.ofNat 64 n) touched o.p)
    (s.vecRead h { a := opd a ty, b := opd b ty, d := opd d ty, counts := countsAll true false } o.p = .ok x y z locs s' touched →
      gives (.vadd h d a b ty rm sat) (List.zipWith (fun p q => once [p, q] fun l => (at_ l 0).add rm (at_ l 1)) x y)
      ∧ gives (.vsub h d a b ty rm sat) (List.zipWith (fun p q => once [p, q] fun l => (at_ l 0).add rm (at_ l 1).negate) x y)
      ∧ gives (.vmul h d a b ty rm sat) (List.zipWith (fun p q => once [p, q] fun l => (at_ l 0).mul (at_ l 1)) x y)
      ∧ gives (.vdiv h d a b ty rm) (List.zipWith (fun p q => once [p, q] fun l => (at_ l 0).div (at_ l 1)) x y)
      ∧ gives (.vmin h d a b ty) (List.zipWith (fun p q => g.minmax ftz false p q) x y)
      ∧ gives (.vmax h d a b ty) (List.zipWith (fun p q => g.minmax ftz true p q) x y))
    ∧ (s.vecRead h { a := opd a ty, b := opd b ty, c := opd c ty, d := opd d ty, counts := countsAll true true } o.p = .ok x y z locs s' touched →
      gives (.vfma h d a b c ty rm) (List.zipWith (fun pq r => once [pq.1, pq.2, r] fun l => ((at_ l 0).mul (at_ l 1)).add rm (at_ l 2)) (x.zip y) z)
      ∧ gives (.vfms h d a b c ty rm)
          (List.zipWith (fun pq r => once [pq.1, pq.2, r] fun l => ((at_ l 0).mul (at_ l 1)).add rm (at_ l 2).negate) (x.zip y) z))
    ∧ (s.vecRead h { a := opd a ty, d := opd d ty, counts := countsAll false false } o.p = .ok x y z locs s' touched →
      gives (.vsqrt h d a ty rm) (x.map fun p => once [p] fun l => (at_ l 0).sqrt)
      ∧ gives (.vrcp h d a ty rm) (x.map fun p => once [p] fun l => (FV.rat false 1 1).div (at_ l 0))
      ∧ gives (.vrsq h d a ty rm) (x.map (g.rsq rm ftz))
      ∧ (∃ res : List Nat, gives (.vabs h d a ty sat) res ∧ res.length = x.length ∧ ∀ (j p : Nat), x[j]? = some p → p < 2 ^ g.width →
          res[j]? = some (if g.isNan (g.flush ftz p) then g.quiet p else g.flush ftz p % 2 ^ (g.width - 1)))
      ∧ (∃ res : List Nat, gives (.vneg h d a ty sat) res ∧ res.length = x.length ∧ ∀ (j p : Nat), x[j]? = some p → p < 2 ^ g.width →
          res[j]? = some (if g.isNan (g.flush ftz p) then g.quiet p else (g.flush ftz p + 2 ^ (g.width - 1)) % 2 ^ g.width))
      ∧ ∀ i fn, (i, fn) ∈ [(Instr.vexp2 h d a ty rm, SpFn.exp2), (.vlog2 h d a ty rm, .log2), (.vsin h d a ty rm, .sin), (.vcos h d a ty rm, .cos),
          (.vtanh h d a ty rm, .tanh), (.vsigm h d a ty rm, .sigm)] →
        gives i (x.map fun p => if g.isNan (g.flush ftz p) then g.quiet (g.flush ftz p) else fn.at g rm ftz (g.flush ftz p) (g.value (g.flush ftz p))))

/-- R291, R170: a comparison gives all ones of the destination's element size where its condition holds and else 0, signed, unsigned or
as numbers by the type, no ordered condition holding on a NaN; VSELM takes a where the mask's element is not 0; VCLAMP limits each element to slots a
and b, of floats the first NaN of element, low and high bound, and −0 below +0.
R173, R174, R179, R288 to R290: conversions, scaling by a power of two, and quantisation in blocks of 32. -/
def Obligations.VectorChoicesAndConversions : Prop :=
  (∀ (h : Head) (d a b m : BitVec 3) (ty : Ty) (c : Cond) (s : State) (f : Firing) (x y z : List Nat) (locs : List ELoc)
      (s' : State) (touched : Bool), s.here = some f →
      let ftz := f.fpmode.getLsbD 0
      let r := (s.task s.cur.task).shape d.toNat
      let n := shCount r
      let ones : Nat := 2 ^ (8 * 2 ^ (r.extractLsb' 503 3).toNat) - 1
      let gives (o : Opnds) (dest : Option VOpd) (i : Instr) (res : List Nat) : Prop :=
        exec i s = .next (s'.writeVec h dest locs (res.map some) (BitVec.ofNat 64 n) touched o.p)
      (∀ o, s.operandsVec h false false = some o →
        s.vecRead h { a := opd a ty, b := opd b ty, d := opdAny d, counts := countsAll true false } o.p = .ok x y z locs s' touched →
        ∃ holds : Nat → Nat → Bool, gives o (opdAny d) (.vcmp h d a b ty c) (List.zipWith (fun p q => if holds p q then ones else 0) x y)
          ∧ (ty.isI → ∀ p q, holds p q = (let u := (BitVec.ofNat (8 * ty.bytes) p).toInt
              let v := (BitVec.ofNat (8 * ty.bytes) q).toInt
              match c with | .eq => u == v | .ne => u != v | .lt => decide (u < v) | .le => decide (u ≤ v) | .gt => decide (v < u)
                           | .ge => decide (v ≤ u) | .ord => true | .unord => false))
          ∧ (ty.isW → ∀ p q, p < 2 ^ (8 * ty.bytes) → q < 2 ^ (8 * ty.bytes) → holds p q =
              (match c with | .eq => p == q | .ne => p != q | .lt => decide (p < q) | .le => decide (p ≤ q) | .gt => decide (q < p)
                            | .ge => decide (q ≤ p) | .ord => true | .unord => false))
          ∧ (ty.isF → ∀ p q, let g := fmtOf ty
              let u := numberOf (g.value (g.flush ftz p))
              let v := numberOf (g.value (g.flush ftz q))
              if g.isNan (g.flush ftz p) ∨ g.isNan (g.flush ftz q) then holds p q = (c == .ne || c == .unord)
              else holds p q =
                (match c with | .eq => decide (u = v) | .ne => decide (u ≠ v) | .lt => decide (u < v) | .le => decide (u ≤ v)
                              | .gt => decide (v < u) | .ge => decide (v ≤ u) | .ord => true | .unord => false)))
      ∧ (∀ o, s.operandsVec h false false = some o →
        s.vecRead h { a := opd a ty, b := opd b ty, c := opdAny m, d := opd d ty, counts := countsAll true true } o.p = .ok x y z locs s' touched →
        gives o (opd d ty) (.vselm h d a b m ty) (List.zipWith (fun pq r => if r = 0 then pq.2 else pq.1) (x.zip y) z))
      ∧ (∀ o, s.operandsVec h true true = some o →
        s.vecRead h { a := opd a ty, d := opd d ty, counts := countsAll false false } o.p = .ok x y z locs s' touched →
        ∃ res : List Nat, gives o (opd d ty) (.vclamp h d a ty) res ∧ res.length = x.length
          ∧ (ty.isI → ∀ (j p e : Nat), x[j]? = some p → res[j]? = some e →
              (BitVec.ofNat (8 * ty.bytes) e).toInt =
                Min.min (Max.max (BitVec.ofNat (8 * ty.bytes) p).toInt (o.a.v.setWidth (8 * ty.bytes)).toInt) (o.b.v.setWidth (8 * ty.bytes)).toInt)
          ∧ (ty.isW → ∀ (j p : Nat), x[j]? = some p → p < 2 ^ (8 * ty.bytes) →
              res[j]? = some (Min.min (Max.max p (o.a.v.toNat % 2 ^ (8 * ty.bytes))) (o.b.v.toNat % 2 ^ (8 * ty.bytes))))
          ∧ (ty.isF → ∀ (j p e : Nat), x[j]? = some p → p < 2 ^ (8 * ty.bytes) → res[j]? = some e →
              let g := fmtOf ty
              let u := g.flush ftz p
              let lo := g.flush ftz (o.a.v.toNat % 2 ^ (8 * ty.bytes))
              let hi := g.flush ftz (o.b.v.toNat % 2 ^ (8 * ty.bytes))
              match [u, lo, hi].find? g.isNan with
              | some n => e = g.quiet n
              | none => e ∈ [u, lo, hi]
                  ∧ rankOf (g.value e) = Min.min (Max.max (rankOf (g.value u)) (rankOf (g.value lo))) (rankOf (g.value hi)))))
  ∧ (∀ (h : Head) (d a b : BitVec 3) (ty sty : Ty) (q : QntSrc) (rm : Rm) (s : State) (f : Firing) (x y z : List Nat) (locs : List ELoc)
      (s' : State) (touched : Bool), s.here = some f →
      let ftz := f.fpmode.getLsbD 0
      let n := shCount ((s.task s.cur.task).shape d.toNat)
      let gives (o : Opnds) (dest : Option VOpd) (i : Instr) (res : List Nat) : Prop :=
        exec i s = .next (s'.writeVec h dest locs (res.map some) (BitVec.ofNat 64 n) touched o.p)
      let byte (v : BitVec 3) : Option VOpd := some ⟨v.toNat, [1]⟩
      (∀ o, s.operandsVec h false false = some o → ty ≠ .bx128 → sty ≠ .bx128 → sty ≠ .ds8 →
        s.vecRead h { a := opd a sty, d := opd d ty, counts := countsAll false false } o.p = .ok x y z locs s' touched →
        gives o (opd d ty) (.vcvt h d a ty sty rm) (x.map fun e =>
          if isFloat sty then (if isFloat ty then (fmtOf sty).conv (fmtOf ty) rm ftz e else (fmtOf sty).toIntTy rm ftz ty e)
          else if isFloat ty then (fmtOf ty).round rm ftz (FV.ofInt (intOf sty e)) else patOf (8 * ty.bytes) (saturate ty (intOf sty e))))
      ∧ (∀ o, s.operandsVec h false false = some o → ty ≠ .bx128 →
        s.vecRead h { a := opd a .ds8, d := opd d ty, counts := countsAll false false } o.p = .ok x y z locs s' touched →
        gives o (opd d ty) (.vcvt h d a ty .ds8 rm) (x.map fun e => (fmtOf ty).round rm ftz ((FV.ofInt (ds8Int e)).scale (-6))))
      ∧ (∀ o, s.operandsVec h true false = some o → -126 ≤ o.a.v.toInt → o.a.v.toInt ≤ 127 →
        (∀ v, s.vecRead h { a := opd a .f32, d := opd d .bx128, counts := countsAll false false, slotBad := v } o.p = .ok x y z locs s' touched →
          gives o (opd d .bx128) (.vcvt h d a .bx128 .f32 rm) (x.map (toBx ftz o.a.v.toInt)))
        ∧ (∀ v, s.vecRead h { a := opd a .bx128, d := opd d .f32, counts := countsAll false false, slotBad := v } o.p = .ok x y z locs s' touched →
          gives o (opd d .f32) (.vcvt h d a .f32 .bx128 rm) (x.map (ofBx rm ftz o.a.v.toInt))))
      ∧ (∀ o, s.operandsVec h true false = some o →
        s.vecRead h { a := opd a ty, d := opd d ty, counts := countsAll false false } o.p = .ok x y z locs s' touched →
        gives o (opd d ty) (.vscale h d a .slot ty rm) (x.map fun e => let g := fmtOf ty
          if g.isNan (g.flush ftz e) then g.quiet (g.flush ftz e)
          else g.round rm ftz ((g.value (g.flush ftz e)).scale (Max.max (-1024) (Min.min 1024 o.a.v.toInt)))))
      ∧ (∀ o, s.operandsVec h false false = some o →
        s.vecRead h { a := opd a ty, b := byte b, d := opd d ty, counts := fun na nb _ nd =>
          if na ≠ nd then some 0 else if nb ≠ (na + 31) / 32 then some 1 else none } o.p = .ok x y z locs s' touched →
        ∃ res : List Nat, gives o (opd d ty) (.vscale h d a (.shape b) ty rm) res ∧ res.length = x.length
          ∧ ∀ (j e : Nat), x[j]? = some e → res[j]? = some (scaleBy (fmtOf ty) rm ftz (y.getD (j / 32) 0) e))
      ∧ (∀ o, s.operandsVec h false false = some o →
        s.vecRead h { a := opd a (qntTy q), d := byte d, counts := fun na _ _ nd => if nd ≠ (na + 31) / 32 then some 3 else none } o.p
          = .ok x y z locs s' touched →
        ∃ res : List Nat, gives o (byte d) (.vqnt h d a .scales ty q rm) res ∧ res.length = (x.length + 31) / 32
          ∧ ∀ j, j < (x.length + 31) / 32 → res[j]? = some (scalePass (fmtOf (qntTy q)) ftz ty ((x.drop (32 * j)).take 32)))
      ∧ (∀ o, s.operandsVec h false false = some o →
        s.vecRead h { a := opd a (qntTy q), b := byte b, d := byte d, counts := fun na nb _ nd =>
          if na ≠ nd then some 0 else if nb ≠ (na + 31) / 32 then some 1 else none } o.p = .ok x y z locs s' touched →
        ∃ res : List Nat, gives o (byte d) (.vqnt h d a (.elements b) ty q rm) res ∧ res.length = x.length
          ∧ ∀ (j e : Nat), x[j]? = some e → res[j]? = some (elementPass (fmtOf (qntTy q)) ftz ty rm (y.getD (j / 32) 0) e)))

/-- R292, R181, R169, R170: for every operand whose elements pass their checks and are read, a reduction completes: it delivers one value and writes
nothing. Sums of integers are exact and delivered in 64 bits, or limited to the type with OPT; sums of floats are the FP32 total of 16 lanes folded by
the fixed tree, each VDOT step a fused multiply-add whose NaN is the first in iteration order, or with OPT that total rounded to the type. VRMAX, VRMIN
and VARGMX take the extreme element, -0 below +0, the lowest index among equals, and of floats the first NaN, quieted. That VARGMX quiets the NaN it
names is read by inference (log 22).
R293 to R295: VPERM takes the elements its indices name, 0 for an index at or above a's count; VGATH's elements are those its indices name, 0
outside; VSCAT writes a's elements in order at the places its indices name and delivers a's count; VJOIN merges two streams of keys and stops, with
bit 63 of its result set, when an output finds the destination full. -/
def Obligations.VectorReductionsAndMoves : Prop :=
  (∀ (h : Head) (a b : BitVec 3) (ty : Ty) (s : State) (o : Opnds) (f : Firing) (x y z : List Nat) (locs : List ELoc)
      (s' : State) (touched : Bool), s.operandsVec h false false = some o → s.here = some f →
      let g := fmtOf ty
      let ftz := f.fpmode.getLsbD 0
      let up (v : Nat) : Nat := g.conv fp32 .rne ftz v
      let w := 8 * ty.bytes
      let val (v : Nat) : Int := if ty.isI then (BitVec.ofNat w v).toInt else (BitVec.ofNat w v).toNat
      let lo : Int := if ty.isI then -(2 ^ (w - 1)) else 0
      let hi : Int := if ty.isI then 2 ^ (w - 1) - 1 else 2 ^ w - 1
      let ref : Option Ref := if touched then s'.refHere false else none
      let gives (i : Instr) (v : Word) : Prop := exec i s = .next (s'.fire h ⟨v, ref, none⟩ ⟨v, ref, none⟩)
      let word (v : Int) : Int := if ty.isI then (BitVec.ofInt 64 v).toInt else (BitVec.ofInt 64 v).toNat
      let sum (t : Nat) (i : Bool → Instr) : Prop :=
        gives (i false) (BitVec.ofNat 64 t) ∧ gives (i true) (BitVec.ofNat 64 (fp32.conv g .rne ftz t))
      let fl := x.map (g.flush ftz)
      let below (p q : Nat) : Bool := (g.value p).lt true (g.value q)
      (s.vecRead h { a := opd a ty, counts := fun _ _ _ _ => none } o.p = .ok x y z locs s' touched → x ≠ [] →
        (ty.isI ∨ ty.isW →
          gives (.vsum h a ty false) (BitVec.ofInt 64 (x.map val).sum)
          ∧ gives (.vsum h a ty true) (BitVec.ofInt 64 (Max.max lo (Min.min hi (word (x.map val).sum))))
          ∧ (∃ e ∈ x, (∀ p ∈ x, val p ≤ val e) ∧ gives (.vrmax h a ty) (if ty.isI then BitVec.ofInt 64 (val e) else BitVec.ofNat 64 e))
          ∧ (∃ e ∈ x, (∀ p ∈ x, val e ≤ val p) ∧ gives (.vrmin h a ty) (if ty.isI then BitVec.ofInt 64 (val e) else BitVec.ofNat 64 e))
          ∧ (∃ j e, x[j]? = some e ∧ (∀ p ∈ x, val p ≤ val e) ∧ (∀ i p, i < j → x[i]? = some p → val p < val e)
              ∧ gives (.vargmx h a ty) (BitVec.ofNat 64 (j * 2 ^ 32 + e))))
        ∧ (ty.isF →
          (∃ t, treeTotal ftz (fun j => laneTotal up (fun t v => fp32.add .rne ftz t (up v)) (laneOf x j)) = some t ∧ sum t (.vsum h a ty))
          ∧ (∀ j e, fl[j]? = some e → g.isNan e = true → (∀ i p, i < j → fl[i]? = some p → g.isNan p = false) →
              gives (.vrmax h a ty) (BitVec.ofNat 64 (g.quiet e)) ∧ gives (.vrmin h a ty) (BitVec.ofNat 64 (g.quiet e))
              ∧ gives (.vargmx h a ty) (BitVec.ofNat 64 (j * 2 ^ 32 + g.quiet e)))
          ∧ ((∀ p ∈ fl, g.isNan p = false) →
              (∃ j e, fl[j]? = some e ∧ (∀ p ∈ fl, below e p = false) ∧ (∀ i p, i < j → fl[i]? = some p → below p e = true)
                ∧ gives (.vrmax h a ty) (BitVec.ofNat 64 e) ∧ gives (.vargmx h a ty) (BitVec.ofNat 64 (j * 2 ^ 32 + e)))
              ∧ ∃ e ∈ fl, (∀ p ∈ fl, below p e = false) ∧ gives (.vrmin h a ty) (BitVec.ofNat 64 e))))
      ∧ (s.vecRead h { a := opd a ty, b := opd b ty, counts := fun na nb _ _ => if nb != na then some 1 else none } o.p = .ok x y z locs s' touched →
        x ≠ [] → y.length = x.length →
        (ty.isI ∨ ty.isW → gives (.vdot h a b ty false) (BitVec.ofInt 64 (List.zipWith (fun p q => val p * val q) x y).sum)
          ∧ gives (.vdot h a b ty true) (BitVec.ofInt 64 (Max.max lo (Min.min hi (word (List.zipWith (fun p q => val p * val q) x y).sum)))))
        ∧ (ty.isF →
          let fma (t p q : Nat) : Nat := match ([t, p, q].map (fp32.flush ftz)).find? fp32.isNan with
            | some e => fp32.quiet e
            | none => fp32.round .rne ftz (((fp32.value (fp32.flush ftz p)).mul (fp32.value (fp32.flush ftz q))).add .rne (fp32.value (fp32.flush ftz t)))
          ∃ t, treeTotal ftz (fun j => laneTotal (fun c => fp32.mul .rne ftz (up c.1) (up c.2)) (fun t c => fma t (up c.1) (up c.2)) (laneOf (x.zip y) j))
              = some t ∧ sum t (.vdot h a b ty))))
  ∧ (∀ (h : Head) (d a b : BitVec 3) (ty : Ty) (s : State) (o : Opnds) (x y z : List Nat) (locs : List ELoc)
      (s' : State) (touched : Bool), s.operandsVec h false false = some o →
      let ra := (s.task s.cur.task).shape a.toNat
      let rd := (s.task s.cur.task).shape d.toNat
      let n := shCount rd
      let named (r : Row) (i : Nat) : Nat := (((shBase r : Int) + i * shStr r 0) % 2 ^ 64).toNat
      (s.vecRead h { a := opd a ty, b := opdAny b, d := opd d ty, counts := fun _ nb _ nd => if nb ≠ nd then some 1 else none
                     limit := fun ra _ => if 64 < shCount ra * shEsz ra then some 0 else none } o.p = .ok x y z locs s' touched →
        exec (.vperm h d a b ty) s =
          .next (s'.writeVec h (opd d ty) locs ((y.map fun i => if i < x.length then x.getD i 0 else 0).map some) (BitVec.ofNat 64 n) touched o.p))
      ∧ (s.vecRead h { kind := .gather, a := opd a ty, b := opdAny b, d := opd d ty, counts := fun _ nb _ nd => if nb ≠ nd then some 1 else none
                       limit := fun ra _ => if shDims ra ≠ 1 then some 0 else none } o.p = .ok x y z locs s' touched →
        exec (.vgath h d a b ty) s = .next (s'.writeVec h (opd d ty) locs (x.map some) (BitVec.ofNat 64 n) touched o.p)
        ∧ (s.vwork = {} → ∀ j i : Nat, y[j]? = some i →
            (shExt ra 0 ≤ i → x[j]? = some 0)
            ∧ (i < shExt ra 0 → ∃ l, s.elemCheck ra (named ra i) .read = .ok l
                ∧ ∀ k : Nat, l = .mem k none → x[j]? = some (natOfBytes ((keysOf k (shEsz ra)).map (s.readByte s.cur.task s.cur.which s.cur.idx))))))
      ∧ (s.vecRead h { kind := .scatter, a := opd a ty, b := opdAny b, d := opd d ty, counts := fun na nb _ _ => if na ≠ nb then some 1 else none
                       limit := fun _ rd => if shDims rd ≠ 1 then some 3 else none } o.p = .ok x y z locs s' touched →
        exec (.vscat h d a b ty) s = .next (s'.writeVec h (opd d ty) locs (x.map some) (BitVec.ofNat 64 x.length) touched o.p)
        ∧ (s.vwork = {} → ∀ j i : Nat, y[j]? = some i →
            (shExt rd 0 ≤ i → locs[j]? = some ELoc.nowhere)
            ∧ (i < shExt rd 0 → ∃ l, locs[j]? = some l ∧ s.elemCheck rd (named rd i) .write = .ok l)))
      ∧ (s.vecRead h { a := some ⟨a.toNat, [8]⟩, b := some ⟨b.toNat, [8]⟩, d := some ⟨d.toNat, [16]⟩ } o.p = .ok x y z locs s' touched →
        ∀ outer, ∃ l, Joins outer x y l ∧ exec (.vjoin h d a b outer) s = .next (s'.writeVec h (some ⟨d.toNat, [16]⟩) locs ((l.take n).map some)
          (BitVec.ofNat 64 (Min.min l.length n + if n < l.length then 2 ^ 63 else 0)) touched o.p)))

/-- R333, R334, R337, R338, R341: a copy instruction whose shapes, operand word and follow-on pass the checks, with an entry free in each queue it
needs, fires with its command waiting for the commit. -/
def Obligations.CopiesAreIssued : Prop :=
  ∀ (h : Head) (tl : BitVec 4) (cx : BitVec 2) (ty : Ty) (start follow : Bool) (mask : BitVec 4) (s : State) (f : Firing) (o : Opnds),
    s.here = some f → s.operandsEng h true follow start = some o → s.engRoom s.cur.task.tile cx.toNat = true →
    let k := s.task s.cur.task
    let w := o.a.v
    let bit (lo n : Nat) : Nat := (w.extractLsb' lo n).toNat
    let d := k.shape (bit 0 3)
    let a := k.shape (bit 3 3)
    let x := k.shape (bit 6 3)
    let sc := k.shape (bit 23 3)
    let fty := Ty.ofBits (BitVec.ofNat 4 (bit 19 4))
    ∀ fol : Option Follow,
    (follow = false ∧ fol = none ∧ bit 13 21 = 0)
      ∨ (follow = true ∧ s.engRoom s.cur.task.tile 4 = true ∧ shSpace d = .ts ∧ mask.getLsbD (s.cur.task.tile % 4) = true
          ∧ ((bit 13 1 = 0 ∧ aShapeOk d (bit 26 1 == 1) = true ∧ bit 23 3 = 0 ∧ bit 27 7 + shExtRaw d 1 ≤ 128 ∧ o.b.v.toNat < 2 ^ 16
              ∧ ∃ t, fty = some t ∧ (t = .i8 ∨ t = .e4m3 ∧ bit 26 1 = 0)
                ∧ fol = some (.mma (bit 14 2) (bit 16 3) t (bit 26 1 == 1) (bit 27 7) o.b.v.toNat))
            ∨ (bit 13 1 = 1 ∧ bShapeOk d = true ∧ bit 14 2 = 0 ∧ bit 26 8 = 0 ∧ o.b.v = 0
              ∧ ∃ t, fty = some t ∧ (t = .i8 ∧ bit 23 3 = 0 ∨ (t = .e4m3 ∨ t = .ds8) ∧ EngineShape sc 1 ∧ bScaleOk sc = true)
                ∧ fol = some (.mldb (bit 16 3) t sc)))) →
    EngineShape d ty.bytes → EngineShape a ty.bytes → (mask ≠ 0 → shSpace d = .ts) → bit 34 30 = 0 → (start = false → bit 9 4 = 0) →
    let issued (i : Instr) (form : Nat) (x : Row) : Prop := ∃ t, exec i s = .next t
      ∧ Issues s t f cx.toNat (.copy form d a x ty mask.toNat (if start then some (bit 9 4, o.c.v.toNat) else none) fol) tl.toNat o.p
    (bit 6 3 = 0 → shCount a = shCount d → issued (.cpy h tl cx ty start follow mask) 0 0)
    ∧ (bit 6 3 = 0 → shCount a = shCount d → shDims d = 2 → shDims a = 2 → shExtRaw d 0 = shExtRaw a 1 → shExtRaw d 1 = shExtRaw a 0 →
        issued (.cpyt h tl cx ty start follow mask) 1 0)
    ∧ ∀ n, n = 1 ∨ n = 2 ∨ n = 4 ∨ n = 8 → EngineShape x n →
        (shDims a = 1 → shCount x = shCount d → issued (.cpyg h tl cx ty start follow mask) 2 x)
        ∧ (shDims d = 1 → shCount x = shCount a → issued (.cpys h tl cx ty start follow mask) 3 x)

/-- R333, R344 to R350: the matrix instructions whose checks pass, with an entry free, fire with their command waiting for the commit (MACCLR takes no
entry); MACRD reads at once when no command of the queue names its accumulator, and otherwise waits for those that do; MACPK reads at once. A MACCLR
mode of 2 or more and an element of 16,384 or more are ADDR_RANGE. That MACCLR counts for no entry of the queue is the model's choice (log 36).
R342, R343: CPYSUS and CPYRES act at the commit. CPYRES of another tile needs the trap operator (PRIV), a unit and a tile that exist (ADDR_RANGE). -/
def Obligations.MatrixInstructions : Prop :=
  (∀ (h : Head) (tl : BitVec 4) (acc : BitVec 2) (m : BitVec 3) (ty : Ty) (s : State) (f : Firing), s.here = some f →
      let k := s.task s.cur.task
      let tile := s.cur.task.tile
      let issued (i : Instr) (op : EngOp) (tl : Nat) (p : SlotVal) : Prop := ∃ t, exec i s = .next t ∧ Issues s t f 4 op tl p
      (∀ o, s.operandsEng h true false false = some o → s.engRoom tile 4 = true →
        let r (lo : Nat) := k.shape (o.a.v.extractLsb' lo 3).toNat
        (EngineShape (r 0) 1 → bShapeOk (r 0) = true → o.a.v.extractLsb' 6 58 = 0 →
          (ty ≠ .i8 → EngineShape (r 3) 1 ∧ bScaleOk (r 3) = true) → (ty = .i8 → o.a.v.extractLsb' 3 3 = 0) →
          issued (.mldb h tl m ty) (.mldb m.toNat ty (r 0) (r 3)) tl.toNat o.p)
        ∧ (EngineShape (r 0) 4 → shDims (r 0) = 2 → shExtRaw (r 0) 0 = 128 → shStrRaw (r 0) 0 = 4 → shExtRaw (r 0) 1 ≤ 128 →
          shStrRaw (r 0) 1 % 64 = 0 → shBase (r 0) % 64 = 0 → o.a.v.extractLsb' 3 1 = 0 → o.a.v.extractLsb' 11 53 = 0 →
          (o.a.v.extractLsb' 4 7).toNat + shExtRaw (r 0) 1 ≤ 128 →
          issued (.macst h tl acc) (.macst acc.toNat (o.a.v.extractLsb' 4 7).toNat (r 0)) tl.toNat o.p))
      ∧ (∀ o, s.operandsEng h true true false = some o → s.engRoom tile 4 = true → o.b.v.toNat < 2 ^ 16 →
        let r := k.shape (o.a.v.extractLsb' 0 3).toNat
        let a4 := o.a.v.getLsbD 3
        (EngineShape r 1 → shCount r % 4 = 0 → shCount r ≤ 512 → o.a.v.extractLsb' 5 59 = 0 →
          issued (.mscl h tl) (.mscl r (o.a.v.extractLsb' 3 2).toNat o.b.v.toNat) tl.toNat o.p)
        ∧ (EngineShape r 1 → shSpace r ≠ .gl → aShapeOk r a4 = true → o.a.v.extractLsb' 11 53 = 0 → (a4 = true → ty = .i8) →
          (o.a.v.extractLsb' 4 7).toNat + shExtRaw r 1 ≤ 128 →
          issued (.mma h tl acc m ty) (.mma acc.toNat m.toNat ty r a4 (o.a.v.extractLsb' 4 7).toNat o.b.v.toNat) tl.toNat o.p))
      ∧ (∀ o, s.operandsEng h true false false = some o →
        (o.a.v.toNat < 2 → issued (.macclr h acc) (.macclr acc.toNat o.a.v.toNat) 0 (plain 0))
        ∧ (2 ≤ o.a.v.toNat → exec (.macclr h acc) s = .next (s.fireFault { code := .addrRange })))
      ∧ (∀ o, s.operandsStore h true false false = some o →
        let elem : Word := ((s.accum tile acc.toNat).word o.a.v.toNat)
        let waits := ((s.tile tile).matrix.filter fun c => c.op.accOf == some acc.toNat).map (·.id)
        (o.a.v.toNat < 16384 → exec (.macpk h acc) s = .next (s.fire1 h elem))
        ∧ (o.a.v.toNat < 16384 → waits = [] → exec (.macrd h acc) s = .next (s.fire1 h elem))
        ∧ (o.a.v.toNat < 16384 → waits ≠ [] →
            ∃ t, exec (.macrd h acc) s = .next t ∧ Sends s t f (.macrd acc.toNat o.a.v.toNat waits) 0 0 none)
        ∧ (16384 ≤ o.a.v.toNat → exec (.macrd h acc) s = .next (s.fireFault { code := .addrRange })
            ∧ exec (.macpk h acc) s = .next (s.fireFault { code := .addrRange }))))
  ∧ (∀ (h : Head) (cx : BitVec 2) (s : State) (f : Firing), s.here = some f →
      (∀ o, s.operandsEng h false false false = some o → ∃ t, exec (.cpysus h cx) s = .next t ∧ Defers s t f (.cpysus cx.toNat))
      ∧ (∀ o, s.operandsEng h true true false = some o →
        let unit := (o.a.v.extractLsb' 0 2).toNat
        let own := o.b.v.toNat = s.cur.task.tile ∨ s.isTrapTask s.cur.task = true
        (own → unit ≠ 3 → o.a.v.extractLsb' 3 61 = 0 → s.tileEnabled o.b.v.toNat = true →
          ∃ t, exec (.cpyres h cx) s = .next t
            ∧ Defers s t f (.cpyres (if unit = 0 then 0 else unit + 3) cx.toNat o.b.v.toNat (o.a.v.getLsbD 2)))
        ∧ (¬ own → exec (.cpyres h cx) s = .next (s.fireFault { code := .priv }))
        ∧ (own → unit = 3 ∨ s.tileEnabled o.b.v.toNat = false → exec (.cpyres h cx) s = .next (s.fireFault { code := .addrRange }))))

/-- R353 to R360, R410: a Canopy instruction of class L that writes eN leaves its result in the block's working copy, or is the fault of its checks; a
lost register is ENGINE_FAULT cause 22. No committed envelope changes before the commit.
The results, over the rational numbers and up to 256 lines: CNCLR's empty register; the upper envelope of CNFEED and CNMAX, over every point of the domain;
CNSUM's pieces at every point; the segments that the infimal convolution emits; the lines of the conjugate; and the loop of Simplify. CNSIMP's register as
it stands, FTZ or not, and the signs of zeros, are read by inference (log 22). -/
def Obligations.CanopyWrites : Prop :=
  (∀ (h : Head) (e m : BitVec 3) (s : State) (f : Firing), s.here = some f → f.canopy = [] →
    let tile := s.cur.task.tile
    let ftz := f.fpmode.getLsbD 0
    let x := s.env tile e.toNat
    let y := s.env tile m.toNat
    let leaves (i : Instr) (r : Except FCode Env) : Prop := match r with
      | .ok v => ∃ t g, exec i s = .next t ∧ t.here = some g ∧ g.fired = s.cur.idx :: f.fired ∧ g.canopy.find e.toNat = some (v, true)
          ∧ { g with fired := f.fired, canopy := f.canopy, cnBy := f.cnBy } = f ∧ BlockFrame s t ∧ (∀ n, (t.tile n).envs = (s.tile n).envs)
          ∧ { t with tasks := s.tasks, elems := s.elems, tiles := s.tiles } = s
      | .error c => ∃ t : State, exec i s = .next (t.fireFault { code := c }) ∧ { t with tasks := s.tasks } = s
    (∀ o, s.operandsCn h true true = some o →
      leaves (.cnclr h e) (cnClear ftz (o.a.v.setWidth 32) (o.b.v.setWidth 32))
      ∧ (x.lost = false → leaves (.cnfeed h e)
          (cnFeed ftz f.cntol (x.flushed ftz) (o.a.v.setWidth 32) ((o.a.v >>> 32).setWidth 32) (o.b.v.setWidth 16))))
    ∧ (∀ o, s.operandsCn h false false = some o →
      (x.lost = false → leaves (.cnconj h e) (cnConj ftz f.cntol (x.flushed ftz))
        ∧ leaves (.cnsimp h e) (.ok { x with segs := simplify ftz (tolerance ftz f.cntol) x.segs }))
      ∧ (x.lost = false → y.lost = false →
        leaves (.cnmax h e m) (cnMax ftz f.cntol (x.flushed ftz) (y.flushed ftz))
        ∧ leaves (.cnsum h e m) (cnSum ftz f.cntol (x.flushed ftz) (y.flushed ftz))
        ∧ leaves (.cninf h e m) (cnInf ftz f.cntol (x.flushed ftz) (y.flushed ftz)))
      ∧ (x.lost = true → ∃ t : State, { t with tasks := s.tasks } = s
        ∧ ∀ i ∈ [Instr.cnconj h e, .cnsimp h e], exec i s = .next (t.fireFault { code := .engineFault, cause := 22 }))))
  ∧ (∀ (ftz : Bool) (lo hi : BitVec 32), let v : Env := { xlo := flush32 ftz lo, xhi := flush32 ftz hi, segs := [], lost := false }
      (DomainOk v → cnClear ftz lo hi = .ok v) ∧ (¬ DomainOk v → cnClear ftz lo hi = .error .addrRange))
  ∧ (∀ (ftz : Bool) (tol slope icpt : BitVec 32) (tag : BitVec 16) (e : Env), DomainOk e → LinesOk e.segs → e.segs.length < 256 →
      let made := cnFeed ftz tol e slope icpt tag
      ((f32 slope).finite = false ∨ (f32 icpt).finite = false → made = .error .addrRange)
      ∧ ((f32 slope).finite = true → (f32 icpt).finite = true →
          ((f32 e.xlo).finite = false ∨ (f32 e.xhi).finite = false → ∃ v, made = .ok v)
          ∧ ∀ v, made = .ok v → v.xlo = e.xlo ∧ v.xhi = e.xhi ∧ IsUpper ftz (e.segs ++ [⟨flush32 ftz slope, flush32 ftz icpt, tag, 0⟩]) v))
  ∧ (∀ (ftz : Bool) (tol : BitVec 32) (e m : Env), DomainOk e → DomainOk m → LinesOk (e.segs ++ m.segs) → (e.segs ++ m.segs).length ≤ 256 →
      (Min.min (numberOf (f32 e.xhi)) (numberOf (f32 m.xhi)) < Max.max (numberOf (f32 e.xlo)) (numberOf (f32 m.xlo)) →
        cnMax ftz tol e m = .error .addrRange ∧ cnSum ftz tol e m = .error .addrRange)
      ∧ (∀ v, cnMax ftz tol e m = .ok v → MeetsDomains e m v ∧ IsUpper ftz (e.segs ++ m.segs) v)
      ∧ (∀ v, EnvOk e → EnvOk m → cnSum ftz tol e m = .ok v → MeetsDomains e m v ∧ (e.segs = [] ∨ m.segs = [] → v.segs = []) ∧ IsSum ftz e m v)
      ∧ ((f32 e.xlo).finite = false ∨ (f32 e.xhi).finite = false ∨ (f32 m.xlo).finite = false ∨ (f32 m.xhi).finite = false →
          cnInf ftz tol e m = .error .addrRange)
      ∧ (∀ v, EnvOk e → EnvOk m → cnInf ftz tol e m = .ok v → Rounds ftz v.xlo (r32 e.xlo + r32 m.xlo) ∧ Rounds ftz v.xhi (r32 e.xhi + r32 m.xhi)
          ∧ (e.segs = [] ∨ m.segs = [] → v.segs = [])
          ∧ ∀ i j g k, Covers e i (r32 e.xlo) g → Covers m j (r32 m.xlo) k → ∃ l out,
              Merges (lengthsOf (r32 e.xlo) e.segs) (lengthsOf (r32 m.xlo) m.segs) l
              ∧ Emits ftz (r32 e.xlo + r32 m.xlo) (lineAt g (r32 e.xlo) + lineAt k (r32 m.xlo)) l out ∧ JoinsEqual out v.segs))
  ∧ (∀ (ftz : Bool) (tol : BitVec 32) (e : Env), EnvOk e →
      (e.segs = [] → cnConj ftz tol e = .error .addrRange)
      ∧ (∀ g l, e.segs = g :: l → conjOf e = [] → ∃ v, cnConj ftz tol e = .ok v ∧ v.xlo = g.slope ∧ v.xhi = g.slope
          ∧ ∃ q, v.segs = [q] ∧ r32 q.slope = 0 ∧ r32 q.icpt = -r32 g.icpt ∧ q.tag = g.tag ∧ q.right = g.slope)
      ∧ (conjOf e ≠ [] → (conjOf e).length ≤ 256 → ∀ v, cnConj ftz tol e = .ok v → IsConj ftz e v)
      ∧ Simplifies ftz (tolOf ftz tol) e.segs (simplify ftz (tolerance ftz tol) e.segs))

/-- R359, R361: CNEVAL, CNMIN and CNINFO deliver what they read of the working copy, CNMIN at the left end of the first segment whose slope is not negative,
or at xhi; CNINFO gives the fields as they stand, FTZ or not (log 22). CNLD and CNST with a shape that passes the checks fire with their
command waiting for the commit. -/
def Obligations.CanopyReads : Prop :=
  ∀ (h : Head) (tl : BitVec 4) (e : BitVec 3) (s : State) (f : Firing), s.here = some f →
    let tile := s.cur.task.tile
    let ftz := f.fpmode.getLsbD 0
    let x := s.env tile e.toNat
    let v := x.flushed ftz
    let gives (i : Instr) (r : Word) : Prop :=
      ∃ t : State, exec i s = .next (t.fire1 h r) ∧ { t with tasks := s.tasks, tiles := s.tiles } = s ∧ ∀ n, (t.tile n).envs = (s.tile n).envs
    (f.canopy = [] → x.lost = false →
      (∀ o, s.operandsCn h true false = some o →
        gives (.cneval h e) (cnEval ftz v (o.a.v.setWidth 32))
        ∧ (o.a.v = 0 → gives (.cninfo h e) (BitVec.ofNat 64 x.segs.length))
        ∧ (o.a.v = 1 → gives (.cninfo h e) (x.xhi ++ x.xlo))
        ∧ (∀ i g, i < 256 → x.segs[i]? = some g →
            (o.a.v.toNat = 0x100 + i → gives (.cninfo h e) (g.icpt ++ g.slope))
            ∧ (o.a.v.toNat = 0x200 + i → gives (.cninfo h e) ((g.tag ++ g.right).setWidth 64))))
      ∧ (∀ o, s.operandsCn h false false = some o →
        (x.segs = [] → gives (.cnmin h e) ((0xFF800000 : BitVec 32) ++ v.xlo))
        ∧ (x.segs ≠ [] → ∃ p, gives (.cnmin h e) ((cnEval ftz v p).setWidth 32 ++ p)
            ∧ (∀ i g, v.segs[i]? = some g → LinesOk v.segs → 0 ≤ r32 g.slope →
                (∀ j k, j < i → v.segs[j]? = some k → r32 k.slope < 0) →
                (i = 0 → p = v.xlo) ∧ ∀ k, 0 < i → v.segs[i - 1]? = some k → p = k.right)
            ∧ (LinesOk v.segs → (∀ g ∈ v.segs, r32 g.slope < 0) → p = v.xhi))))
    ∧ (∀ o, s.operandsEng h true false false = some o → s.engRoom tile 5 = true → o.a.v.extractLsb' 3 61 = 0 →
      let r := (s.task s.cur.task).shape (o.a.v.extractLsb' 0 3).toNat
      EngineShape r 16 → shDims r = 1 → shStrRaw r 0 = 16 → shBase r % 64 = 0 →
        (∃ t, exec (.cnld h tl e) s = .next t ∧ Issues s t f 5 (.cnld e.toNat r) tl.toNat o.p)
        ∧ (∃ t, exec (.cnst h tl e) s = .next t ∧ Issues s t f 5 (.cnst e.toNat r) tl.toNat o.p))

/-- R215, R221, R244, R245, R364: the fetch: a block that passes the checks becomes the task's youngest block in flight, with nothing fired and
nothing arrived; it samples its element's copies of csr.fpmode and csr.cntol, which are the context's values, or, where no block of the task is in
flight, may be the values before their last write (which of the two is read by inference: log 26); an illegal word is ILLEGAL_OP at its index, and the block, fetched alone, parks its task having
fired nothing.
R190, R212: an overlay block that stands in the element's instruction store is fetched from it, and is its most recently used one. -/
def Obligations.BlocksAreFetched : Prop :=
  ∀ (s : State) (u : TaskRef) (addr : Nat), s.cur.work = some (.blockFetch u) → (s.task u).fetch = some addr → s.mayFetch u = true →
    (∀ x ∈ s.bad, x < 2 ^ 64) →
    let k := s.task u
    let b := k.blockAt addr
    let c := s.ctx k.ctx
    let e := elemOf u
    let copy := (s.elem e).modes.get k.ctx (c.fpmode, c.cntol)
    ((∀ x, s.taskCfg u = some x → x.overlayAt addr = none) → fetchFault k.waved k.sh b.1 b.2 = none →
      ∃ t f, exec .blockFetch s = .next t ∧ (t.task u).flights = k.flights ++ [f] ∧ f.addr = addr ∧ f.hdr = b.1 ∧ f.words = b.2 ∧ f.fired = []
        ∧ f.slots = [] ∧ f.preds = [] ∧ f.regs = [] ∧ f.stores = [] ∧ f.fault = none ∧ f.serial = s.nextId
        ∧ (f.fpmode = c.fpmode ∨ k.flights = [] ∧ copy.1 = c.old.1 ∧ f.fpmode = copy.1)
        ∧ (f.cntol = c.cntol ∨ k.flights = [] ∧ copy.2 = c.old.2 ∧ f.cntol = copy.2)
        ∧ (t.elem e).modes.get k.ctx (0, 0) = (f.fpmode, f.cntol) ∧ (t.task u).fetch = none
        ∧ { t.task u with flights := k.flights, fetch := k.fetch, refire := k.refire, seq := k.seq } = k
        ∧ (∀ v, v ≠ u → t.task v = s.task v) ∧ (∀ x, { t.elem x with modes := (s.elem x).modes } = s.elem x)
        ∧ { t with tasks := s.tasks, elems := s.elems, nextId := s.nextId } = s)
    ∧ (∀ x len page, s.taskCfg u = some x → x.overlayAt addr = some (len, page) → (u.slot, addr) ∈ (s.elem e).overlays →
        fetchFault k.waved k.sh b.1 b.2 = none →
      ∃ t f, exec .blockFetch s = .next t ∧ (t.task u).flights = k.flights ++ [f] ∧ f.addr = addr ∧ f.words = b.2 ∧ f.fired = []
        ∧ (t.elem e).overlays = (s.elem e).overlays.erase (u.slot, addr) ++ [(u.slot, addr)])
    ∧ (∀ i, (∀ x, s.taskCfg u = some x → x.overlayAt addr = none) → illegalAt b.2 = some i → k.flights = [] → (∀ q ∈ s.reqs, q.serial ≠ s.nextId) →
      ∃ t f r, exec .blockFetch s = .next t ∧ (t.task u).phase = .parked ∧ (t.task u).flights = [] ∧ (t.task u).parked = some (f, r)
        ∧ f.addr = addr ∧ f.words = [] ∧ r.code = .illegalOp ∧ r.index = i ∧ r.handle = s.handle u ∧ (t.task u).regs = k.regs
        ∧ t.mem = s.mem ∧ t.l2mem = s.l2mem ∧ t.hostmem = s.hostmem)

/-- R216, R217, R241: the commit of a block that branches to another block, has no effect that waits for the commit but its registers and at most one
local store, and has nothing outstanding: each register of a value product is full with it, each null product and each other register keeps what it
held; each byte stored reads as the last cell that names it, every other byte as before. A quiescent block that has not all its products parks its
task instead, and nothing of it is committed. The detail of the record is the model's choice where it names no register or store (log 26), and so is
what must come before the commit (log 25). -/
def Obligations.BlocksCommitWhole : Prop :=
  ∀ (s : State) (u : TaskRef) (f : Firing),
    let k := s.task u
    (s.cur.work = some (.blockCommit u) → s.mayCommit u = true → k.flights = [f] → MemoryOk s → f.defer = [] → f.vt = [] → f.canopy = [] →
      (∃ a, f.branch = some (.block a)) → k.waved = false → (∀ q ∈ s.reqs, q.task ≠ some u) → f.stores.length ≤ 1 →
      (∀ r ∈ f.stores, r.idx < f.words.length ∧ r.lines = [] ∧ r.chan = [] ∧ r.wait = none ∧ ∀ c ∈ r.bytes, isGl c.1 = false) →
      (∀ n v, f.regs.find n = some (.value v) → v.tok = none) →
      ∃ t, exec .blockCommit s = .next t ∧ (t.task u).flights = [] ∧ (t.task u).replay = []
        ∧ (∀ n x, k.regs[n]? = some x → (t.task u).regs[n]? = some (match f.regs.find n with
          | some (.value v) => { v := v.v, full := true }
          | _ => x))
        ∧ (∀ key, t.byte key = (lastWrite (f.stores.flatMap (·.bytes)) key none).getD (s.byte key))
        ∧ (t.task u).sh = k.sh ∧ (t.task u).vt = k.vt ∧ (t.task u).fetch = k.fetch ∧ (t.task u).phase = k.phase
        ∧ (t.elem (elemOf u)).blocks = (s.elem (elemOf u)).blocks + 1)
    ∧ (∀ r, s.cur.work = some (.blockQuiescentFault u) → s.quiescentFault u = some r → k.flights.head? = some f →
      (∀ i ∈ f.issued, i ∈ f.fired) →
      ∃ t g p, exec .blockQuiescentFault s = .next t ∧ (t.task u).phase = .parked ∧ (t.task u).parked = some (g, p) ∧ g.addr = f.addr
        ∧ p.code = r.code ∧ p.index = r.index ∧ p.detail = r.detail ∧ p.stamp = k.stamp ∧ (t.task u).regs = k.regs ∧ (t.task u).sh = k.sh
        ∧ (t.task u).vt = k.vt ∧ t.mem = s.mem ∧ t.l2mem = s.l2mem ∧ t.hostmem = s.hostmem)

/-- R200, R201, R212, R420: an element starts the activation its order names first: the task is Active, every register empty, the entry block to be
fetched. A task passed over for 4,096 cycles is promoted. A task's binding that its bed's configuration cache holds enters the store and frees the task to match
messages, what pends on it having waited since now; a fill of that cache that faults fails the launch. The entry block's address, 0, is read by inference (log 27). -/
def Obligations.ActivationsStart : Prop :=
  ∀ (s : State) (u : TaskRef),
    let k := s.task u
    (∀ e a, s.cur.work = some (.activationStart e) → s.mayStartOn e = true → s.nextReady e = some u → firstPending k.pending = some a →
      ∃ t, exec .activationStart s = .next t ∧ (t.task u).phase = .active ∧ (t.task u).act = some a ∧ (t.task u).pending = k.pending.erase a
        ∧ (∀ r ∈ (t.task u).regs, r.full = false) ∧ (t.task u).regs.length = 32 ∧ (t.task u).fetch = some 0 ∧ (t.task u).replay = []
        ∧ (t.task u).sh = k.sh ∧ (t.task u).vt = k.vt ∧ (t.task u).seq = 0 ∧ (t.elem e).last = u.slot ∧ (∀ v, v ≠ u → t.task v = s.task v)
        ∧ { t with tasks := s.tasks, elems := s.elems } = s)
    ∧ (s.cur.work = some (.taskPromote u) → k.phase = .ready → k.promoted = none → (∃ a ∈ k.pending, a.since + 4096 ≤ s.cycle) →
      ∃ t, exec .taskPromote s = .next t ∧ (t.task u).promoted.isSome ∧ { t.task u with promoted := none } = k
        ∧ (∀ v, v ≠ u → t.task v = s.task v) ∧ { t with tasks := s.tasks } = s)
    ∧ (s.cur.work = some (.bindingFill u) → u.slot ∉ (s.elem (elemOf u)).bound → (s.elem (elemOf u)).bound.length < 16 →
      (s.elem (elemOf u)).unmatched = [] → (∀ x ∈ s.bad, x < 2 ^ 64) →
      (∀ c, s.taskCfg u = some c → c.page ∈ s.cfgCache.get (bedOf u.tile) []) →
      ∃ t, exec .bindingFill s = .next t ∧ (t.elem (elemOf u)).bound = (s.elem (elemOf u)).bound ++ [u.slot]
        ∧ (t.task u).phase = (if k.phase = .unbound then (if k.pending = [] then .idle else .ready) else k.phase)
        ∧ (t.task u).pending = (if k.phase = .unbound then k.pending.map fun (a : Activation) => { a with since := s.cycle } else k.pending)
        ∧ { t.task u with phase := k.phase, pending := k.pending } = k ∧ (∀ v, v ≠ u → t.task v = s.task v)
        ∧ { t with tasks := s.tasks, elems := s.elems, cfgCache := s.cfgCache } = s)
    ∧ (∀ code x, s.cur.work = some (.bindingFill u) → u.slot ∉ (s.elem (elemOf u)).bound → (s.elem (elemOf u)).bound.length < 16 →
      s.fillBinding u = (some code, x) → exec .bindingFill s = .next (x.complete (x.task u).launch 2 code.num))

/-- R241, R364, R432, R270, R330, R367, R322, R140: results come: one that its home has made sets out to the tile that asked; one that has come there, to
the targets of a block still in flight, or of a committed block to the registers that wait for it, its element's copies of csr.fpmode and csr.cntol
being then the context's values (log 26);
a draw of an element takes the next number of its interval, or splits the largest interval of its operator when its own is spent, or gives all ones
when it is closed and spent; a stage queue's oldest waiter gets its oldest value, or CLOSED, once the writes of the putting or closing block are
performed; a sleep ends with its count, or at a drain marker with
the cycles waited; a timeline wait past its limit gives the value and TIMEOUT; a completed number raises its timeline. -/
def Obligations.ResultsArrive : Prop :=
  ∀ (s : State) (id : Nat) (r : Req) (u : TaskRef), s.req id = some r → r.task = some u →
    let k := s.task u
    let open_ := r.answer = none ∧ s.replyOk r = true ∧ ∀ c ∈ s.combines, c.merged ≠ id
    (∀ a, s.cur.work = some (.longLatencyResult id) → r.answer = some a → r.returned = false → s.replyBefore r = false →
      ∃ t p, exec .longLatencyResult s = .next t ∧ p ∈ t.packets ∧ p.net = 1 ∧ p.payload = .reply id ∧ p.dest = routerOf u.tile
        ∧ p.src = (if r.link.isSome then rootB else s.homeRouter r.loc r.atAgent) ∧ Work.packetAccept p.id ∈ t.agenda
        ∧ { t with packets := s.packets, nextId := s.nextId, agenda := s.agenda } = s)
    ∧ (∀ a, s.cur.work = some (.longLatencyResult id) → r.answer = some a → r.returned = true → s.replyBefore r = false → r.isStore = false →
      (∀ f ∈ k.flights, f.serial ≠ r.serial) →
      ∃ t : State, exec .longLatencyResult s = .next t ∧ t.req id = none
        ∧ (∀ (n : Nat) x, k.regs[n]? = some x → (t.task u).regs[n]? = some (if x.due = some (.result id false) then { v := a.r0, full := true }
            else if x.due = some (.result id true) then { v := a.r1, full := true } else x))
        ∧ { t.task u with regs := k.regs } = k ∧ (∀ v, v ≠ u → t.task v = s.task v)
        ∧ (t.elem (elemOf u)).modes.get r.ctx (0, 0) = ((s.ctx r.ctx).fpmode, (s.ctx r.ctx).cntol)
        ∧ (∀ e, { t.elem e with modes := (s.elem e).modes } = s.elem e) ∧ { t with tasks := s.tasks, reqs := s.reqs, elems := s.elems } = s)
    ∧ (∀ a f w h x, s.cur.work = some (.longLatencyResult id) → r.answer = some a → r.returned = true → s.replyBefore r = false → r.eng = none →
        a.fail = none → k.flights = [f] → f.serial = r.serial →
        f.fault = none → (∃ n sx, r.op = .load n sx) → f.words[r.idx]? = some w → decodeHead w = .ok h → h.t0 = some x → h.t1 = none →
        f.slots.find (slotOf x) = none →
      ∃ t g, exec .longLatencyResult s = .next t ∧ (t.task u).flights = [g] ∧ t.req id = none
        ∧ g.slots.find (slotOf x) = some ⟨a.r0, some ⟨f.serial, r.idx, false⟩, none⟩
        ∧ (∀ n, n ≠ slotOf x → g.slots.find n = f.slots.find n) ∧ { g with slots := f.slots } = f ∧ { t.task u with flights := k.flights } = k)
    ∧ (∀ l c, s.cur.work = some (.rnextServe id) → open_ → (∀ f ∈ k.flights, r.serial ≤ f.serial) → s.loadOf u = some l → s.taskCfg u = some c →
      let drawn (v : Word) (rs : List (Nat × Nat × Nat × Nat × Bool)) : Prop := ∃ t : State, exec .rnextServe s = .next t
        ∧ Answered t id { r0 := v, r1 := v } ∧ (t.loadOf u).map (·.ranges) = some rs ∧ t.tasks = s.tasks ∧ t.mem = s.mem
      ∀ (lo hi : Nat) (closed : Bool), (l.ranges = [(c.op, u.elem, lo, hi, closed)] →
          (lo < hi → drawn (BitVec.ofNat 64 lo) [(c.op, u.elem, lo + 1, hi, closed)])
          ∧ (hi ≤ lo → closed = true → drawn (-1) l.ranges))
        ∧ ∀ e lf hf, e ≠ u.elem → hi ≤ lo → l.ranges = [(c.op, u.elem, lo, hi, false), (c.op, e, lf, hf, closed)] →
            (lf + 2 ≤ hf → drawn (BitVec.ofNat 64 (lf + (hf - lf) / 2))
              [(c.op, u.elem, lf + (hf - lf) / 2 + 1, hf, false), (c.op, e, lf, lf + (hf - lf) / 2, closed)])
            ∧ (hf < lf + 2 → drawn (-1) l.ranges))
    ∧ (∀ bed q ws v vs, s.cur.work = some (.stageWaiterServe bed q) → open_ → (s.stage bed q).waiters = id :: ws → (∀ w ∈ ws, (s.req w).isSome) →
      (∀ ids, (s.stage bed q).vals = (v, ids) :: vs → s.writesDone ids = true → ∃ t, exec .stageWaiterServe s = .next t ∧ Answered t id { r0 := v, r1 := 0 }
        ∧ (t.stage bed q).vals = vs ∧ (t.stage bed q).waiters = ws ∧ t.tasks = s.tasks)
      ∧ ((s.stage bed q).vals = [] → (s.stage bed q).closed = true → s.writesDone (s.stage bed q).closing = true → ∃ t, exec .stageWaiterServe s = .next t
        ∧ Answered t id { r0 := 0, r1 := 2 } ∧ (t.stage bed q).waiters = ws ∧ t.tasks = s.tasks))
    ∧ (∀ n, s.cur.work = some (.sleepExpire id) → open_ → r.op = .sleep n →
      (n ≤ s.cycle - r.start → ∃ t, exec .sleepExpire s = .next t ∧ Answered t id { r0 := BitVec.ofNat 64 n, r1 := BitVec.ofNat 64 n })
      ∧ (s.cycle - r.start < n → s.marker r.load = true → ∃ t, exec .sleepExpire s = .next t
        ∧ Answered t id { r0 := BitVec.ofNat 64 (s.cycle - r.start), r1 := BitVec.ofNat 64 (s.cycle - r.start) }))
    ∧ (∀ tl n limit, s.cur.work = some (.tlwaitTimeout id) → open_ → r.op = .tlwait tl n limit → limit * 2400 ≤ s.cycle - r.start →
      ∃ t, exec .tlwaitTimeout s = .next t ∧ Answered t id { r0 := BitVec.ofNat 64 (s.timeline r.ctx tl).value, r1 := 4 })
    ∧ (∀ tl n x, s.cur.work = some (.tlbumpComplete r.ctx tl n) → r.op = .tlbump tl n → (∀ q ∈ s.reqs, q.ctx = r.ctx → q.op = .tlbump tl n →
        q.id = id) →
        s.fenced u (r.serial + 1) = true → (s.ctx r.ctx).tls[tl]? = some x →
      ∃ t, exec .tlbumpComplete s = .next t ∧ t.req id = none ∧ (t.timeline r.ctx tl).given = x.given ∧ t.tasks = s.tasks
        ∧ (x.done = [] → n = x.value + 1 → (t.timeline r.ctx tl).value = n ∧ (t.timeline r.ctx tl).done = [])
        ∧ (x.value + 1 ∉ x.done → n ≠ x.value + 1 → (t.timeline r.ctx tl).value = x.value ∧ (t.timeline r.ctx tl).done = x.done ++ [n]))

/-- R19, R20, R30, R32, R35, R36: a free walker of a die takes the oldest queued miss. A walk that finds a leaf puts it into the die's translation
cache, leaves the A bit of its entry set, and for a write its D bit, and ends the miss; it changes no other byte that an access reads where no line
waits for a settlement. A walk that fails is the fault of each block's access that waited, with the access's address and kind in the record, or,
where it met a failing unit, the unit's address in ADDR and the access's in AUXB (R467); an engine's command or an agent's operation finds it when it tries again.
R41, R42: an invalidation of a page, of everything, or of a tensor sets BUSY, leaves no translation that it names in any cache of the part, and
changes no byte that an access reads; it is complete when the blocks it waits for have committed or faulted and the accesses of engines are
performed. Which blocks an invalidation waits for is read by inference (log 43). -/
def Obligations.TranslationServes : Prop :=
  (∀ (s : State) (die : Nat) (m : Miss),
      (s.cur.work = some (.pageWalk die) → (s.misses.filter fun x => x.die == die && x.walking).length < 64 → s.oldestMiss die = some m →
        ∃ t, exec .pageWalk s = .next t ∧ (∃ x ∈ t.misses, x.id = m.id ∧ x.walking = true ∧ x.page = m.page ∧ x.waiters = m.waiters)
          ∧ (∀ x ∈ s.misses, x.id ≠ m.id → x ∈ t.misses) ∧ Work.walkComplete die m.id ∈ t.agenda
              ∧ { t with misses := s.misses, agenda := s.agenda } = s)
      ∧ (s.cur.work = some (.walkComplete die m.id) → (s.misses.find? fun x => x.id == m.id) = some m →
        let va := m.page * 2 ^ 16
        (∀ l ptrs x, s.walk die m.ctx va m.use = (.ok (l, ptrs), x) → MemoryOk s →
          ∃ t, exec .walkComplete s = .next t ∧ (∀ x ∈ t.misses, x.id ≠ m.id ∧ x ∈ s.misses)
            ∧ (∃ e ∈ t.tc, e.die = die ∧ e.ctx = m.ctx ∧ e.page = va / l.size * l.size ∧ e.leaf = l)
            ∧ (t.byte (l.entry + 6)).getLsbD 7 = true ∧ (m.use.writes = true → (t.byte (l.entry + 7)).getLsbD 0 = true) ∧ t.tasks = s.tasks
            ∧ (s.marks = [] → (∀ f ∈ s.frames, f.die < 12 ∧ (f.sln * 12 + f.die) * 2048 < 0x018000000000) →
                ∀ a, a < l.entry ∨ l.entry + 8 ≤ a → t.byte a = s.byte a))
        ∧ (∀ x y w, s.walk die m.ctx va m.use = (.error x, y) → m.waiters = [w] →
          (∀ u n i f g, w.who = .instr u n i → (s.task u).flights = f :: g → f.serial = n → f.fault = none → f.isPref i = false →
            (∀ j ∈ f.issued, j ∈ i :: f.fired) → (∀ q ∈ s.reqs, q.task = some u → q.serial = f.serial → q.holds = false) →
            ∃ t h p, exec .walkComplete s = .next t ∧ (t.task u).parked = some (h, p) ∧ h.addr = f.addr ∧ p.code = x.code
              ∧ (x.code ≠ .uncorrectable → p.cause = x.cause ∧ p.addr = w.va)
              ∧ (x.code = .uncorrectable → p.addr = x.unit ∧ p.auxB = w.va ∧ p.link = x.far)
              ∧ p.acc = w.use.acc ∧ p.index = i ∧ (t.task u).phase = .parked ∧ (t.task u).regs = (s.task u).regs)
          ∧ ((∃ tile unit id, w.who = .engine tile unit id) ∨ (∃ id, w.who = .op id) →
            ∃ t, exec .walkComplete s = .next t ∧ (w.who, w.va / 2 ^ 16, x) ∈ t.xfaults ∧ t.tasks = s.tasks))))
  ∧ (∀ (s : State) (c : Nat) (ctl : Word), (s.ctx c).live = true →
      ((s.ctx c).inval.busy = false →
        (s.cur.work = some (.translationInvalidatePage c ctl) → ctl.getLsbD 3 = false → ctl.getLsbD 4 = false →
          let n := [2 ^ 16, 2 ^ 21, 2 ^ 30, 2 ^ 35].getD (field ctl.toNat 1 0) 0
          let va := field (s.ctx c).inval.addr.toNat 55 16 * 2 ^ 16 / n * n
          ∃ t, exec .translationInvalidatePage s = .next t ∧ (t.ctx c).inval.busy = true
            ∧ (∀ e, e ∈ t.tc ↔ e ∈ s.tc ∧ ¬(e.ctx = c ∧ e.page < va + n ∧ va < e.page + e.leaf.size))
            ∧ (∀ m, m ∈ t.misses ↔ m ∈ s.misses ∧ ¬(m.ctx = c ∧ m.page * 2 ^ 16 < va + n ∧ va < m.page * 2 ^ 16 + 2 ^ 16))
            ∧ { t with ctxs := s.ctxs, tc := s.tc, wc := s.wc, misses := s.misses } = s)
        ∧ (s.cur.work = some (.translationInvalidateAll c ctl) → ctl.getLsbD 3 = true → ctl.getLsbD 4 = false →
          ∃ t, exec .translationInvalidateAll s = .next t ∧ (t.ctx c).inval.busy = true ∧ (∀ e, e ∈ t.tc ↔ e ∈ s.tc ∧ e.ctx ≠ c)
              ∧ (∀ e, e ∈ t.wc ↔ e ∈ s.wc ∧ e.ctx ≠ c)
            ∧ (∀ m, m ∈ t.misses ↔ m ∈ s.misses ∧ m.ctx ≠ c) ∧ { t with ctxs := s.ctxs, tc := s.tc, wc := s.wc, misses := s.misses } = s)
        ∧ (s.cur.work = some (.tensorInvalidate c ctl) → ctl.getLsbD 3 = false → ctl.getLsbD 4 = true → MemoryOk s →
          (∀ f ∈ s.frames, f.die < 12 ∧ (f.sln * 12 + f.die) * 2048 < 0x018000000000) →
          let tid := field (s.ctx c).inval.addr.toNat 27 16
          ∃ t, exec .tensorInvalidate s = .next t ∧ (t.ctx c).inval.busy = true ∧ (∀ d, d ∈ t.tdc ↔ d ∈ s.tdc ∧ ¬(d.1 % 64 = c ∧ d.2.1 = tid))
            ∧ (∀ f ∈ t.frames, f.st ≠ 0 → ¬(f.ctx = c ∧ f.tid = tid)) ∧ (∀ key, t.byte key = s.byte key) ∧ t.tasks = s.tasks))
      ∧ (s.cur.work = some (.invalidationComplete c) → (s.ctx c).inval.busy = true →
        (∀ b ∈ (s.ctx c).inval.blocks, ∀ x ∈ s.tasks, ∀ f ∈ x.2.flights, f.serial ≠ b) →
        (∀ b ∈ (s.ctx c).inval.blocks, ∀ q ∈ s.reqs, q.id = b → q.answer ≠ none) →
        ∃ t, exec .invalidationComplete s = .next t ∧ (t.ctx c).inval.busy = false ∧ (t.ctx c).inval.ctl.getLsbD 63 = false
            ∧ { t with ctxs := s.ctxs } = s))

/-- R53, R56, R57, R164: what a home does with a read or a store of a line that it need not fill: the read is answered with the bytes that stand there,
little-endian, and changes no storage; the store writes its bytes and no other, a wide one of global memory one of its aligned 8-byte parts a
step (R48), and one that came over a link is acknowledged (R456). A read that allocates waits for the fill of its line, after which
the L2 holds the line and the read is answered with what stood in memory.
R104, R113: the background settlement of a line leaves it no shadow whose owner is not open; a line whose epoch is rejecting gets its old image back
from its shadow. -/
def Obligations.HomesServeAccesses : Prop :=
  (∀ (s : State) (id : Nat) (r : Req), s.req id = some r → r.answer = none → s.mayPerform r = true → (∀ c ∈ s.combines, c.merged ≠ id) →
      s.replyOk r = true → (∀ u, r.task = some u → (s.task u).waved = false) →
      (s.cur.work = some (.l2Access id) →
        (∀ w, r.use = some w → (s.mark w.line).1 = 0 ∧ w.mtype < 3 ∧ w.epoch = 0 ∧ s.filling w.line = false ∧ s.allocates w = false) →
        (∀ n sx, r.op = .load n sx → 1 ≤ n → n ≤ 8 → s.badIn r.loc n = none →
          ∃ (t : State) (v : Word), exec .l2Access s = .next t ∧ Answered t id { r0 := v, r1 := v }
            ∧ (∀ i, i < n → v.extractLsb' (8 * i) 8 = s.byte (r.loc + i))
            ∧ (∀ i, 8 * n ≤ i → i < 64 → v.getLsbD i = (sx && (s.byte (r.loc + n - 1)).getLsbD 7))
            ∧ { t with reqs := s.reqs, agenda := s.agenda, plru := s.plru, tiles := s.tiles, replies := s.replies } = s)
        ∧ (∀ b, r.op = .store b → MemoryOk s →
          (r.use = none ∨ (partsOf (b.map (·.1))).length ≤ 1 →
            ∃ t, exec .l2Access s = .next t ∧ (r.use = none ∨ r.link = none → t.req id = none) ∧ (r.use ≠ none → r.link ≠ none → Answered t id {})
              ∧ (∀ key, t.byte key = (lastWrite b key none).getD (s.byte key)) ∧ t.tasks = s.tasks)
          ∧ (∀ w, r.use = some w → 1 < (partsOf (b.map (·.1))).length →
            ∃ t q n, exec .l2Access s = .next t ∧ n ∈ partsOf (b.map (·.1)) ∧ t.req id = some q ∧ q.op = .store (b.filter fun c => c.1 / 8 != n)
              ∧ q.answer = none ∧ Work.l2Access id ∈ t.agenda ∧ t.tasks = s.tasks
              ∧ ∀ key, t.byte key = (lastWrite (b.filter fun c => c.1 / 8 == n) key none).getD (s.byte key))))
      ∧ (∀ w n sx, r.use = some w → r.op = .load n sx → 1 ≤ n → n ≤ 8 → s.allocates w = true → (s.mark w.line).1 = 0 → w.mtype < 3 →
        (s.cur.work = some (.l2Access id) → s.filling w.line = false →
          ∃ t q, exec .l2Access s = .next t ∧ t.req id = some q ∧ q.held = true ∧ q.answer = none ∧ Work.l2FillComplete w.line ∈ t.agenda
            ∧ { t with reqs := s.reqs, agenda := s.agenda, tiles := s.tiles } = s)
        ∧ (s.cur.work = some (.l2FillComplete w.line) → (s.reqs.filter fun q => q.held) = [r] → lineOf r.loc = w.line → r.loc % 2048 + n ≤ 2048 →
          w.line % 2048 = 0 → MemoryOk s → s.badIn r.loc n = none →
              (s.victim (homeDie w.line) (l2Slice (stackLine w.line)) (l2Set (stackLine w.line))).isSome →
          ∃ (t : State) (v : Word), exec .l2FillComplete s = .next t ∧ Answered t id { r0 := v, r1 := v } ∧ t.held w.line = true
            ∧ (∀ i, i < n → v.extractLsb' (8 * i) 8 = s.byte (r.loc + i)) ∧ t.tasks = s.tasks)))
  ∧ (∀ (s : State) (line : Nat), s.cur.work = some (.settleBackground line) →
      (∃ t, exec .settleBackground s = .next t ∧ (∀ h ∈ t.shadows, h.line = line → (t.ctx h.ctx).epochOpen h.owner = true)
        ∧ t.tasks = s.tasks ∧ t.reqs = s.reqs)
      ∧ ∀ h p n, MemoryOk s → line % 2048 = 0 → paIsHbm line = true → s.mark line = (h.owner, h.ctx) → h.owner ≠ 0 →
          (s.ctx h.ctx).epochs.find h.owner = some ⟨.rejecting, p, n⟩ → s.shadowOf line h.ctx h.owner = some h → h.prior = 0 →
          ∃ t, exec .settleBackground s = .next t ∧ (t.mark line).1 = 0 ∧ ∀ i, i < 2048 → t.byte (line + i) = s.mem.read (h.slot + i))

/-- R70 to R73: an atomic performed at its home answers the old value and leaves the new one, by its operation, in its bytes and no other: an integer one
of 4 or 8 bytes, ABXA of 16, and an AADD of FP32, rounded RNE, where the value in memory is the first of the two (R72); an ACASM
answers 1 and writes its words if every old word is as it compares, else 0 and writes nothing. -/
def Obligations.AtomicsArePerformed : Prop :=
  ∀ (s : State) (id : Nat) (r : Req), s.req id = some r → r.answer = none → s.mayPerform r = true → (∀ c ∈ s.combines, c.merged ≠ id) →
    s.replyOk r = true → s.cur.work = some (.homeAtomic id) → MemoryOk s →
    (∀ w, r.use = some w → w.line % 2048 = 0 ∧ (s.mark w.line).1 = 0 ∧ w.mtype < 3 ∧ w.epoch = 0 ∧ s.filling w.line = false ∧ s.allocates w = false) →
    (∀ f size v cmp comb ftz, r.op = .atomic f size v cmp comb false ftz → f ≤ 9 → size = 1 ∨ size = 2 ∨ size = 4 ∨ size = 8 ∨ size = 16 →
      s.badIn r.loc size = none → v < 2 ^ (8 * size) → cmp < 2 ^ (8 * size) →
      ∀ A : BitVec (8 * size), (∀ i, i < size → A.extractLsb' (8 * i) 8 = s.byte (r.loc + i)) →
      let V : BitVec (8 * size) := BitVec.ofNat (8 * size) v
      let N : BitVec (8 * size) := match f with
        | 0 => A + V
        | 1 => if V.slt A then V else A
        | 2 => if A.slt V then V else A
        | 3 => if V.ult A then V else A
        | 4 => if A.ult V then V else A
        | 5 => A &&& V
        | 6 => A ||| V
        | 7 => A ^^^ V
        | 8 => V
        | _ => if A = BitVec.ofNat (8 * size) cmp then V else A
      ∃ t : State, exec .homeAtomic s = .next t
        ∧ Answered t id { r0 := A.setWidth 64, r1 := 0, olds := if size = 16 then [(A >>> 64).setWidth 64] else [] } ∧ t.tasks = s.tasks
        ∧ ∀ key, t.byte key = if r.loc ≤ key ∧ key < r.loc + size then N.extractLsb' (8 * (key - r.loc)) 8 else s.byte key)
    ∧ (∀ v cmp comb ftz, r.op = .atomic 0 4 v cmp comb true ftz → s.badIn r.loc 4 = none → v < 2 ^ 32 →
      ∀ A : BitVec 32, (∀ i, i < 4 → A.extractLsb' (8 * i) 8 = s.byte (r.loc + i)) →
      let a := fp32.flush ftz A.toNat
      let b := fp32.flush ftz v
      let N : BitVec 32 := BitVec.ofNat 32 (if fp32.isNan a then fp32.quiet a else if fp32.isNan b then fp32.quiet b
        else fp32.round .rne ftz ((fp32.value a).add .rne (fp32.value b)))
      ∃ t : State, exec .homeAtomic s = .next t ∧ Answered t id { r0 := A.setWidth 64, r1 := 0 } ∧ t.tasks = s.tasks
        ∧ ∀ key, t.byte key = if r.loc ≤ key ∧ key < r.loc + 4 then N.extractLsb' (8 * (key - r.loc)) 8 else s.byte key)
    ∧ (∀ n vk cmp new, r.op = .acasm n vk cmp new → 2 ≤ n → n ≤ 4 → new.length = n → s.badIn r.loc (8 * n) = none →
      ∀ olds : List Word, olds.length = n → (∀ (i j : Nat), i < n → j < 8 → (olds.getD i 0).extractLsb' (8 * j) 8 = s.byte (r.loc + 8 * i + j)) →
      ∃ t : State, exec .homeAtomic s = .next t ∧ Answered t id { r0 := if olds = cmp then 1 else 0, olds := olds } ∧ t.tasks = s.tasks
        ∧ ∀ key, t.byte key = if olds = cmp ∧ r.loc ≤ key ∧ key < r.loc + 8 * n then
            (new.getD ((key - r.loc) / 8) 0).extractLsb' (8 * ((key - r.loc) % 8)) 8 else s.byte key)

/-- R74, R75: an AENQ makes its node the tail: the node's link ends the list, the old tail's link (the head, of an empty list) and the header's tail
name the node, and the old tail is answered; a chase answers its place and its hops when its count or its list ends, and else takes one hop,
reading the next link, over a link when the node lies on another package than the agent before it (R78). A tail that is not 8-byte-aligned answers
QFAULT, read by inference (log 46); that the writes of an AENQ or a WENQ within a package are one step is the model's choice (log 16), and so is what
stands for the link (log 45).
R89 to R91: one look at a WENQ's descriptor. One that is not valid answers QFAULT; a full ring holds the WENQ and starts its 100 µs, after which
TIMEOUT is answered; else the payload is written at its offset in the tail's slot, the tail rises by one, and the old tail and OK are answered. A
write of the head makes a held WENQ look again, at the ring and not at the descriptor's form. -/
def Obligations.ListsAndRings : Prop :=
  (∀ (s : State) (id : Nat) (r : Req), s.req id = some r → r.answer = none → s.mayPerform r = true → (∀ c ∈ s.combines, c.merged ≠ id) →
      s.replyOk r = true →
      (∀ h n pa nUse, s.cur.work = some (.aenqAtHome id) → r.op = .aenq h n pa nUse → s.badIn (r.loc + 8) 8 = none → n < 2 ^ 64 →
        (∀ w, r.use = some w → w.mtype ≠ 3 ∧ w.epoch = 0 ∧ s.filling w.line = false) → (∀ w, nUse = some w → w.epoch = 0) → s.frames = [] → s.marks = [] →
        let tl := s.num (r.loc + 8) 8
        let near (k : Nat) : Prop := isGl k = true → paPackage k = paPackage r.loc
        let links (x : State) (last : Nat) : Prop := near pa → near (r.loc + 8) → near last →
          ∃ t, exec .aenqAtHome s = .next t ∧ Answered t id { r0 := BitVec.ofNat 64 tl } ∧ t.tasks = x.tasks
            ∧ ∀ a, t.byte a = (lastWrite (placeBytes pa (bytesOfNat 8 0) ++ placeBytes (r.loc + 8) (bytesOfNat 8 n) ++ placeBytes last (bytesOfNat 8 n)) a
                none).getD (x.byte a)
        (tl = 0 → MemoryOk s → (∀ w, nUse = some w → s.filling w.line = false) → links s r.loc)
        ∧ (∀ pt use, tl ≠ 0 → tl % 8 = 0 → s.checkFor (homeDie r.loc) r.ctx tl .write (.op id) = (.ok pt use, s) →
          let x := (s.usePageFor r tl).markUse (homeDie r.loc) r.ctx use
          MemoryOk x → x.frames = [] → x.marks = [] → (x.ctx r.ctx).ranges = [] →
          (∀ w, r.use = some w ∨ nUse = some w ∨ use = some w → x.filling w.line = false) → links x pt)
        ∧ (tl % 8 ≠ 0 → ∃ t, exec .aenqAtHome s = .next t ∧ Answered t id { r0 := 0, r1 := 3 } ∧ t.mem = s.mem ∧ t.tasks = s.tasks))
      ∧ (∀ left off hops, s.cur.work = some (.achaseHop id) → r.op = .achase left off hops →
        (left = 0 ∨ r.va = 0 → ∃ t, exec .achaseHop s = .next t ∧ Answered t id { r0 := BitVec.ofNat 64 r.va, r1 := BitVec.ofNat 64 hops }
          ∧ { t with reqs := s.reqs, agenda := s.agenda, replies := s.replies } = s)
        ∧ (left ≠ 0 → r.va ≠ 0 →
          let a := (r.va + off) % 2 ^ 64
          let die := if hops = 0 then (match r.task with | some t => dieOf t.tile | none => 0) else homeDie r.loc
          let hop (x : State) (pa : Nat) (use : Option LineUse) : Prop :=
            (∀ w, use = some w → (s.mark w.line).1 = 0 ∧ w.mtype ≠ 3 ∧ s.filling w.line = false) →
            (∀ u, r.task = some u → s.behindWrite u r.serial (keysOf pa 8) = false) → s.badIn pa 8 = none →
            ∃ t q, exec .achaseHop s = .next t ∧ t.req id = some q ∧ q.op = .achase (left - 1) off (hops + 1) ∧ q.loc = pa ∧ q.use = none
              ∧ (∀ i, i < 8 → (BitVec.ofNat 64 q.va).extractLsb' (8 * i) 8 = s.byte (pa + i)) ∧ q.va < 2 ^ 64 ∧ Work.achaseHop id ∈ t.agenda
              ∧ t.tasks = x.tasks ∧ { t with reqs := s.reqs, agenda := s.agenda, tasks := s.tasks } = s
          (∀ pa use, r.use = none → a < 2 ^ 56 → a % 8 = 0 → s.checkFor die r.ctx a .read (.op id) = (.ok pa use, s) →
            (paPackage pa = (if hops = 0 then s.package else paPackage r.loc) ∨ use = none → hop (s.usePageFor r a) pa use)
            ∧ (∀ w, paPackage pa ≠ (if hops = 0 then s.package else paPackage r.loc) → use = some w → r.link = none →
              ∃ t q k, exec .achaseHop s = .next t ∧ t.req id = some q ∧ q.op = r.op ∧ q.loc = pa ∧ q.use = use ∧ q.link = some k
                ∧ k.package = s.package ∧ q.start = s.cycle ∧ Work.linkRequestArrive id 0 ∈ t.agenda ∧ Work.linkRetransmit id ∈ t.agenda
                ∧ Work.linkTimeout id ∈ t.agenda))
          ∧ (∀ w, r.use = some w → hop s (w.line + a % 2048) (some w)))))
  ∧ (∀ (s : State) (id : Nat) (r : Req) (off : Nat) (payload : List Byte), s.req id = some r → r.answer = none → s.combines = [] → s.replyOk r = true →
      r.op = .wenq off payload none → s.badIn r.loc 32 = none → (∀ w, r.use = some w → w.epoch = 0 ∧ w.mtype ≠ 3 ∧ (s.mark w.line).1 = 0) →
      let d := s.num r.loc 32
      let ms := match r.use with | some u => u.ms | none => false
      let looks (i : Instr) : Prop :=
        ∀ pa use, (d % 2 ^ 64 + 2 ^ 64 - d / 2 ^ 64 % 2 ^ 64) % 2 ^ 64 < 2 ^ wenqLog d →
          let c := d / 2 ^ 249 % 64
          let slot := d / 2 ^ 192 % 2 ^ 48 * 256 + d % 2 ^ 64 % 2 ^ wenqLog d * 256
          s.checkFor (homeDie r.loc) c slot .write (.op id) = (.ok pa use, s) →
          let x := (s.usePageIn r c slot).markUse (homeDie r.loc) c use
          MemoryOk x → (∀ w, use = some w → s.filling w.line = false ∧ (x.mark w.line).1 = 0 ∧ w.mtype = 0) →
          (∀ w, r.use = some w → (x.mark w.line).1 = 0) → (isGl (pa + off) = true → paPackage (pa + off) = paPackage r.loc) →
          pa + off + payload.length ≤ r.loc ∨ r.loc + 32 ≤ pa + off →
          ∃ t : State, exec i s = .next t ∧ Answered t id { r0 := BitVec.ofNat 64 d, r1 := 0 } ∧ t.tasks = x.tasks
            ∧ ∀ key, t.byte key = if r.loc ≤ key ∧ key < r.loc + 8 then (BitVec.ofNat 64 (d + 1)).extractLsb' (8 * (key - r.loc)) 8
              else if pa + off ≤ key ∧ key < pa + off + payload.length then payload.getD (key - (pa + off)) 0 else x.byte key
      (s.cur.work = some (.wenqAtTarget id) → s.mayPerform r = true → r.held = false → (∀ q ∈ s.reqs, q.id ≠ id → q.wenqBusy = true → q.loc ≠ r.loc) →
          (∀ w, r.use = some w → s.filling w.line = false) →
        (wenqOk d ms = false → ∃ t, exec .wenqAtTarget s = .next t ∧ Answered t id { r0 := 0, r1 := 3 }
          ∧ { t with reqs := s.reqs, agenda := s.agenda, replies := s.replies } = s)
        ∧ (wenqOk d ms = true → looks .wenqAtTarget)
        ∧ (wenqOk d ms = true → 2 ^ wenqLog d ≤ (d % 2 ^ 64 + 2 ^ 64 - d / 2 ^ 64 % 2 ^ 64) % 2 ^ 64 →
          ∃ t q, exec .wenqAtTarget s = .next t ∧ t.req id = some q ∧ q.held = true ∧ q.came = s.cycle ∧ q.answer = none
            ∧ Work.wenqRingTimeout id ∈ t.agenda ∧ { t with reqs := s.reqs, agenda := s.agenda } = s))
      ∧ (s.cur.work = some (.wenqHeadWake id) → r.held = true → s.cycle < r.came + 240000 → looks .wenqHeadWake)
      ∧ (s.cur.work = some (.wenqRingTimeout id) → r.held = true → r.came + 240000 ≤ s.cycle →
        ∃ t, exec .wenqRingTimeout s = .next t ∧ Answered t id { r0 := 0, r1 := 4 }
          ∧ { t with reqs := s.reqs, agenda := s.agenda, replies := s.replies } = s))

/-- R83 to R87: structure memory. An LDS of a FULL word is answered with it; of another, with EMPTY unless it waits, when it joins the word's readers.
An STS fills the word and answers its readers in their order, or faults STRUCT_REWRITE on a FULL word. A clear empties the full words of its range
and leaves the readers waiting. A reader cancelled by a drain leaves its word's list and its activation is abandoned. That a cancelled reader's
activation is kept to start again is read by inference (log 30). -/
def Obligations.StructureMemory : Prop :=
  ∀ (s : State) (id : Nat) (r : Req), s.req id = some r → r.answer = none → s.combines = [] → s.replyOk r = true →
    (s.mayPerform r = true → s.badIn r.loc 8 = none → ∀ wait, s.cur.work = some (.structLdsAtAgent id) → r.op = .lds wait →
      (∀ v, s.words.find r.loc = some (.full v) → ∃ t, exec .structLdsAtAgent s = .next t ∧ Answered t id { r0 := v, r1 := 0 }
        ∧ { t with reqs := s.reqs, agenda := s.agenda, replies := s.replies } = s)
      ∧ ((∀ v, s.words.find r.loc ≠ some (.full v)) →
        (wait = false → ∃ t, exec .structLdsAtAgent s = .next t ∧ Answered t id { r0 := 0, r1 := 1 } ∧ t.words = s.words)
        ∧ (wait = true → s.poolUsed r.loc < 8192 → ∀ l, (match s.words.find r.loc with | some (.deferred l) => l | _ => []) = l → id ∉ l →
          ∃ t, exec .structLdsAtAgent s = .next t ∧ t.words.find r.loc = some (.deferred (l ++ [id])) ∧ t.req id = some r
            ∧ (∀ k, k ≠ r.loc → t.words.find k = s.words.find k) ∧ { t with words := s.words } = s)))
    ∧ (s.mayPerform r = true → s.badIn r.loc 8 = none → ∀ v, s.cur.work = some (.structStsAtAgent id) → r.op = .sts v →
      (∀ w, s.words.find r.loc = some (.full w) →
        ∃ t, exec .structStsAtAgent s = .next t ∧ Answered t id { fail := some { code := .structRewrite, addr := r.va, acc := .write } }
            ∧ t.words = s.words)
      ∧ (∀ l : List Nat, (match s.words.find r.loc with | some (.deferred l) => some l | none => some [] | _ => none) = some l → id ∉ l → l.Nodup →
        (∀ x ∈ l, ∃ q, s.req x = some q ∧ q.answer = none ∧ s.replyOk q = true) →
        ∃ t, exec .structStsAtAgent s = .next t ∧ t.words.find r.loc = some (.full v) ∧ (∀ k, k ≠ r.loc → t.words.find k = s.words.find k)
          ∧ (∀ x ∈ l, Answered t x { r0 := v, r1 := 0 }) ∧ Answered t id {}
          ∧ t.agenda = s.agenda ++ (l ++ [id]).map Work.longLatencyResult))
    ∧ (s.mayPerform r = true → ∀ n, s.cur.work = some (.structStclrAtAgent id) → r.op = .stclr n → s.badIn r.loc (8 * n) = none →
      (s.words.map (·.1)).Nodup →
      ∃ t, exec .structStclrAtAgent s = .next t ∧ Answered t id {} ∧ ∀ k, t.words.find k = match s.words.find k with
        | some (.full v) => if r.loc ≤ k ∧ k < r.loc + 8 * n then none else some (.full v)
        | w => w)
    ∧ (∀ u k l, s.cur.work = some (.readerCancel id) → r.op = .lds true → r.task = some u → s.words = [(k, .deferred l)] → id ∈ l →
      (s.draining r.load = true → s.reqs = [r] → (∀ f ∈ (s.task u).flights, f.serial = r.serial) → (s.task u).flights ≠ [] →
        ∃ t, exec .readerCancel s = .next t ∧ t.reqs = []
            ∧ t.words.find k = (if l.filter (· ≠ id) = [] then none else some (.deferred (l.filter (· ≠ id))))
          ∧ (t.task u).act = none ∧ (t.task u).flights = [] ∧ (t.task u).dropped = (s.task u).dropped ++ (s.task u).act.toList
          ∧ (t.task u).regs = (s.task u).regs ∧ t.mem = s.mem)
      ∧ (s.draining r.load = false → ∃ t, exec .readerCancel s = .next t ∧ t.req id = none
        ∧ t.words.find k = (if l.filter (· ≠ id) = [] then none else some (.deferred (l.filter (· ≠ id)))) ∧ t.tasks = s.tasks))

/-- R78 to R82, R317, R453, R455, R456: requests over a link: an arriving one that needs an entry takes one and is performed, or is answered from its
entry, or, retransmitted too late, with REPLAY_UNKNOWN; an unanswered one goes out again at its times; after 500 µs it is answered with TIMEOUT, a
read with UNCORRECTABLE, and a write is given up with a record; an entry of 1 ms ends. A lane's failure takes the spare lane, the next one, or a
plane's failure, disables the port.
R432, R433, R435, R437, R438, R95: the next router of a packet's route takes custody of it once it has room, a circuit flit in the slot 3 later, or 8
across a die-to-die link, and the count of the port's failed sends starts again; at its destination the step that takes its content comes to be;
the eighth failed flit disables its link; a disabled link is recorded and its level-2 launches are marked. The reply of a combined request splits at
its record: the first member gets it, the second the first's result. One package runs, with its links' far ends as steps, the model's choice (log
45). -/
def Obligations.LinksAndPacketsRun : Prop :=
  (∀ (s : State) (id : Nat) (r : Req), s.req id = some r → r.answer = none → s.combines = [] →
      (∀ n, s.cur.work = some (.linkRequestArrive id n) →
        (r.link = none → s.mayPerform r = true → s.packets = [] →
          ∃ t q k, exec .linkRequestArrive s = .next t ∧ t.req id = some q ∧ q.link = some k ∧ k.package = s.package ∧ k.seq = id % 2 ^ 32
            ∧ q.start = s.cycle ∧ { q with link := r.link, start := r.start, sent := r.sent } = r ∧ Work.linkRetransmit id ∈ t.agenda ∧ Work.linkTimeout id ∈ t.agenda
            ∧ t.tasks = s.tasks ∧ t.mem = s.mem
            ∧ match r.tileOf with
              | none => Work.linkRequestArrive id 0 ∈ t.agenda
              | some tile => ∃ p, t.packets = [p] ∧ p.payload = .request id ∧ p.at_ = routerOf tile ∧ p.dest = s.homeRouter r.loc r.atAgent
                  ∧ Work.packetAccept p.id ∈ t.agenda)
        ∧ (∀ k, r.link = some k → planeOf r.loc n ∈ s.ports.disabled → exec .linkRequestArrive s = .next s)
        ∧ (∀ k, r.link = some k → planeOf r.loc n ∉ s.ports.disabled → s.arrivesBefore r n = false → r.needsEntry = true →
          let agent := agentOf r.loc
          (∀ e a, (s.replies.find? fun e => e.agent == agent && e.link == k) = some e → e.done = some a →
            ∃ t, exec .linkRequestArrive s = .next t ∧ Answered t id a ∧ { t with reqs := s.reqs, agenda := s.agenda, replies := s.replies } = s)
          ∧ (∀ e, (s.replies.find? fun e => e.agent == agent && e.link == k) = some e → e.done = none →
            ∃ t, exec .linkRequestArrive s = .next t ∧ t.req id = some { r with via := n } ∧ { t with reqs := s.reqs } = s)
          ∧ ((s.replies.find? fun e => e.agent == agent && e.link == k) = none →
            (n ≠ 0 → 2160000 ≤ s.cycle - r.start ∨ s.refusesRetries r = true →
              ∃ t, exec .linkRequestArrive s = .next t ∧ Answered t id { r0 := 0, r1 := 5 }
                ∧ { t with reqs := s.reqs, agenda := s.agenda, replies := s.replies } = s)
            ∧ (n = 0 ∨ s.cycle - r.start < 2160000 ∧ s.refusesRetries r = false →
              ((s.replies.filter fun e => e.agent == agent).length < 4096 →
                ∃ t, exec .linkRequestArrive s = .next t ∧ t.replies = s.replies ++ [{ agent := agent, link := k, req := id, first := r.start, born := s.cycle }]
                  ∧ (∃ q, t.req id = some q ∧ q.arrived ≠ 0 ∧ { q with via := r.via, arrived := r.arrived } = r)
                  ∧ r.homeWork ∈ t.agenda ∧ Work.replyEntryAgeOut agent ∈ t.agenda
                  ∧ { t with replies := s.replies, agenda := s.agenda, reqs := s.reqs } = s)
              ∧ (4096 ≤ (s.replies.filter fun e => e.agent == agent).length →
                ∃ t, exec .linkRequestArrive s = .next t ∧ t.agenda = s.agenda ++ [.linkRequestArrive id n] ∧ t.req id = some { r with via := n }
                  ∧ { t with reqs := s.reqs, agenda := s.agenda } = s)))))
      ∧ (s.cur.work = some (.linkRetransmit id) → r.retransmitted = true → s.deferredAck id = false → r.retries < 4 →
        (match r.retries with | 0 => 120000 | 1 => 240000 | 2 => 480000 | _ => 960000) ≤ s.cycle - r.start →
        ∃ t, exec .linkRetransmit s = .next t ∧ t.req id = some { r with retries := r.retries + 1 }
          ∧ Work.linkRequestArrive id (r.retries + 1) ∈ t.agenda
          ∧ Work.linkRetransmit id ∈ t.agenda ∧ { t with reqs := s.reqs, agenda := s.agenda } = s)
      ∧ (s.cur.work = some (.linkTimeout id) → s.deferredAck id = false → 1200000 ≤ s.cycle - r.start → (∀ q ∈ s.reqs, q.id ≠ s.nextId) →
        let left (t : State) : Prop := (∀ q, t.req id = some q → q.task = none ∧ q.eng = none ∧ q.op = r.op) ∧ t.mem = s.mem
          ∧ (∀ v, r.task ≠ some v → t.task v = s.task v) ∧ ∀ v, { t.task v with regs := (s.task v).regs } = s.task v
        (r.needsEntry = true → ∃ t q, exec .linkTimeout s = .next t ∧ Answered t s.nextId { r0 := 0, r1 := 4 } ∧ t.req s.nextId = some q
            ∧ q.task = r.task ∧ q.serial = r.serial ∧ q.idx = r.idx ∧ left t)
        ∧ (∀ n sx, r.op = .load n sx → ∃ t, exec .linkTimeout s = .next t
            ∧ Answered t id { fail := some { code := .uncorrectable, link := true, addr := r.loc, auxB := r.va, cause := if r.eng.isSome then 24 else 0 } }
            ∧ t.mem = s.mem ∧ t.tasks = s.tasks)
        ∧ (∀ b u, r.op = .store b → r.task = some u → (s.task u).flights = [] → (s.ctx r.ctx).ten = true → (s.ctx r.ctx).traps.length < 64 →
          (∀ x ∈ (s.ctx r.ctx).traps, x.born ≠ s.cycle) →
          ∃ t p, exec .linkTimeout s = .next t ∧ t.req s.nextId = none ∧ (t.ctx r.ctx).traps = (s.ctx r.ctx).traps ++ [p] ∧ p.code = .engineFault
            ∧ p.cause = 24 ∧ p.addr = r.va ∧ left t))
      ∧ (∀ agent e, s.cur.work = some (.replyEntryAgeOut agent) → (s.replies.find? fun e => e.agent == agent) = some e → 2400000 ≤ s.cycle - e.born →
        ∃ t, exec .replyEntryAgeOut s = .next t ∧ e ∉ t.replies ∧ (∀ x, x ≠ e → (x ∈ t.replies ↔ x ∈ s.replies))
            ∧ { t with replies := s.replies } = s)
      ∧ (∀ port, s.cur.work = some (.laneFail port) → port ∉ s.ports.disabled →
        (port ∉ s.ports.lanes → ∃ t e, exec .laneFail s = .next t ∧ t.ports = { s.ports with lanes := s.ports.lanes ++ [port] }
          ∧ t.ring.getLast? = some e ∧ e.kind = 0x04 ∧ e.addr = port % 2 ^ 64 ∧ { t with ports := s.ports, ring := s.ring, ringSeq := s.ringSeq } = s)
        ∧ (port ∈ s.ports.lanes → ∃ t e, exec .laneFail s = .next t ∧ t.ports = { s.ports with disabled := s.ports.disabled ++ [port] }
          ∧ t.ring.getLast? = some e ∧ e.kind = 0x05 ∧ e.addr = port % 2 ^ 64 ∧ t.mem = s.mem ∧ t.tasks = s.tasks))
      ∧ (∀ plane, s.cur.work = some (.planeFail plane) → plane ∉ s.ports.disabled →
        ∃ t e, exec .planeFail s = .next t ∧ t.ports = { s.ports with disabled := s.ports.disabled ++ [plane] }
          ∧ t.ring.getLast? = some e ∧ e.kind = 0x05 ∧ e.addr = plane % 2 ^ 64 ∧ t.mem = s.mem ∧ t.tasks = s.tasks))
  ∧ (∀ (s : State) (id : Nat) (p : Packet),
      (s.cur.work = some (.packetAccept id) → s.packets = [p] → p.id = id → s.packetFree p = true → p.fresh = false → p.recs = [] →
        (p.slot = none → p.lost = none → p.at_ = p.dest →
          let becomes (w : Work) : Prop := ∃ t, exec .packetAccept s = .next t ∧ t.agenda = s.agenda ++ [w] ∧ t.packets = [{ p with out := s.tick + 1 }]
            ∧ { t with agenda := s.agenda, packets := s.packets, served := s.served } = s
          (∀ m, p.payload = .message m → becomes (.messageArrive id))
          ∧ (∀ n, p.payload = .note n → becomes (.notificationArrive id))
          ∧ (∀ b, p.payload = .batch b → becomes (.batchApply id))
          ∧ (∀ g n c x e m z, p.payload = .contribution g n c x e m z → becomes (.reductionNodeArrive id))
          ∧ (∀ u n, p.payload = .ack u n → ∃ t, exec .packetAccept s = .next t ∧ t.agenda = s.agenda ++ [.batchAck u n] ∧ t.packets = []
              ∧ { t with agenda := s.agenda, packets := s.packets, served := s.served } = s)
          ∧ (∀ q r, p.payload = .reply q → s.req q = some r → ∃ t, exec .packetAccept s = .next t ∧ t.agenda = s.agenda ++ [.longLatencyResult q]
              ∧ t.packets = [] ∧ t.req q = some { r with back := true }
              ∧ { t with agenda := s.agenda, packets := s.packets, served := s.served, reqs := s.reqs } = s)
          ∧ (∀ q r, p.payload = .request q → s.req q = some r →
            ∃ t x, exec .packetAccept s = .next t ∧ t.agenda = s.agenda ++ [if 1024 ≤ p.at_ then .linkRequestArrive q 0 else r.homeWork] ∧ t.packets = []
            ∧ t.req q = some x ∧ { x with arrived := r.arrived } = r ∧ (p.at_ < 1024 → x.arrived ≠ 0)
            ∧ { t with agenda := s.agenda, packets := s.packets, served := s.served, reqs := s.reqs } = s))
        ∧ (∀ b l, p.slot = none → p.at_ ≠ p.dest → p.route = b :: l → s.routeOk p.at_ p.route = true → s.inputRoom p b = true →
          ∃ t q, exec .packetAccept s = .next t ∧ t.packets = [q] ∧ q.id = id ∧ q.at_ = b ∧ q.route = l ∧ q.dest = p.dest ∧ q.payload = p.payload
            ∧ t.agenda = s.agenda ++ [.packetAccept id] ∧ t.ports = { s.ports with fails := s.ports.fails.erase (p.at_, portTo p.at_ b) }
            ∧ { t with agenda := s.agenda, packets := s.packets, served := s.served, ports := s.ports } = s)
        ∧ (∀ n, p.slot = some n →
          (∀ o b, p.due ≤ s.cycle → s.circuitOuts p = [o] → s.cutEnds p = [] → neighbour p.at_ o = some b →
            let step := if p.at_ / 64 = b / 64 then 3 else 8
            ∃ t q, exec .packetAccept s = .next t ∧ t.packets = [q] ∧ q.id = id ∧ q.at_ = b ∧ q.slot = some ((n + step) % 256) ∧ q.due = p.due + step
              ∧ q.payload = p.payload ∧ t.agenda = s.agenda ++ [.packetAccept id] ∧ t.ports = { s.ports with fails := s.ports.fails.erase (p.at_, portTo p.at_ b) }
              ∧ { t with agenda := s.agenda, packets := s.packets, ports := s.ports } = s)
          ∧ (s.cycle < p.due → exec .packetAccept s = .next { s with agenda := s.agenda ++ [.packetAccept id] })
          ∧ (p.due ≤ s.cycle → s.circuitOuts p = [] → s.cutEnds p = [] → ∃ t q, exec .packetAccept s = .next t ∧ t.packets = [q] ∧ q.slot = none ∧ q.at_ = p.at_
            ∧ q.dest = p.dest ∧ q.payload = p.payload ∧ Work.packetAccept id ∈ t.agenda)))
      ∧ (∀ router port, s.cur.work = some (.flitResend router port) →
        ∃ t, exec .flitResend s = .next t ∧ t.ports.fails.get (router, port) 0 = s.ports.fails.get (router, port) 0 + 1
          ∧ (Work.linkDisable router port ∈ t.agenda ↔ Work.linkDisable router port ∈ s.agenda ∨ 7 ≤ s.ports.fails.get (router, port) 0)
          ∧ { t with ports := s.ports, agenda := s.agenda } = s)
      ∧ (∀ router port, s.cur.work = some (.linkDisable router port) → (router, port) ∉ s.ports.links →
        ∃ (t : State) (e : Event), exec .linkDisable s = .next t ∧ t.ports = { s.ports with links := (router, port) :: s.ports.links }
            ∧ t.ring.getLast? = some e ∧ e.kind = 0x05
          ∧ (∀ (i : Nat) (x : Launch), s.launches[i]? = some x → ∃ y : Launch, t.launches[i]? = some y ∧ { y with lost := x.lost } = x
            ∧ y.lost = (x.lost || decide (x.level = 2) && s.loads.any fun l => l.launch == x.id && l.claims.any fun c => c.router == router && c.out == port))
          ∧ { t with ports := s.ports, ring := s.ring, ringSeq := s.ringSeq, launches := s.launches } = s)
      ∧ (∀ c r size v k fp ftz a b x, s.combines = [c] → c.merged ≠ c.first → c.merged ≠ c.second → c.first ≠ c.second → s.req c.merged = some r →
        r.op = .atomic 0 size v k true fp ftz → size ≤ 8 → s.replyOk r = true → s.req c.first = some a → a.answer = none → s.req c.second = some b → b.answer = none →
            x < 2 ^ (8 * size) →
        let t := s.reply c.merged { r0 := BitVec.ofNat 64 x, r1 := 0 }
        Answered t c.first { r0 := BitVec.ofNat 64 x, r1 := 0 } ∧ Answered t c.second { r0 := BitVec.ofNat 64 ((x + c.v) % 2 ^ (8 * size)), r1 := 0 }
          ∧ t.req c.merged = none ∧ t.combines = []))

/-- R204, R206, R210, R380, R385, R447, R448: a message of a task of one input enters its channel's queue and its activation becomes pending, the Idle
task Ready; one for an Exited task goes to the dead letters. A message held past its time goes to its channel's overflow ring. A loop admits a
waiting stamp with all its waiting messages. A notification becomes a pending activation. -/
def Obligations.MessagesArrive : Prop :=
  ∀ (s : State) (id : Nat) (p : Packet) (l : Load),
    (∀ m k c, s.cur.work = some (.messageArrive id) → s.packets = [p] → p.id = id → p.payload = .message m → s.load m.load = some l →
      let e : ElemRef := ⟨p.at_, m.elem⟩
      let u := l.taskRef k
      l.receiver (l.placeAt e m.vc) = some k → l.chanAt (l.placeAt e m.vc) = some c → l.phase ≠ .saved →
      ((s.task u).phase = .exited → ∃ t, exec .messageArrive s = .next t ∧ t.tasks = s.tasks ∧ t.elems = s.elems ∧ t.ringSeq = s.ringSeq + 1
        ∧ ∃ q ∈ t.packets, q.dest = l.tracker ∧ q.payload = .batch { load := l.id, deltas := [(⟨false, l.placeAt e m.vc, m.stamp⟩, -(m.count : Int))]
                                                                     decs := [(⟨false, l.placeAt e m.vc, m.stamp⟩, m.count)] })
      ∧ ((s.task u).phase ≠ .exited → l.cfg.loopOf c = none → elemOf u = e → (s.vc e m.vc).held = [] → (s.vc e m.vc).spilled = false →
        (s.vc e m.vc).queue.length < 16 → u.slot ∈ (s.elem e).bound → (s.elem e).unmatched = [] → s.inputs u = [m.vc] →
        (∀ n ∈ (s.vc e m.vc).queue, n.stamp ≠ m.stamp) → (s.task u).claims m.vc m.stamp = 0 →
        ∃ t a, exec .messageArrive s = .next t ∧ t.packets = [] ∧ (t.vc e m.vc).queue = (s.vc e m.vc).queue ++ [m]
          ∧ (t.task u).pending = (s.task u).pending ++ [a] ∧ a.stamp = m.stamp ∧ a.msgs = [m] ∧ a.note = none
          ∧ (t.task u).phase = (if (s.task u).phase = .idle then .ready else (s.task u).phase)
          ∧ (t.task u).regs = (s.task u).regs ∧ (t.task u).act = (s.task u).act ∧ t.mem = s.mem ∧ ∀ v, v ≠ u → t.task v = s.task v))
    ∧ (∀ e n m, s.cur.work = some (.spillTimeout e n) → (s.vc e n).held = [m] → m.vc = n → s.load m.load = some l → (s.vc e n).spilled = false →
      (s.vc e n).ring = [] → 16 ≤ (s.vc e n).queue.length → m.until_ ≠ 0 → m.until_ ≤ s.cycle → MemoryOk s → s.marks = [] →
      ∀ base, (s.vc e n).ringBase = some base →
      let slot := base + 320 * ((s.vc e n).ringHead % 64)
      m.payload.length ≤ 256 → s.badIn slot 320 = none →
      ∃ t, exec .spillTimeout s = .next t ∧ (t.vc e n).held = [] ∧ (t.vc e n).ring = [{ m with port := none }] ∧ (t.vc e n).spilled = true
        ∧ (t.vc e n).queue = (s.vc e n).queue ∧ (t.elem e).spills = (s.elem e).spills + 1
        ∧ (∀ i, i < m.payload.length → t.byte (slot + 16 + i) = m.payload.getD i 0) ∧ (∀ a, a < slot ∨ slot + 320 ≤ a → t.byte a = s.byte a))
    ∧ (∀ i ls cfg m ms, s.cur.work = some (.loopAdmit id i) → s.load id = some l → l.loops = [ls] → ls.loop = i → ls.waiting = m :: ms →
      (∀ x ∈ ms, x.stamp = m.stamp) → ls.flight = [] → l.cfg.loops[i]? = some cfg → 1 ≤ cfg.k →
      ∃ t l', exec .loopAdmit s = .next t ∧ t.load id = some l'
        ∧ l'.loops = [{ ls with waiting := [], flight := [(m.stamp, ((m :: ms).map (·.count)).sum, 0)] }] ∧ { l' with loops := l.loops } = l)
    ∧ (∀ n, s.cur.work = some (.notificationArrive id) → s.packets = [p] → p.id = id → p.payload = .note n → (s.task n.task).phase ≠ .exited →
      ∃ t a, exec .notificationArrive s = .next t ∧ t.packets = [] ∧ (t.task n.task).pending = (s.task n.task).pending ++ [a] ∧ a.stamp = n.stamp
        ∧ a.note = some n ∧ a.msgs = [] ∧ a.since = s.cycle ∧ (t.task n.task).regs = (s.task n.task).regs
        ∧ (n.task.slot ∉ (s.elem (elemOf n.task)).bound → Work.bindingFill n.task ∈ t.agenda) ∧ ∀ v, v ≠ n.task → t.task v = s.task v)

/-- R440 to R444, R446: a node of a reduction group keeps its first child; the second leaves the element-wise result and the joined contributors for the
next node, or for the group's receiver at the root; a time-out leaves one child alone, and a child that comes after it is a dead letter. -/
def Obligations.ReductionsCombine : Prop :=
  ∀ (s : State) (l : Load) (gi node : Nat) (g : GroupCfg) (x : RedNode), l.cfg.groups[gi]? = some g →
    let leaves (i : Instr) (u : Stamp) (es : List (BitVec 32)) (mask : Nat) (ftz : Bool) : Prop :=
      ∃ t q, exec i s = .next t ∧ t.packets = [q] ∧ Work.packetAccept q.id ∈ t.agenda
        ∧ (∀ y child h, g.up node = some (y, child, h) → q.payload = .contribution gi y child u es mask ftz)
        ∧ (g.up node = none → ∃ m, q.payload = .message m ∧ m.stamp = u ∧ m.payload = reducedPayload g.members.length es mask
            ∧ m.count = maskCount mask)
        ∧ ∃ l', t.load l.id = some l' ∧ ∃ y ∈ l'.nodes, y.group = gi ∧ y.node = node ∧ y.stamp = u ∧ y.sent = true
    (∀ id p child u es mask ftz, s.cur.work = some (.reductionNodeArrive id) → s.packets = [p] → p.id = id → s.load p.load = some l →
      p.payload = .contribution gi node child u es mask ftz →
      (l.nodes = [] → ∃ t y, exec .reductionNodeArrive s = .next t ∧ t.packets = [] ∧ (t.load l.id).map (·.nodes) = some [y] ∧ y.group = gi
          ∧ y.node = node
          ∧ y.stamp = u ∧ y.sent = false ∧ (if child then y.b else y.a) = some (es, mask, ftz) ∧ y.until_ = (if s.redCycles = 0 then 0 else s.cycle + s.redCycles * g.height node)
          ∧ (s.redCycles ≠ 0 → Work.reductionTimeout l.id gi node (tagNum 0 u) ∈ t.agenda))
      ∧ (∀ es' mask' ftz', l.nodes = [x] → x.group = gi → x.node = node → x.stamp = u → x.sent = false → x.until_ ≠ 0 → x.until_ ≤ s.cycle →
          child = true → x.a = some (es', mask', ftz') → x.b = none →
          ∃ t q, exec .reductionNodeArrive s = .next t ∧ q ∈ t.packets ∧ t.ringSeq = s.ringSeq + 1
            ∧ (∀ y c h, g.up node = some (y, c, h) → q.payload = .contribution gi y c u es' mask' ftz')
            ∧ (g.up node = none → ∃ m, q.payload = .message m ∧ m.payload = reducedPayload g.members.length es' mask'))
      ∧ (∀ es' mask' ftz', l.nodes = [x] → x.group = gi → x.node = node → x.stamp = u → x.sent = false →
          (x.until_ = 0 ∨ s.cycle < x.until_) →
          (child = true → x.a = some (es', mask', ftz') → x.b = none →
            leaves .reductionNodeArrive u (g.op.zip (ftz' || ftz) es' es) (mask' ||| mask) (ftz' || ftz))
          ∧ (child = false → x.b = some (es', mask', ftz') → x.a = none →
            leaves .reductionNodeArrive u (g.op.zip (ftz || ftz') es es') (mask ||| mask') (ftz || ftz'))))
    ∧ (∀ a, s.cur.work = some (.reductionTimeout l.id gi node (tagNum 0 x.stamp)) → s.load l.id = some l → s.packets = [] → l.nodes = [x] →
        x.group = gi →
      x.node = node → x.sent = false → x.until_ ≤ s.cycle → (x.a = some a ∨ x.a = none ∧ x.b = some a) →
      leaves .reductionTimeout x.stamp a.1 a.2.1 a.2.2)

/-- R379, R381 to R384: a progress packet that the tracker can take is applied as one step: each key's count changes by the packet's delta; one that it
cannot take is held, and the graph starts no activation until it can. An acknowledgement ends a batch's wait, and the activation's last batch leaves
once the others are acknowledged. -/
def Obligations.FrontierMoves : Prop :=
  ∀ (s : State) (l : Load) (b : Batch), (l.entries.map (·.key)).Nodup →
    let count (es : List Entry) (k : Key) : Int := ((es.find? fun x => x.key == k).map (·.count)).getD 0
    (∀ id p, s.cur.work = some (.batchApply id) → s.packets = [p] → p.id = id → p.payload = .batch b → s.load b.load = some l →
      (s.packetFault l b = none → ∃ t l', exec .batchApply s = .next t ∧ t.load l.id = some l'
          ∧ (∀ k, count l'.entries k = count l.entries k + b.deltaOf k)
          ∧ l'.held = l.held ∧ t.tasks = s.tasks ∧ t.mem = s.mem)
      ∧ (∀ cause, s.packetFault l b = some cause → ∃ t l', exec .batchApply s = .next t ∧ t.load l.id = some l' ∧ l'.entries = l.entries
          ∧ l'.held = l.held ++ [b] ∧ l'.suspended = true ∧ Work.frontierResume (l.tracker / 64) ∈ t.agenda ∧ t.tasks = s.tasks ∧ t.mem = s.mem))
    ∧ (∀ die i, s.cur.work = some (.frontierResume die) → s.load l.id = some l → s.entriesUsed die + 256 ≤ 8192 →
      ((s.heldOn die).find? fun x => (s.packetFault x.1 x.2.2).isNone) = some (l, i, b) →
      ∃ t l', exec .frontierResume s = .next t ∧ t.load l.id = some l' ∧ (∀ k, count l'.entries k = count l.entries k + b.deltaOf k)
        ∧ l'.held = l.held.eraseIdx i ∧ l'.suspended = !(l.held.eraseIdx i).isEmpty ∧ t.tasks = s.tasks ∧ t.mem = s.mem)
    ∧ (∀ u n, s.cur.work = some (.batchAck u n) → s.loadOf u = some l →
      ((s.task u).ended = [] → ∃ t, exec .batchAck s = .next t
        ∧ t.task u = { s.task u with act := (s.task u).act.map fun (a : Activation) => { a with unacked := a.unacked.filter (· ≠ n) } }
        ∧ (∀ v, v ≠ u → t.task v = s.task v) ∧ { t with tasks := s.tasks } = s)
      ∧ (∀ a, (s.task u).ended = [a] → a.unacked = [n] → a.held = [b] → s.packets = [] →
        ∃ t q, exec .batchAck s = .next t ∧ (t.task u).ended = [] ∧ t.packets = [q] ∧ q.payload = .batch b ∧ q.dest = l.tracker ∧ q.net = 3
          ∧ Work.packetAccept q.id ∈ t.agenda))

/-- R339 to R341, R38, R47: the oldest copy of a context starts when its token and its condition allow it; one whose shapes are not aligned, whose
mask is empty or whose local operands pass their bounds ends before it moves anything; a step of a running CPY
between local storages reads its elements before it writes any, moves those of one 2 KiB block of its destination and no other byte, and goes on
from there or, after the last, completes its number. A follow-on becomes ready when its copy is done. That the destination is looked at before the
source, and the alignment before the mask and the bounds, is the model's order of checks (log 21). -/
def Obligations.CopiesRun : Prop :=
  ∀ (s : State) (tile cx : Nat) (c : Cmd) (r : List Cmd) (d a x : Row) (ty : Ty) (mask : Nat) (start : Option (Nat × Nat)) (form : Nat),
    (s.tile tile).queue cx = c :: r → cx < 4 → (∀ q ∈ r, q.id ≠ c.id) → c.op = .copy form d a x ty mask start none →
    (s.cur.work = some (.copyStart tile cx) → c.state = .waiting → s.mayStart c start = true →
      (copyFault tile form d a x mask = none →
        ∃ t, exec .copyStart s = .next t ∧ (t.tile tile).queue cx = { c with state := .running } :: r ∧ Work.copyStep tile cx ∈ t.agenda
          ∧ (∀ n, n ≠ tile → t.tile n = s.tile n) ∧ { t with tiles := s.tiles, agenda := s.agenda } = s)
      ∧ (∀ f, copyFault tile form d a x mask = some f →
        ∃ t q, exec .copyStart s = .next t ∧ (t.tile tile).queue cx = q :: r ∧ q.id = c.id ∧ q.num = c.num ∧ q.state = .failed ∧ q.code = some f.code
          ∧ q.prog = c.prog ∧ t.mem = s.mem ∧ t.l2mem = s.l2mem ∧ t.tasks = s.tasks)
      ∧ (shAligned d = false → copyFault tile form d a x mask = some { code := .align, addr := shBase d, acc := .write }))
    ∧ (s.cur.work = some (.copyStep tile cx) → c.state = .running → (s.tile tile).copyTurn = some cx → c.suspend = false → c.sent = false →
      (∀ q ∈ s.reqs, q.eng ≠ some (tile, cx, c.id)) → form = 0 → MemoryOk s → s.bad = [] →
      (∀ m ∈ (s.tile tile).matrix, m.copyOf = none) → shEsz d = shEsz a → shSpace d ≠ .ts →
      let e := shEsz d
      let n := shCount d
      let len := stepLen (shAddr d) (shAddr d c.prog / 2048) (n - c.prog) c.prog
      e = 1 ∨ e = 2 ∨ e = 4 ∨ e = 8 → InLocal d e c.prog (c.prog + len) → InLocal a e c.prog (c.prog + len) →
      (∀ i j, c.prog ≤ i → i < j → j < c.prog + len → shAddr d i + e ≤ shAddr d j) →
      ∃ t, exec .copyStep s = .next t
        ∧ (∀ j i, c.prog ≤ j → j < c.prog + len → i < e → t.byte (keyAt tile d j + i) = s.byte (keyAt tile a j + i))
        ∧ (∀ key, (∀ j, c.prog ≤ j → j < c.prog + len → key < keyAt tile d j ∨ keyAt tile d j + e ≤ key) → t.byte key = s.byte key)
        ∧ (c.prog + len < n → (t.tile tile).queue cx = { c with prog := c.prog + len } :: r ∧ Work.copyStep tile cx ∈ t.agenda)
        ∧ (n ≤ c.prog + len → (t.tile tile).queue cx = r)
        ∧ (t.tile tile).copied = (s.tile tile).copied + BitVec.ofNat 64 (len * e) ∧ t.tasks = s.tasks)
    ∧ (∀ m id, s.cur.work = some (.followOnStart tile id) → ((s.tile tile).matrix.find? fun m => m.id == id) = some m →
      ∃ t, exec .followOnStart s = .next t ∧ ((t.tile tile).matrix.find? fun m => m.id == id) = some { m with ready := true, copyOf := none }
        ∧ matrixWork tile m ∈ t.agenda ∧ (∀ n, n ≠ tile → t.tile n = s.tile n) ∧ { t with tiles := s.tiles, agenda := s.agenda } = s)

/-- R344 to R348, R351: a load of a macro from local storage makes it valid with the cells and scales that stand there; a scale token joins its port; an
MMA takes its token and starts once the checks pass, and then reads a row of A into its buffer of two rows, or adds one K-block's sum to each of
some columns of the row under way and to no other element, clamped where it leaves the range (R178, R391, R400); a completed MMA leaves the queue.
R348, R350, R361: MACCLR sets its accumulator's mode and clears it; MACST writes one row of it to local storage, the low 32 bits of each element,
and no other byte; a Canopy store reads its register when it starts and then writes that image to local storage, and a load from there makes the
envelope that the image describes. Which columns go on in a step, and when the next row is read while a row is under way, is free (log 10); that an
MMA goes on by such steps, and a MACST row by row, is the model's choice of grain (log 36). -/
def Obligations.MatrixAndCanopyCommandsRun : Prop :=
  (∀ (s : State) (tile id : Nat) (c : Cmd), s.matrixCmd tile id = some c → c.state ≠ .failed →
      let gone (t : State) : Prop := ∀ q ∈ (t.tile tile).matrix, q.id ≠ id
      (∀ m ty b scale, s.cur.work = some (.macroLoad tile id) → c.op = .mldb m ty b scale → s.matrixMay tile c 0 = true → s.bad = [] →
        (∀ q ∈ s.reqs, q.eng ≠ some (tile, 4, c.id)) → (ty ≠ .i8 → shBase scale % 64 = 0) → m < (s.tile tile).macros.length → InLocal b 1 0 16384 → (ty ≠ .i8 → InLocal scale 1 0 512) →
        ∃ t, exec .macroLoad s = .next t ∧ gone t ∧ t.mem = s.mem ∧ t.tasks = s.tasks
          ∧ (t.tile tile).macros[m]? = some (loadMacro ty c.ftz c.ctx b scale ((List.range 16384).map fun j => (s.byte (keyAt tile b j)).toNat)
              (if ty = .i8 then [] else (List.range 512).map fun j => (s.byte (keyAt tile scale j)).toNat))
          ∧ ∀ k, k ≠ m → (t.tile tile).macros[k]? = (s.tile tile).macros[k]?)
      ∧ (∀ scale dt tag, s.cur.work = some (.scaleTokenAccept tile id) → c.op = .mscl scale dt tag → s.matrixMay tile c 0 = true → s.bad = [] →
        (∀ q ∈ s.reqs, q.eng ≠ some (tile, 4, c.id)) →
        let dest := tile / 4 * 4 + dt
        (s.tile dest).scale.length < 16 → InLocal scale 1 0 (shCount scale) →
        ∃ t, exec .scaleTokenAccept s = .next t ∧ gone t ∧ t.mem = s.mem ∧ t.tasks = s.tasks
          ∧ (t.tile dest).scale = (s.tile dest).scale ++ [⟨shCount scale / 4, tag, (List.range (shCount scale)).map fun j => s.byte (keyAt tile scale j)⟩])
      ∧ (∀ acc m ty a a4 row0 tag, c.op = .mma acc m ty a a4 row0 tag → s.matrixMay tile c (row0 + c.prog) = true →
        ∀ mac, (s.tile tile).macros[m]? = some mac → mac.valid = true → s.cur.work = some (.mmaStart tile id) →
        (∀ tok port, c.state = .waiting → c.tok = none → takeToken (s.tile tile).scale tag = some (tok, port) →
          mmaCause mac (s.accum tile acc).fp ty (shExtRaw a 1) tok = none →
          ∃ t, exec .mmaStart s = .next t ∧ t.matrixCmd tile id = some { c with tok := some tok, state := .running } ∧ (t.tile tile).scale = port
            ∧ (t.tile tile).accs = (s.tile tile).accs ∧ Work.mmaStart tile id ∈ t.agenda ∧ t.mem = s.mem)
        ∧ (∀ tok x, c.state = .running → c.tok = some tok → s.bad = [] → (s.tile tile).accs[acc]? = some x →
          let w := shExtRaw a 0
          let next := c.prog + c.rows.length
          let reads : Prop := ∃ t, exec .mmaStart s = .next t
            ∧ t.matrixCmd tile id = some { c with rows := c.rows ++ [(List.range w).map fun j => (s.byte (keyAt tile a (next * w + j))).toNat] }
            ∧ Work.mmaStart tile id ∈ t.agenda ∧ (t.tile tile).accs = (s.tile tile).accs ∧ t.mem = s.mem ∧ t.tasks = s.tasks
          let feeds (bytes : List Nat) (more : List (List Nat)) : Prop :=
            let scales := ((tok.bytes.drop (4 * c.prog)).take 4).map (·.toNat)
            let counts := if c.counts = [] then List.replicate 128 0 else c.counts
            ∃ (t : State) (go : Nat → Bool) (y : Accum), exec .mmaStart s = .next t ∧ (∃ n, go n = true) ∧ (∀ n, go n = true → counts.getD n 4 < 4)
              ∧ (t.tile tile).accs[acc]? = some y ∧ (∀ k, k ≠ acc → (t.tile tile).accs[k]? = (s.tile tile).accs[k]?) ∧ t.mem = s.mem ∧ t.tasks = s.tasks
              ∧ (∀ i, i / 128 ≠ row0 + c.prog ∨ go (i % 128) = false → y.elems.get i 0 = x.elems.get i 0 ∧ (i ∈ y.clamped ↔ i ∈ x.clamped))
              ∧ (∀ n, n < 128 → go n = true →
                let i := (row0 + c.prog) * 128 + n
                let v := x.elems.get i 0
                let kb := counts.getD n 0
                let sum := v + intBlock mac a4 bytes scales n kb
                (ty = .e4m3 → y.elems.get i 0 = ((fpBlock mac c.ftz bytes scales n kb v.toNat : Nat) : Int))
                ∧ (ty ≠ .e4m3 → y.elems.get i 0 = (if i ∈ x.clamped then v else max (-(2 ^ 47)) (min (2 ^ 47 - 1) sum))
                  ∧ (i ∈ y.clamped ↔ i ∈ x.clamped ∨ sum < -(2 ^ 47) ∨ 2 ^ 47 - 1 < sum)))
              ∧ ((∃ n, n < counts.length ∧ counts.getD n 4 + (if go n then 1 else 0) < 4) →
                ∃ l, t.matrixCmd tile id = some { c with counts := l } ∧ (∀ n, n < counts.length → l.getD n 4 = counts.getD n 4 + if go n then 1 else 0)
                  ∧ Work.mmaStart tile id ∈ t.agenda)
              ∧ ((∀ n, n < counts.length → 4 ≤ counts.getD n 4 + if go n then 1 else 0) →
                t.matrixCmd tile id = some { c with prog := c.prog + 1, rows := more, counts := [] }
                  ∧ (if shExtRaw a 1 ≤ c.prog + 1 then Work.mmaComplete tile id else Work.mmaStart tile id) ∈ t.agenda)
          (c.rows = [] → InLocal a 1 (next * w) ((next + 1) * w) → (∀ q ∈ s.reqs, q.eng ≠ some (tile, 4, c.id)) → reads)
          ∧ (∀ bytes more, c.rows = bytes :: more → c.counts = [] ∨ (c.counts.length = 128 ∧ ∃ n, n < 128 ∧ c.counts.getD n 4 < 4) →
            (more ≠ [] ∨ shExtRaw a 1 ≤ c.prog + 1 ∨ c.counts = [] → feeds bytes more)
            ∧ (more = [] → c.prog + 1 < shExtRaw a 1 → c.counts ≠ [] → InLocal a 1 (next * w) ((next + 1) * w) → (∀ q ∈ s.reqs, q.eng ≠ some (tile, 4, c.id)) →
              (reads ∨ feeds bytes more) ∧ ((∀ n, n < 128 → 3 ≤ c.counts.getD n 0) → reads)))))
      ∧ (s.cur.work = some (.mmaComplete tile id) → ∃ t, exec .mmaComplete s = .next t ∧ gone t ∧ (t.tile tile).accs = (s.tile tile).accs
          ∧ t.mem = s.mem ∧ t.tasks = s.tasks))
  ∧ (∀ (s : State) (tile id : Nat) (c : Cmd), c.state ≠ .failed →
      (s.matrixCmd tile id = some c → s.matrixMay tile c 0 = true →
        (∀ acc mode x, s.cur.work = some (.macclrPerform tile id) → c.op = .macclr acc mode → (s.tile tile).accs[acc]? = some x →
          ∃ t, exec .macclrPerform s = .next t ∧ (t.tile tile).accs[acc]? = some { x with fp := mode == 0, elems := [], clamped := [] }
            ∧ (∀ k, k ≠ acc → (t.tile tile).accs[k]? = (s.tile tile).accs[k]?) ∧ (∀ q ∈ (t.tile tile).matrix, q.id ≠ id) ∧ t.mem = s.mem
                ∧ t.tasks = s.tasks)
        ∧ (∀ acc row0 d, s.cur.work = some (.macstPerform tile id) → c.op = .macst acc row0 d → MemoryOk s → c.sent = false →
          InLocal d 4 0 (shCount d) → InLocal d 4 (c.prog * 128) (c.prog * 128 + 128) → (∀ n, n < 128 → shAddr d (c.prog * 128 + n) = shAddr d (c.prog * 128) + 4 * n) →
          let key := keyAt tile d (c.prog * 128)
          ∃ t, exec .macstPerform s = .next t ∧ t.tasks = s.tasks ∧ (t.tile tile).accs = (s.tile tile).accs
            ∧ (∀ n i, n < 128 → i < 4 → t.byte (key + 4 * n + i) = ((s.accum tile acc).word ((row0 + c.prog) * 128 + n)).extractLsb' (8 * i) 8)
            ∧ (∀ k, k < key ∨ key + 512 ≤ k → t.byte k = s.byte k)
            ∧ (if shExtRaw d 1 ≤ c.prog + 1 then ∀ q ∈ (t.tile tile).matrix, q.id ≠ id
              else t.matrixCmd tile id = some { c with prog := c.prog + 1, state := .running } ∧ Work.macstPerform tile id ∈ t.agenda)))
      ∧ (∀ r e q, (s.tile tile).canopy = c :: q → s.canopyMay c = true → s.bad = [] → c.sent = false →
        (∀ x ∈ s.reqs, x.eng ≠ some (tile, 5, c.id)) → InLocal r 16 0 (shCount r) →
        (∀ j, j < shCount r → shAddr r j = shAddr r 0 + 16 * j) →
        let key := keyAt tile r 0
        let image (v : Env) : List Byte := v.image.flatMap fun u => bytesOfNat 16 u
        (∀ v, s.cur.work = some (.canopyStore tile) → c.op = .cnst e r → c.state ≠ .running → (s.tile tile).envs[e]? = some v → v.lost = false →
            v.segs.length + 1 ≤ shCount r → (∀ x ∈ q, x.id ≠ c.id) →
          ∃ t, exec .canopyStore s = .next t ∧ (t.tile tile).canopy = { c with state := .running, rows := [v.image] } :: q
            ∧ Work.canopyStore tile ∈ t.agenda ∧ (t.tile tile).envs = (s.tile tile).envs ∧ { t with tiles := s.tiles, agenda := s.agenda } = s)
        ∧ (∀ v, s.cur.work = some (.canopyStore tile) → c.op = .cnst e r → c.state = .running → c.rows = [v.image] →
            v.segs.length + 1 ≤ shCount r →
          v.segs.length ≤ 256 → MemoryOk s →
          ∃ t, exec .canopyStore s = .next t ∧ (∀ i, i < 16 * (v.segs.length + 1) → t.byte (key + i) = (image v).getD i 0)
            ∧ (∀ k, k < key ∨ key + 16 * (v.segs.length + 1) ≤ k → t.byte k = s.byte k) ∧ (t.tile tile).envs = (s.tile tile).envs ∧ t.tasks = s.tasks
            ∧ (t.tile tile).canopy = q.filter fun x => decide (x.id ≠ c.id))
        ∧ (∀ v, s.cur.work = some (.canopyLoad tile) → c.op = .cnld e r → e < (s.tile tile).envs.length → v.lost = false →
            v.segs.length + 1 ≤ shCount r →
          (∀ i, i < 16 * (v.segs.length + 1) → s.byte (key + i) = (image v).getD i 0) → unit0Ok (v.image.headD 0) = true →
          segsOk (f32 v.xlo) (f32 v.xhi) (f32 v.xlo) none v.segs = true ∨ v.segs = [] →
          ∃ t, exec .canopyLoad s = .next t ∧ (t.tile tile).envs[e]? = some v ∧ (∀ k, k ≠ e → (t.tile tile).envs[k]? = (s.tile tile).envs[k]?)
            ∧ t.mem = s.mem ∧ t.tasks = s.tasks)))

/-- R412 to R415, R196, R468: a doorbell gives its queue the count of packets written, and the queue stands as its descriptor says. A packet that is
taken advances HEAD; one that is malformed completes with BAD_PACKET; one that passes the checks begins a launch with its fields, its first load
waiting for beds, one with a trap operator out of its place completes with NOFIT and nothing of it waits, and one whose image is not accepted
completes with the status and code that say why; a level change takes place and completes with OK.
What CONFIG, PORTS and SEQ of an image hold stands beside memory (log 7), and which die's cache the scheduler reads through is the model's choice (log 29). -/
def Obligations.LaunchPacketsAreTaken : Prop :=
  ∀ (s : State) (c q : Nat), q < (s.ctx c).lqs.length →
    let x := s.lq c q
    let p := s.packetAt c q x.head
    let entry (t : State) (z : LaunchQ) (status : Nat) : Prop := (t.lq c q).head = (x.head + 1) % 2 ^ 32 ∧ (t.lq c q).done = x.done + 1
      ∧ t.byte (z.cqbase + 64 * (x.done % 2 ^ z.log2n) + 55) = BitVec.ofNat 8 status
      ∧ (∀ i, i < 8 → t.byte (z.cqbase + 64 * (x.done % 2 ^ z.log2n) + 56 + i) = (BitVec.ofNat 64 (field p 447 384)).extractLsb' (8 * i) 8)
      ∧ t.launches = s.launches ∧ t.loads = s.loads ∧ t.tasks = s.tasks
    (∀ n, s.cur.work = some (.launchDoorbell c q n) → (s.ctx c).live = true → s.marks = [] → s.hostBias = [] →
      let d := descLq (s.descriptor c) q
      field d 255 255 = 1 → ∃ t, exec .launchDoorbell s = .next t ∧ (t.lq c q).bell = n.toNat ∧ (t.lq c q).valid = true ∧ (t.lq c q).head = x.head
        ∧ (t.lq c q).prio = field d 254 252 ∧ (t.lq c q).log2n = field d 251 247 ∧ (t.lq c q).lqbase = s.package * 2 ^ 43 + field d 243 207 * 64
        ∧ (t.lq c q).cqbase = s.package * 2 ^ 43 + field d 206 170 * 64 ∧ (∀ k, k ≠ c → t.ctx k = s.ctx k) ∧ { t with ctxs := s.ctxs } = s)
    ∧ (s.cur.work = some (.launchTake c q) → s.mayTake c q false = true → s.marks = [] → s.hostBias = [] → MemoryOk s →
      (packetOk p = false → ∃ t, exec .launchTake s = .next t ∧ entry t x 6)
      ∧ (packetOk p = true → descOk (s.descriptor c) = false → ∃ t, exec .launchTake s = .next t ∧ entry t x 8)
      ∧ (∀ status code, packetOk p = true → descOk (s.descriptor c) = true → code < 256 →
        let u := (s.advanceHead c q).readDesc c
        u.imageFault c (field p 383 320) x.level = (.error (status, code), u) → ∃ t, exec .launchTake s = .next t ∧ entry t (u.lq c q) status)
      ∧ (∀ h i cfg, packetOk p = true → descOk (s.descriptor c) = true →
        let u := (s.advanceHead c q).readDesc c
        u.imageFault c (field p 383 320) x.level = (.ok h, u) → s.images.find (c, field p 383 320) = some i → i.loads[field h 367 352]? = some cfg →
        ((∃ z ∈ i.loads, z.trapOk (u.ctx c) = false) → ∃ t, exec .launchTake s = .next t ∧ entry t (u.lq c q) 3)
        ∧ ((∀ z ∈ i.loads, z.trapOk (u.ctx c) = true) →
        ∃ (t : State) (l : Launch) (y : Load), exec .launchTake s = .next t ∧ t.launches = s.launches ++ [l] ∧ t.loads = s.loads ++ [y] ∧ l.ctx = c
            ∧ l.queue = q
          ∧ l.tag = BitVec.ofNat 64 (field p 447 384) ∧ l.epoch = field p 479 448 ∧ l.args = bytesOfNat (field p 503 496) (field p 255 0)
          ∧ l.image = field p 383 320 ∧ l.level = x.level ∧ l.killed = false ∧ y.launch = l.id ∧ y.ctx = c ∧ y.number = field h 367 352 ∧ y.cfg = cfg
          ∧ y.phase = .waiting ∧ y.first = true ∧ (t.lq c q).head = (x.head + 1) % 2 ^ 32 ∧ t.tasks = s.tasks)))
    ∧ (s.cur.work = some (.determinismChange c q) → s.mayTake c q true = true → packetOk p = true → MemoryOk s → s.marks = [] → s.hostBias = [] →
      ∃ t, exec .determinismChange s = .next t ∧ entry t x 0 ∧ (t.lq c q).level = field p 495 494)

/-- R196, R205, R415, R416, R418, R423, R426, R468: the life of a load. It is placed on its beds with each of its tasks as its configuration gives it;
drained, it is followed by the load its sequencing row names, or its launch completes; a drain for pre-emption and its save keep its state, with
which it resumes. A fault record goes from its context's queue to the trap channel. How a saved load is kept (log 31) and what a drain waits for
(log 30) are the model's. -/
def Obligations.LoadsAreScheduled : Prop :=
  ∀ (s : State) (id : Nat) (l : Load), s.load id = some l →
    (∀ beds, s.cur.work = some (.loadPlace id) → s.mayPlace l = true → s.neverFits l = false → s.bedsFor l = some beds →
      let pages := beds.zip (l.cfg.pages ++ List.replicate beds.length [])
      (∀ code u, s.fillBeds l.ctx pages = (some code, u) → { u with cfgCache := s.cfgCache } = s → (s.launch l.launch).isSome →
        ∃ t, exec .loadPlace s = .next t ∧ t.launch l.launch = none ∧ ∀ y ∈ t.loads, y.launch ≠ l.launch)
      ∧ (∀ u, (∀ h ∈ l.cfg.chans, h.src ≠ .start) → s.fillBeds l.ctx pages = (none, u) → { u with cfgCache := s.cfgCache } = s → l.cfg.clear = false →
      ∃ (t : State) (y : Load), exec .loadPlace s = .next t ∧ t.load id = some y ∧ y.phase = .placed ∧ y.beds = beds
          ∧ y.gen = (s.placements + 1) % 2 ^ 32
        ∧ y.first = false ∧ y.entries = l.entries ∧ y.cfg = l.cfg
        ∧ ((l.cfg.tasks.zipIdx.map fun k => y.taskRef k.2).Nodup → ∀ (n : Nat) k, l.cfg.tasks[n]? = some k →
          t.task (y.taskRef n) = { ctx := l.ctx, launch := l.launch, load := id, number := n, gen := y.gen, code := k.code, waved := k.waved })))
    ∧ (s.cur.work = some (.loadPlace id) → s.mayPlace l = true → s.neverFits l = true → (s.launch l.launch).isSome →
      ∃ t, exec .loadPlace s = .next t ∧ t.launch l.launch = none ∧ ∀ y ∈ t.loads, y.launch ≠ l.launch)
    ∧ (∀ x i, s.cur.work = some (.loadDrain id) → s.mayDrain l = true → s.launch l.launch = some x → s.images.find (x.ctx, x.image) = some i →
      (i.rows = [] → ∃ t, exec .loadDrain s = .next t ∧ t.launch l.launch = none ∧ t.load id = none)
      ∧ (∀ n cfg, i.rows = [(l.number, n, .always)] → i.loads[n]? = some cfg →
        ∃ (t : State) (y : Load), exec .loadDrain s = .next t ∧ t.loads = (s.loads.filter fun z => decide (z.id ≠ id)) ++ [y] ∧ y.launch = l.launch
            ∧ y.ctx = l.ctx
          ∧ y.number = n ∧ y.cfg = cfg ∧ y.phase = .waiting ∧ y.prio = l.prio ∧ y.first = false))
    ∧ (s.cur.work = some (.preemptStart id) → s.mayPreempt l = true → ∃ t y, exec .preemptStart s = .next t ∧ t.load id = some y ∧ y.phase = .draining
      ∧ { y with phase := l.phase } = l ∧ t.mem = s.mem)
    ∧ (s.cur.work = some (.preemptSave id) → s.mayPreemptSave l = true →
      ∃ t y v, exec .preemptSave s = .next t ∧ t.load id = some y ∧ y.phase = .saved ∧ y.beds = [] ∧ y.saved = some v ∧ v.entries = l.entries
          ∧ v.beds = l.beds.map s.standIn ∧ v.loops = l.loops.map (fun (z : LoopState) => z.moved l.beds v.beds)
        ∧ v.held = l.held ∧ v.ranges = l.ranges ∧ v.back = s.backing l ∧ (∀ u, bedOf u.tile ∈ l.beds → t.task u = {})
            ∧ ∀ u, bedOf u.tile ∉ l.beds → t.task u = s.task u)
    ∧ (∀ beds v, s.cur.work = some (.loadResume id) → s.mayResume l = true → s.neverFits l = false → s.bedsFor l = some beds → l.saved = some v →
      v.matrix = [] → v.copies = [] → v.stages = [] → v.back = [] → v.notes = [] → v.tasks = [] → v.loops = [] → v.held = [] → s.bad = [] →
      ∀ u, l.reloads = [] → s.fillBeds l.ctx (beds.zip (l.cfg.pages ++ List.replicate beds.length [])) = (none, u) → { u with cfgCache := s.cfgCache } = s →
      ∃ t y, exec .loadResume s = .next t ∧ t.load id = some y ∧ y.phase = .placed ∧ y.beds = beds ∧ y.entries = v.entries ∧ y.ranges = v.ranges
          ∧ y.saved = none
        ∧ y.resumed = true)
    ∧ (∀ c r rest h k n, s.cur.work = some (.trapRecordDeliver c) → s.mayDeliver c = true → (s.ctx c).traps = r :: rest →
        s.trapChannel c = some (l, h) →
      let e : ElemRef := ⟨l.tileAt h.place, h.place.elem⟩
      l.placeAt e h.place.vc = h.place → l.receiver h.place = some k → l.chanAt h.place = some n → l.cfg.loopOf n = none →
          (s.task (l.taskRef k)).phase ≠ .exited →
      ∃ (t : State) (m : Msg), exec .trapRecordDeliver s = .next t ∧ (t.ctx c).traps = rest
          ∧ (t.vc e h.place.vc).queue = (s.vc e h.place.vc).queue ++ [m] ∧ m.payload = r.bytes
        ∧ m.stamp = { c0 := r.epoch } ∧ m.ctx = l.ctx)

/-- R458, R471: a failed bed is replaced by its die's spare, the next one is disabled, and loads on it drain. A pull of one packet copies it to the
launch queue's next place and advances both counts. That a pulled packet is counted in the queue's doorbell count is read by inference (log 28). -/
def Obligations.BedsAndPulls : Prop :=
  ∀ (s : State),
    (∀ die bed, s.cur.work = some (.bedFail die bed) → s.tileEnabled (die * 64 + bed * 4) = true →
      ∃ t e, exec .bedFail s = .next t ∧ t.ring.getLast? = some e ∧ e.kind = 0x09
        ∧ ((∀ u ∈ s.beds.used, u.1 ≠ die) → t.beds = { s.beds with used := s.beds.used ++ [(die, bed)] })
        ∧ ((∃ u ∈ s.beds.used, u.1 = die) → t.beds = { s.beds with out := s.beds.out ++ [die * 16 + bed] })
        ∧ (∀ l ∈ s.loads, l.stands = true → die * 16 + bed ∈ l.beds → Work.preemptStart l.id ∈ t.agenda) ∧ t.tasks = s.tasks ∧ t.mem = s.mem)
    ∧ (∀ c k, s.cur.work = some (.pullQueuePull c k) → (s.ctx c).live = true → s.mgmt.resetting = false → k < (s.ctx c).pqs.length →
      let x := s.pq c k
      let y := s.lq c x.lq
      let from_ := x.src + 64 * (x.head % 2 ^ x.log2n)
      let to_ := y.lqbase + 64 * (y.bell % 2 ^ y.log2n)
      let head := s.descBase c + 768 + 32 * k + 8
      x.valid = true → y.valid = true → s.num x.taddr 8 = x.head + 1 → s.pullFault from_ = false → s.marks = [] → MemoryOk s →
      head + 8 ≤ to_ ∨ to_ + 64 ≤ head →
      ∃ t, exec .pullQueuePull s = .next t ∧ (t.pq c k).head = x.head + 1 ∧ (t.lq c x.lq).bell = (y.bell + 1) % 2 ^ 32
        ∧ (∀ i, i < 64 → t.byte (to_ + i) = s.byte (from_ + i))
            ∧ (∀ i, i < 8 → t.byte (head + i) = (BitVec.ofNat 64 (x.head + 1)).extractLsb' (8 * i) 8)
        ∧ (∀ a, (a < to_ ∨ to_ + 64 ≤ a) → (a < head ∨ head + 8 ≤ a) → t.byte a = s.byte a) ∧ t.tasks = s.tasks)

/-- R478, R366, R415, R463: a KILL is BUSY and marks the launches it selects, and a killed launch that has run out completes with its queue's next
entry; DBGACT acts on a parked task as ERET does; a valid descriptor's context is created Live in its start state, and a Live context without
launches is destroyed. When a killed launch completes is read by inference (log 37); the value of action 2 and the kind of a failure's event are
free (log 10); that a created context starts with tolerance 0 (log 6) and keeps its range generations (log 46) is the model's choice. -/
def Obligations.KillAndContexts : Prop :=
  ∀ (s : State),
    (∀ v, s.mgmt.kill.getLsbD 63 = false →
      let chosen (qs : List Nat) (l : Launch) : Prop := l.ctx = field v.toNat 5 0 ∧ l.queue ∈ qs
      let kills (i : Instr) (qs : List Nat) : Prop := ∃ t, exec i s = .next t ∧ t.mgmt.kill.getLsbD 63 = true
          ∧ t.mgmt.killing = (s.launches.filter fun l => decide (chosen qs l)).map (·.id)
        ∧ (∀ x ∈ s.launches, chosen qs x → ∃ y ∈ t.launches, y.id = x.id ∧ y.killed = true)
        ∧ ∀ x ∈ s.launches, (∀ z ∈ s.launches, chosen qs z → z.id ≠ x.id) → x ∈ t.launches
      (s.cur.work = some (.killQueue v) → kills .killQueue [field v.toNat 9 6])
          ∧ (s.cur.work = some (.killContext v) → kills .killContext (List.range 16)))
    ∧ (∀ x, s.cur.work = some .killComplete → s.launches = [x] → s.killReady x = true → s.mgmt.killing = [x.id] → s.loads.filter s.killMore = [] →
      x.queue < (s.ctx x.ctx).lqs.length → s.marks = [] →
      ∃ t, exec .killComplete s = .next t ∧ t.launches = [] ∧ t.mgmt.killing = [] ∧ t.mgmt.kill.getLsbD 63 = false
        ∧ (t.lq x.ctx x.queue).done = (s.lq x.ctx x.queue).done + 1 ∧ ∀ y ∈ t.loads, y.launch ≠ x.id)
    ∧ (∀ u f r, s.parkedAt (field s.mgmt.dbgres.toNat 22 17) s.mgmt.dbgres.toNat = some u → (s.task u).parked = some (f, r) →
      (s.cur.work = some .dbgRefire → ∃ t, exec .dbgRefire s = .next t ∧ { t with tasks := s.tasks } = s
        ∧ t.task u = { s.task u with phase := .active, parked := none, fetch := some f.addr, refire := none } ∧ ∀ w, w ≠ u → t.task w = s.task w)
      ∧ (s.cur.work = some .dbgRefireSuppress → ∃ t v, exec .dbgRefireSuppress s = .next t ∧ { t with tasks := s.tasks } = s
        ∧ t.task u = { s.task u with phase := .active, parked := none, fetch := some f.addr, refire := some v } ∧ ∀ w, w ≠ u → t.task w = s.task w)
      ∧ (s.cur.work = some .dbgKill → ∃ t, exec .dbgKill s = .next t ∧ (t.task u).phase = .exited ∧ (t.task u).parked = none
          ∧ (t.task u).replay = []))
    ∧ (∀ c ctl, s.cur.work = some (.contextCreate c ctl) → c < 64 → s.marks = [] → (s.ctx c).live = false → (s.ctx c).busy = false → field ctl.toNat 62 3 = 0 →
        field ctl.toNat 1 0 = 1 → s.power.booted = true →
      (descOk (s.descriptor c) = true → MemoryOk s →
        ∃ t, exec .contextCreate s = .next t ∧ (t.ctx c).live = true ∧ (t.ctx c).busy = false
            ∧ (t.ctx c).ptw = BitVec.ofNat 64 (field (s.descriptor c) 63 0)
          ∧ (t.ctx c).ranges = [] ∧ (t.ctx c).epochs = [] ∧ (t.ctx c).tls = List.replicate 16 {} ∧ (t.ctx c).fpmode = 0 ∧ (t.ctx c).cntol = 0
              ∧ (t.ctx c).traps = []
          ∧ (t.ctx c).gens = (s.ctx c).gens ∧ (∀ k, k ≠ c → t.ctx k = s.ctx k) ∧ t.tasks = s.tasks)
      ∧ (descOk (s.descriptor c) = false → s.hostBias = [] → ∃ t, exec .contextCreate s = .next t ∧ t.ringSeq = s.ringSeq + 1
          ∧ { t with ring := s.ring, ringSeq := s.ringSeq } = s))
    ∧ (∀ c ctl, s.cur.work = some (.contextDestroy c ctl) → s.marks = [] → (s.ctx c).live = true → field ctl.toNat 62 3 = 0 → field ctl.toNat 1 0 = 2 →
      ((∀ l ∈ s.launches, l.ctx ≠ c) → ∃ t, exec .contextDestroy s = .next t ∧ (t.ctx c).live = false ∧ (t.ctx c).busy = false
          ∧ (t.ctx c).ranges = [] ∧ (t.ctx c).traps = []
        ∧ (∀ e ∈ t.tc, e.ctx ≠ c) ∧ (∀ e ∈ t.wc, e.ctx ≠ c) ∧ (∀ m ∈ t.misses, m.ctx ≠ c) ∧ (∀ k, k ≠ c → t.ctx k = s.ctx k) ∧ t.tasks = s.tasks)
      ∧ (∀ l ∈ s.launches, l.ctx = c → (s.ctx c).busy = false → ∃ t, exec .contextDestroy s = .next t ∧ (t.ctx c).busy = true
          ∧ (∃ y ∈ t.launches, y.id = l.id ∧ y.killed = true)
        ∧ Work.contextDestroy c ctl ∈ t.agenda))

/-- R60, R88, R450, R459 to R461, R477, R478: the host reads and writes the package's HBM by its offset, a structure page's FULL words and zeros for
the others, its writes there ending with an abort and changing nothing; a snoop takes a line from the host-line cache
without changing what is read; the registers keep their fields, and the pod time base counts from the first IDENT write (log 8); objects go through the
mailboxes of the Data Object Exchange capability, and the security processor answers each: an SPDM answer is made from what is measured and from the
hash of the transcript, which the second signature signs too. The page type of a host access (logs 10 and 41), the capability's registers and the
length of a discovery answer (log 11) are the model's choices; the answers of the security processor are free. -/
def Obligations.HostAccesses : Prop :=
  ∀ (s : State),
    (∀ pa n, s.cur.work = some (.hostCxlMemRead pa n) → pa + n ≤ 0x018000000000 → s.marks = [] →
      let key := s.package * 2 ^ 43 + pa
      s.freshStatus key n = s → s.badIn key n = none → (∀ line, s.filling line = false) →
      ∃ t l, exec .hostCxlMemRead s = .next t ∧ t.hostRead = some l ∧ l.length = n
        ∧ (∀ (i : Nat), i < n → l[i]? = some (if s.structureAt (lineOf (key + i)) = true then s.structByte (key + i) else s.byte (key + i)))
        ∧ { t with hostRead := s.hostRead, hostAbort := s.hostAbort, plru := s.plru, hostBias := s.hostBias } = s)
    ∧ (∀ pa b, s.cur.work = some (.hostCxlMemWrite pa b) → pa + b.length ≤ 0x018000000000 → s.marks = [] → MemoryOk s →
      let key := s.package * 2 ^ 43 + pa
      ((∃ i, i < b.length ∧ s.structureAt (lineOf (key + i)) = true) → exec .hostCxlMemWrite s = .next { s with hostAbort := true })
      ∧ ((∀ i, i < b.length → s.structureAt (lineOf (key + i)) = false) → (∀ line, s.filling line = false) →
        ∃ t, exec .hostCxlMemWrite s = .next t ∧ t.tasks = s.tasks ∧ t.hostAbort = false
          ∧ ∀ a, t.byte a = if key ≤ a ∧ a < key + b.length then b.getD (a - key) 0 else s.byte a))
    ∧ (∀ line, s.cur.work = some (.hostSnoop line) → MemoryOk s → isGl (line * 64) = true → paIsHost (line * 64) = true →
      ∃ t, exec .hostSnoop s = .next t ∧ line ∉ t.hostLines ∧ (∀ x, x ≠ line → (x ∈ t.hostLines ↔ x ∈ s.hostLines)) ∧ (∀ key, t.byte key = s.byte key)
        ∧ { t with mem := s.mem, hostmem := s.hostmem, hostLines := s.hostLines } = s)
    ∧ (∀ v, s.cur.work = some (.identWrite v) → field v.toNat 8 0 = s.package →
      ∃ t, exec .identWrite s = .next t ∧ t.mgmt = { s.mgmt with ident := (v &&& 0x1FF01FF) ||| 0x8000000000000000 }
        ∧ t.timeBase = (if s.mgmt.ident.getLsbD 63 then s.timeBase else s.cycle) ∧ { t with mgmt := s.mgmt, timeBase := s.timeBase } = s)
    ∧ (∀ off v, s.cur.work = some (.registerWrite off v) →
      ∃ t, exec .registerWrite s = .next t
        ∧ (off = 0x08 → t.mgmt = { s.mgmt with ctxbase := v &&& 0x7FFFFFF0000 }) ∧ (off = 0x10 → t.mgmt = { s.mgmt with lrsv := v &&& 0x1F })
        ∧ (off = 0x40 → t.mgmt = { s.mgmt with fabtmr := v &&& 0xFFFFFFFF }) ∧ (off = 0x50 → t.mgmt = { s.mgmt with imgpol := v &&& 1 })
        ∧ (off = 0x48 → t.mgmt = { s.mgmt with pwrcap := BitVec.ofNat 64 (max 600 (min 3400 (v.toNat % 4096))) })
        ∧ (off = 0x58 → t.mgmt = { s.mgmt with dbgctl := v }) ∧ (off = 0x70 → t.mgmt = { s.mgmt with dbgres := v })
        ∧ (off ∈ [0x00, 0x80, 0x90, 0x98, 0xA0] → t = s) ∧ (off < 0x40000 → { t with mgmt := s.mgmt } = s)
            ∧ (0x40000 ≤ off → off < 2 ^ 32 → { t with ctxs := s.ctxs } = s) ∧ (2 ^ 32 ≤ off → { t with sec := s.sec, agenda := s.agenda } = s)
        ∧ (off = 2 ^ 32 + 0x810 → t.sec = { s.sec with sent := s.sec.sent ++ bytesOfNat 4 (v.toNat % 2 ^ 32) } ∧ t.agenda = s.agenda)
        ∧ (off = 2 ^ 32 + 0x808 → v.getLsbD 0 = true → t.sec = { s.sec with sent := [], answers := [], failed := false } ∧ t.agenda = s.agenda)
        ∧ (∀ w, off = 2 ^ 32 + 0x808 → v.getLsbD 0 = false → v.getLsbD 31 = true → 8 ≤ s.sec.sent.length → s.sec.sent.length ≤ 65536 →
          4 * (natOfBytes ((s.sec.sent.drop 4).take 4) % 2 ^ 18) = s.sec.sent.length → objectWork s.sec.sent = some w →
          t.sec = { s.sec with sent := [] } ∧ t.agenda = s.agenda ++ [w])
        ∧ (∀ a r, off = 2 ^ 32 + 0x814 → s.sec.answers = a :: r → t.sec = { s.sec with answers := if a.length ≤ 4 then r else a.drop 4 :: r }))
    ∧ (∀ b, b.length ≤ 65536 →
      (s.cur.work = some (.spdmRequest b) → ∃ t a, exec .spdmRequest s = .next t ∧ { t with sec := s.sec } = s
        ∧ t.sec.answers = s.sec.answers ++ [a] ∧ t.sec.transcript = s.sec.transcript ++ b ++ a
        ∧ t.sec.signed = Config.transcriptHash (s.sec.transcript ++ b) ∧ a = Config.spdmAnswer s.measurements t.sec.signed b
        ∧ { t.sec with answers := s.sec.answers, transcript := s.sec.transcript, signed := s.sec.signed } = s.sec)
      ∧ (s.cur.work = some (.spdmSlhDsaRequest b) → ∃ t, exec .spdmSlhDsaRequest s = .next t
        ∧ t.sec = { s.sec with answers := s.sec.answers ++ [Config.slhDsaSignature s.sec.signed b] } ∧ { t with sec := s.sec } = s))
    ∧ (∀ b, s.cur.work = some (.doeDiscovery b) → (b.getD 8 0).toNat < 3 →
      ∃ t a, exec .doeDiscovery s = .next t ∧ t.sec = { s.sec with answers := s.sec.answers ++ [a] } ∧ a.length = 12 ∧ { t with sec := s.sec } = s)

/-- R475, R476: after a warm reset with nothing in flight global memory reads as before, the local storages are zero, no context, task or cached line is
left, and the registers that survive stand; a cold reset leaves the package's memory zero and the registers at their reset values. That memory reads
0 after a cold reset (log 3), what a cold reset keeps (log 38), and under which package number memory outside the package lies after it (log 40),
are the model's choices. -/
def Obligations.ResetsLeave : Prop :=
  ∀ (s : State), MemoryOk s →
    (s.cur.work = some .warmReset → s.launches = [] → s.shadows = [] → s.marks = [] → (∀ l ∈ s.hostLines, isGl (l * 64) = true
        ∧ paIsHost (l * 64) = true) →
      ∃ t : State, exec .warmReset s = .next t ∧ (∀ key, t.byte key = if isGl key then s.byte key else 0) ∧ t.tasks = [] ∧ t.ctxs = []
          ∧ t.frames = [] ∧ t.loads = []
        ∧ t.tc = [] ∧ t.reqs = [] ∧ (∀ (k : Nat) v, (k, SWord.full v) ∈ t.words ↔ (k, SWord.full v) ∈ s.words)
            ∧ (∀ (k : Nat) l, (k, SWord.deferred l) ∉ t.words)
        ∧ t.mgmt.ident = s.mgmt.ident ∧ t.mgmt.ctxbase = s.mgmt.ctxbase ∧ t.mgmt.kill = 0 ∧ t.noRetry = s.cycle + 2400000)
    ∧ (s.cur.work = some .coldReset →
      ∃ t : State, exec .coldReset s = .next t ∧ (∀ key, isGl key = false ∨ (paPackage key = 0 ∧ paIsHbm key = true) → t.byte key = 0)
        ∧ (∀ key, isGl key = true → ¬(paPackage key = s.package ∧ paIsHbm key = true) → t.byte (swapKey s.package 0 key) = s.mem.read key)
        ∧ t.tasks = [] ∧ t.ctxs = [] ∧ t.frames = [] ∧ t.hostLines = []
        ∧ (∀ k w, (k, w) ∈ t.words ↔ ∃ j, (j, w) ∈ s.words ∧ ¬(isGl j = false ∨ paPackage j = s.package ∧ paIsHbm j = true) ∧ k = swapKey s.package 0 j)
        ∧ t.loads = [] ∧ t.launches = [] ∧ t.reqs = []
            ∧ t.mgmt = { State.reset.mgmt with bootstat := t.mgmt.bootstat }
        ∧ (s.bad.length < 4095 → (t.ring.head?.map (·.kind)) = some 0x0E) ∧ t.power.on = true ∧ t.power.stopped = false)

/-- R474: power grants follow demand, halved on a hot die; a hot die is recorded and recovers; at shutdown the package stops, and without power it is
off.
R63 to R68, R472: refresh with a row repair is recorded, and made while the bank has one of its 8 spare rows; correctable errors are counted, and the thousandth-and-24th within an hour spares a
pseudo-channel, the sixteenth an L2 frame; an uncorrectable one fails its unit; a spared frame's line is written back; copies of pseudo-channels end with
the spare in use; a stack without a spare is degraded. That a grant is an exact fraction (log 39), how errors come in (log 44), which
rows form a bank (log 47), and that the errors of other arrays arrive as a scrub step (log 48), are the model's choices. -/
def Obligations.PowerAndUpkeep : Prop :=
  (∀ (s : State),
      (∀ demand draw, s.cur.work = some (.powerGrant demand draw) → 0 < ((List.range 12).map fun d => demand.getD d 0).sum →
        ∃ t, exec .powerGrant s = .next t ∧ t.power.grants.length = 12 ∧ (∀ (d : Nat), d < 12 → t.power.grants[d]? = some
            ((s.mgmt.pwrcap.toNat - draw) * demand.getD d 0, ((List.range 12).map fun d => demand.getD d 0).sum * if d ∈ s.power.hot then 2 else 1))
          ∧ { t with power := s.power } = s)
      ∧ (∀ d, (s.cur.work = some (.thermalThrottle d) → d ∉ s.power.hot → ∃ t e, exec .thermalThrottle s = .next t
          ∧ t.power = { s.power with hot := s.power.hot ++ [d] }
          ∧ t.ring.getLast? = some e ∧ e.kind = 0x0A ∧ { t with power := s.power, ring := s.ring, ringSeq := s.ringSeq } = s)
        ∧ (s.cur.work = some (.thermalRecover d) → ∃ t, exec .thermalRecover s = .next t ∧ (∀ x, x ∈ t.power.hot ↔ x ∈ s.power.hot ∧ x ≠ d)
            ∧ { t with power := s.power } = s)
        ∧ (s.cur.work = some (.thermalShutdown d) → ∃ t e, exec .thermalShutdown s = .next t ∧ t.power = { s.power with stopped := true }
            ∧ t.ring.getLast? = some e
          ∧ e.kind = 0x0B ∧ { t with power := s.power, ring := s.ring, ringSeq := s.ringSeq } = s))
      ∧ (s.cur.work = some .powerLoss → ∃ t, exec .powerLoss s = .next t ∧ t.power = { s.power with on := false } ∧ { t with power := s.power } = s))
  ∧ (∀ (s : State),
      (∀ stack row, s.cur.work = some (.hbmRefresh stack (some row)) →
        (8 ≤ (s.spares.rows.filter fun x => x.1 == stack && bankOf x.2 == bankOf row).length → exec .hbmRefresh s = .next s)
        ∧ ((s.spares.rows.filter fun x => x.1 == stack && bankOf x.2 == bankOf row).length < 8 → ∃ t e, exec .hbmRefresh s = .next t
          ∧ t.spares = { s.spares with rows := s.spares.rows ++ [(stack, row)] }
        ∧ t.ring.getLast? = some e ∧ e.kind = 0x02 ∧ { t with spares := s.spares, ring := s.ring, ringSeq := s.ringSeq } = s))
      ∧ (∀ u, isGl u = false →
        (s.cur.work = some (.hbmScrub u true) → ∃ t, exec .hbmScrub s = .next t
          ∧ t.spares.counts.get (otherArray u) 0 = s.spares.counts.get (otherArray u) 0 + 1 ∧ { t with spares := s.spares } = s)
        ∧ (s.cur.work = some (.hbmScrub u false) → u < 2 ^ 64 → ∃ t e, exec .hbmScrub s = .next t ∧ u / 8 * 8 ∈ t.bad ∧ (∀ x ∈ s.bad, x ∈ t.bad)
          ∧ t.ring.getLast? = some e ∧ e.kind = 0x01 ∧ e.addr = u / 8 * 8 ∧ { t with bad := s.bad, ring := s.ring, ringSeq := s.ringSeq } = s))
      ∧ (∀ u, isGl u = true → paIsHbm u = true →
        let pc := stackLine u % 192
        let arr := channelArray (homeDie u) pc
        (s.cur.work = some (.hbmScrub u true) → ∃ t, exec .hbmScrub s = .next t ∧ t.spares.counts.get arr 0 = s.spares.counts.get arr 0 + 1
          ∧ (t.errorsOf arr = 1024 → Work.pseudoChannelSpare (homeDie u) pc ∈ t.agenda) ∧ { t with spares := s.spares, agenda := s.agenda } = s)
        ∧ (s.cur.work = some (.hbmScrub u false) → ∃ t e, exec .hbmScrub s = .next t ∧ u / 64 * 64 ∈ t.bad ∧ (∀ x ∈ s.bad, x ∈ t.bad)
            ∧ t.ring.getLast? = some e ∧ e.kind = 0x01
          ∧ e.addr = u / 64 * 64 ∧ { t with bad := s.bad, ring := s.ring, ringSeq := s.ringSeq } = s))
      ∧ (∀ u f, s.frameOf u = some f →
        let arr := frameArray f.die f.slice f.set f.way
        let spare := Work.l2FrameSpare f.die f.slice f.set f.way
        (s.cur.work = some (.l2Scrub u true) → ∃ t, exec .l2Scrub s = .next t ∧ t.spares.counts.get arr 0 = s.spares.counts.get arr 0 + 1
            ∧ (t.errorsOf arr = 16 → spare ∈ t.agenda)
          ∧ { t with spares := s.spares, agenda := s.agenda } = s)
        ∧ (s.cur.work = some (.l2Scrub u false) → ∃ t, exec .l2Scrub s = .next t ∧ u / 64 * 64 ∈ t.bad ∧ spare ∈ t.agenda ∧ t.mem = s.mem
            ∧ t.l2mem = s.l2mem ∧ t.tasks = s.tasks))
      ∧ (∀ die slice set way, s.cur.work = some (.l2FrameSpare die slice set way) → (die, slice, set, way) ∉ s.spares.dead → MemoryOk s →
        ∃ t, exec .l2FrameSpare s = .next t ∧ (∀ key, t.byte key = s.byte key) ∧ t.tasks = s.tasks
          ∧ (s.spares.frames.get (die, slice) 0 < 32 → t.spares.frames.get (die, slice) 0 = s.spares.frames.get (die, slice) 0 + 1)
          ∧ (32 ≤ s.spares.frames.get (die, slice) 0 → (die, slice, set, way) ∈ t.spares.dead))
      ∧ (∀ stack pc, (stack, pc) ∉ s.spares.failed →
        (s.cur.work = some (.pseudoChannelSpare stack pc) → (stack, pc) ∉ s.spares.copying →
          (s.sparesUsed stack < 4 → ∃ t e, exec .pseudoChannelSpare s = .next t
              ∧ t.spares = { s.spares with copying := s.spares.copying ++ [(stack, pc)] }
            ∧ Work.pseudoChannelCopyDone stack pc ∈ t.agenda ∧ t.ring.getLast? = some e ∧ e.kind = 0x02
                ∧ { t with spares := s.spares, agenda := s.agenda, ring := s.ring, ringSeq := s.ringSeq } = s)
          ∧ (4 ≤ s.sparesUsed stack → ∃ t, exec .pseudoChannelSpare s = .next t ∧ Work.stackDegrade stack pc ∈ t.agenda
              ∧ { t with agenda := s.agenda } = s))
        ∧ (s.cur.work = some (.pseudoChannelCopyDone stack pc) → (stack, pc) ∈ s.spares.copying →
          ∃ t, exec .pseudoChannelCopyDone s = .next t ∧ (stack, pc) ∉ t.spares.copying ∧ (stack, pc) ∈ t.spares.spared
              ∧ { t with spares := s.spares } = s)
        ∧ (s.cur.work = some (.stackDegrade stack pc) → ∃ t e, exec .stackDegrade s = .next t
            ∧ t.spares = { s.spares with failed := s.spares.failed ++ [(stack, pc)] }
          ∧ t.ring.getLast? = some e ∧ e.kind = 0x03 ∧ { t with spares := s.spares, ring := s.ring, ringSeq := s.ringSeq } = s)))
end

