-- ==== Sys2Proof/Laws/Encoding.lean ====
section
/-! SUPPORT. Fields of encoded words: what bits and bit read of joined fields, that every code table reads its own codes back, that a
head survives its encoding, and that a word decodes as its opcode's format says (spec/10_instruction_formats.md R226 to R244). -/

namespace Sys2Proof

/-- A well-formed instruction has no reason to be refused. -/
theorem Instr.ill_of_wf {i : Instr} (h : i.wf = true) : i.ill = none := by simpa [Instr.wf] using h

/-- Bits of the low part of a join. -/
theorem bits_append_low {p q : Nat} (x : BitVec p) (y : BitVec q) (lo n : Nat) (h : lo + n ≤ q) : bits lo n (x ++ y) = bits lo n y := by
  ext i hi
  simp only [bits, BitVec.getElem_extractLsb', BitVec.getLsbD_append]
  rw [if_pos (by omega)]

/-- Bits of the high part of a join. -/
theorem bits_append_high {p q : Nat} (x : BitVec p) (y : BitVec q) (lo n : Nat) (h : q ≤ lo) :
    bits lo n (x ++ y) = bits (lo - q) n x := by
  ext i hi
  simp only [bits, BitVec.getElem_extractLsb', BitVec.getLsbD_append]
  rw [if_neg (by omega)]
  congr 1
  omega

/-- All bits. -/
theorem bits_all {n : Nat} (x : BitVec n) : bits 0 n x = x := by
  ext i hi
  simp [bits]

/-- Bits of zero. -/
theorem bits_zero (lo n k : Nat) : bits lo n (0 : BitVec k) = 0 := by
  ext i hi
  simp [bits]

/-- A bit of a field. -/
theorem getLsbD_bits {k : Nat} (lo n i : Nat) (w : BitVec k) : (bits lo n w).getLsbD i = (decide (i < n) && w.getLsbD (lo + i)) := by
  simp [bits]

/-- A field across a join is zero when both its parts are. -/
theorem bits_append_zero {p q : Nat} (x : BitVec p) (y : BitVec q) (lo n : Nat) (hl : lo ≤ q) (hx : bits 0 (lo + n - q) x = 0)
    (hy : bits lo (q - lo) y = 0) : bits lo n (x ++ y) = 0 := by
  apply BitVec.eq_of_getLsbD_eq
  intro i hi
  have h1 := congrArg (fun z => z.getLsbD (lo + i - q)) hx
  have h2 := congrArg (fun z => z.getLsbD i) hy
  simp only [getLsbD_bits, BitVec.ofNat_eq_ofNat, BitVec.getLsbD_zero, Bool.and_eq_false_iff, decide_eq_false_iff_not, Nat.zero_add]
    at h1 h2
  simp only [getLsbD_bits, BitVec.getLsbD_append, BitVec.ofNat_eq_ofNat, BitVec.getLsbD_zero, Bool.and_eq_false_iff]
  right
  split
  · rcases h2 with h | h
    · omega
    · exact h
  · rcases h1 with h | h
    · omega
    · exact h

/-- A bit of the low part of a join. -/
theorem bit_append_low {p q : Nat} (x : BitVec p) (y : BitVec q) (i : Nat) (h : i < q) : bit i (x ++ y) = bit i y := by
  simp [bit, BitVec.getLsbD_append, h]

/-- A bit of the high part of a join. -/
theorem bit_append_high {p q : Nat} (x : BitVec p) (y : BitVec q) (i : Nat) (h : q ≤ i) : bit i (x ++ y) = bit (i - q) x := by
  simp [bit, BitVec.getLsbD_append, Nat.not_lt.mpr h]

/-- A bit of zero. -/
theorem bit_zero (i k : Nat) : bit i (0 : BitVec k) = false := by simp [bit]

/-- The one bit of a flag. -/
theorem bit_ofBool (b : Bool) : bit 0 (BitVec.ofBool b) = b := by cases b <;> rfl

/-- A one-bit AUX reads back. -/
theorem bit_auxBit (b : Bool) : bit 0 (auxBit b) = b := by cases b <;> rfl
/-- The rest of a one-bit AUX is zero. -/
theorem bits_auxBit (b : Bool) : bits 1 3 (auxBit b) = 0 := by cases b <;> rfl

theorem Slot.ofBits_toBits (x : Slot) : Slot.ofBits x.toBits = x := by cases x <;> rfl
theorem Width.ofBits_toBits (x : Width) : Width.ofBits x.toBits = x := by cases x <;> rfl
theorem Rm.ofBits_toBits (x : Rm) : Rm.ofBits x.toBits = x := by cases x <;> rfl
theorem Space.ofBits_toBits (x : Space) : Space.ofBits x.toBits = some x := by cases x <;> rfl
theorem Scope.ofBits_toBits (x : Scope) : Scope.ofBits x.toBits = some x := by cases x <;> rfl
theorem Ty.ofBits_toBits (x : Ty) : Ty.ofBits x.toBits = some x := by cases x <;> rfl
theorem Size.ofBits_toBits (x : Size) : Size.ofBits x.toBits = some x := by cases x <;> rfl
theorem ASize.ofBits_toBits (x : ASize) : ASize.ofBits x.toBits = some x := by cases x <;> rfl
theorem ShField.ofBits_toBits (x : ShField) : ShField.ofBits x.toBits = some x := by cases x <;> rfl
theorem Cond.ofBits_toBits (x : Cond) : Cond.ofBits x.toBits = x := by cases x <;> rfl
theorem QntSrc.ofBits_toBits (x : QntSrc) : QntSrc.ofBits x.toBits = some x := by cases x <;> rfl

/-- A guard reads back. -/
theorem decodeGuard_encode (g : Option Guard) : decodeGuard (encodeGuard g) = .ok g := by
  cases g with
  | none => rfl
  | some g =>
    obtain ⟨s, p⟩ := g
    simp (disch := decide) only [decodeGuard, encodeGuard, bit_append_high, bit_append_low, bits_append_low, bits_all, Nat.reduceSub,
      bit_ofBool]
    rfl

/-- A target reads back. -/
theorem decodeTarget_encode (t : Option Target) : decodeTarget (encodeTarget t) = .ok t := by
  cases t with
  | none => rfl
  | some t =>
    obtain ⟨i, s⟩ := t
    simp (disch := decide) only [decodeTarget, encodeTarget, bit_append_high, bits_append_high, bits_append_low, bits_all, Nat.reduceSub,
      Slot.ofBits_toBits]
    rfl

/-- The operand field of a word. -/
theorem operand_raw (op : Nat) (h : Head) (o : BitVec 19) : bits 0 19 (encodeRaw op h o) = o := by
  simp (disch := decide) only [encodeRaw, bits_append_low, bits_all]

/-- The opcode of a word. -/
theorem opcode_raw (op : Nat) (h : Head) (o : BitVec 19) (hop : op < 512) : (bits 55 9 (encodeRaw op h o)).toNat = op := by
  simp (disch := decide) only [encodeRaw, bits_append_high, bits_all, Nat.reduceSub]
  simpa using hop

/-- The head of a word. -/
theorem decodeHead_raw (op : Nat) (h : Head) (o : BitVec 19) : decodeHead (encodeRaw op h o) = .ok h := by
  simp (disch := decide) only [decodeHead, encodeRaw, bits_append_low, bits_append_high, bits_all, Nat.reduceSub, decodeGuard_encode,
    decodeTarget_encode]

/-- A word decodes to the instruction its format gives, if that is well formed. -/
theorem decodeWord_raw (op : Nat) (h : Head) (o : BitVec 19) (i : Instr) (hop : 0 < op ∧ op < 512) (hd : decodeOp op h o = .ok i)
    (hi : i.ill = none) : decodeWord (encodeRaw op h o) = .ok i := by
  have hz : (encodeRaw op h o == 0) = false := by
    apply beq_eq_false_iff_ne.mpr
    intro e
    have := opcode_raw op h o hop.2
    rw [e, bits_zero] at this
    have : (0 : BitVec 9).toNat = 0 := rfl
    omega
  simp only [decodeWord, hz, decodeHead_raw, opcode_raw op h o hop.2, operand_raw, hd, hi]
  rfl

/-! The operand fields of each format read back. -/

theorem decodeAlu2_enc (f : Width → OpB → Instr) (w : Width) (b : OpB) : decodeAlu2 f (encAlu2 w b) = .ok (f w b) := by
  cases b with
  | slot => cases w <;> rfl
  | imm v =>
    simp (disch := decide) only [decodeAlu2, encAlu2, decodeOpB, need, bits_append_low, bits_append_high, bits_all, bit_append_high,
      bit_append_low, bits_zero, Nat.reduceSub, Width.ofBits_toBits]
    rfl

theorem decodeAlu1_enc (f : Width → Instr) (w : Width) : decodeAlu1 f (encAlu2 w .slot) = .ok (f w) := by cases w <;> rfl

theorem decodePd_enc (w : Width) (b : OpB) (pd : Option (BitVec 4)) (k : Option (BitVec 4) → Except IllFormed Instr) :
    decodePd (encTest w b pd) k = k pd := by
  cases pd <;> cases b <;> simp (disch := decide) only [decodePd, encTest, need, bits_append_low, bits_append_high, bits_all,
    bit_append_high, bit_append_low, bits_zero, bit_zero, Nat.reduceSub] <;> rfl

theorem decodeOpB_encTest (w : Width) (b : OpB) (pd : Option (BitVec 4)) (k : OpB → Except IllFormed Instr) :
    decodeOpB (encTest w b pd) k = k b := by
  cases pd <;> cases b <;> simp (disch := decide) only [decodeOpB, encTest, need, bits_append_low, bits_append_high, bits_all,
    bit_append_high, bit_append_low, bits_zero, bit_zero, Nat.reduceSub] <;> rfl

theorem width_encTest (w : Width) (b : OpB) (pd : Option (BitVec 4)) : Width.ofBits (bits 17 2 (encTest w b pd)) = w := by
  cases pd <;> cases b <;> simp (disch := decide) only [encTest, bits_append_high] <;>
    exact (congrArg _ (bits_all _)).trans (Width.ofBits_toBits w)

theorem decodeTest_enc (f : Width → OpB → Option (BitVec 4) → Instr) (w : Width) (b : OpB) (pd : Option (BitVec 4)) :
    decodeTest f (encTest w b pd) = .ok (f w b pd) := by
  rw [decodeTest, decodePd_enc, decodeOpB_encTest, width_encTest]

theorem decodeNone_enc (i : Instr) : decodeNone i 0 = .ok i := rfl

theorem decodeRg_enc (f : BitVec 5 → Instr) (r : BitVec 5) : decodeRg f (encCtl r false 0) = .ok (f r) := by
  have h : bits 0 14 (encCtl r false 0) = 0 := bits_append_zero _ _ 0 14 (by decide) (bits_append_low _ _ 0 1 (by decide)) rfl
  simp (disch := decide) only [decodeRg, need, h]
  simp (disch := decide) only [encCtl, bits_append_high, bits_all, Nat.reduceSub]
  rfl

theorem decodeOff_enc (f : BitVec 13 → Instr) (off : BitVec 13) : decodeOff f (encCtl 0 false off) = .ok (f off) := by
  simp (disch := decide) only [decodeOff, encCtl, need, bits_append_low, bits_append_high, bits_all, Nat.reduceSub]
  rfl

theorem decodeFan_enc (f : Target → Option Target → Instr) (t2 : Target) (t3 : Option Target) : decodeFan f (encFan t2 t3) = .ok (f t2 t3) := by
  cases t3 <;> simp (disch := decide) only [decodeFan, encFan, need, bits_append_low, bits_append_high, bits_all, bits_zero,
    bit_append_low, bit_zero, Nat.reduceSub, Slot.ofBits_toBits] <;> rfl

theorem decodeSp_encMem (sp : Space) (sz sc : BitVec 3) (c : Bool) (sid : BitVec 5) (opt : BitVec 4) (k : Space → Except IllFormed Instr) :
    decodeSp (encMem sp sz sc c sid opt) k = k sp := by
  simp (disch := decide) only [decodeSp, encMem, bits_append_high, bits_all, Nat.reduceSub, Space.ofBits_toBits]

theorem size_encMem (sp : Space) (sz sc : BitVec 3) (c : Bool) (sid : BitVec 5) (opt : BitVec 4) :
    bits 13 3 (encMem sp sz sc c sid opt) = sz := by
  simp (disch := decide) only [encMem, bits_append_low, bits_append_high, bits_all, Nat.reduceSub]

theorem scope_encMem (sp : Space) (sz sc : BitVec 3) (c : Bool) (sid : BitVec 5) (opt : BitVec 4) :
    bits 10 3 (encMem sp sz sc c sid opt) = sc := by
  simp (disch := decide) only [encMem, bits_append_low, bits_append_high, bits_all, Nat.reduceSub]

theorem comb_encMem (sp : Space) (sz sc : BitVec 3) (c : Bool) (sid : BitVec 5) (opt : BitVec 4) :
    bit 9 (encMem sp sz sc c sid opt) = c := by
  simp (disch := decide) only [encMem, bit_append_low, bit_append_high, bit_ofBool, Nat.reduceSub]

theorem sid_encMem (sp : Space) (sz sc : BitVec 3) (c : Bool) (sid : BitVec 5) (opt : BitVec 4) :
    bits 4 5 (encMem sp sz sc c sid opt) = sid := by
  simp (disch := decide) only [encMem, bits_append_low, bits_append_high, bits_all, Nat.reduceSub]

theorem opt_encMem (sp : Space) (sz sc : BitVec 3) (c : Bool) (sid : BitVec 5) (opt : BitVec 4) :
    bits 0 4 (encMem sp sz sc c sid opt) = opt := by
  simp (disch := decide) only [encMem, bits_append_low, bits_all]

theorem decodeMode_enc (sp : Space) (sz : BitVec 3) (m : AMode) (opt : BitVec 4) (k : AMode → Except IllFormed Instr) :
    decodeMode (encAtomic sp sz m opt) k = k m := by
  cases m <;> simp only [decodeMode, encAtomic, comb_encMem, decodeSc, scope_encMem, Scope.ofBits_toBits, need] <;> rfl

theorem decodeSp_encAtomic (sp : Space) (sz : BitVec 3) (m : AMode) (opt : BitVec 4) (k : Space → Except IllFormed Instr) :
    decodeSp (encAtomic sp sz m opt) k = k sp := by cases m <;> simp only [encAtomic, decodeSp_encMem]

theorem decodeASize_encAtomic (sp : Space) (sz : ASize) (m : AMode) (opt : BitVec 4) (k : ASize → Except IllFormed Instr) :
    decodeASize (encAtomic sp sz.toBits m opt) k = k sz := by
  cases m <;> simp only [decodeASize, encAtomic, size_encMem, ASize.ofBits_toBits]

theorem size_encAtomic (sp : Space) (sz : BitVec 3) (m : AMode) (opt : BitVec 4) : bits 13 3 (encAtomic sp sz m opt) = sz := by
  cases m <;> simp only [encAtomic, size_encMem]

theorem low_encAtomic (sp : Space) (sz : BitVec 3) (m : AMode) : bits 0 9 (encAtomic sp sz m 0) = 0 := by
  cases m <;> exact bits_append_zero _ _ 0 9 (by decide)
    ((bits_append_low _ _ 0 5 (by decide)).trans rfl) rfl

theorem decodeAtomic_enc (f : Space → ASize → AMode → Instr) (sp : Space) (sz : ASize) (m : AMode) :
    decodeAtomic f (encAtomic sp sz.toBits m 0) = .ok (f sp sz m) := by
  simp only [decodeAtomic, fixed, low_encAtomic, decodeSp_encAtomic, decodeASize_encAtomic, decodeMode_enc, need]
  rfl

theorem decodeTy_encShp (d a b : BitVec 3) (ty : Ty) (rm : Rm) (aux : BitVec 4) (k : Ty → Except IllFormed Instr) :
    decodeTy (encShp d a b ty.toBits rm aux) k = k ty := by
  simp (disch := decide) only [decodeTy, encShp, bits_append_low, bits_append_high, bits_all, Nat.reduceSub, Ty.ofBits_toBits]

theorem shD_encShp (d a b : BitVec 3) (ty : BitVec 4) (rm : Rm) (aux : BitVec 4) : shD (encShp d a b ty rm aux) = d := by
  simp (disch := decide) only [shD, encShp, bits_append_high, bits_all, Nat.reduceSub]

theorem shA_encShp (d a b : BitVec 3) (ty : BitVec 4) (rm : Rm) (aux : BitVec 4) : shA (encShp d a b ty rm aux) = a := by
  simp (disch := decide) only [shA, encShp, bits_append_low, bits_append_high, bits_all, Nat.reduceSub]

theorem shB_encShp (d a b : BitVec 3) (ty : BitVec 4) (rm : Rm) (aux : BitVec 4) : shB (encShp d a b ty rm aux) = b := by
  simp (disch := decide) only [shB, encShp, bits_append_low, bits_append_high, bits_all, Nat.reduceSub]

theorem shRm_encShp (d a b : BitVec 3) (ty : BitVec 4) (rm : Rm) (aux : BitVec 4) : shRm (encShp d a b ty rm aux) = rm := by
  simp (disch := decide) only [shRm, encShp, bits_append_low, bits_append_high, bits_all, Nat.reduceSub, Rm.ofBits_toBits]

theorem shAux_encShp (d a b : BitVec 3) (ty : BitVec 4) (rm : Rm) (aux : BitVec 4) : bits 0 4 (encShp d a b ty rm aux) = aux := by
  simp (disch := decide) only [encShp, bits_append_low, bits_all]

/-- Bits of AUX. -/
theorem aux_encShp (d a b : BitVec 3) (ty : BitVec 4) (rm : Rm) (aux : BitVec 4) (lo n : Nat) (h : lo + n ≤ 4) :
    bits lo n (encShp d a b ty rm aux) = bits lo n aux := bits_append_low _ _ _ _ h

/-- A bit of AUX. -/
theorem auxbit_encShp (d a b : BitVec 3) (ty : BitVec 4) (rm : Rm) (aux : BitVec 4) (i : Nat) (h : i < 4) :
    bit i (encShp d a b ty rm aux) = bit i aux := bit_append_low _ _ _ h

/-- RM and AUX of an instruction that has neither. -/
theorem low_encShp (d a b : BitVec 3) (ty : BitVec 4) : bits 0 6 (encShp d a b ty .rne 0) = 0 := by
  exact bits_append_zero _ _ 0 6 (by decide) (bits_append_low _ _ 0 2 (by decide)) rfl

/-! Fields that a mnemonic fixes at zero are zero in its encoding. -/

theorem shB_field (d a b : BitVec 3) (ty : BitVec 4) (rm : Rm) (aux : BitVec 4) : bits 10 3 (encShp d a b ty rm aux) = b :=
  shB_encShp d a b ty rm aux
theorem shD_field (d a b : BitVec 3) (ty : BitVec 4) (rm : Rm) (aux : BitVec 4) : bits 16 3 (encShp d a b ty rm aux) = d :=
  shD_encShp d a b ty rm aux

theorem rmAux_flag (d a b : BitVec 3) (ty : BitVec 4) (f : Bool) : bits 1 5 (encShp d a b ty .rne (auxBit f)) = 0 := by
  cases f
  all_goals
    unfold encShp
    repeat' (first | rfl | rw [bits_append_low _ _ _ _ (by decide)] | rw [bits_append_high _ _ _ _ (by decide)] | refine bits_append_zero _ _ _ _ (by decide) ?_ ?_)

theorem rmAux_high (d a b : BitVec 3) (ty : BitVec 4) (x : BitVec 3) : bits 3 3 (encShp d a b ty .rne ((0 : BitVec 1) ++ x)) = 0 := by
  unfold encShp
  repeat' (first | rfl | rw [bits_append_low _ _ _ _ (by decide)] | rw [bits_append_high _ _ _ _ (by decide)] | refine bits_append_zero _ _ _ _ (by decide) ?_ ?_)

theorem aux_high (d a b : BitVec 3) (ty : BitVec 4) (rm : Rm) (x : BitVec 3) : bits 3 1 (encShp d a b ty rm ((0 : BitVec 1) ++ x)) = 0 := by
  unfold encShp
  repeat' (first | rfl | rw [bits_append_low _ _ _ _ (by decide)] | rw [bits_append_high _ _ _ _ (by decide)] | refine bits_append_zero _ _ _ _ (by decide) ?_ ?_)

theorem shAB_zero (d : BitVec 3) (ty : BitVec 4) (rm : Rm) (aux : BitVec 4) : bits 10 6 (encShp d 0 0 ty rm aux) = 0 := by
  unfold encShp
  repeat' (first | rfl | rw [bits_append_low _ _ _ _ (by decide)] | rw [bits_append_high _ _ _ _ (by decide)] | refine bits_append_zero _ _ _ _ (by decide) ?_ ?_)

theorem mem_opt_flag (sp : Space) (sz : BitVec 3) (f : Bool) : bits 1 12 (encMem sp sz 0 false 0 (auxBit f)) = 0 := by
  cases f
  all_goals
    unfold encMem
    repeat' (first | rfl | rw [bits_append_low _ _ _ _ (by decide)] | rw [bits_append_high _ _ _ _ (by decide)] | refine bits_append_zero _ _ _ _ (by decide) ?_ ?_)

theorem mem_scope_zero (sp : Space) (sz : BitVec 3) (sid : BitVec 5) (opt : BitVec 4) : bits 9 4 (encMem sp sz 0 false sid opt) = 0 := by
  unfold encMem
  repeat' (first | rfl | rw [bits_append_low _ _ _ _ (by decide)] | rw [bits_append_high _ _ _ _ (by decide)] | refine bits_append_zero _ _ _ _ (by decide) ?_ ?_)

theorem mem_low13 (sp : Space) (sz : BitVec 3) : bits 0 13 (encMem sp sz 0 false 0 0) = 0 := by
  unfold encMem
  repeat' (first | rfl | rw [bits_append_low _ _ _ _ (by decide)] | rw [bits_append_high _ _ _ _ (by decide)] | refine bits_append_zero _ _ _ _ (by decide) ?_ ?_)

theorem mem_low16 (sp : Space) : bits 0 16 (encMem sp 0 0 false 0 0) = 0 := by
  unfold encMem
  repeat' (first | rfl | rw [bits_append_low _ _ _ _ (by decide)] | rw [bits_append_high _ _ _ _ (by decide)] | refine bits_append_zero _ _ _ _ (by decide) ?_ ?_)

theorem mem_high6 (sc : BitVec 3) (c : Bool) (sid : BitVec 5) (opt : BitVec 4) : bits 13 6 (encMem .gl 0 sc c sid opt) = 0 := by
  unfold encMem
  repeat' (first | rfl | rw [bits_append_low _ _ _ _ (by decide)] | rw [bits_append_high _ _ _ _ (by decide)] | refine bits_append_zero _ _ _ _ (by decide) ?_ ?_)

theorem mem_low10 (sp : Space) (sz sc : BitVec 3) : bits 0 10 (encMem sp sz sc false 0 0) = 0 := by
  unfold encMem
  repeat' (first | rfl | rw [bits_append_low _ _ _ _ (by decide)] | rw [bits_append_high _ _ _ _ (by decide)] | refine bits_append_zero _ _ _ _ (by decide) ?_ ?_)

theorem mem_mid6 (sp : Space) (sz sc : BitVec 3) (opt : BitVec 4) : bits 4 6 (encMem sp sz sc false 0 opt) = 0 := by
  unfold encMem
  repeat' (first | rfl | rw [bits_append_low _ _ _ _ (by decide)] | rw [bits_append_high _ _ _ _ (by decide)] | refine bits_append_zero _ _ _ _ (by decide) ?_ ?_)

theorem mem_high15 (opt : BitVec 4) : bits 4 15 (encMem .gl 0 0 false 0 opt) = 0 := by
  unfold encMem
  repeat' (first | rfl | rw [bits_append_low _ _ _ _ (by decide)] | rw [bits_append_high _ _ _ _ (by decide)] | refine bits_append_zero _ _ _ _ (by decide) ?_ ?_)

theorem mem_flag (sp : Space) (sz sc : BitVec 3) (c : Bool) (sid : BitVec 5) (f : Bool) : bit 0 (encMem sp sz sc c sid (auxBit f)) = f :=
  (bit_append_low _ _ 0 (by decide)).trans (bit_auxBit f)

theorem atomic_flag (sp : Space) (sz : BitVec 3) (m : AMode) (f : Bool) : bit 0 (encAtomic sp sz m (auxBit f)) = f := by
  cases m <;> exact mem_flag _ _ _ _ _ _

theorem atomic_mid8 (sp : Space) (sz : BitVec 3) (m : AMode) (f : Bool) : bits 1 8 (encAtomic sp sz m (auxBit f)) = 0 := by
  cases m <;> cases f
  all_goals
    unfold encAtomic encMem
    repeat' (first | rfl | rw [bits_append_low _ _ _ _ (by decide)] | rw [bits_append_high _ _ _ _ (by decide)] | refine bits_append_zero _ _ _ _ (by decide) ?_ ?_)

theorem eng_tl (cx : BitVec 2) (er : BitVec 3) (ty : BitVec 4) (sc : Bool) (fo : Bool) (mod : BitVec 4) : bits 15 4 (encEng 0 cx er ty sc fo mod) = 0 := by
  unfold encEng
  repeat' (first | rfl | rw [bits_append_low _ _ _ _ (by decide)] | rw [bits_append_high _ _ _ _ (by decide)] | refine bits_append_zero _ _ _ _ (by decide) ?_ ?_)

theorem eng_low13 (tl : BitVec 4) (cx : BitVec 2) : bits 0 13 (encEng tl cx 0 0 false false 0) = 0 := by
  unfold encEng
  repeat' (first | rfl | rw [bits_append_low _ _ _ _ (by decide)] | rw [bits_append_high _ _ _ _ (by decide)] | refine bits_append_zero _ _ _ _ (by decide) ?_ ?_)

theorem eng_low15 (tl : BitVec 4) : bits 0 15 (encEng tl 0 0 0 false false 0) = 0 := by
  unfold encEng
  repeat' (first | rfl | rw [bits_append_low _ _ _ _ (by decide)] | rw [bits_append_high _ _ _ _ (by decide)] | refine bits_append_zero _ _ _ _ (by decide) ?_ ?_)

theorem eng_cxer (tl : BitVec 4) (ty : BitVec 4) (sc : Bool) (fo : Bool) (mod : BitVec 4) : bits 10 5 (encEng tl 0 0 ty sc fo mod) = 0 := by
  unfold encEng
  repeat' (first | rfl | rw [bits_append_low _ _ _ _ (by decide)] | rw [bits_append_high _ _ _ _ (by decide)] | refine bits_append_zero _ _ _ _ (by decide) ?_ ?_)

theorem eng_er (tl : BitVec 4) (cx : BitVec 2) (ty : BitVec 4) (sc : Bool) (fo : Bool) (mod : BitVec 4) : bits 10 3 (encEng tl cx 0 ty sc fo mod) = 0 := by
  unfold encEng
  repeat' (first | rfl | rw [bits_append_low _ _ _ _ (by decide)] | rw [bits_append_high _ _ _ _ (by decide)] | refine bits_append_zero _ _ _ _ (by decide) ?_ ?_)

theorem eng_flags (tl : BitVec 4) (cx : BitVec 2) (er : BitVec 3) (ty : BitVec 4) (x : BitVec 3) : bits 3 3 (encEng tl cx er ty false false ((0 : BitVec 1) ++ x)) = 0 := by
  unfold encEng
  repeat' (first | rfl | rw [bits_append_low _ _ _ _ (by decide)] | rw [bits_append_high _ _ _ _ (by decide)] | refine bits_append_zero _ _ _ _ (by decide) ?_ ?_)

theorem eng_high6 (er : BitVec 3) (ty : BitVec 4) (sc : Bool) (fo : Bool) (mod : BitVec 4) : bits 13 6 (encEng 0 0 er ty sc fo mod) = 0 := by
  unfold encEng
  repeat' (first | rfl | rw [bits_append_low _ _ _ _ (by decide)] | rw [bits_append_high _ _ _ _ (by decide)] | refine bits_append_zero _ _ _ _ (by decide) ?_ ?_)

theorem eng_cx (tl : BitVec 4) (er : BitVec 3) (ty : BitVec 4) (sc : Bool) (fo : Bool) (mod : BitVec 4) : bits 13 2 (encEng tl 0 er ty sc fo mod) = 0 := by
  unfold encEng
  repeat' (first | rfl | rw [bits_append_low _ _ _ _ (by decide)] | rw [bits_append_high _ _ _ _ (by decide)] | refine bits_append_zero _ _ _ _ (by decide) ?_ ?_)

theorem eng_low10 (tl : BitVec 4) (cx : BitVec 2) (er : BitVec 3) : bits 0 10 (encEng tl cx er 0 false false 0) = 0 := by
  unfold encEng
  repeat' (first | rfl | rw [bits_append_low _ _ _ _ (by decide)] | rw [bits_append_high _ _ _ _ (by decide)] | refine bits_append_zero _ _ _ _ (by decide) ?_ ?_)

theorem eng_mid7 (tl : BitVec 4) (cx : BitVec 2) (er : BitVec 3) (x : BitVec 3) : bits 3 7 (encEng tl cx er 0 false false ((0 : BitVec 1) ++ x)) = 0 := by
  unfold encEng
  repeat' (first | rfl | rw [bits_append_low _ _ _ _ (by decide)] | rw [bits_append_high _ _ _ _ (by decide)] | refine bits_append_zero _ _ _ _ (by decide) ?_ ?_)

/-! Fields of the ENG format. -/

theorem tl_encEng (tl : BitVec 4) (cx : BitVec 2) (er : BitVec 3) (ty : BitVec 4) (sc fo : Bool) (mod : BitVec 4) :
    bits 15 4 (encEng tl cx er ty sc fo mod) = tl := by
  simp (disch := decide) only [encEng, bits_append_low, bits_append_high, bits_all, Nat.reduceSub]

theorem cx_encEng (tl : BitVec 4) (cx : BitVec 2) (er : BitVec 3) (ty : BitVec 4) (sc fo : Bool) (mod : BitVec 4) :
    bits 13 2 (encEng tl cx er ty sc fo mod) = cx := by
  simp (disch := decide) only [encEng, bits_append_low, bits_append_high, bits_all, Nat.reduceSub]

theorem er_encEng (tl : BitVec 4) (cx : BitVec 2) (er : BitVec 3) (ty : BitVec 4) (sc fo : Bool) (mod : BitVec 4) :
    bits 10 3 (encEng tl cx er ty sc fo mod) = er := by
  simp (disch := decide) only [encEng, bits_append_low, bits_append_high, bits_all, Nat.reduceSub]

theorem mod_encEng (tl : BitVec 4) (cx : BitVec 2) (er : BitVec 3) (ty : BitVec 4) (sc fo : Bool) (mod : BitVec 4) :
    bits 0 4 (encEng tl cx er ty sc fo mod) = mod := by
  simp (disch := decide) only [encEng, bits_append_low, bits_append_high, bits_all, Nat.reduceSub]

theorem mod3_encEng (tl : BitVec 4) (cx : BitVec 2) (er : BitVec 3) (ty : BitVec 4) (sc fo : Bool) (x : BitVec 3) :
    bits 0 3 (encEng tl cx er ty sc fo ((0 : BitVec 1) ++ x)) = x := by
  simp (disch := decide) only [encEng, bits_append_low, bits_all]

theorem decodeTy_encEng (tl : BitVec 4) (cx : BitVec 2) (er : BitVec 3) (ty : Ty) (sc fo : Bool) (mod : BitVec 4)
    (k : Ty → Except IllFormed Instr) : decodeTy (encEng tl cx er ty.toBits sc fo mod) k = k ty := by
  simp (disch := decide) only [decodeTy, encEng, bits_append_low, bits_append_high, bits_all, Nat.reduceSub]
  rw [Ty.ofBits_toBits]

theorem start_encEng (tl : BitVec 4) (cx : BitVec 2) (er : BitVec 3) (ty : BitVec 4) (sc fo : Bool) (mod : BitVec 4) :
    bit 5 (encEng tl cx er ty sc fo mod) = sc := by
  simp (disch := decide) only [encEng, bit_append_low, bit_append_high, bit_ofBool, Nat.reduceSub]

theorem follow_encEng (tl : BitVec 4) (cx : BitVec 2) (er : BitVec 3) (ty : BitVec 4) (sc fo : Bool) (mod : BitVec 4) :
    bit 4 (encEng tl cx er ty sc fo mod) = fo := by
  simp (disch := decide) only [encEng, bit_append_low, bit_append_high, bit_ofBool, Nat.reduceSub]

/-! The operand fields of TNUL, STAMP, VJOIN and ACASM. -/

theorem tnul_fields (vc : BitVec 5) (pd : Option (BitVec 4)) :
    bits 16 3 (encTest .w64 (.imm ((0 : BitVec 6) ++ vc)) pd) = 1 ∧ bits 5 6 (encTest .w64 (.imm ((0 : BitVec 6) ++ vc)) pd) = 0
      ∧ bits 0 5 (encTest .w64 (.imm ((0 : BitVec 6) ++ vc)) pd) = vc := by
  refine ⟨?_, ?_, ?_⟩ <;> cases pd <;> simp (disch := decide) only [encTest, bits_append_low, bits_append_high, bits_all] <;> rfl

theorem stamp_fields (k : BitVec 2) :
    bits 0 14 (encCtl ((0 : BitVec 3) ++ k) false 0) = 0 ∧ bits 16 3 (encCtl ((0 : BitVec 3) ++ k) false 0) = 0
      ∧ bits 14 2 (encCtl ((0 : BitVec 3) ++ k) false 0) = k := by revert k; decide

theorem join_type (d a b : BitVec 3) (f : Bool) : bits 6 4 (encShp d a b Ty.w32.toBits .rne (auxBit f)) = 11 := by
  simp (disch := decide) only [encShp, bits_append_low, bits_append_high]
  rfl

theorem acasm_fields (sp : Space) (sz sc : BitVec 3) (c : Bool) (sid : BitVec 5) (vk n : BitVec 2) :
    bits 0 2 (encMem sp sz sc c sid (vk ++ n)) = n ∧ bits 2 2 (encMem sp sz sc c sid (vk ++ n)) = vk := by
  constructor <;> simp (disch := decide) only [encMem, bits_append_low, bits_append_high, bits_all, Nat.reduceSub]

end Sys2Proof
end

