-- ==== Sys2Proof/Laws/State.lean ====
section
/-! SUPPORT. What the named updates of State leave: one lemma for each field and update. -/

namespace Sys2Proof.Machine

/-! setTask -/
@[simp] theorem setTask_agenda (s : State) (t : TaskRef) (x : Task) : (s.setTask t x).agenda = s.agenda := rfl
@[simp] theorem setTask_cur (s : State) (t : TaskRef) (x : Task) : (s.setTask t x).cur = s.cur := rfl
@[simp] theorem setTask_tick (s : State) (t : TaskRef) (x : Task) : (s.setTask t x).tick = s.tick := rfl
@[simp] theorem setTask_nextId (s : State) (t : TaskRef) (x : Task) : (s.setTask t x).nextId = s.nextId := rfl
@[simp] theorem setTask_cycle (s : State) (t : TaskRef) (x : Task) : (s.setTask t x).cycle = s.cycle := rfl
@[simp] theorem setTask_timeBase (s : State) (t : TaskRef) (x : Task) : (s.setTask t x).timeBase = s.timeBase := rfl
@[simp] theorem setTask_perfBase (s : State) (t : TaskRef) (x : Task) : (s.setTask t x).perfBase = s.perfBase := rfl
@[simp] theorem setTask_mem (s : State) (t : TaskRef) (x : Task) : (s.setTask t x).mem = s.mem := rfl
@[simp] theorem setTask_l2mem (s : State) (t : TaskRef) (x : Task) : (s.setTask t x).l2mem = s.l2mem := rfl
@[simp] theorem setTask_hostmem (s : State) (t : TaskRef) (x : Task) : (s.setTask t x).hostmem = s.hostmem := rfl
@[simp] theorem setTask_bad (s : State) (t : TaskRef) (x : Task) : (s.setTask t x).bad = s.bad := rfl
@[simp] theorem setTask_frames (s : State) (t : TaskRef) (x : Task) : (s.setTask t x).frames = s.frames := rfl
@[simp] theorem setTask_plru (s : State) (t : TaskRef) (x : Task) : (s.setTask t x).plru = s.plru := rfl
@[simp] theorem setTask_marks (s : State) (t : TaskRef) (x : Task) : (s.setTask t x).marks = s.marks := rfl
@[simp] theorem setTask_hostLines (s : State) (t : TaskRef) (x : Task) : (s.setTask t x).hostLines = s.hostLines := rfl
@[simp] theorem setTask_hostBias (s : State) (t : TaskRef) (x : Task) : (s.setTask t x).hostBias = s.hostBias := rfl
@[simp] theorem setTask_words (s : State) (t : TaskRef) (x : Task) : (s.setTask t x).words = s.words := rfl
@[simp] theorem setTask_tc (s : State) (t : TaskRef) (x : Task) : (s.setTask t x).tc = s.tc := rfl
@[simp] theorem setTask_wc (s : State) (t : TaskRef) (x : Task) : (s.setTask t x).wc = s.wc := rfl
@[simp] theorem setTask_tdc (s : State) (t : TaskRef) (x : Task) : (s.setTask t x).tdc = s.tdc := rfl
@[simp] theorem setTask_misses (s : State) (t : TaskRef) (x : Task) : (s.setTask t x).misses = s.misses := rfl
@[simp] theorem setTask_tports (s : State) (t : TaskRef) (x : Task) : (s.setTask t x).tports = s.tports := rfl
@[simp] theorem setTask_xfaults (s : State) (t : TaskRef) (x : Task) : (s.setTask t x).xfaults = s.xfaults := rfl
@[simp] theorem setTask_shadows (s : State) (t : TaskRef) (x : Task) : (s.setTask t x).shadows = s.shadows := rfl
@[simp] theorem setTask_reqs (s : State) (t : TaskRef) (x : Task) : (s.setTask t x).reqs = s.reqs := rfl
@[simp] theorem setTask_replies (s : State) (t : TaskRef) (x : Task) : (s.setTask t x).replies = s.replies := rfl
@[simp] theorem setTask_combines (s : State) (t : TaskRef) (x : Task) : (s.setTask t x).combines = s.combines := rfl
@[simp] theorem setTask_batchRecs (s : State) (t : TaskRef) (x : Task) : (s.setTask t x).batchRecs = s.batchRecs := rfl
@[simp] theorem setTask_circuits (s : State) (t : TaskRef) (x : Task) : (s.setTask t x).circuits = s.circuits := rfl
@[simp] theorem setTask_served (s : State) (t : TaskRef) (x : Task) : (s.setTask t x).served = s.served := rfl
@[simp] theorem setTask_packets (s : State) (t : TaskRef) (x : Task) : (s.setTask t x).packets = s.packets := rfl
@[simp] theorem setTask_ctxs (s : State) (t : TaskRef) (x : Task) : (s.setTask t x).ctxs = s.ctxs := rfl
@[simp] theorem setTask_elems (s : State) (t : TaskRef) (x : Task) : (s.setTask t x).elems = s.elems := rfl
@[simp] theorem setTask_tiles (s : State) (t : TaskRef) (x : Task) : (s.setTask t x).tiles = s.tiles := rfl
@[simp] theorem setTask_stages (s : State) (t : TaskRef) (x : Task) : (s.setTask t x).stages = s.stages := rfl
@[simp] theorem setTask_loads (s : State) (t : TaskRef) (x : Task) : (s.setTask t x).loads = s.loads := rfl
@[simp] theorem setTask_launches (s : State) (t : TaskRef) (x : Task) : (s.setTask t x).launches = s.launches := rfl
@[simp] theorem setTask_images (s : State) (t : TaskRef) (x : Task) : (s.setTask t x).images = s.images := rfl
@[simp] theorem setTask_placements (s : State) (t : TaskRef) (x : Task) : (s.setTask t x).placements = s.placements := rfl
@[simp] theorem setTask_turns (s : State) (t : TaskRef) (x : Task) : (s.setTask t x).turns = s.turns := rfl
@[simp] theorem setTask_claims (s : State) (t : TaskRef) (x : Task) : (s.setTask t x).claims = s.claims := rfl
@[simp] theorem setTask_mgmt (s : State) (t : TaskRef) (x : Task) : (s.setTask t x).mgmt = s.mgmt := rfl
@[simp] theorem setTask_beds (s : State) (t : TaskRef) (x : Task) : (s.setTask t x).beds = s.beds := rfl
@[simp] theorem setTask_spares (s : State) (t : TaskRef) (x : Task) : (s.setTask t x).spares = s.spares := rfl
@[simp] theorem setTask_ports (s : State) (t : TaskRef) (x : Task) : (s.setTask t x).ports = s.ports := rfl
@[simp] theorem setTask_power (s : State) (t : TaskRef) (x : Task) : (s.setTask t x).power = s.power := rfl
@[simp] theorem setTask_ring (s : State) (t : TaskRef) (x : Task) : (s.setTask t x).ring = s.ring := rfl
@[simp] theorem setTask_ringSeq (s : State) (t : TaskRef) (x : Task) : (s.setTask t x).ringSeq = s.ringSeq := rfl
@[simp] theorem setTask_sec (s : State) (t : TaskRef) (x : Task) : (s.setTask t x).sec = s.sec := rfl
@[simp] theorem setTask_hostRead (s : State) (t : TaskRef) (x : Task) : (s.setTask t x).hostRead = s.hostRead := rfl
@[simp] theorem setTask_hostAbort (s : State) (t : TaskRef) (x : Task) : (s.setTask t x).hostAbort = s.hostAbort := rfl
@[simp] theorem setTask_cfgCache (s : State) (t : TaskRef) (x : Task) : (s.setTask t x).cfgCache = s.cfgCache := rfl
@[simp] theorem setTask_noRetry (s : State) (t : TaskRef) (x : Task) : (s.setTask t x).noRetry = s.noRetry := rfl

/-! modTask -/
@[simp] theorem modTask_agenda (s : State) (t : TaskRef) (f : Task → Task) : (s.modTask t f).agenda = s.agenda := rfl
@[simp] theorem modTask_cur (s : State) (t : TaskRef) (f : Task → Task) : (s.modTask t f).cur = s.cur := rfl
@[simp] theorem modTask_tick (s : State) (t : TaskRef) (f : Task → Task) : (s.modTask t f).tick = s.tick := rfl
@[simp] theorem modTask_nextId (s : State) (t : TaskRef) (f : Task → Task) : (s.modTask t f).nextId = s.nextId := rfl
@[simp] theorem modTask_cycle (s : State) (t : TaskRef) (f : Task → Task) : (s.modTask t f).cycle = s.cycle := rfl
@[simp] theorem modTask_timeBase (s : State) (t : TaskRef) (f : Task → Task) : (s.modTask t f).timeBase = s.timeBase := rfl
@[simp] theorem modTask_perfBase (s : State) (t : TaskRef) (f : Task → Task) : (s.modTask t f).perfBase = s.perfBase := rfl
@[simp] theorem modTask_mem (s : State) (t : TaskRef) (f : Task → Task) : (s.modTask t f).mem = s.mem := rfl
@[simp] theorem modTask_l2mem (s : State) (t : TaskRef) (f : Task → Task) : (s.modTask t f).l2mem = s.l2mem := rfl
@[simp] theorem modTask_hostmem (s : State) (t : TaskRef) (f : Task → Task) : (s.modTask t f).hostmem = s.hostmem := rfl
@[simp] theorem modTask_bad (s : State) (t : TaskRef) (f : Task → Task) : (s.modTask t f).bad = s.bad := rfl
@[simp] theorem modTask_frames (s : State) (t : TaskRef) (f : Task → Task) : (s.modTask t f).frames = s.frames := rfl
@[simp] theorem modTask_plru (s : State) (t : TaskRef) (f : Task → Task) : (s.modTask t f).plru = s.plru := rfl
@[simp] theorem modTask_marks (s : State) (t : TaskRef) (f : Task → Task) : (s.modTask t f).marks = s.marks := rfl
@[simp] theorem modTask_hostLines (s : State) (t : TaskRef) (f : Task → Task) : (s.modTask t f).hostLines = s.hostLines := rfl
@[simp] theorem modTask_hostBias (s : State) (t : TaskRef) (f : Task → Task) : (s.modTask t f).hostBias = s.hostBias := rfl
@[simp] theorem modTask_words (s : State) (t : TaskRef) (f : Task → Task) : (s.modTask t f).words = s.words := rfl
@[simp] theorem modTask_tc (s : State) (t : TaskRef) (f : Task → Task) : (s.modTask t f).tc = s.tc := rfl
@[simp] theorem modTask_wc (s : State) (t : TaskRef) (f : Task → Task) : (s.modTask t f).wc = s.wc := rfl
@[simp] theorem modTask_tdc (s : State) (t : TaskRef) (f : Task → Task) : (s.modTask t f).tdc = s.tdc := rfl
@[simp] theorem modTask_misses (s : State) (t : TaskRef) (f : Task → Task) : (s.modTask t f).misses = s.misses := rfl
@[simp] theorem modTask_tports (s : State) (t : TaskRef) (f : Task → Task) : (s.modTask t f).tports = s.tports := rfl
@[simp] theorem modTask_xfaults (s : State) (t : TaskRef) (f : Task → Task) : (s.modTask t f).xfaults = s.xfaults := rfl
@[simp] theorem modTask_shadows (s : State) (t : TaskRef) (f : Task → Task) : (s.modTask t f).shadows = s.shadows := rfl
@[simp] theorem modTask_reqs (s : State) (t : TaskRef) (f : Task → Task) : (s.modTask t f).reqs = s.reqs := rfl
@[simp] theorem modTask_replies (s : State) (t : TaskRef) (f : Task → Task) : (s.modTask t f).replies = s.replies := rfl
@[simp] theorem modTask_combines (s : State) (t : TaskRef) (f : Task → Task) : (s.modTask t f).combines = s.combines := rfl
@[simp] theorem modTask_batchRecs (s : State) (t : TaskRef) (f : Task → Task) : (s.modTask t f).batchRecs = s.batchRecs := rfl
@[simp] theorem modTask_circuits (s : State) (t : TaskRef) (f : Task → Task) : (s.modTask t f).circuits = s.circuits := rfl
@[simp] theorem modTask_served (s : State) (t : TaskRef) (f : Task → Task) : (s.modTask t f).served = s.served := rfl
@[simp] theorem modTask_packets (s : State) (t : TaskRef) (f : Task → Task) : (s.modTask t f).packets = s.packets := rfl
@[simp] theorem modTask_ctxs (s : State) (t : TaskRef) (f : Task → Task) : (s.modTask t f).ctxs = s.ctxs := rfl
@[simp] theorem modTask_elems (s : State) (t : TaskRef) (f : Task → Task) : (s.modTask t f).elems = s.elems := rfl
@[simp] theorem modTask_tiles (s : State) (t : TaskRef) (f : Task → Task) : (s.modTask t f).tiles = s.tiles := rfl
@[simp] theorem modTask_stages (s : State) (t : TaskRef) (f : Task → Task) : (s.modTask t f).stages = s.stages := rfl
@[simp] theorem modTask_loads (s : State) (t : TaskRef) (f : Task → Task) : (s.modTask t f).loads = s.loads := rfl
@[simp] theorem modTask_launches (s : State) (t : TaskRef) (f : Task → Task) : (s.modTask t f).launches = s.launches := rfl
@[simp] theorem modTask_images (s : State) (t : TaskRef) (f : Task → Task) : (s.modTask t f).images = s.images := rfl
@[simp] theorem modTask_placements (s : State) (t : TaskRef) (f : Task → Task) : (s.modTask t f).placements = s.placements := rfl
@[simp] theorem modTask_turns (s : State) (t : TaskRef) (f : Task → Task) : (s.modTask t f).turns = s.turns := rfl
@[simp] theorem modTask_claims (s : State) (t : TaskRef) (f : Task → Task) : (s.modTask t f).claims = s.claims := rfl
@[simp] theorem modTask_mgmt (s : State) (t : TaskRef) (f : Task → Task) : (s.modTask t f).mgmt = s.mgmt := rfl
@[simp] theorem modTask_beds (s : State) (t : TaskRef) (f : Task → Task) : (s.modTask t f).beds = s.beds := rfl
@[simp] theorem modTask_spares (s : State) (t : TaskRef) (f : Task → Task) : (s.modTask t f).spares = s.spares := rfl
@[simp] theorem modTask_ports (s : State) (t : TaskRef) (f : Task → Task) : (s.modTask t f).ports = s.ports := rfl
@[simp] theorem modTask_power (s : State) (t : TaskRef) (f : Task → Task) : (s.modTask t f).power = s.power := rfl
@[simp] theorem modTask_ring (s : State) (t : TaskRef) (f : Task → Task) : (s.modTask t f).ring = s.ring := rfl
@[simp] theorem modTask_ringSeq (s : State) (t : TaskRef) (f : Task → Task) : (s.modTask t f).ringSeq = s.ringSeq := rfl
@[simp] theorem modTask_sec (s : State) (t : TaskRef) (f : Task → Task) : (s.modTask t f).sec = s.sec := rfl
@[simp] theorem modTask_hostRead (s : State) (t : TaskRef) (f : Task → Task) : (s.modTask t f).hostRead = s.hostRead := rfl
@[simp] theorem modTask_hostAbort (s : State) (t : TaskRef) (f : Task → Task) : (s.modTask t f).hostAbort = s.hostAbort := rfl
@[simp] theorem modTask_cfgCache (s : State) (t : TaskRef) (f : Task → Task) : (s.modTask t f).cfgCache = s.cfgCache := rfl
@[simp] theorem modTask_noRetry (s : State) (t : TaskRef) (f : Task → Task) : (s.modTask t f).noRetry = s.noRetry := rfl

/-! modFlight -/
@[simp] theorem modFlight_agenda (s : State) (t : TaskRef) (n : Nat) (f : Firing → Firing) : (s.modFlight t n f).agenda = s.agenda := rfl
@[simp] theorem modFlight_cur (s : State) (t : TaskRef) (n : Nat) (f : Firing → Firing) : (s.modFlight t n f).cur = s.cur := rfl
@[simp] theorem modFlight_tick (s : State) (t : TaskRef) (n : Nat) (f : Firing → Firing) : (s.modFlight t n f).tick = s.tick := rfl
@[simp] theorem modFlight_nextId (s : State) (t : TaskRef) (n : Nat) (f : Firing → Firing) : (s.modFlight t n f).nextId = s.nextId := rfl
@[simp] theorem modFlight_cycle (s : State) (t : TaskRef) (n : Nat) (f : Firing → Firing) : (s.modFlight t n f).cycle = s.cycle := rfl
@[simp] theorem modFlight_timeBase (s : State) (t : TaskRef) (n : Nat) (f : Firing → Firing) : (s.modFlight t n f).timeBase = s.timeBase := rfl
@[simp] theorem modFlight_perfBase (s : State) (t : TaskRef) (n : Nat) (f : Firing → Firing) : (s.modFlight t n f).perfBase = s.perfBase := rfl
@[simp] theorem modFlight_mem (s : State) (t : TaskRef) (n : Nat) (f : Firing → Firing) : (s.modFlight t n f).mem = s.mem := rfl
@[simp] theorem modFlight_l2mem (s : State) (t : TaskRef) (n : Nat) (f : Firing → Firing) : (s.modFlight t n f).l2mem = s.l2mem := rfl
@[simp] theorem modFlight_hostmem (s : State) (t : TaskRef) (n : Nat) (f : Firing → Firing) : (s.modFlight t n f).hostmem = s.hostmem := rfl
@[simp] theorem modFlight_bad (s : State) (t : TaskRef) (n : Nat) (f : Firing → Firing) : (s.modFlight t n f).bad = s.bad := rfl
@[simp] theorem modFlight_frames (s : State) (t : TaskRef) (n : Nat) (f : Firing → Firing) : (s.modFlight t n f).frames = s.frames := rfl
@[simp] theorem modFlight_plru (s : State) (t : TaskRef) (n : Nat) (f : Firing → Firing) : (s.modFlight t n f).plru = s.plru := rfl
@[simp] theorem modFlight_marks (s : State) (t : TaskRef) (n : Nat) (f : Firing → Firing) : (s.modFlight t n f).marks = s.marks := rfl
@[simp] theorem modFlight_hostLines (s : State) (t : TaskRef) (n : Nat) (f : Firing → Firing) : (s.modFlight t n f).hostLines = s.hostLines := rfl
@[simp] theorem modFlight_hostBias (s : State) (t : TaskRef) (n : Nat) (f : Firing → Firing) : (s.modFlight t n f).hostBias = s.hostBias := rfl
@[simp] theorem modFlight_words (s : State) (t : TaskRef) (n : Nat) (f : Firing → Firing) : (s.modFlight t n f).words = s.words := rfl
@[simp] theorem modFlight_tc (s : State) (t : TaskRef) (n : Nat) (f : Firing → Firing) : (s.modFlight t n f).tc = s.tc := rfl
@[simp] theorem modFlight_wc (s : State) (t : TaskRef) (n : Nat) (f : Firing → Firing) : (s.modFlight t n f).wc = s.wc := rfl
@[simp] theorem modFlight_tdc (s : State) (t : TaskRef) (n : Nat) (f : Firing → Firing) : (s.modFlight t n f).tdc = s.tdc := rfl
@[simp] theorem modFlight_misses (s : State) (t : TaskRef) (n : Nat) (f : Firing → Firing) : (s.modFlight t n f).misses = s.misses := rfl
@[simp] theorem modFlight_tports (s : State) (t : TaskRef) (n : Nat) (f : Firing → Firing) : (s.modFlight t n f).tports = s.tports := rfl
@[simp] theorem modFlight_xfaults (s : State) (t : TaskRef) (n : Nat) (f : Firing → Firing) : (s.modFlight t n f).xfaults = s.xfaults := rfl
@[simp] theorem modFlight_shadows (s : State) (t : TaskRef) (n : Nat) (f : Firing → Firing) : (s.modFlight t n f).shadows = s.shadows := rfl
@[simp] theorem modFlight_reqs (s : State) (t : TaskRef) (n : Nat) (f : Firing → Firing) : (s.modFlight t n f).reqs = s.reqs := rfl
@[simp] theorem modFlight_replies (s : State) (t : TaskRef) (n : Nat) (f : Firing → Firing) : (s.modFlight t n f).replies = s.replies := rfl
@[simp] theorem modFlight_combines (s : State) (t : TaskRef) (n : Nat) (f : Firing → Firing) : (s.modFlight t n f).combines = s.combines := rfl
@[simp] theorem modFlight_batchRecs (s : State) (t : TaskRef) (n : Nat) (f : Firing → Firing) : (s.modFlight t n f).batchRecs = s.batchRecs := rfl
@[simp] theorem modFlight_circuits (s : State) (t : TaskRef) (n : Nat) (f : Firing → Firing) : (s.modFlight t n f).circuits = s.circuits := rfl
@[simp] theorem modFlight_served (s : State) (t : TaskRef) (n : Nat) (f : Firing → Firing) : (s.modFlight t n f).served = s.served := rfl
@[simp] theorem modFlight_packets (s : State) (t : TaskRef) (n : Nat) (f : Firing → Firing) : (s.modFlight t n f).packets = s.packets := rfl
@[simp] theorem modFlight_ctxs (s : State) (t : TaskRef) (n : Nat) (f : Firing → Firing) : (s.modFlight t n f).ctxs = s.ctxs := rfl
@[simp] theorem modFlight_elems (s : State) (t : TaskRef) (n : Nat) (f : Firing → Firing) : (s.modFlight t n f).elems = s.elems := rfl
@[simp] theorem modFlight_tiles (s : State) (t : TaskRef) (n : Nat) (f : Firing → Firing) : (s.modFlight t n f).tiles = s.tiles := rfl
@[simp] theorem modFlight_stages (s : State) (t : TaskRef) (n : Nat) (f : Firing → Firing) : (s.modFlight t n f).stages = s.stages := rfl
@[simp] theorem modFlight_loads (s : State) (t : TaskRef) (n : Nat) (f : Firing → Firing) : (s.modFlight t n f).loads = s.loads := rfl
@[simp] theorem modFlight_launches (s : State) (t : TaskRef) (n : Nat) (f : Firing → Firing) : (s.modFlight t n f).launches = s.launches := rfl
@[simp] theorem modFlight_images (s : State) (t : TaskRef) (n : Nat) (f : Firing → Firing) : (s.modFlight t n f).images = s.images := rfl
@[simp] theorem modFlight_placements (s : State) (t : TaskRef) (n : Nat) (f : Firing → Firing) : (s.modFlight t n f).placements = s.placements := rfl
@[simp] theorem modFlight_turns (s : State) (t : TaskRef) (n : Nat) (f : Firing → Firing) : (s.modFlight t n f).turns = s.turns := rfl
@[simp] theorem modFlight_claims (s : State) (t : TaskRef) (n : Nat) (f : Firing → Firing) : (s.modFlight t n f).claims = s.claims := rfl
@[simp] theorem modFlight_mgmt (s : State) (t : TaskRef) (n : Nat) (f : Firing → Firing) : (s.modFlight t n f).mgmt = s.mgmt := rfl
@[simp] theorem modFlight_beds (s : State) (t : TaskRef) (n : Nat) (f : Firing → Firing) : (s.modFlight t n f).beds = s.beds := rfl
@[simp] theorem modFlight_spares (s : State) (t : TaskRef) (n : Nat) (f : Firing → Firing) : (s.modFlight t n f).spares = s.spares := rfl
@[simp] theorem modFlight_ports (s : State) (t : TaskRef) (n : Nat) (f : Firing → Firing) : (s.modFlight t n f).ports = s.ports := rfl
@[simp] theorem modFlight_power (s : State) (t : TaskRef) (n : Nat) (f : Firing → Firing) : (s.modFlight t n f).power = s.power := rfl
@[simp] theorem modFlight_ring (s : State) (t : TaskRef) (n : Nat) (f : Firing → Firing) : (s.modFlight t n f).ring = s.ring := rfl
@[simp] theorem modFlight_ringSeq (s : State) (t : TaskRef) (n : Nat) (f : Firing → Firing) : (s.modFlight t n f).ringSeq = s.ringSeq := rfl
@[simp] theorem modFlight_sec (s : State) (t : TaskRef) (n : Nat) (f : Firing → Firing) : (s.modFlight t n f).sec = s.sec := rfl
@[simp] theorem modFlight_hostRead (s : State) (t : TaskRef) (n : Nat) (f : Firing → Firing) : (s.modFlight t n f).hostRead = s.hostRead := rfl
@[simp] theorem modFlight_hostAbort (s : State) (t : TaskRef) (n : Nat) (f : Firing → Firing) : (s.modFlight t n f).hostAbort = s.hostAbort := rfl
@[simp] theorem modFlight_cfgCache (s : State) (t : TaskRef) (n : Nat) (f : Firing → Firing) : (s.modFlight t n f).cfgCache = s.cfgCache := rfl
@[simp] theorem modFlight_noRetry (s : State) (t : TaskRef) (n : Nat) (f : Firing → Firing) : (s.modFlight t n f).noRetry = s.noRetry := rfl

/-! modElem -/
@[simp] theorem modElem_agenda (s : State) (e : ElemRef) (f : Elem → Elem) : (s.modElem e f).agenda = s.agenda := rfl
@[simp] theorem modElem_cur (s : State) (e : ElemRef) (f : Elem → Elem) : (s.modElem e f).cur = s.cur := rfl
@[simp] theorem modElem_tick (s : State) (e : ElemRef) (f : Elem → Elem) : (s.modElem e f).tick = s.tick := rfl
@[simp] theorem modElem_nextId (s : State) (e : ElemRef) (f : Elem → Elem) : (s.modElem e f).nextId = s.nextId := rfl
@[simp] theorem modElem_cycle (s : State) (e : ElemRef) (f : Elem → Elem) : (s.modElem e f).cycle = s.cycle := rfl
@[simp] theorem modElem_timeBase (s : State) (e : ElemRef) (f : Elem → Elem) : (s.modElem e f).timeBase = s.timeBase := rfl
@[simp] theorem modElem_perfBase (s : State) (e : ElemRef) (f : Elem → Elem) : (s.modElem e f).perfBase = s.perfBase := rfl
@[simp] theorem modElem_mem (s : State) (e : ElemRef) (f : Elem → Elem) : (s.modElem e f).mem = s.mem := rfl
@[simp] theorem modElem_l2mem (s : State) (e : ElemRef) (f : Elem → Elem) : (s.modElem e f).l2mem = s.l2mem := rfl
@[simp] theorem modElem_hostmem (s : State) (e : ElemRef) (f : Elem → Elem) : (s.modElem e f).hostmem = s.hostmem := rfl
@[simp] theorem modElem_bad (s : State) (e : ElemRef) (f : Elem → Elem) : (s.modElem e f).bad = s.bad := rfl
@[simp] theorem modElem_frames (s : State) (e : ElemRef) (f : Elem → Elem) : (s.modElem e f).frames = s.frames := rfl
@[simp] theorem modElem_plru (s : State) (e : ElemRef) (f : Elem → Elem) : (s.modElem e f).plru = s.plru := rfl
@[simp] theorem modElem_marks (s : State) (e : ElemRef) (f : Elem → Elem) : (s.modElem e f).marks = s.marks := rfl
@[simp] theorem modElem_hostLines (s : State) (e : ElemRef) (f : Elem → Elem) : (s.modElem e f).hostLines = s.hostLines := rfl
@[simp] theorem modElem_hostBias (s : State) (e : ElemRef) (f : Elem → Elem) : (s.modElem e f).hostBias = s.hostBias := rfl
@[simp] theorem modElem_words (s : State) (e : ElemRef) (f : Elem → Elem) : (s.modElem e f).words = s.words := rfl
@[simp] theorem modElem_tc (s : State) (e : ElemRef) (f : Elem → Elem) : (s.modElem e f).tc = s.tc := rfl
@[simp] theorem modElem_wc (s : State) (e : ElemRef) (f : Elem → Elem) : (s.modElem e f).wc = s.wc := rfl
@[simp] theorem modElem_tdc (s : State) (e : ElemRef) (f : Elem → Elem) : (s.modElem e f).tdc = s.tdc := rfl
@[simp] theorem modElem_misses (s : State) (e : ElemRef) (f : Elem → Elem) : (s.modElem e f).misses = s.misses := rfl
@[simp] theorem modElem_tports (s : State) (e : ElemRef) (f : Elem → Elem) : (s.modElem e f).tports = s.tports := rfl
@[simp] theorem modElem_xfaults (s : State) (e : ElemRef) (f : Elem → Elem) : (s.modElem e f).xfaults = s.xfaults := rfl
@[simp] theorem modElem_shadows (s : State) (e : ElemRef) (f : Elem → Elem) : (s.modElem e f).shadows = s.shadows := rfl
@[simp] theorem modElem_reqs (s : State) (e : ElemRef) (f : Elem → Elem) : (s.modElem e f).reqs = s.reqs := rfl
@[simp] theorem modElem_replies (s : State) (e : ElemRef) (f : Elem → Elem) : (s.modElem e f).replies = s.replies := rfl
@[simp] theorem modElem_combines (s : State) (e : ElemRef) (f : Elem → Elem) : (s.modElem e f).combines = s.combines := rfl
@[simp] theorem modElem_batchRecs (s : State) (e : ElemRef) (f : Elem → Elem) : (s.modElem e f).batchRecs = s.batchRecs := rfl
@[simp] theorem modElem_circuits (s : State) (e : ElemRef) (f : Elem → Elem) : (s.modElem e f).circuits = s.circuits := rfl
@[simp] theorem modElem_served (s : State) (e : ElemRef) (f : Elem → Elem) : (s.modElem e f).served = s.served := rfl
@[simp] theorem modElem_packets (s : State) (e : ElemRef) (f : Elem → Elem) : (s.modElem e f).packets = s.packets := rfl
@[simp] theorem modElem_ctxs (s : State) (e : ElemRef) (f : Elem → Elem) : (s.modElem e f).ctxs = s.ctxs := rfl
@[simp] theorem modElem_tasks (s : State) (e : ElemRef) (f : Elem → Elem) : (s.modElem e f).tasks = s.tasks := rfl
@[simp] theorem modElem_tiles (s : State) (e : ElemRef) (f : Elem → Elem) : (s.modElem e f).tiles = s.tiles := rfl
@[simp] theorem modElem_stages (s : State) (e : ElemRef) (f : Elem → Elem) : (s.modElem e f).stages = s.stages := rfl
@[simp] theorem modElem_loads (s : State) (e : ElemRef) (f : Elem → Elem) : (s.modElem e f).loads = s.loads := rfl
@[simp] theorem modElem_launches (s : State) (e : ElemRef) (f : Elem → Elem) : (s.modElem e f).launches = s.launches := rfl
@[simp] theorem modElem_images (s : State) (e : ElemRef) (f : Elem → Elem) : (s.modElem e f).images = s.images := rfl
@[simp] theorem modElem_placements (s : State) (e : ElemRef) (f : Elem → Elem) : (s.modElem e f).placements = s.placements := rfl
@[simp] theorem modElem_turns (s : State) (e : ElemRef) (f : Elem → Elem) : (s.modElem e f).turns = s.turns := rfl
@[simp] theorem modElem_claims (s : State) (e : ElemRef) (f : Elem → Elem) : (s.modElem e f).claims = s.claims := rfl
@[simp] theorem modElem_mgmt (s : State) (e : ElemRef) (f : Elem → Elem) : (s.modElem e f).mgmt = s.mgmt := rfl
@[simp] theorem modElem_beds (s : State) (e : ElemRef) (f : Elem → Elem) : (s.modElem e f).beds = s.beds := rfl
@[simp] theorem modElem_spares (s : State) (e : ElemRef) (f : Elem → Elem) : (s.modElem e f).spares = s.spares := rfl
@[simp] theorem modElem_ports (s : State) (e : ElemRef) (f : Elem → Elem) : (s.modElem e f).ports = s.ports := rfl
@[simp] theorem modElem_power (s : State) (e : ElemRef) (f : Elem → Elem) : (s.modElem e f).power = s.power := rfl
@[simp] theorem modElem_ring (s : State) (e : ElemRef) (f : Elem → Elem) : (s.modElem e f).ring = s.ring := rfl
@[simp] theorem modElem_ringSeq (s : State) (e : ElemRef) (f : Elem → Elem) : (s.modElem e f).ringSeq = s.ringSeq := rfl
@[simp] theorem modElem_sec (s : State) (e : ElemRef) (f : Elem → Elem) : (s.modElem e f).sec = s.sec := rfl
@[simp] theorem modElem_hostRead (s : State) (e : ElemRef) (f : Elem → Elem) : (s.modElem e f).hostRead = s.hostRead := rfl
@[simp] theorem modElem_hostAbort (s : State) (e : ElemRef) (f : Elem → Elem) : (s.modElem e f).hostAbort = s.hostAbort := rfl
@[simp] theorem modElem_cfgCache (s : State) (e : ElemRef) (f : Elem → Elem) : (s.modElem e f).cfgCache = s.cfgCache := rfl
@[simp] theorem modElem_noRetry (s : State) (e : ElemRef) (f : Elem → Elem) : (s.modElem e f).noRetry = s.noRetry := rfl

/-! modTile -/
@[simp] theorem modTile_agenda (s : State) (n : Nat) (f : Tile → Tile) : (s.modTile n f).agenda = s.agenda := rfl
@[simp] theorem modTile_cur (s : State) (n : Nat) (f : Tile → Tile) : (s.modTile n f).cur = s.cur := rfl
@[simp] theorem modTile_tick (s : State) (n : Nat) (f : Tile → Tile) : (s.modTile n f).tick = s.tick := rfl
@[simp] theorem modTile_nextId (s : State) (n : Nat) (f : Tile → Tile) : (s.modTile n f).nextId = s.nextId := rfl
@[simp] theorem modTile_cycle (s : State) (n : Nat) (f : Tile → Tile) : (s.modTile n f).cycle = s.cycle := rfl
@[simp] theorem modTile_timeBase (s : State) (n : Nat) (f : Tile → Tile) : (s.modTile n f).timeBase = s.timeBase := rfl
@[simp] theorem modTile_perfBase (s : State) (n : Nat) (f : Tile → Tile) : (s.modTile n f).perfBase = s.perfBase := rfl
@[simp] theorem modTile_mem (s : State) (n : Nat) (f : Tile → Tile) : (s.modTile n f).mem = s.mem := rfl
@[simp] theorem modTile_l2mem (s : State) (n : Nat) (f : Tile → Tile) : (s.modTile n f).l2mem = s.l2mem := rfl
@[simp] theorem modTile_hostmem (s : State) (n : Nat) (f : Tile → Tile) : (s.modTile n f).hostmem = s.hostmem := rfl
@[simp] theorem modTile_bad (s : State) (n : Nat) (f : Tile → Tile) : (s.modTile n f).bad = s.bad := rfl
@[simp] theorem modTile_frames (s : State) (n : Nat) (f : Tile → Tile) : (s.modTile n f).frames = s.frames := rfl
@[simp] theorem modTile_plru (s : State) (n : Nat) (f : Tile → Tile) : (s.modTile n f).plru = s.plru := rfl
@[simp] theorem modTile_marks (s : State) (n : Nat) (f : Tile → Tile) : (s.modTile n f).marks = s.marks := rfl
@[simp] theorem modTile_hostLines (s : State) (n : Nat) (f : Tile → Tile) : (s.modTile n f).hostLines = s.hostLines := rfl
@[simp] theorem modTile_hostBias (s : State) (n : Nat) (f : Tile → Tile) : (s.modTile n f).hostBias = s.hostBias := rfl
@[simp] theorem modTile_words (s : State) (n : Nat) (f : Tile → Tile) : (s.modTile n f).words = s.words := rfl
@[simp] theorem modTile_tc (s : State) (n : Nat) (f : Tile → Tile) : (s.modTile n f).tc = s.tc := rfl
@[simp] theorem modTile_wc (s : State) (n : Nat) (f : Tile → Tile) : (s.modTile n f).wc = s.wc := rfl
@[simp] theorem modTile_tdc (s : State) (n : Nat) (f : Tile → Tile) : (s.modTile n f).tdc = s.tdc := rfl
@[simp] theorem modTile_misses (s : State) (n : Nat) (f : Tile → Tile) : (s.modTile n f).misses = s.misses := rfl
@[simp] theorem modTile_tports (s : State) (n : Nat) (f : Tile → Tile) : (s.modTile n f).tports = s.tports := rfl
@[simp] theorem modTile_xfaults (s : State) (n : Nat) (f : Tile → Tile) : (s.modTile n f).xfaults = s.xfaults := rfl
@[simp] theorem modTile_shadows (s : State) (n : Nat) (f : Tile → Tile) : (s.modTile n f).shadows = s.shadows := rfl
@[simp] theorem modTile_reqs (s : State) (n : Nat) (f : Tile → Tile) : (s.modTile n f).reqs = s.reqs := rfl
@[simp] theorem modTile_replies (s : State) (n : Nat) (f : Tile → Tile) : (s.modTile n f).replies = s.replies := rfl
@[simp] theorem modTile_combines (s : State) (n : Nat) (f : Tile → Tile) : (s.modTile n f).combines = s.combines := rfl
@[simp] theorem modTile_batchRecs (s : State) (n : Nat) (f : Tile → Tile) : (s.modTile n f).batchRecs = s.batchRecs := rfl
@[simp] theorem modTile_circuits (s : State) (n : Nat) (f : Tile → Tile) : (s.modTile n f).circuits = s.circuits := rfl
@[simp] theorem modTile_served (s : State) (n : Nat) (f : Tile → Tile) : (s.modTile n f).served = s.served := rfl
@[simp] theorem modTile_packets (s : State) (n : Nat) (f : Tile → Tile) : (s.modTile n f).packets = s.packets := rfl
@[simp] theorem modTile_ctxs (s : State) (n : Nat) (f : Tile → Tile) : (s.modTile n f).ctxs = s.ctxs := rfl
@[simp] theorem modTile_tasks (s : State) (n : Nat) (f : Tile → Tile) : (s.modTile n f).tasks = s.tasks := rfl
@[simp] theorem modTile_elems (s : State) (n : Nat) (f : Tile → Tile) : (s.modTile n f).elems = s.elems := rfl
@[simp] theorem modTile_stages (s : State) (n : Nat) (f : Tile → Tile) : (s.modTile n f).stages = s.stages := rfl
@[simp] theorem modTile_loads (s : State) (n : Nat) (f : Tile → Tile) : (s.modTile n f).loads = s.loads := rfl
@[simp] theorem modTile_launches (s : State) (n : Nat) (f : Tile → Tile) : (s.modTile n f).launches = s.launches := rfl
@[simp] theorem modTile_images (s : State) (n : Nat) (f : Tile → Tile) : (s.modTile n f).images = s.images := rfl
@[simp] theorem modTile_placements (s : State) (n : Nat) (f : Tile → Tile) : (s.modTile n f).placements = s.placements := rfl
@[simp] theorem modTile_turns (s : State) (n : Nat) (f : Tile → Tile) : (s.modTile n f).turns = s.turns := rfl
@[simp] theorem modTile_claims (s : State) (n : Nat) (f : Tile → Tile) : (s.modTile n f).claims = s.claims := rfl
@[simp] theorem modTile_mgmt (s : State) (n : Nat) (f : Tile → Tile) : (s.modTile n f).mgmt = s.mgmt := rfl
@[simp] theorem modTile_beds (s : State) (n : Nat) (f : Tile → Tile) : (s.modTile n f).beds = s.beds := rfl
@[simp] theorem modTile_spares (s : State) (n : Nat) (f : Tile → Tile) : (s.modTile n f).spares = s.spares := rfl
@[simp] theorem modTile_ports (s : State) (n : Nat) (f : Tile → Tile) : (s.modTile n f).ports = s.ports := rfl
@[simp] theorem modTile_power (s : State) (n : Nat) (f : Tile → Tile) : (s.modTile n f).power = s.power := rfl
@[simp] theorem modTile_ring (s : State) (n : Nat) (f : Tile → Tile) : (s.modTile n f).ring = s.ring := rfl
@[simp] theorem modTile_ringSeq (s : State) (n : Nat) (f : Tile → Tile) : (s.modTile n f).ringSeq = s.ringSeq := rfl
@[simp] theorem modTile_sec (s : State) (n : Nat) (f : Tile → Tile) : (s.modTile n f).sec = s.sec := rfl
@[simp] theorem modTile_hostRead (s : State) (n : Nat) (f : Tile → Tile) : (s.modTile n f).hostRead = s.hostRead := rfl
@[simp] theorem modTile_hostAbort (s : State) (n : Nat) (f : Tile → Tile) : (s.modTile n f).hostAbort = s.hostAbort := rfl
@[simp] theorem modTile_cfgCache (s : State) (n : Nat) (f : Tile → Tile) : (s.modTile n f).cfgCache = s.cfgCache := rfl
@[simp] theorem modTile_noRetry (s : State) (n : Nat) (f : Tile → Tile) : (s.modTile n f).noRetry = s.noRetry := rfl

/-! modCtx -/
@[simp] theorem modCtx_agenda (s : State) (n : Nat) (f : Ctx → Ctx) : (s.modCtx n f).agenda = s.agenda := rfl
@[simp] theorem modCtx_cur (s : State) (n : Nat) (f : Ctx → Ctx) : (s.modCtx n f).cur = s.cur := rfl
@[simp] theorem modCtx_tick (s : State) (n : Nat) (f : Ctx → Ctx) : (s.modCtx n f).tick = s.tick := rfl
@[simp] theorem modCtx_nextId (s : State) (n : Nat) (f : Ctx → Ctx) : (s.modCtx n f).nextId = s.nextId := rfl
@[simp] theorem modCtx_cycle (s : State) (n : Nat) (f : Ctx → Ctx) : (s.modCtx n f).cycle = s.cycle := rfl
@[simp] theorem modCtx_timeBase (s : State) (n : Nat) (f : Ctx → Ctx) : (s.modCtx n f).timeBase = s.timeBase := rfl
@[simp] theorem modCtx_perfBase (s : State) (n : Nat) (f : Ctx → Ctx) : (s.modCtx n f).perfBase = s.perfBase := rfl
@[simp] theorem modCtx_mem (s : State) (n : Nat) (f : Ctx → Ctx) : (s.modCtx n f).mem = s.mem := rfl
@[simp] theorem modCtx_l2mem (s : State) (n : Nat) (f : Ctx → Ctx) : (s.modCtx n f).l2mem = s.l2mem := rfl
@[simp] theorem modCtx_hostmem (s : State) (n : Nat) (f : Ctx → Ctx) : (s.modCtx n f).hostmem = s.hostmem := rfl
@[simp] theorem modCtx_bad (s : State) (n : Nat) (f : Ctx → Ctx) : (s.modCtx n f).bad = s.bad := rfl
@[simp] theorem modCtx_frames (s : State) (n : Nat) (f : Ctx → Ctx) : (s.modCtx n f).frames = s.frames := rfl
@[simp] theorem modCtx_plru (s : State) (n : Nat) (f : Ctx → Ctx) : (s.modCtx n f).plru = s.plru := rfl
@[simp] theorem modCtx_marks (s : State) (n : Nat) (f : Ctx → Ctx) : (s.modCtx n f).marks = s.marks := rfl
@[simp] theorem modCtx_hostLines (s : State) (n : Nat) (f : Ctx → Ctx) : (s.modCtx n f).hostLines = s.hostLines := rfl
@[simp] theorem modCtx_hostBias (s : State) (n : Nat) (f : Ctx → Ctx) : (s.modCtx n f).hostBias = s.hostBias := rfl
@[simp] theorem modCtx_words (s : State) (n : Nat) (f : Ctx → Ctx) : (s.modCtx n f).words = s.words := rfl
@[simp] theorem modCtx_tc (s : State) (n : Nat) (f : Ctx → Ctx) : (s.modCtx n f).tc = s.tc := rfl
@[simp] theorem modCtx_wc (s : State) (n : Nat) (f : Ctx → Ctx) : (s.modCtx n f).wc = s.wc := rfl
@[simp] theorem modCtx_tdc (s : State) (n : Nat) (f : Ctx → Ctx) : (s.modCtx n f).tdc = s.tdc := rfl
@[simp] theorem modCtx_misses (s : State) (n : Nat) (f : Ctx → Ctx) : (s.modCtx n f).misses = s.misses := rfl
@[simp] theorem modCtx_tports (s : State) (n : Nat) (f : Ctx → Ctx) : (s.modCtx n f).tports = s.tports := rfl
@[simp] theorem modCtx_xfaults (s : State) (n : Nat) (f : Ctx → Ctx) : (s.modCtx n f).xfaults = s.xfaults := rfl
@[simp] theorem modCtx_shadows (s : State) (n : Nat) (f : Ctx → Ctx) : (s.modCtx n f).shadows = s.shadows := rfl
@[simp] theorem modCtx_reqs (s : State) (n : Nat) (f : Ctx → Ctx) : (s.modCtx n f).reqs = s.reqs := rfl
@[simp] theorem modCtx_replies (s : State) (n : Nat) (f : Ctx → Ctx) : (s.modCtx n f).replies = s.replies := rfl
@[simp] theorem modCtx_combines (s : State) (n : Nat) (f : Ctx → Ctx) : (s.modCtx n f).combines = s.combines := rfl
@[simp] theorem modCtx_batchRecs (s : State) (n : Nat) (f : Ctx → Ctx) : (s.modCtx n f).batchRecs = s.batchRecs := rfl
@[simp] theorem modCtx_circuits (s : State) (n : Nat) (f : Ctx → Ctx) : (s.modCtx n f).circuits = s.circuits := rfl
@[simp] theorem modCtx_served (s : State) (n : Nat) (f : Ctx → Ctx) : (s.modCtx n f).served = s.served := rfl
@[simp] theorem modCtx_packets (s : State) (n : Nat) (f : Ctx → Ctx) : (s.modCtx n f).packets = s.packets := rfl
@[simp] theorem modCtx_tasks (s : State) (n : Nat) (f : Ctx → Ctx) : (s.modCtx n f).tasks = s.tasks := rfl
@[simp] theorem modCtx_elems (s : State) (n : Nat) (f : Ctx → Ctx) : (s.modCtx n f).elems = s.elems := rfl
@[simp] theorem modCtx_tiles (s : State) (n : Nat) (f : Ctx → Ctx) : (s.modCtx n f).tiles = s.tiles := rfl
@[simp] theorem modCtx_stages (s : State) (n : Nat) (f : Ctx → Ctx) : (s.modCtx n f).stages = s.stages := rfl
@[simp] theorem modCtx_loads (s : State) (n : Nat) (f : Ctx → Ctx) : (s.modCtx n f).loads = s.loads := rfl
@[simp] theorem modCtx_launches (s : State) (n : Nat) (f : Ctx → Ctx) : (s.modCtx n f).launches = s.launches := rfl
@[simp] theorem modCtx_images (s : State) (n : Nat) (f : Ctx → Ctx) : (s.modCtx n f).images = s.images := rfl
@[simp] theorem modCtx_placements (s : State) (n : Nat) (f : Ctx → Ctx) : (s.modCtx n f).placements = s.placements := rfl
@[simp] theorem modCtx_turns (s : State) (n : Nat) (f : Ctx → Ctx) : (s.modCtx n f).turns = s.turns := rfl
@[simp] theorem modCtx_claims (s : State) (n : Nat) (f : Ctx → Ctx) : (s.modCtx n f).claims = s.claims := rfl
@[simp] theorem modCtx_mgmt (s : State) (n : Nat) (f : Ctx → Ctx) : (s.modCtx n f).mgmt = s.mgmt := rfl
@[simp] theorem modCtx_beds (s : State) (n : Nat) (f : Ctx → Ctx) : (s.modCtx n f).beds = s.beds := rfl
@[simp] theorem modCtx_spares (s : State) (n : Nat) (f : Ctx → Ctx) : (s.modCtx n f).spares = s.spares := rfl
@[simp] theorem modCtx_ports (s : State) (n : Nat) (f : Ctx → Ctx) : (s.modCtx n f).ports = s.ports := rfl
@[simp] theorem modCtx_power (s : State) (n : Nat) (f : Ctx → Ctx) : (s.modCtx n f).power = s.power := rfl
@[simp] theorem modCtx_ring (s : State) (n : Nat) (f : Ctx → Ctx) : (s.modCtx n f).ring = s.ring := rfl
@[simp] theorem modCtx_ringSeq (s : State) (n : Nat) (f : Ctx → Ctx) : (s.modCtx n f).ringSeq = s.ringSeq := rfl
@[simp] theorem modCtx_sec (s : State) (n : Nat) (f : Ctx → Ctx) : (s.modCtx n f).sec = s.sec := rfl
@[simp] theorem modCtx_hostRead (s : State) (n : Nat) (f : Ctx → Ctx) : (s.modCtx n f).hostRead = s.hostRead := rfl
@[simp] theorem modCtx_hostAbort (s : State) (n : Nat) (f : Ctx → Ctx) : (s.modCtx n f).hostAbort = s.hostAbort := rfl
@[simp] theorem modCtx_cfgCache (s : State) (n : Nat) (f : Ctx → Ctx) : (s.modCtx n f).cfgCache = s.cfgCache := rfl
@[simp] theorem modCtx_noRetry (s : State) (n : Nat) (f : Ctx → Ctx) : (s.modCtx n f).noRetry = s.noRetry := rfl

/-! modStage -/
@[simp] theorem modStage_agenda (s : State) (b q : Nat) (f : Stage → Stage) : (s.modStage b q f).agenda = s.agenda := rfl
@[simp] theorem modStage_cur (s : State) (b q : Nat) (f : Stage → Stage) : (s.modStage b q f).cur = s.cur := rfl
@[simp] theorem modStage_tick (s : State) (b q : Nat) (f : Stage → Stage) : (s.modStage b q f).tick = s.tick := rfl
@[simp] theorem modStage_nextId (s : State) (b q : Nat) (f : Stage → Stage) : (s.modStage b q f).nextId = s.nextId := rfl
@[simp] theorem modStage_cycle (s : State) (b q : Nat) (f : Stage → Stage) : (s.modStage b q f).cycle = s.cycle := rfl
@[simp] theorem modStage_timeBase (s : State) (b q : Nat) (f : Stage → Stage) : (s.modStage b q f).timeBase = s.timeBase := rfl
@[simp] theorem modStage_perfBase (s : State) (b q : Nat) (f : Stage → Stage) : (s.modStage b q f).perfBase = s.perfBase := rfl
@[simp] theorem modStage_mem (s : State) (b q : Nat) (f : Stage → Stage) : (s.modStage b q f).mem = s.mem := rfl
@[simp] theorem modStage_l2mem (s : State) (b q : Nat) (f : Stage → Stage) : (s.modStage b q f).l2mem = s.l2mem := rfl
@[simp] theorem modStage_hostmem (s : State) (b q : Nat) (f : Stage → Stage) : (s.modStage b q f).hostmem = s.hostmem := rfl
@[simp] theorem modStage_bad (s : State) (b q : Nat) (f : Stage → Stage) : (s.modStage b q f).bad = s.bad := rfl
@[simp] theorem modStage_frames (s : State) (b q : Nat) (f : Stage → Stage) : (s.modStage b q f).frames = s.frames := rfl
@[simp] theorem modStage_plru (s : State) (b q : Nat) (f : Stage → Stage) : (s.modStage b q f).plru = s.plru := rfl
@[simp] theorem modStage_marks (s : State) (b q : Nat) (f : Stage → Stage) : (s.modStage b q f).marks = s.marks := rfl
@[simp] theorem modStage_hostLines (s : State) (b q : Nat) (f : Stage → Stage) : (s.modStage b q f).hostLines = s.hostLines := rfl
@[simp] theorem modStage_hostBias (s : State) (b q : Nat) (f : Stage → Stage) : (s.modStage b q f).hostBias = s.hostBias := rfl
@[simp] theorem modStage_words (s : State) (b q : Nat) (f : Stage → Stage) : (s.modStage b q f).words = s.words := rfl
@[simp] theorem modStage_tc (s : State) (b q : Nat) (f : Stage → Stage) : (s.modStage b q f).tc = s.tc := rfl
@[simp] theorem modStage_wc (s : State) (b q : Nat) (f : Stage → Stage) : (s.modStage b q f).wc = s.wc := rfl
@[simp] theorem modStage_tdc (s : State) (b q : Nat) (f : Stage → Stage) : (s.modStage b q f).tdc = s.tdc := rfl
@[simp] theorem modStage_misses (s : State) (b q : Nat) (f : Stage → Stage) : (s.modStage b q f).misses = s.misses := rfl
@[simp] theorem modStage_tports (s : State) (b q : Nat) (f : Stage → Stage) : (s.modStage b q f).tports = s.tports := rfl
@[simp] theorem modStage_xfaults (s : State) (b q : Nat) (f : Stage → Stage) : (s.modStage b q f).xfaults = s.xfaults := rfl
@[simp] theorem modStage_shadows (s : State) (b q : Nat) (f : Stage → Stage) : (s.modStage b q f).shadows = s.shadows := rfl
@[simp] theorem modStage_reqs (s : State) (b q : Nat) (f : Stage → Stage) : (s.modStage b q f).reqs = s.reqs := rfl
@[simp] theorem modStage_replies (s : State) (b q : Nat) (f : Stage → Stage) : (s.modStage b q f).replies = s.replies := rfl
@[simp] theorem modStage_combines (s : State) (b q : Nat) (f : Stage → Stage) : (s.modStage b q f).combines = s.combines := rfl
@[simp] theorem modStage_batchRecs (s : State) (b q : Nat) (f : Stage → Stage) : (s.modStage b q f).batchRecs = s.batchRecs := rfl
@[simp] theorem modStage_circuits (s : State) (b q : Nat) (f : Stage → Stage) : (s.modStage b q f).circuits = s.circuits := rfl
@[simp] theorem modStage_served (s : State) (b q : Nat) (f : Stage → Stage) : (s.modStage b q f).served = s.served := rfl
@[simp] theorem modStage_packets (s : State) (b q : Nat) (f : Stage → Stage) : (s.modStage b q f).packets = s.packets := rfl
@[simp] theorem modStage_ctxs (s : State) (b q : Nat) (f : Stage → Stage) : (s.modStage b q f).ctxs = s.ctxs := rfl
@[simp] theorem modStage_tasks (s : State) (b q : Nat) (f : Stage → Stage) : (s.modStage b q f).tasks = s.tasks := rfl
@[simp] theorem modStage_elems (s : State) (b q : Nat) (f : Stage → Stage) : (s.modStage b q f).elems = s.elems := rfl
@[simp] theorem modStage_tiles (s : State) (b q : Nat) (f : Stage → Stage) : (s.modStage b q f).tiles = s.tiles := rfl
@[simp] theorem modStage_loads (s : State) (b q : Nat) (f : Stage → Stage) : (s.modStage b q f).loads = s.loads := rfl
@[simp] theorem modStage_launches (s : State) (b q : Nat) (f : Stage → Stage) : (s.modStage b q f).launches = s.launches := rfl
@[simp] theorem modStage_images (s : State) (b q : Nat) (f : Stage → Stage) : (s.modStage b q f).images = s.images := rfl
@[simp] theorem modStage_placements (s : State) (b q : Nat) (f : Stage → Stage) : (s.modStage b q f).placements = s.placements := rfl
@[simp] theorem modStage_turns (s : State) (b q : Nat) (f : Stage → Stage) : (s.modStage b q f).turns = s.turns := rfl
@[simp] theorem modStage_claims (s : State) (b q : Nat) (f : Stage → Stage) : (s.modStage b q f).claims = s.claims := rfl
@[simp] theorem modStage_mgmt (s : State) (b q : Nat) (f : Stage → Stage) : (s.modStage b q f).mgmt = s.mgmt := rfl
@[simp] theorem modStage_beds (s : State) (b q : Nat) (f : Stage → Stage) : (s.modStage b q f).beds = s.beds := rfl
@[simp] theorem modStage_spares (s : State) (b q : Nat) (f : Stage → Stage) : (s.modStage b q f).spares = s.spares := rfl
@[simp] theorem modStage_ports (s : State) (b q : Nat) (f : Stage → Stage) : (s.modStage b q f).ports = s.ports := rfl
@[simp] theorem modStage_power (s : State) (b q : Nat) (f : Stage → Stage) : (s.modStage b q f).power = s.power := rfl
@[simp] theorem modStage_ring (s : State) (b q : Nat) (f : Stage → Stage) : (s.modStage b q f).ring = s.ring := rfl
@[simp] theorem modStage_ringSeq (s : State) (b q : Nat) (f : Stage → Stage) : (s.modStage b q f).ringSeq = s.ringSeq := rfl
@[simp] theorem modStage_sec (s : State) (b q : Nat) (f : Stage → Stage) : (s.modStage b q f).sec = s.sec := rfl
@[simp] theorem modStage_hostRead (s : State) (b q : Nat) (f : Stage → Stage) : (s.modStage b q f).hostRead = s.hostRead := rfl
@[simp] theorem modStage_hostAbort (s : State) (b q : Nat) (f : Stage → Stage) : (s.modStage b q f).hostAbort = s.hostAbort := rfl
@[simp] theorem modStage_cfgCache (s : State) (b q : Nat) (f : Stage → Stage) : (s.modStage b q f).cfgCache = s.cfgCache := rfl
@[simp] theorem modStage_noRetry (s : State) (b q : Nat) (f : Stage → Stage) : (s.modStage b q f).noRetry = s.noRetry := rfl

/-! modLoad -/
@[simp] theorem modLoad_agenda (s : State) (n : Nat) (f : Load → Load) : (s.modLoad n f).agenda = s.agenda := rfl
@[simp] theorem modLoad_cur (s : State) (n : Nat) (f : Load → Load) : (s.modLoad n f).cur = s.cur := rfl
@[simp] theorem modLoad_tick (s : State) (n : Nat) (f : Load → Load) : (s.modLoad n f).tick = s.tick := rfl
@[simp] theorem modLoad_nextId (s : State) (n : Nat) (f : Load → Load) : (s.modLoad n f).nextId = s.nextId := rfl
@[simp] theorem modLoad_cycle (s : State) (n : Nat) (f : Load → Load) : (s.modLoad n f).cycle = s.cycle := rfl
@[simp] theorem modLoad_timeBase (s : State) (n : Nat) (f : Load → Load) : (s.modLoad n f).timeBase = s.timeBase := rfl
@[simp] theorem modLoad_perfBase (s : State) (n : Nat) (f : Load → Load) : (s.modLoad n f).perfBase = s.perfBase := rfl
@[simp] theorem modLoad_mem (s : State) (n : Nat) (f : Load → Load) : (s.modLoad n f).mem = s.mem := rfl
@[simp] theorem modLoad_l2mem (s : State) (n : Nat) (f : Load → Load) : (s.modLoad n f).l2mem = s.l2mem := rfl
@[simp] theorem modLoad_hostmem (s : State) (n : Nat) (f : Load → Load) : (s.modLoad n f).hostmem = s.hostmem := rfl
@[simp] theorem modLoad_bad (s : State) (n : Nat) (f : Load → Load) : (s.modLoad n f).bad = s.bad := rfl
@[simp] theorem modLoad_frames (s : State) (n : Nat) (f : Load → Load) : (s.modLoad n f).frames = s.frames := rfl
@[simp] theorem modLoad_plru (s : State) (n : Nat) (f : Load → Load) : (s.modLoad n f).plru = s.plru := rfl
@[simp] theorem modLoad_marks (s : State) (n : Nat) (f : Load → Load) : (s.modLoad n f).marks = s.marks := rfl
@[simp] theorem modLoad_hostLines (s : State) (n : Nat) (f : Load → Load) : (s.modLoad n f).hostLines = s.hostLines := rfl
@[simp] theorem modLoad_hostBias (s : State) (n : Nat) (f : Load → Load) : (s.modLoad n f).hostBias = s.hostBias := rfl
@[simp] theorem modLoad_words (s : State) (n : Nat) (f : Load → Load) : (s.modLoad n f).words = s.words := rfl
@[simp] theorem modLoad_tc (s : State) (n : Nat) (f : Load → Load) : (s.modLoad n f).tc = s.tc := rfl
@[simp] theorem modLoad_wc (s : State) (n : Nat) (f : Load → Load) : (s.modLoad n f).wc = s.wc := rfl
@[simp] theorem modLoad_tdc (s : State) (n : Nat) (f : Load → Load) : (s.modLoad n f).tdc = s.tdc := rfl
@[simp] theorem modLoad_misses (s : State) (n : Nat) (f : Load → Load) : (s.modLoad n f).misses = s.misses := rfl
@[simp] theorem modLoad_tports (s : State) (n : Nat) (f : Load → Load) : (s.modLoad n f).tports = s.tports := rfl
@[simp] theorem modLoad_xfaults (s : State) (n : Nat) (f : Load → Load) : (s.modLoad n f).xfaults = s.xfaults := rfl
@[simp] theorem modLoad_shadows (s : State) (n : Nat) (f : Load → Load) : (s.modLoad n f).shadows = s.shadows := rfl
@[simp] theorem modLoad_reqs (s : State) (n : Nat) (f : Load → Load) : (s.modLoad n f).reqs = s.reqs := rfl
@[simp] theorem modLoad_replies (s : State) (n : Nat) (f : Load → Load) : (s.modLoad n f).replies = s.replies := rfl
@[simp] theorem modLoad_combines (s : State) (n : Nat) (f : Load → Load) : (s.modLoad n f).combines = s.combines := rfl
@[simp] theorem modLoad_batchRecs (s : State) (n : Nat) (f : Load → Load) : (s.modLoad n f).batchRecs = s.batchRecs := rfl
@[simp] theorem modLoad_circuits (s : State) (n : Nat) (f : Load → Load) : (s.modLoad n f).circuits = s.circuits := rfl
@[simp] theorem modLoad_served (s : State) (n : Nat) (f : Load → Load) : (s.modLoad n f).served = s.served := rfl
@[simp] theorem modLoad_packets (s : State) (n : Nat) (f : Load → Load) : (s.modLoad n f).packets = s.packets := rfl
@[simp] theorem modLoad_ctxs (s : State) (n : Nat) (f : Load → Load) : (s.modLoad n f).ctxs = s.ctxs := rfl
@[simp] theorem modLoad_tasks (s : State) (n : Nat) (f : Load → Load) : (s.modLoad n f).tasks = s.tasks := rfl
@[simp] theorem modLoad_elems (s : State) (n : Nat) (f : Load → Load) : (s.modLoad n f).elems = s.elems := rfl
@[simp] theorem modLoad_tiles (s : State) (n : Nat) (f : Load → Load) : (s.modLoad n f).tiles = s.tiles := rfl
@[simp] theorem modLoad_stages (s : State) (n : Nat) (f : Load → Load) : (s.modLoad n f).stages = s.stages := rfl
@[simp] theorem modLoad_launches (s : State) (n : Nat) (f : Load → Load) : (s.modLoad n f).launches = s.launches := rfl
@[simp] theorem modLoad_images (s : State) (n : Nat) (f : Load → Load) : (s.modLoad n f).images = s.images := rfl
@[simp] theorem modLoad_placements (s : State) (n : Nat) (f : Load → Load) : (s.modLoad n f).placements = s.placements := rfl
@[simp] theorem modLoad_turns (s : State) (n : Nat) (f : Load → Load) : (s.modLoad n f).turns = s.turns := rfl
@[simp] theorem modLoad_claims (s : State) (n : Nat) (f : Load → Load) : (s.modLoad n f).claims = s.claims := rfl
@[simp] theorem modLoad_mgmt (s : State) (n : Nat) (f : Load → Load) : (s.modLoad n f).mgmt = s.mgmt := rfl
@[simp] theorem modLoad_beds (s : State) (n : Nat) (f : Load → Load) : (s.modLoad n f).beds = s.beds := rfl
@[simp] theorem modLoad_spares (s : State) (n : Nat) (f : Load → Load) : (s.modLoad n f).spares = s.spares := rfl
@[simp] theorem modLoad_ports (s : State) (n : Nat) (f : Load → Load) : (s.modLoad n f).ports = s.ports := rfl
@[simp] theorem modLoad_power (s : State) (n : Nat) (f : Load → Load) : (s.modLoad n f).power = s.power := rfl
@[simp] theorem modLoad_ring (s : State) (n : Nat) (f : Load → Load) : (s.modLoad n f).ring = s.ring := rfl
@[simp] theorem modLoad_ringSeq (s : State) (n : Nat) (f : Load → Load) : (s.modLoad n f).ringSeq = s.ringSeq := rfl
@[simp] theorem modLoad_sec (s : State) (n : Nat) (f : Load → Load) : (s.modLoad n f).sec = s.sec := rfl
@[simp] theorem modLoad_hostRead (s : State) (n : Nat) (f : Load → Load) : (s.modLoad n f).hostRead = s.hostRead := rfl
@[simp] theorem modLoad_hostAbort (s : State) (n : Nat) (f : Load → Load) : (s.modLoad n f).hostAbort = s.hostAbort := rfl
@[simp] theorem modLoad_cfgCache (s : State) (n : Nat) (f : Load → Load) : (s.modLoad n f).cfgCache = s.cfgCache := rfl
@[simp] theorem modLoad_noRetry (s : State) (n : Nat) (f : Load → Load) : (s.modLoad n f).noRetry = s.noRetry := rfl

/-! modReq -/
@[simp] theorem modReq_agenda (s : State) (n : Nat) (f : Req → Req) : (s.modReq n f).agenda = s.agenda := rfl
@[simp] theorem modReq_cur (s : State) (n : Nat) (f : Req → Req) : (s.modReq n f).cur = s.cur := rfl
@[simp] theorem modReq_tick (s : State) (n : Nat) (f : Req → Req) : (s.modReq n f).tick = s.tick := rfl
@[simp] theorem modReq_nextId (s : State) (n : Nat) (f : Req → Req) : (s.modReq n f).nextId = s.nextId := rfl
@[simp] theorem modReq_cycle (s : State) (n : Nat) (f : Req → Req) : (s.modReq n f).cycle = s.cycle := rfl
@[simp] theorem modReq_timeBase (s : State) (n : Nat) (f : Req → Req) : (s.modReq n f).timeBase = s.timeBase := rfl
@[simp] theorem modReq_perfBase (s : State) (n : Nat) (f : Req → Req) : (s.modReq n f).perfBase = s.perfBase := rfl
@[simp] theorem modReq_mem (s : State) (n : Nat) (f : Req → Req) : (s.modReq n f).mem = s.mem := rfl
@[simp] theorem modReq_l2mem (s : State) (n : Nat) (f : Req → Req) : (s.modReq n f).l2mem = s.l2mem := rfl
@[simp] theorem modReq_hostmem (s : State) (n : Nat) (f : Req → Req) : (s.modReq n f).hostmem = s.hostmem := rfl
@[simp] theorem modReq_bad (s : State) (n : Nat) (f : Req → Req) : (s.modReq n f).bad = s.bad := rfl
@[simp] theorem modReq_frames (s : State) (n : Nat) (f : Req → Req) : (s.modReq n f).frames = s.frames := rfl
@[simp] theorem modReq_plru (s : State) (n : Nat) (f : Req → Req) : (s.modReq n f).plru = s.plru := rfl
@[simp] theorem modReq_marks (s : State) (n : Nat) (f : Req → Req) : (s.modReq n f).marks = s.marks := rfl
@[simp] theorem modReq_hostLines (s : State) (n : Nat) (f : Req → Req) : (s.modReq n f).hostLines = s.hostLines := rfl
@[simp] theorem modReq_hostBias (s : State) (n : Nat) (f : Req → Req) : (s.modReq n f).hostBias = s.hostBias := rfl
@[simp] theorem modReq_words (s : State) (n : Nat) (f : Req → Req) : (s.modReq n f).words = s.words := rfl
@[simp] theorem modReq_tc (s : State) (n : Nat) (f : Req → Req) : (s.modReq n f).tc = s.tc := rfl
@[simp] theorem modReq_wc (s : State) (n : Nat) (f : Req → Req) : (s.modReq n f).wc = s.wc := rfl
@[simp] theorem modReq_tdc (s : State) (n : Nat) (f : Req → Req) : (s.modReq n f).tdc = s.tdc := rfl
@[simp] theorem modReq_misses (s : State) (n : Nat) (f : Req → Req) : (s.modReq n f).misses = s.misses := rfl
@[simp] theorem modReq_tports (s : State) (n : Nat) (f : Req → Req) : (s.modReq n f).tports = s.tports := rfl
@[simp] theorem modReq_xfaults (s : State) (n : Nat) (f : Req → Req) : (s.modReq n f).xfaults = s.xfaults := rfl
@[simp] theorem modReq_shadows (s : State) (n : Nat) (f : Req → Req) : (s.modReq n f).shadows = s.shadows := rfl
@[simp] theorem modReq_replies (s : State) (n : Nat) (f : Req → Req) : (s.modReq n f).replies = s.replies := rfl
@[simp] theorem modReq_combines (s : State) (n : Nat) (f : Req → Req) : (s.modReq n f).combines = s.combines := rfl
@[simp] theorem modReq_batchRecs (s : State) (n : Nat) (f : Req → Req) : (s.modReq n f).batchRecs = s.batchRecs := rfl
@[simp] theorem modReq_circuits (s : State) (n : Nat) (f : Req → Req) : (s.modReq n f).circuits = s.circuits := rfl
@[simp] theorem modReq_served (s : State) (n : Nat) (f : Req → Req) : (s.modReq n f).served = s.served := rfl
@[simp] theorem modReq_packets (s : State) (n : Nat) (f : Req → Req) : (s.modReq n f).packets = s.packets := rfl
@[simp] theorem modReq_ctxs (s : State) (n : Nat) (f : Req → Req) : (s.modReq n f).ctxs = s.ctxs := rfl
@[simp] theorem modReq_tasks (s : State) (n : Nat) (f : Req → Req) : (s.modReq n f).tasks = s.tasks := rfl
@[simp] theorem modReq_elems (s : State) (n : Nat) (f : Req → Req) : (s.modReq n f).elems = s.elems := rfl
@[simp] theorem modReq_tiles (s : State) (n : Nat) (f : Req → Req) : (s.modReq n f).tiles = s.tiles := rfl
@[simp] theorem modReq_stages (s : State) (n : Nat) (f : Req → Req) : (s.modReq n f).stages = s.stages := rfl
@[simp] theorem modReq_loads (s : State) (n : Nat) (f : Req → Req) : (s.modReq n f).loads = s.loads := rfl
@[simp] theorem modReq_launches (s : State) (n : Nat) (f : Req → Req) : (s.modReq n f).launches = s.launches := rfl
@[simp] theorem modReq_images (s : State) (n : Nat) (f : Req → Req) : (s.modReq n f).images = s.images := rfl
@[simp] theorem modReq_placements (s : State) (n : Nat) (f : Req → Req) : (s.modReq n f).placements = s.placements := rfl
@[simp] theorem modReq_turns (s : State) (n : Nat) (f : Req → Req) : (s.modReq n f).turns = s.turns := rfl
@[simp] theorem modReq_claims (s : State) (n : Nat) (f : Req → Req) : (s.modReq n f).claims = s.claims := rfl
@[simp] theorem modReq_mgmt (s : State) (n : Nat) (f : Req → Req) : (s.modReq n f).mgmt = s.mgmt := rfl
@[simp] theorem modReq_beds (s : State) (n : Nat) (f : Req → Req) : (s.modReq n f).beds = s.beds := rfl
@[simp] theorem modReq_spares (s : State) (n : Nat) (f : Req → Req) : (s.modReq n f).spares = s.spares := rfl
@[simp] theorem modReq_ports (s : State) (n : Nat) (f : Req → Req) : (s.modReq n f).ports = s.ports := rfl
@[simp] theorem modReq_power (s : State) (n : Nat) (f : Req → Req) : (s.modReq n f).power = s.power := rfl
@[simp] theorem modReq_ring (s : State) (n : Nat) (f : Req → Req) : (s.modReq n f).ring = s.ring := rfl
@[simp] theorem modReq_ringSeq (s : State) (n : Nat) (f : Req → Req) : (s.modReq n f).ringSeq = s.ringSeq := rfl
@[simp] theorem modReq_sec (s : State) (n : Nat) (f : Req → Req) : (s.modReq n f).sec = s.sec := rfl
@[simp] theorem modReq_hostRead (s : State) (n : Nat) (f : Req → Req) : (s.modReq n f).hostRead = s.hostRead := rfl
@[simp] theorem modReq_hostAbort (s : State) (n : Nat) (f : Req → Req) : (s.modReq n f).hostAbort = s.hostAbort := rfl
@[simp] theorem modReq_cfgCache (s : State) (n : Nat) (f : Req → Req) : (s.modReq n f).cfgCache = s.cfgCache := rfl
@[simp] theorem modReq_noRetry (s : State) (n : Nat) (f : Req → Req) : (s.modReq n f).noRetry = s.noRetry := rfl

/-! dropReq -/
@[simp] theorem dropReq_agenda (s : State) (n : Nat) : (s.dropReq n).agenda = s.agenda := rfl
@[simp] theorem dropReq_cur (s : State) (n : Nat) : (s.dropReq n).cur = s.cur := rfl
@[simp] theorem dropReq_tick (s : State) (n : Nat) : (s.dropReq n).tick = s.tick := rfl
@[simp] theorem dropReq_nextId (s : State) (n : Nat) : (s.dropReq n).nextId = s.nextId := rfl
@[simp] theorem dropReq_cycle (s : State) (n : Nat) : (s.dropReq n).cycle = s.cycle := rfl
@[simp] theorem dropReq_timeBase (s : State) (n : Nat) : (s.dropReq n).timeBase = s.timeBase := rfl
@[simp] theorem dropReq_perfBase (s : State) (n : Nat) : (s.dropReq n).perfBase = s.perfBase := rfl
@[simp] theorem dropReq_mem (s : State) (n : Nat) : (s.dropReq n).mem = s.mem := rfl
@[simp] theorem dropReq_l2mem (s : State) (n : Nat) : (s.dropReq n).l2mem = s.l2mem := rfl
@[simp] theorem dropReq_hostmem (s : State) (n : Nat) : (s.dropReq n).hostmem = s.hostmem := rfl
@[simp] theorem dropReq_bad (s : State) (n : Nat) : (s.dropReq n).bad = s.bad := rfl
@[simp] theorem dropReq_frames (s : State) (n : Nat) : (s.dropReq n).frames = s.frames := rfl
@[simp] theorem dropReq_plru (s : State) (n : Nat) : (s.dropReq n).plru = s.plru := rfl
@[simp] theorem dropReq_marks (s : State) (n : Nat) : (s.dropReq n).marks = s.marks := rfl
@[simp] theorem dropReq_hostLines (s : State) (n : Nat) : (s.dropReq n).hostLines = s.hostLines := rfl
@[simp] theorem dropReq_hostBias (s : State) (n : Nat) : (s.dropReq n).hostBias = s.hostBias := rfl
@[simp] theorem dropReq_words (s : State) (n : Nat) : (s.dropReq n).words = s.words := rfl
@[simp] theorem dropReq_tc (s : State) (n : Nat) : (s.dropReq n).tc = s.tc := rfl
@[simp] theorem dropReq_wc (s : State) (n : Nat) : (s.dropReq n).wc = s.wc := rfl
@[simp] theorem dropReq_tdc (s : State) (n : Nat) : (s.dropReq n).tdc = s.tdc := rfl
@[simp] theorem dropReq_misses (s : State) (n : Nat) : (s.dropReq n).misses = s.misses := rfl
@[simp] theorem dropReq_tports (s : State) (n : Nat) : (s.dropReq n).tports = s.tports := rfl
@[simp] theorem dropReq_xfaults (s : State) (n : Nat) : (s.dropReq n).xfaults = s.xfaults := rfl
@[simp] theorem dropReq_shadows (s : State) (n : Nat) : (s.dropReq n).shadows = s.shadows := rfl
@[simp] theorem dropReq_replies (s : State) (n : Nat) : (s.dropReq n).replies = s.replies := rfl
@[simp] theorem dropReq_combines (s : State) (n : Nat) : (s.dropReq n).combines = s.combines := rfl
@[simp] theorem dropReq_batchRecs (s : State) (n : Nat) : (s.dropReq n).batchRecs = s.batchRecs := rfl
@[simp] theorem dropReq_circuits (s : State) (n : Nat) : (s.dropReq n).circuits = s.circuits := rfl
@[simp] theorem dropReq_served (s : State) (n : Nat) : (s.dropReq n).served = s.served := rfl
@[simp] theorem dropReq_packets (s : State) (n : Nat) : (s.dropReq n).packets = s.packets := rfl
@[simp] theorem dropReq_ctxs (s : State) (n : Nat) : (s.dropReq n).ctxs = s.ctxs := rfl
@[simp] theorem dropReq_tasks (s : State) (n : Nat) : (s.dropReq n).tasks = s.tasks := rfl
@[simp] theorem dropReq_elems (s : State) (n : Nat) : (s.dropReq n).elems = s.elems := rfl
@[simp] theorem dropReq_tiles (s : State) (n : Nat) : (s.dropReq n).tiles = s.tiles := rfl
@[simp] theorem dropReq_stages (s : State) (n : Nat) : (s.dropReq n).stages = s.stages := rfl
@[simp] theorem dropReq_loads (s : State) (n : Nat) : (s.dropReq n).loads = s.loads := rfl
@[simp] theorem dropReq_launches (s : State) (n : Nat) : (s.dropReq n).launches = s.launches := rfl
@[simp] theorem dropReq_images (s : State) (n : Nat) : (s.dropReq n).images = s.images := rfl
@[simp] theorem dropReq_placements (s : State) (n : Nat) : (s.dropReq n).placements = s.placements := rfl
@[simp] theorem dropReq_turns (s : State) (n : Nat) : (s.dropReq n).turns = s.turns := rfl
@[simp] theorem dropReq_claims (s : State) (n : Nat) : (s.dropReq n).claims = s.claims := rfl
@[simp] theorem dropReq_mgmt (s : State) (n : Nat) : (s.dropReq n).mgmt = s.mgmt := rfl
@[simp] theorem dropReq_beds (s : State) (n : Nat) : (s.dropReq n).beds = s.beds := rfl
@[simp] theorem dropReq_spares (s : State) (n : Nat) : (s.dropReq n).spares = s.spares := rfl
@[simp] theorem dropReq_ports (s : State) (n : Nat) : (s.dropReq n).ports = s.ports := rfl
@[simp] theorem dropReq_power (s : State) (n : Nat) : (s.dropReq n).power = s.power := rfl
@[simp] theorem dropReq_ring (s : State) (n : Nat) : (s.dropReq n).ring = s.ring := rfl
@[simp] theorem dropReq_ringSeq (s : State) (n : Nat) : (s.dropReq n).ringSeq = s.ringSeq := rfl
@[simp] theorem dropReq_sec (s : State) (n : Nat) : (s.dropReq n).sec = s.sec := rfl
@[simp] theorem dropReq_hostRead (s : State) (n : Nat) : (s.dropReq n).hostRead = s.hostRead := rfl
@[simp] theorem dropReq_hostAbort (s : State) (n : Nat) : (s.dropReq n).hostAbort = s.hostAbort := rfl
@[simp] theorem dropReq_cfgCache (s : State) (n : Nat) : (s.dropReq n).cfgCache = s.cfgCache := rfl
@[simp] theorem dropReq_noRetry (s : State) (n : Nat) : (s.dropReq n).noRetry = s.noRetry := rfl

/-! post -/
@[simp] theorem post_cur (s : State) (w : Work) : (s.post w).cur = s.cur := rfl
@[simp] theorem post_tick (s : State) (w : Work) : (s.post w).tick = s.tick := rfl
@[simp] theorem post_nextId (s : State) (w : Work) : (s.post w).nextId = s.nextId := rfl
@[simp] theorem post_cycle (s : State) (w : Work) : (s.post w).cycle = s.cycle := rfl
@[simp] theorem post_timeBase (s : State) (w : Work) : (s.post w).timeBase = s.timeBase := rfl
@[simp] theorem post_perfBase (s : State) (w : Work) : (s.post w).perfBase = s.perfBase := rfl
@[simp] theorem post_mem (s : State) (w : Work) : (s.post w).mem = s.mem := rfl
@[simp] theorem post_l2mem (s : State) (w : Work) : (s.post w).l2mem = s.l2mem := rfl
@[simp] theorem post_hostmem (s : State) (w : Work) : (s.post w).hostmem = s.hostmem := rfl
@[simp] theorem post_bad (s : State) (w : Work) : (s.post w).bad = s.bad := rfl
@[simp] theorem post_frames (s : State) (w : Work) : (s.post w).frames = s.frames := rfl
@[simp] theorem post_plru (s : State) (w : Work) : (s.post w).plru = s.plru := rfl
@[simp] theorem post_marks (s : State) (w : Work) : (s.post w).marks = s.marks := rfl
@[simp] theorem post_hostLines (s : State) (w : Work) : (s.post w).hostLines = s.hostLines := rfl
@[simp] theorem post_hostBias (s : State) (w : Work) : (s.post w).hostBias = s.hostBias := rfl
@[simp] theorem post_words (s : State) (w : Work) : (s.post w).words = s.words := rfl
@[simp] theorem post_tc (s : State) (w : Work) : (s.post w).tc = s.tc := rfl
@[simp] theorem post_wc (s : State) (w : Work) : (s.post w).wc = s.wc := rfl
@[simp] theorem post_tdc (s : State) (w : Work) : (s.post w).tdc = s.tdc := rfl
@[simp] theorem post_misses (s : State) (w : Work) : (s.post w).misses = s.misses := rfl
@[simp] theorem post_tports (s : State) (w : Work) : (s.post w).tports = s.tports := rfl
@[simp] theorem post_xfaults (s : State) (w : Work) : (s.post w).xfaults = s.xfaults := rfl
@[simp] theorem post_shadows (s : State) (w : Work) : (s.post w).shadows = s.shadows := rfl
@[simp] theorem post_reqs (s : State) (w : Work) : (s.post w).reqs = s.reqs := rfl
@[simp] theorem post_replies (s : State) (w : Work) : (s.post w).replies = s.replies := rfl
@[simp] theorem post_combines (s : State) (w : Work) : (s.post w).combines = s.combines := rfl
@[simp] theorem post_batchRecs (s : State) (w : Work) : (s.post w).batchRecs = s.batchRecs := rfl
@[simp] theorem post_circuits (s : State) (w : Work) : (s.post w).circuits = s.circuits := rfl
@[simp] theorem post_served (s : State) (w : Work) : (s.post w).served = s.served := rfl
@[simp] theorem post_packets (s : State) (w : Work) : (s.post w).packets = s.packets := rfl
@[simp] theorem post_ctxs (s : State) (w : Work) : (s.post w).ctxs = s.ctxs := rfl
@[simp] theorem post_tasks (s : State) (w : Work) : (s.post w).tasks = s.tasks := rfl
@[simp] theorem post_elems (s : State) (w : Work) : (s.post w).elems = s.elems := rfl
@[simp] theorem post_tiles (s : State) (w : Work) : (s.post w).tiles = s.tiles := rfl
@[simp] theorem post_stages (s : State) (w : Work) : (s.post w).stages = s.stages := rfl
@[simp] theorem post_loads (s : State) (w : Work) : (s.post w).loads = s.loads := rfl
@[simp] theorem post_launches (s : State) (w : Work) : (s.post w).launches = s.launches := rfl
@[simp] theorem post_images (s : State) (w : Work) : (s.post w).images = s.images := rfl
@[simp] theorem post_placements (s : State) (w : Work) : (s.post w).placements = s.placements := rfl
@[simp] theorem post_turns (s : State) (w : Work) : (s.post w).turns = s.turns := rfl
@[simp] theorem post_claims (s : State) (w : Work) : (s.post w).claims = s.claims := rfl
@[simp] theorem post_mgmt (s : State) (w : Work) : (s.post w).mgmt = s.mgmt := rfl
@[simp] theorem post_beds (s : State) (w : Work) : (s.post w).beds = s.beds := rfl
@[simp] theorem post_spares (s : State) (w : Work) : (s.post w).spares = s.spares := rfl
@[simp] theorem post_ports (s : State) (w : Work) : (s.post w).ports = s.ports := rfl
@[simp] theorem post_power (s : State) (w : Work) : (s.post w).power = s.power := rfl
@[simp] theorem post_ring (s : State) (w : Work) : (s.post w).ring = s.ring := rfl
@[simp] theorem post_ringSeq (s : State) (w : Work) : (s.post w).ringSeq = s.ringSeq := rfl
@[simp] theorem post_sec (s : State) (w : Work) : (s.post w).sec = s.sec := rfl
@[simp] theorem post_hostRead (s : State) (w : Work) : (s.post w).hostRead = s.hostRead := rfl
@[simp] theorem post_hostAbort (s : State) (w : Work) : (s.post w).hostAbort = s.hostAbort := rfl
@[simp] theorem post_cfgCache (s : State) (w : Work) : (s.post w).cfgCache = s.cfgCache := rfl
@[simp] theorem post_noRetry (s : State) (w : Work) : (s.post w).noRetry = s.noRetry := rfl

/-! postAll -/
@[simp] theorem postAll_cur (s : State) (l : List Work) : (s.postAll l).cur = s.cur := rfl
@[simp] theorem postAll_tick (s : State) (l : List Work) : (s.postAll l).tick = s.tick := rfl
@[simp] theorem postAll_nextId (s : State) (l : List Work) : (s.postAll l).nextId = s.nextId := rfl
@[simp] theorem postAll_cycle (s : State) (l : List Work) : (s.postAll l).cycle = s.cycle := rfl
@[simp] theorem postAll_timeBase (s : State) (l : List Work) : (s.postAll l).timeBase = s.timeBase := rfl
@[simp] theorem postAll_perfBase (s : State) (l : List Work) : (s.postAll l).perfBase = s.perfBase := rfl
@[simp] theorem postAll_mem (s : State) (l : List Work) : (s.postAll l).mem = s.mem := rfl
@[simp] theorem postAll_l2mem (s : State) (l : List Work) : (s.postAll l).l2mem = s.l2mem := rfl
@[simp] theorem postAll_hostmem (s : State) (l : List Work) : (s.postAll l).hostmem = s.hostmem := rfl
@[simp] theorem postAll_bad (s : State) (l : List Work) : (s.postAll l).bad = s.bad := rfl
@[simp] theorem postAll_frames (s : State) (l : List Work) : (s.postAll l).frames = s.frames := rfl
@[simp] theorem postAll_plru (s : State) (l : List Work) : (s.postAll l).plru = s.plru := rfl
@[simp] theorem postAll_marks (s : State) (l : List Work) : (s.postAll l).marks = s.marks := rfl
@[simp] theorem postAll_hostLines (s : State) (l : List Work) : (s.postAll l).hostLines = s.hostLines := rfl
@[simp] theorem postAll_hostBias (s : State) (l : List Work) : (s.postAll l).hostBias = s.hostBias := rfl
@[simp] theorem postAll_words (s : State) (l : List Work) : (s.postAll l).words = s.words := rfl
@[simp] theorem postAll_tc (s : State) (l : List Work) : (s.postAll l).tc = s.tc := rfl
@[simp] theorem postAll_wc (s : State) (l : List Work) : (s.postAll l).wc = s.wc := rfl
@[simp] theorem postAll_tdc (s : State) (l : List Work) : (s.postAll l).tdc = s.tdc := rfl
@[simp] theorem postAll_misses (s : State) (l : List Work) : (s.postAll l).misses = s.misses := rfl
@[simp] theorem postAll_tports (s : State) (l : List Work) : (s.postAll l).tports = s.tports := rfl
@[simp] theorem postAll_xfaults (s : State) (l : List Work) : (s.postAll l).xfaults = s.xfaults := rfl
@[simp] theorem postAll_shadows (s : State) (l : List Work) : (s.postAll l).shadows = s.shadows := rfl
@[simp] theorem postAll_reqs (s : State) (l : List Work) : (s.postAll l).reqs = s.reqs := rfl
@[simp] theorem postAll_replies (s : State) (l : List Work) : (s.postAll l).replies = s.replies := rfl
@[simp] theorem postAll_combines (s : State) (l : List Work) : (s.postAll l).combines = s.combines := rfl
@[simp] theorem postAll_batchRecs (s : State) (l : List Work) : (s.postAll l).batchRecs = s.batchRecs := rfl
@[simp] theorem postAll_circuits (s : State) (l : List Work) : (s.postAll l).circuits = s.circuits := rfl
@[simp] theorem postAll_served (s : State) (l : List Work) : (s.postAll l).served = s.served := rfl
@[simp] theorem postAll_packets (s : State) (l : List Work) : (s.postAll l).packets = s.packets := rfl
@[simp] theorem postAll_ctxs (s : State) (l : List Work) : (s.postAll l).ctxs = s.ctxs := rfl
@[simp] theorem postAll_tasks (s : State) (l : List Work) : (s.postAll l).tasks = s.tasks := rfl
@[simp] theorem postAll_elems (s : State) (l : List Work) : (s.postAll l).elems = s.elems := rfl
@[simp] theorem postAll_tiles (s : State) (l : List Work) : (s.postAll l).tiles = s.tiles := rfl
@[simp] theorem postAll_stages (s : State) (l : List Work) : (s.postAll l).stages = s.stages := rfl
@[simp] theorem postAll_loads (s : State) (l : List Work) : (s.postAll l).loads = s.loads := rfl
@[simp] theorem postAll_launches (s : State) (l : List Work) : (s.postAll l).launches = s.launches := rfl
@[simp] theorem postAll_images (s : State) (l : List Work) : (s.postAll l).images = s.images := rfl
@[simp] theorem postAll_placements (s : State) (l : List Work) : (s.postAll l).placements = s.placements := rfl
@[simp] theorem postAll_turns (s : State) (l : List Work) : (s.postAll l).turns = s.turns := rfl
@[simp] theorem postAll_claims (s : State) (l : List Work) : (s.postAll l).claims = s.claims := rfl
@[simp] theorem postAll_mgmt (s : State) (l : List Work) : (s.postAll l).mgmt = s.mgmt := rfl
@[simp] theorem postAll_beds (s : State) (l : List Work) : (s.postAll l).beds = s.beds := rfl
@[simp] theorem postAll_spares (s : State) (l : List Work) : (s.postAll l).spares = s.spares := rfl
@[simp] theorem postAll_ports (s : State) (l : List Work) : (s.postAll l).ports = s.ports := rfl
@[simp] theorem postAll_power (s : State) (l : List Work) : (s.postAll l).power = s.power := rfl
@[simp] theorem postAll_ring (s : State) (l : List Work) : (s.postAll l).ring = s.ring := rfl
@[simp] theorem postAll_ringSeq (s : State) (l : List Work) : (s.postAll l).ringSeq = s.ringSeq := rfl
@[simp] theorem postAll_sec (s : State) (l : List Work) : (s.postAll l).sec = s.sec := rfl
@[simp] theorem postAll_hostRead (s : State) (l : List Work) : (s.postAll l).hostRead = s.hostRead := rfl
@[simp] theorem postAll_hostAbort (s : State) (l : List Work) : (s.postAll l).hostAbort = s.hostAbort := rfl
@[simp] theorem postAll_cfgCache (s : State) (l : List Work) : (s.postAll l).cfgCache = s.cfgCache := rfl
@[simp] theorem postAll_noRetry (s : State) (l : List Work) : (s.postAll l).noRetry = s.noRetry := rfl

/-! event -/
@[simp] theorem event_agenda (s : State) (k c x a d : Nat) : (s.event k c x a d).agenda = s.agenda := rfl
@[simp] theorem event_cur (s : State) (k c x a d : Nat) : (s.event k c x a d).cur = s.cur := rfl
@[simp] theorem event_tick (s : State) (k c x a d : Nat) : (s.event k c x a d).tick = s.tick := rfl
@[simp] theorem event_nextId (s : State) (k c x a d : Nat) : (s.event k c x a d).nextId = s.nextId := rfl
@[simp] theorem event_cycle (s : State) (k c x a d : Nat) : (s.event k c x a d).cycle = s.cycle := rfl
@[simp] theorem event_timeBase (s : State) (k c x a d : Nat) : (s.event k c x a d).timeBase = s.timeBase := rfl
@[simp] theorem event_perfBase (s : State) (k c x a d : Nat) : (s.event k c x a d).perfBase = s.perfBase := rfl
@[simp] theorem event_mem (s : State) (k c x a d : Nat) : (s.event k c x a d).mem = s.mem := rfl
@[simp] theorem event_l2mem (s : State) (k c x a d : Nat) : (s.event k c x a d).l2mem = s.l2mem := rfl
@[simp] theorem event_hostmem (s : State) (k c x a d : Nat) : (s.event k c x a d).hostmem = s.hostmem := rfl
@[simp] theorem event_bad (s : State) (k c x a d : Nat) : (s.event k c x a d).bad = s.bad := rfl
@[simp] theorem event_frames (s : State) (k c x a d : Nat) : (s.event k c x a d).frames = s.frames := rfl
@[simp] theorem event_plru (s : State) (k c x a d : Nat) : (s.event k c x a d).plru = s.plru := rfl
@[simp] theorem event_marks (s : State) (k c x a d : Nat) : (s.event k c x a d).marks = s.marks := rfl
@[simp] theorem event_hostLines (s : State) (k c x a d : Nat) : (s.event k c x a d).hostLines = s.hostLines := rfl
@[simp] theorem event_hostBias (s : State) (k c x a d : Nat) : (s.event k c x a d).hostBias = s.hostBias := rfl
@[simp] theorem event_words (s : State) (k c x a d : Nat) : (s.event k c x a d).words = s.words := rfl
@[simp] theorem event_tc (s : State) (k c x a d : Nat) : (s.event k c x a d).tc = s.tc := rfl
@[simp] theorem event_wc (s : State) (k c x a d : Nat) : (s.event k c x a d).wc = s.wc := rfl
@[simp] theorem event_tdc (s : State) (k c x a d : Nat) : (s.event k c x a d).tdc = s.tdc := rfl
@[simp] theorem event_misses (s : State) (k c x a d : Nat) : (s.event k c x a d).misses = s.misses := rfl
@[simp] theorem event_tports (s : State) (k c x a d : Nat) : (s.event k c x a d).tports = s.tports := rfl
@[simp] theorem event_xfaults (s : State) (k c x a d : Nat) : (s.event k c x a d).xfaults = s.xfaults := rfl
@[simp] theorem event_shadows (s : State) (k c x a d : Nat) : (s.event k c x a d).shadows = s.shadows := rfl
@[simp] theorem event_reqs (s : State) (k c x a d : Nat) : (s.event k c x a d).reqs = s.reqs := rfl
@[simp] theorem event_replies (s : State) (k c x a d : Nat) : (s.event k c x a d).replies = s.replies := rfl
@[simp] theorem event_combines (s : State) (k c x a d : Nat) : (s.event k c x a d).combines = s.combines := rfl
@[simp] theorem event_batchRecs (s : State) (k c x a d : Nat) : (s.event k c x a d).batchRecs = s.batchRecs := rfl
@[simp] theorem event_circuits (s : State) (k c x a d : Nat) : (s.event k c x a d).circuits = s.circuits := rfl
@[simp] theorem event_served (s : State) (k c x a d : Nat) : (s.event k c x a d).served = s.served := rfl
@[simp] theorem event_packets (s : State) (k c x a d : Nat) : (s.event k c x a d).packets = s.packets := rfl
@[simp] theorem event_ctxs (s : State) (k c x a d : Nat) : (s.event k c x a d).ctxs = s.ctxs := rfl
@[simp] theorem event_tasks (s : State) (k c x a d : Nat) : (s.event k c x a d).tasks = s.tasks := rfl
@[simp] theorem event_elems (s : State) (k c x a d : Nat) : (s.event k c x a d).elems = s.elems := rfl
@[simp] theorem event_tiles (s : State) (k c x a d : Nat) : (s.event k c x a d).tiles = s.tiles := rfl
@[simp] theorem event_stages (s : State) (k c x a d : Nat) : (s.event k c x a d).stages = s.stages := rfl
@[simp] theorem event_loads (s : State) (k c x a d : Nat) : (s.event k c x a d).loads = s.loads := rfl
@[simp] theorem event_launches (s : State) (k c x a d : Nat) : (s.event k c x a d).launches = s.launches := rfl
@[simp] theorem event_images (s : State) (k c x a d : Nat) : (s.event k c x a d).images = s.images := rfl
@[simp] theorem event_placements (s : State) (k c x a d : Nat) : (s.event k c x a d).placements = s.placements := rfl
@[simp] theorem event_turns (s : State) (k c x a d : Nat) : (s.event k c x a d).turns = s.turns := rfl
@[simp] theorem event_claims (s : State) (k c x a d : Nat) : (s.event k c x a d).claims = s.claims := rfl
@[simp] theorem event_mgmt (s : State) (k c x a d : Nat) : (s.event k c x a d).mgmt = s.mgmt := rfl
@[simp] theorem event_beds (s : State) (k c x a d : Nat) : (s.event k c x a d).beds = s.beds := rfl
@[simp] theorem event_spares (s : State) (k c x a d : Nat) : (s.event k c x a d).spares = s.spares := rfl
@[simp] theorem event_ports (s : State) (k c x a d : Nat) : (s.event k c x a d).ports = s.ports := rfl
@[simp] theorem event_power (s : State) (k c x a d : Nat) : (s.event k c x a d).power = s.power := rfl
@[simp] theorem event_sec (s : State) (k c x a d : Nat) : (s.event k c x a d).sec = s.sec := rfl
@[simp] theorem event_hostRead (s : State) (k c x a d : Nat) : (s.event k c x a d).hostRead = s.hostRead := rfl
@[simp] theorem event_hostAbort (s : State) (k c x a d : Nat) : (s.event k c x a d).hostAbort = s.hostAbort := rfl
@[simp] theorem event_cfgCache (s : State) (k c x a d : Nat) : (s.event k c x a d).cfgCache = s.cfgCache := rfl
@[simp] theorem event_noRetry (s : State) (k c x a d : Nat) : (s.event k c x a d).noRetry = s.noRetry := rfl

/-! fire0 -/
@[simp] theorem fire0_agenda (s : State) : (s.fire0).agenda = s.agenda := rfl
@[simp] theorem fire0_cur (s : State) : (s.fire0).cur = s.cur := rfl
@[simp] theorem fire0_tick (s : State) : (s.fire0).tick = s.tick := rfl
@[simp] theorem fire0_nextId (s : State) : (s.fire0).nextId = s.nextId := rfl
@[simp] theorem fire0_cycle (s : State) : (s.fire0).cycle = s.cycle := rfl
@[simp] theorem fire0_timeBase (s : State) : (s.fire0).timeBase = s.timeBase := rfl
@[simp] theorem fire0_perfBase (s : State) : (s.fire0).perfBase = s.perfBase := rfl
@[simp] theorem fire0_mem (s : State) : (s.fire0).mem = s.mem := rfl
@[simp] theorem fire0_l2mem (s : State) : (s.fire0).l2mem = s.l2mem := rfl
@[simp] theorem fire0_hostmem (s : State) : (s.fire0).hostmem = s.hostmem := rfl
@[simp] theorem fire0_bad (s : State) : (s.fire0).bad = s.bad := rfl
@[simp] theorem fire0_frames (s : State) : (s.fire0).frames = s.frames := rfl
@[simp] theorem fire0_plru (s : State) : (s.fire0).plru = s.plru := rfl
@[simp] theorem fire0_marks (s : State) : (s.fire0).marks = s.marks := rfl
@[simp] theorem fire0_hostLines (s : State) : (s.fire0).hostLines = s.hostLines := rfl
@[simp] theorem fire0_hostBias (s : State) : (s.fire0).hostBias = s.hostBias := rfl
@[simp] theorem fire0_words (s : State) : (s.fire0).words = s.words := rfl
@[simp] theorem fire0_tc (s : State) : (s.fire0).tc = s.tc := rfl
@[simp] theorem fire0_wc (s : State) : (s.fire0).wc = s.wc := rfl
@[simp] theorem fire0_tdc (s : State) : (s.fire0).tdc = s.tdc := rfl
@[simp] theorem fire0_misses (s : State) : (s.fire0).misses = s.misses := rfl
@[simp] theorem fire0_tports (s : State) : (s.fire0).tports = s.tports := rfl
@[simp] theorem fire0_xfaults (s : State) : (s.fire0).xfaults = s.xfaults := rfl
@[simp] theorem fire0_shadows (s : State) : (s.fire0).shadows = s.shadows := rfl
@[simp] theorem fire0_reqs (s : State) : (s.fire0).reqs = s.reqs := rfl
@[simp] theorem fire0_replies (s : State) : (s.fire0).replies = s.replies := rfl
@[simp] theorem fire0_combines (s : State) : (s.fire0).combines = s.combines := rfl
@[simp] theorem fire0_batchRecs (s : State) : (s.fire0).batchRecs = s.batchRecs := rfl
@[simp] theorem fire0_circuits (s : State) : (s.fire0).circuits = s.circuits := rfl
@[simp] theorem fire0_served (s : State) : (s.fire0).served = s.served := rfl
@[simp] theorem fire0_packets (s : State) : (s.fire0).packets = s.packets := rfl
@[simp] theorem fire0_ctxs (s : State) : (s.fire0).ctxs = s.ctxs := rfl
@[simp] theorem fire0_tiles (s : State) : (s.fire0).tiles = s.tiles := rfl
@[simp] theorem fire0_stages (s : State) : (s.fire0).stages = s.stages := rfl
@[simp] theorem fire0_loads (s : State) : (s.fire0).loads = s.loads := rfl
@[simp] theorem fire0_launches (s : State) : (s.fire0).launches = s.launches := rfl
@[simp] theorem fire0_images (s : State) : (s.fire0).images = s.images := rfl
@[simp] theorem fire0_placements (s : State) : (s.fire0).placements = s.placements := rfl
@[simp] theorem fire0_turns (s : State) : (s.fire0).turns = s.turns := rfl
@[simp] theorem fire0_claims (s : State) : (s.fire0).claims = s.claims := rfl
@[simp] theorem fire0_mgmt (s : State) : (s.fire0).mgmt = s.mgmt := rfl
@[simp] theorem fire0_beds (s : State) : (s.fire0).beds = s.beds := rfl
@[simp] theorem fire0_spares (s : State) : (s.fire0).spares = s.spares := rfl
@[simp] theorem fire0_ports (s : State) : (s.fire0).ports = s.ports := rfl
@[simp] theorem fire0_power (s : State) : (s.fire0).power = s.power := rfl
@[simp] theorem fire0_ring (s : State) : (s.fire0).ring = s.ring := rfl
@[simp] theorem fire0_ringSeq (s : State) : (s.fire0).ringSeq = s.ringSeq := rfl
@[simp] theorem fire0_sec (s : State) : (s.fire0).sec = s.sec := rfl
@[simp] theorem fire0_hostRead (s : State) : (s.fire0).hostRead = s.hostRead := rfl
@[simp] theorem fire0_hostAbort (s : State) : (s.fire0).hostAbort = s.hostAbort := rfl
@[simp] theorem fire0_cfgCache (s : State) : (s.fire0).cfgCache = s.cfgCache := rfl
@[simp] theorem fire0_noRetry (s : State) : (s.fire0).noRetry = s.noRetry := rfl

/-! atCommit -/
@[simp] theorem atCommit_agenda (s : State) (d : Defer) : (s.atCommit d).agenda = s.agenda := rfl
@[simp] theorem atCommit_cur (s : State) (d : Defer) : (s.atCommit d).cur = s.cur := rfl
@[simp] theorem atCommit_tick (s : State) (d : Defer) : (s.atCommit d).tick = s.tick := rfl
@[simp] theorem atCommit_nextId (s : State) (d : Defer) : (s.atCommit d).nextId = s.nextId := rfl
@[simp] theorem atCommit_cycle (s : State) (d : Defer) : (s.atCommit d).cycle = s.cycle := rfl
@[simp] theorem atCommit_timeBase (s : State) (d : Defer) : (s.atCommit d).timeBase = s.timeBase := rfl
@[simp] theorem atCommit_perfBase (s : State) (d : Defer) : (s.atCommit d).perfBase = s.perfBase := rfl
@[simp] theorem atCommit_mem (s : State) (d : Defer) : (s.atCommit d).mem = s.mem := rfl
@[simp] theorem atCommit_l2mem (s : State) (d : Defer) : (s.atCommit d).l2mem = s.l2mem := rfl
@[simp] theorem atCommit_hostmem (s : State) (d : Defer) : (s.atCommit d).hostmem = s.hostmem := rfl
@[simp] theorem atCommit_bad (s : State) (d : Defer) : (s.atCommit d).bad = s.bad := rfl
@[simp] theorem atCommit_frames (s : State) (d : Defer) : (s.atCommit d).frames = s.frames := rfl
@[simp] theorem atCommit_plru (s : State) (d : Defer) : (s.atCommit d).plru = s.plru := rfl
@[simp] theorem atCommit_marks (s : State) (d : Defer) : (s.atCommit d).marks = s.marks := rfl
@[simp] theorem atCommit_hostLines (s : State) (d : Defer) : (s.atCommit d).hostLines = s.hostLines := rfl
@[simp] theorem atCommit_hostBias (s : State) (d : Defer) : (s.atCommit d).hostBias = s.hostBias := rfl
@[simp] theorem atCommit_words (s : State) (d : Defer) : (s.atCommit d).words = s.words := rfl
@[simp] theorem atCommit_tc (s : State) (d : Defer) : (s.atCommit d).tc = s.tc := rfl
@[simp] theorem atCommit_wc (s : State) (d : Defer) : (s.atCommit d).wc = s.wc := rfl
@[simp] theorem atCommit_tdc (s : State) (d : Defer) : (s.atCommit d).tdc = s.tdc := rfl
@[simp] theorem atCommit_misses (s : State) (d : Defer) : (s.atCommit d).misses = s.misses := rfl
@[simp] theorem atCommit_tports (s : State) (d : Defer) : (s.atCommit d).tports = s.tports := rfl
@[simp] theorem atCommit_xfaults (s : State) (d : Defer) : (s.atCommit d).xfaults = s.xfaults := rfl
@[simp] theorem atCommit_shadows (s : State) (d : Defer) : (s.atCommit d).shadows = s.shadows := rfl
@[simp] theorem atCommit_reqs (s : State) (d : Defer) : (s.atCommit d).reqs = s.reqs := rfl
@[simp] theorem atCommit_replies (s : State) (d : Defer) : (s.atCommit d).replies = s.replies := rfl
@[simp] theorem atCommit_combines (s : State) (d : Defer) : (s.atCommit d).combines = s.combines := rfl
@[simp] theorem atCommit_batchRecs (s : State) (d : Defer) : (s.atCommit d).batchRecs = s.batchRecs := rfl
@[simp] theorem atCommit_circuits (s : State) (d : Defer) : (s.atCommit d).circuits = s.circuits := rfl
@[simp] theorem atCommit_served (s : State) (d : Defer) : (s.atCommit d).served = s.served := rfl
@[simp] theorem atCommit_packets (s : State) (d : Defer) : (s.atCommit d).packets = s.packets := rfl
@[simp] theorem atCommit_ctxs (s : State) (d : Defer) : (s.atCommit d).ctxs = s.ctxs := rfl
@[simp] theorem atCommit_elems (s : State) (d : Defer) : (s.atCommit d).elems = s.elems := rfl
@[simp] theorem atCommit_tiles (s : State) (d : Defer) : (s.atCommit d).tiles = s.tiles := rfl
@[simp] theorem atCommit_stages (s : State) (d : Defer) : (s.atCommit d).stages = s.stages := rfl
@[simp] theorem atCommit_loads (s : State) (d : Defer) : (s.atCommit d).loads = s.loads := rfl
@[simp] theorem atCommit_launches (s : State) (d : Defer) : (s.atCommit d).launches = s.launches := rfl
@[simp] theorem atCommit_images (s : State) (d : Defer) : (s.atCommit d).images = s.images := rfl
@[simp] theorem atCommit_placements (s : State) (d : Defer) : (s.atCommit d).placements = s.placements := rfl
@[simp] theorem atCommit_turns (s : State) (d : Defer) : (s.atCommit d).turns = s.turns := rfl
@[simp] theorem atCommit_claims (s : State) (d : Defer) : (s.atCommit d).claims = s.claims := rfl
@[simp] theorem atCommit_mgmt (s : State) (d : Defer) : (s.atCommit d).mgmt = s.mgmt := rfl
@[simp] theorem atCommit_beds (s : State) (d : Defer) : (s.atCommit d).beds = s.beds := rfl
@[simp] theorem atCommit_spares (s : State) (d : Defer) : (s.atCommit d).spares = s.spares := rfl
@[simp] theorem atCommit_ports (s : State) (d : Defer) : (s.atCommit d).ports = s.ports := rfl
@[simp] theorem atCommit_power (s : State) (d : Defer) : (s.atCommit d).power = s.power := rfl
@[simp] theorem atCommit_ring (s : State) (d : Defer) : (s.atCommit d).ring = s.ring := rfl
@[simp] theorem atCommit_ringSeq (s : State) (d : Defer) : (s.atCommit d).ringSeq = s.ringSeq := rfl
@[simp] theorem atCommit_sec (s : State) (d : Defer) : (s.atCommit d).sec = s.sec := rfl
@[simp] theorem atCommit_hostRead (s : State) (d : Defer) : (s.atCommit d).hostRead = s.hostRead := rfl
@[simp] theorem atCommit_hostAbort (s : State) (d : Defer) : (s.atCommit d).hostAbort = s.hostAbort := rfl
@[simp] theorem atCommit_cfgCache (s : State) (d : Defer) : (s.atCommit d).cfgCache = s.cfgCache := rfl
@[simp] theorem atCommit_noRetry (s : State) (d : Defer) : (s.atCommit d).noRetry = s.noRetry := rfl

/-! keepReplay -/
@[simp] theorem keepReplay_agenda (s : State) (t : TaskRef) (r : Replay) : (s.keepReplay t r).agenda = s.agenda := rfl
@[simp] theorem keepReplay_cur (s : State) (t : TaskRef) (r : Replay) : (s.keepReplay t r).cur = s.cur := rfl
@[simp] theorem keepReplay_tick (s : State) (t : TaskRef) (r : Replay) : (s.keepReplay t r).tick = s.tick := rfl
@[simp] theorem keepReplay_nextId (s : State) (t : TaskRef) (r : Replay) : (s.keepReplay t r).nextId = s.nextId := rfl
@[simp] theorem keepReplay_cycle (s : State) (t : TaskRef) (r : Replay) : (s.keepReplay t r).cycle = s.cycle := rfl
@[simp] theorem keepReplay_timeBase (s : State) (t : TaskRef) (r : Replay) : (s.keepReplay t r).timeBase = s.timeBase := rfl
@[simp] theorem keepReplay_perfBase (s : State) (t : TaskRef) (r : Replay) : (s.keepReplay t r).perfBase = s.perfBase := rfl
@[simp] theorem keepReplay_mem (s : State) (t : TaskRef) (r : Replay) : (s.keepReplay t r).mem = s.mem := rfl
@[simp] theorem keepReplay_l2mem (s : State) (t : TaskRef) (r : Replay) : (s.keepReplay t r).l2mem = s.l2mem := rfl
@[simp] theorem keepReplay_hostmem (s : State) (t : TaskRef) (r : Replay) : (s.keepReplay t r).hostmem = s.hostmem := rfl
@[simp] theorem keepReplay_bad (s : State) (t : TaskRef) (r : Replay) : (s.keepReplay t r).bad = s.bad := rfl
@[simp] theorem keepReplay_frames (s : State) (t : TaskRef) (r : Replay) : (s.keepReplay t r).frames = s.frames := rfl
@[simp] theorem keepReplay_plru (s : State) (t : TaskRef) (r : Replay) : (s.keepReplay t r).plru = s.plru := rfl
@[simp] theorem keepReplay_marks (s : State) (t : TaskRef) (r : Replay) : (s.keepReplay t r).marks = s.marks := rfl
@[simp] theorem keepReplay_hostLines (s : State) (t : TaskRef) (r : Replay) : (s.keepReplay t r).hostLines = s.hostLines := rfl
@[simp] theorem keepReplay_hostBias (s : State) (t : TaskRef) (r : Replay) : (s.keepReplay t r).hostBias = s.hostBias := rfl
@[simp] theorem keepReplay_words (s : State) (t : TaskRef) (r : Replay) : (s.keepReplay t r).words = s.words := rfl
@[simp] theorem keepReplay_tc (s : State) (t : TaskRef) (r : Replay) : (s.keepReplay t r).tc = s.tc := rfl
@[simp] theorem keepReplay_wc (s : State) (t : TaskRef) (r : Replay) : (s.keepReplay t r).wc = s.wc := rfl
@[simp] theorem keepReplay_tdc (s : State) (t : TaskRef) (r : Replay) : (s.keepReplay t r).tdc = s.tdc := rfl
@[simp] theorem keepReplay_misses (s : State) (t : TaskRef) (r : Replay) : (s.keepReplay t r).misses = s.misses := rfl
@[simp] theorem keepReplay_tports (s : State) (t : TaskRef) (r : Replay) : (s.keepReplay t r).tports = s.tports := rfl
@[simp] theorem keepReplay_xfaults (s : State) (t : TaskRef) (r : Replay) : (s.keepReplay t r).xfaults = s.xfaults := rfl
@[simp] theorem keepReplay_shadows (s : State) (t : TaskRef) (r : Replay) : (s.keepReplay t r).shadows = s.shadows := rfl
@[simp] theorem keepReplay_reqs (s : State) (t : TaskRef) (r : Replay) : (s.keepReplay t r).reqs = s.reqs := rfl
@[simp] theorem keepReplay_replies (s : State) (t : TaskRef) (r : Replay) : (s.keepReplay t r).replies = s.replies := rfl
@[simp] theorem keepReplay_combines (s : State) (t : TaskRef) (r : Replay) : (s.keepReplay t r).combines = s.combines := rfl
@[simp] theorem keepReplay_batchRecs (s : State) (t : TaskRef) (r : Replay) : (s.keepReplay t r).batchRecs = s.batchRecs := rfl
@[simp] theorem keepReplay_circuits (s : State) (t : TaskRef) (r : Replay) : (s.keepReplay t r).circuits = s.circuits := rfl
@[simp] theorem keepReplay_served (s : State) (t : TaskRef) (r : Replay) : (s.keepReplay t r).served = s.served := rfl
@[simp] theorem keepReplay_packets (s : State) (t : TaskRef) (r : Replay) : (s.keepReplay t r).packets = s.packets := rfl
@[simp] theorem keepReplay_ctxs (s : State) (t : TaskRef) (r : Replay) : (s.keepReplay t r).ctxs = s.ctxs := rfl
@[simp] theorem keepReplay_elems (s : State) (t : TaskRef) (r : Replay) : (s.keepReplay t r).elems = s.elems := rfl
@[simp] theorem keepReplay_tiles (s : State) (t : TaskRef) (r : Replay) : (s.keepReplay t r).tiles = s.tiles := rfl
@[simp] theorem keepReplay_stages (s : State) (t : TaskRef) (r : Replay) : (s.keepReplay t r).stages = s.stages := rfl
@[simp] theorem keepReplay_loads (s : State) (t : TaskRef) (r : Replay) : (s.keepReplay t r).loads = s.loads := rfl
@[simp] theorem keepReplay_launches (s : State) (t : TaskRef) (r : Replay) : (s.keepReplay t r).launches = s.launches := rfl
@[simp] theorem keepReplay_images (s : State) (t : TaskRef) (r : Replay) : (s.keepReplay t r).images = s.images := rfl
@[simp] theorem keepReplay_placements (s : State) (t : TaskRef) (r : Replay) : (s.keepReplay t r).placements = s.placements := rfl
@[simp] theorem keepReplay_turns (s : State) (t : TaskRef) (r : Replay) : (s.keepReplay t r).turns = s.turns := rfl
@[simp] theorem keepReplay_claims (s : State) (t : TaskRef) (r : Replay) : (s.keepReplay t r).claims = s.claims := rfl
@[simp] theorem keepReplay_mgmt (s : State) (t : TaskRef) (r : Replay) : (s.keepReplay t r).mgmt = s.mgmt := rfl
@[simp] theorem keepReplay_beds (s : State) (t : TaskRef) (r : Replay) : (s.keepReplay t r).beds = s.beds := rfl
@[simp] theorem keepReplay_spares (s : State) (t : TaskRef) (r : Replay) : (s.keepReplay t r).spares = s.spares := rfl
@[simp] theorem keepReplay_ports (s : State) (t : TaskRef) (r : Replay) : (s.keepReplay t r).ports = s.ports := rfl
@[simp] theorem keepReplay_power (s : State) (t : TaskRef) (r : Replay) : (s.keepReplay t r).power = s.power := rfl
@[simp] theorem keepReplay_ring (s : State) (t : TaskRef) (r : Replay) : (s.keepReplay t r).ring = s.ring := rfl
@[simp] theorem keepReplay_ringSeq (s : State) (t : TaskRef) (r : Replay) : (s.keepReplay t r).ringSeq = s.ringSeq := rfl
@[simp] theorem keepReplay_sec (s : State) (t : TaskRef) (r : Replay) : (s.keepReplay t r).sec = s.sec := rfl
@[simp] theorem keepReplay_hostRead (s : State) (t : TaskRef) (r : Replay) : (s.keepReplay t r).hostRead = s.hostRead := rfl
@[simp] theorem keepReplay_hostAbort (s : State) (t : TaskRef) (r : Replay) : (s.keepReplay t r).hostAbort = s.hostAbort := rfl
@[simp] theorem keepReplay_cfgCache (s : State) (t : TaskRef) (r : Replay) : (s.keepReplay t r).cfgCache = s.cfgCache := rfl
@[simp] theorem keepReplay_noRetry (s : State) (t : TaskRef) (r : Replay) : (s.keepReplay t r).noRetry = s.noRetry := rfl

/-! usePage -/
@[simp] theorem usePage_agenda (s : State) (a : Nat) : (s.usePage a).agenda = s.agenda := rfl
@[simp] theorem usePage_cur (s : State) (a : Nat) : (s.usePage a).cur = s.cur := rfl
@[simp] theorem usePage_tick (s : State) (a : Nat) : (s.usePage a).tick = s.tick := rfl
@[simp] theorem usePage_nextId (s : State) (a : Nat) : (s.usePage a).nextId = s.nextId := rfl
@[simp] theorem usePage_cycle (s : State) (a : Nat) : (s.usePage a).cycle = s.cycle := rfl
@[simp] theorem usePage_timeBase (s : State) (a : Nat) : (s.usePage a).timeBase = s.timeBase := rfl
@[simp] theorem usePage_perfBase (s : State) (a : Nat) : (s.usePage a).perfBase = s.perfBase := rfl
@[simp] theorem usePage_mem (s : State) (a : Nat) : (s.usePage a).mem = s.mem := rfl
@[simp] theorem usePage_l2mem (s : State) (a : Nat) : (s.usePage a).l2mem = s.l2mem := rfl
@[simp] theorem usePage_hostmem (s : State) (a : Nat) : (s.usePage a).hostmem = s.hostmem := rfl
@[simp] theorem usePage_bad (s : State) (a : Nat) : (s.usePage a).bad = s.bad := rfl
@[simp] theorem usePage_frames (s : State) (a : Nat) : (s.usePage a).frames = s.frames := rfl
@[simp] theorem usePage_plru (s : State) (a : Nat) : (s.usePage a).plru = s.plru := rfl
@[simp] theorem usePage_marks (s : State) (a : Nat) : (s.usePage a).marks = s.marks := rfl
@[simp] theorem usePage_hostLines (s : State) (a : Nat) : (s.usePage a).hostLines = s.hostLines := rfl
@[simp] theorem usePage_hostBias (s : State) (a : Nat) : (s.usePage a).hostBias = s.hostBias := rfl
@[simp] theorem usePage_words (s : State) (a : Nat) : (s.usePage a).words = s.words := rfl
@[simp] theorem usePage_tc (s : State) (a : Nat) : (s.usePage a).tc = s.tc := rfl
@[simp] theorem usePage_wc (s : State) (a : Nat) : (s.usePage a).wc = s.wc := rfl
@[simp] theorem usePage_tdc (s : State) (a : Nat) : (s.usePage a).tdc = s.tdc := rfl
@[simp] theorem usePage_misses (s : State) (a : Nat) : (s.usePage a).misses = s.misses := rfl
@[simp] theorem usePage_tports (s : State) (a : Nat) : (s.usePage a).tports = s.tports := rfl
@[simp] theorem usePage_xfaults (s : State) (a : Nat) : (s.usePage a).xfaults = s.xfaults := rfl
@[simp] theorem usePage_shadows (s : State) (a : Nat) : (s.usePage a).shadows = s.shadows := rfl
@[simp] theorem usePage_reqs (s : State) (a : Nat) : (s.usePage a).reqs = s.reqs := rfl
@[simp] theorem usePage_replies (s : State) (a : Nat) : (s.usePage a).replies = s.replies := rfl
@[simp] theorem usePage_combines (s : State) (a : Nat) : (s.usePage a).combines = s.combines := rfl
@[simp] theorem usePage_batchRecs (s : State) (a : Nat) : (s.usePage a).batchRecs = s.batchRecs := rfl
@[simp] theorem usePage_circuits (s : State) (a : Nat) : (s.usePage a).circuits = s.circuits := rfl
@[simp] theorem usePage_served (s : State) (a : Nat) : (s.usePage a).served = s.served := rfl
@[simp] theorem usePage_packets (s : State) (a : Nat) : (s.usePage a).packets = s.packets := rfl
@[simp] theorem usePage_ctxs (s : State) (a : Nat) : (s.usePage a).ctxs = s.ctxs := rfl
@[simp] theorem usePage_elems (s : State) (a : Nat) : (s.usePage a).elems = s.elems := rfl
@[simp] theorem usePage_tiles (s : State) (a : Nat) : (s.usePage a).tiles = s.tiles := rfl
@[simp] theorem usePage_stages (s : State) (a : Nat) : (s.usePage a).stages = s.stages := rfl
@[simp] theorem usePage_loads (s : State) (a : Nat) : (s.usePage a).loads = s.loads := rfl
@[simp] theorem usePage_launches (s : State) (a : Nat) : (s.usePage a).launches = s.launches := rfl
@[simp] theorem usePage_images (s : State) (a : Nat) : (s.usePage a).images = s.images := rfl
@[simp] theorem usePage_placements (s : State) (a : Nat) : (s.usePage a).placements = s.placements := rfl
@[simp] theorem usePage_turns (s : State) (a : Nat) : (s.usePage a).turns = s.turns := rfl
@[simp] theorem usePage_claims (s : State) (a : Nat) : (s.usePage a).claims = s.claims := rfl
@[simp] theorem usePage_mgmt (s : State) (a : Nat) : (s.usePage a).mgmt = s.mgmt := rfl
@[simp] theorem usePage_beds (s : State) (a : Nat) : (s.usePage a).beds = s.beds := rfl
@[simp] theorem usePage_spares (s : State) (a : Nat) : (s.usePage a).spares = s.spares := rfl
@[simp] theorem usePage_ports (s : State) (a : Nat) : (s.usePage a).ports = s.ports := rfl
@[simp] theorem usePage_power (s : State) (a : Nat) : (s.usePage a).power = s.power := rfl
@[simp] theorem usePage_ring (s : State) (a : Nat) : (s.usePage a).ring = s.ring := rfl
@[simp] theorem usePage_ringSeq (s : State) (a : Nat) : (s.usePage a).ringSeq = s.ringSeq := rfl
@[simp] theorem usePage_sec (s : State) (a : Nat) : (s.usePage a).sec = s.sec := rfl
@[simp] theorem usePage_hostRead (s : State) (a : Nat) : (s.usePage a).hostRead = s.hostRead := rfl
@[simp] theorem usePage_hostAbort (s : State) (a : Nat) : (s.usePage a).hostAbort = s.hostAbort := rfl
@[simp] theorem usePage_cfgCache (s : State) (a : Nat) : (s.usePage a).cfgCache = s.cfgCache := rfl
@[simp] theorem usePage_noRetry (s : State) (a : Nat) : (s.usePage a).noRetry = s.noRetry := rfl

/-! newId -/
@[simp] theorem newId_fst (s : State) : s.newId.1 = s.nextId := rfl
@[simp] theorem newId_nextId (s : State) : s.newId.2.nextId = s.nextId + 1 := rfl
@[simp] theorem newId_agenda (s : State) : s.newId.2.agenda = s.agenda := rfl
@[simp] theorem newId_cur (s : State) : s.newId.2.cur = s.cur := rfl
@[simp] theorem newId_tick (s : State) : s.newId.2.tick = s.tick := rfl
@[simp] theorem newId_cycle (s : State) : s.newId.2.cycle = s.cycle := rfl
@[simp] theorem newId_timeBase (s : State) : s.newId.2.timeBase = s.timeBase := rfl
@[simp] theorem newId_perfBase (s : State) : s.newId.2.perfBase = s.perfBase := rfl
@[simp] theorem newId_mem (s : State) : s.newId.2.mem = s.mem := rfl
@[simp] theorem newId_l2mem (s : State) : s.newId.2.l2mem = s.l2mem := rfl
@[simp] theorem newId_hostmem (s : State) : s.newId.2.hostmem = s.hostmem := rfl
@[simp] theorem newId_bad (s : State) : s.newId.2.bad = s.bad := rfl
@[simp] theorem newId_frames (s : State) : s.newId.2.frames = s.frames := rfl
@[simp] theorem newId_plru (s : State) : s.newId.2.plru = s.plru := rfl
@[simp] theorem newId_marks (s : State) : s.newId.2.marks = s.marks := rfl
@[simp] theorem newId_hostLines (s : State) : s.newId.2.hostLines = s.hostLines := rfl
@[simp] theorem newId_hostBias (s : State) : s.newId.2.hostBias = s.hostBias := rfl
@[simp] theorem newId_words (s : State) : s.newId.2.words = s.words := rfl
@[simp] theorem newId_tc (s : State) : s.newId.2.tc = s.tc := rfl
@[simp] theorem newId_wc (s : State) : s.newId.2.wc = s.wc := rfl
@[simp] theorem newId_tdc (s : State) : s.newId.2.tdc = s.tdc := rfl
@[simp] theorem newId_misses (s : State) : s.newId.2.misses = s.misses := rfl
@[simp] theorem newId_tports (s : State) : s.newId.2.tports = s.tports := rfl
@[simp] theorem newId_xfaults (s : State) : s.newId.2.xfaults = s.xfaults := rfl
@[simp] theorem newId_shadows (s : State) : s.newId.2.shadows = s.shadows := rfl
@[simp] theorem newId_reqs (s : State) : s.newId.2.reqs = s.reqs := rfl
@[simp] theorem newId_replies (s : State) : s.newId.2.replies = s.replies := rfl
@[simp] theorem newId_combines (s : State) : s.newId.2.combines = s.combines := rfl
@[simp] theorem newId_batchRecs (s : State) : s.newId.2.batchRecs = s.batchRecs := rfl
@[simp] theorem newId_circuits (s : State) : s.newId.2.circuits = s.circuits := rfl
@[simp] theorem newId_served (s : State) : s.newId.2.served = s.served := rfl
@[simp] theorem newId_packets (s : State) : s.newId.2.packets = s.packets := rfl
@[simp] theorem newId_ctxs (s : State) : s.newId.2.ctxs = s.ctxs := rfl
@[simp] theorem newId_tasks (s : State) : s.newId.2.tasks = s.tasks := rfl
@[simp] theorem newId_elems (s : State) : s.newId.2.elems = s.elems := rfl
@[simp] theorem newId_tiles (s : State) : s.newId.2.tiles = s.tiles := rfl
@[simp] theorem newId_stages (s : State) : s.newId.2.stages = s.stages := rfl
@[simp] theorem newId_loads (s : State) : s.newId.2.loads = s.loads := rfl
@[simp] theorem newId_launches (s : State) : s.newId.2.launches = s.launches := rfl
@[simp] theorem newId_images (s : State) : s.newId.2.images = s.images := rfl
@[simp] theorem newId_placements (s : State) : s.newId.2.placements = s.placements := rfl
@[simp] theorem newId_turns (s : State) : s.newId.2.turns = s.turns := rfl
@[simp] theorem newId_claims (s : State) : s.newId.2.claims = s.claims := rfl
@[simp] theorem newId_mgmt (s : State) : s.newId.2.mgmt = s.mgmt := rfl
@[simp] theorem newId_beds (s : State) : s.newId.2.beds = s.beds := rfl
@[simp] theorem newId_spares (s : State) : s.newId.2.spares = s.spares := rfl
@[simp] theorem newId_ports (s : State) : s.newId.2.ports = s.ports := rfl
@[simp] theorem newId_power (s : State) : s.newId.2.power = s.power := rfl
@[simp] theorem newId_ring (s : State) : s.newId.2.ring = s.ring := rfl
@[simp] theorem newId_ringSeq (s : State) : s.newId.2.ringSeq = s.ringSeq := rfl
@[simp] theorem newId_sec (s : State) : s.newId.2.sec = s.sec := rfl
@[simp] theorem newId_hostRead (s : State) : s.newId.2.hostRead = s.hostRead := rfl
@[simp] theorem newId_hostAbort (s : State) : s.newId.2.hostAbort = s.hostAbort := rfl
@[simp] theorem newId_cfgCache (s : State) : s.newId.2.cfgCache = s.cfgCache := rfl
@[simp] theorem newId_noRetry (s : State) : s.newId.2.noRetry = s.noRetry := rfl

/-! What an update writes, read back. -/

theorem setTask_tasks (s : State) (t : TaskRef) (x : Task) : (s.setTask t x).tasks = s.tasks.put t x := rfl
theorem modTask_eq (s : State) (t : TaskRef) (f : Task → Task) : s.modTask t f = s.setTask t (f (s.task t)) := rfl
@[simp] theorem post_agenda (s : State) (w : Work) : (s.post w).agenda = s.agenda ++ [w] := rfl
@[simp] theorem postAll_agenda (s : State) (l : List Work) : (s.postAll l).agenda = s.agenda ++ l := rfl
@[simp] theorem event_ringSeq (s : State) (k c x a d : Nat) : (s.event k c x a d).ringSeq = s.ringSeq + 1 := rfl

end Sys2Proof.Machine
end

