-- ==== Sys2Proof/Laws/Table.lean ====
section
/-! SUPPORT. Laws of tables and of replacing the n-th element of a list. -/

namespace Sys2Proof.Machine

section
variable {κ α : Type} [DecidableEq κ]

@[simp] theorem get_put_self (t : Table κ α) (k : κ) (v d : α) : (t.put k v).get k d = v := by
  induction t with
  | nil => simp [Table.put, Table.get]
  | cons e r ih => obtain ⟨j, w⟩ := e; by_cases h : j = k <;> simp [Table.put, Table.get, h, ih]

theorem get_put_ne (t : Table κ α) {k j : κ} (h : j ≠ k) (v d : α) : (t.put k v).get j d = t.get j d := by
  induction t with
  | nil => simp [Table.put, Table.get, Ne.symm h]
  | cons e r ih =>
    obtain ⟨i, w⟩ := e
    by_cases hi : i = k
    · subst hi; simp [Table.put, Table.get, Ne.symm h]
    · simp [Table.put, Table.get, hi, ih]

@[simp] theorem find_put_self (t : Table κ α) (k : κ) (v : α) : (t.put k v).find k = some v := by
  induction t with
  | nil => simp [Table.put, Table.find]
  | cons e r ih => obtain ⟨j, w⟩ := e; by_cases h : j = k <;> simp [Table.put, Table.find, h, ih]

theorem find_put_ne (t : Table κ α) {k j : κ} (h : j ≠ k) (v : α) : (t.put k v).find j = t.find j := by
  induction t with
  | nil => simp [Table.put, Table.find, Ne.symm h]
  | cons e r ih =>
    obtain ⟨i, w⟩ := e
    by_cases hi : i = k
    · subst hi; simp [Table.put, Table.find, Ne.symm h]
    · simp [Table.put, Table.find, hi, ih]

@[simp] theorem put_put (t : Table κ α) (k : κ) (v w : α) : (t.put k v).put k w = t.put k w := by
  induction t with
  | nil => simp [Table.put]
  | cons e r ih => obtain ⟨j, u⟩ := e; by_cases h : j = k <;> simp [Table.put, h, ih]

theorem get_eq_find (t : Table κ α) (k : κ) (d : α) : t.get k d = (t.find k).getD d := by
  induction t with
  | nil => rfl
  | cons e r ih => obtain ⟨j, w⟩ := e; by_cases h : j = k <;> simp [Table.get, Table.find, h, ih]

end

@[simp] theorem listMod_length {α : Type} (l : List α) (n : Nat) (f : α → α) : (listMod l n f).length = l.length := by
  induction l generalizing n with
  | nil => simp [listMod]
  | cons x r ih => cases n <;> simp [listMod, ih]

theorem listMod_getElem? {α : Type} (l : List α) (n m : Nat) (f : α → α) :
    (listMod l n f)[m]? = if m = n then l[m]?.map f else l[m]? := by
  induction l generalizing n m with
  | nil => simp [listMod]
  | cons x r ih => cases n <;> cases m <;> simp [listMod, ih]

@[simp] theorem listMod_listMod {α : Type} (l : List α) (n : Nat) (f g : α → α) :
    listMod (listMod l n f) n g = listMod l n fun x => g (f x) := by
  induction l generalizing n with
  | nil => simp [listMod]
  | cons x r ih => cases n <;> simp [listMod, ih]

/-! Tasks and blocks in flight. -/

@[simp] theorem task_setTask (s : State) (t : TaskRef) (x : Task) : (s.setTask t x).task t = x := by
  simp [State.setTask, State.task]

theorem task_setTask_ne (s : State) {t u : TaskRef} (h : u ≠ t) (x : Task) : (s.setTask t x).task u = s.task u := by
  simp [State.setTask, State.task, get_put_ne _ h]

@[simp] theorem task_modTask (s : State) (t : TaskRef) (f : Task → Task) : (s.modTask t f).task t = f (s.task t) := by
  simp [State.modTask]

theorem task_modTask_ne (s : State) {t u : TaskRef} (h : u ≠ t) (f : Task → Task) : (s.modTask t f).task u = s.task u := by
  simp [State.modTask, task_setTask_ne s h]

@[simp] theorem setTask_setTask (s : State) (t : TaskRef) (x y : Task) : (s.setTask t x).setTask t y = s.setTask t y := by
  simp [State.setTask]

@[simp] theorem modTask_modTask (s : State) (t : TaskRef) (f g : Task → Task) :
    (s.modTask t f).modTask t g = s.modTask t fun k => g (f k) := by
  simp [State.modTask]

@[simp] theorem task_modElem (s : State) (e : ElemRef) (f : Elem → Elem) (t : TaskRef) : (s.modElem e f).task t = s.task t := rfl
@[simp] theorem task_modFlight (s : State) (t : TaskRef) (n : Nat) (f : Firing → Firing) :
    (s.modFlight t n f).task t = { s.task t with flights := listMod (s.task t).flights n f } := by simp [State.modFlight]

theorem task_modFlight_ne (s : State) {t u : TaskRef} (h : u ≠ t) (n : Nat) (f : Firing → Firing) :
    (s.modFlight t n f).task u = s.task u := task_modTask_ne s h _

@[simp] theorem modFlight_modFlight (s : State) (t : TaskRef) (n : Nat) (f g : Firing → Firing) :
    (s.modFlight t n f).modFlight t n g = s.modFlight t n fun x => g (f x) := by
  simp [State.modFlight]

@[simp] theorem modFlight_modElem (s : State) (t : TaskRef) (n : Nat) (f : Firing → Firing) (e : ElemRef) (g : Elem → Elem) :
    (s.modElem e g).modFlight t n f = (s.modFlight t n f).modElem e g := rfl

theorem here_modFlight (s : State) (f : Firing → Firing) :
    (s.modFlight s.cur.task s.cur.which f).here = s.here.map f := by
  simp [State.here, Task.flight, listMod_getElem?]

@[simp] theorem here_modElem (s : State) (e : ElemRef) (f : Elem → Elem) : (s.modElem e f).here = s.here := rfl

@[simp] theorem elem_modElem (s : State) (e : ElemRef) (f : Elem → Elem) : (s.modElem e f).elem e = f (s.elem e) := by
  simp [State.modElem, State.elem]

@[simp] theorem tile_modTile (s : State) (n : Nat) (f : Tile → Tile) : (s.modTile n f).tile n = f (s.tile n) := by
  simp [State.modTile, State.tile]

@[simp] theorem ctx_modCtx (s : State) (n : Nat) (f : Ctx → Ctx) : (s.modCtx n f).ctx n = f (s.ctx n) := by
  simp [State.modCtx, State.ctx]

@[simp] theorem stage_modStage (s : State) (b q : Nat) (f : Stage → Stage) : (s.modStage b q f).stage b q = f (s.stage b q) := by
  simp [State.modStage, State.stage]

end Sys2Proof.Machine
end

