-- ==== Sys2Proof/Laws/Firing.lean ====
section
/-! SUPPORT. What the shared operations of a firing leave: one lemma for each (Machine/Operands.lean, Machine/Control.lean). -/

namespace Sys2Proof.Machine

open Sys2Proof.Safety

/-- The block at the cursor lies in its task's list of blocks in flight. -/
theorem here_eq {s : State} {f : Firing} (h : s.here = some f) : (s.task s.cur.task).flights[s.cur.which]? = some f := h

theorem elem_modElem_if (s : State) (e d : ElemRef) (f : Elem → Elem) :
    (s.modElem e f).elem d = if d = e then f (s.elem e) else s.elem d := by
  by_cases h : d = e
  · subst h; simp
  · simp only [h, if_false, State.modElem, State.elem]; exact get_put_ne _ h _ _

/-- A change of the block at the cursor, counted as a firing, is a firing's frame. -/
theorem firesOnly_of (s : State) (g : Firing → Firing) :
    FiresOnly s ((s.modFlight s.cur.task s.cur.which g).modElem (elemOf s.cur.task) fun e => { e with instrs := e.instrs + 1 }) := by
  refine ⟨⟨rfl, fun u hu => ?_, ?_, fun n hn => ?_, fun e => ?_⟩, ?_⟩
  · simp [task_modFlight_ne s hu]
  · simp
  · simp [Task.flight, listMod_getElem?, hn]
  · rw [elem_modElem_if]; by_cases h : e = elemOf s.cur.task
    · subst h; rfl
    · simp only [h, if_false]; rfl
  · simp

theorem fire0_eq (s : State) : s.fire0 =
    (s.modFlight s.cur.task s.cur.which fun f => { f with fired := s.cur.idx :: f.fired }).modElem (elemOf s.cur.task)
      fun e => { e with instrs := e.instrs + 1 } := rfl

/-- The block at the cursor after it is changed and the firing is counted. -/
theorem here_changed {s : State} {f : Firing} (h : s.here = some f) (g : Firing → Firing) :
    ((s.modFlight s.cur.task s.cur.which g).modElem (elemOf s.cur.task) fun e => { e with instrs := e.instrs + 1 }).here = some (g f) := by
  rw [here_modElem, here_modFlight, h]; rfl

/-- fire0 after a change of the block is one change of the block. -/
theorem modFlight_fire0 (s : State) (g : Firing → Firing) :
    (s.modFlight s.cur.task s.cur.which g).fire0 =
      (s.modFlight s.cur.task s.cur.which fun f => { g f with fired := s.cur.idx :: (g f).fired }).modElem (elemOf s.cur.task)
        fun e => { e with instrs := e.instrs + 1 } := by
  rw [fire0_eq]; simp

/-- A deferred effect: the instruction fires, and nothing but its block changes. -/
theorem atCommit_fire0 {s : State} {f : Firing} (h : s.here = some f) (d : Defer) : Defers s (s.atCommit d).fire0 f d := by
  rw [State.atCommit, modFlight_fire0]
  exact ⟨here_changed h _, firesOnly_of _ _⟩

/-- A firing whose deliveries raise no fault. -/
theorem fire_eq {s : State} {f : Firing} (h : s.here = some f) (hd : Head) (v0 v1 : SlotVal)
    (hf : (({ f with fired := s.cur.idx :: f.fired } : Firing).deliver hd v0 v1).fault = none) :
    s.fire hd v0 v1 = (s.modFlight s.cur.task s.cur.which fun f => ({ f with fired := s.cur.idx :: f.fired } : Firing).deliver hd v0 v1).modElem
      (elemOf s.cur.task) fun e => { e with instrs := e.instrs + 1 } := by
  simp only [State.fire, State.afterDelivery]
  rw [here_changed h]
  simp [hf]

theorem arrive_none {f : Firing} {i n : Nat} (v : SlotVal) (h : f.slots.find (i, n) = none) :
    f.arrive i n v = { f with slots := f.slots.put (i, n) v } := by simp [Firing.arrive, h]

theorem send_none {f : Firing} {t : Target} (v : SlotVal) (h : f.slots.find (slotOf t) = none) :
    f.send (some t) v = { f with slots := f.slots.put (slotOf t) v } := arrive_none v h

@[simp] theorem send_nil (f : Firing) (v : SlotVal) : f.send none v = f := rfl

theorem find_put (t : Table (Nat × Nat) SlotVal) (k j : Nat × Nat) (v : SlotVal) : (t.put k v).find j = if j = k then some v else t.find j := by
  by_cases h : j = k
  · subst h; simp
  · simp [h, find_put_ne _ h]

/-- The frame of a state that differs in the cursor's block, its task's next block address, and the count of the firing. -/
theorem onlyBlock_of (s : State) (g : Firing → Firing) (a : Option Nat) :
    OnlyBlock s ((s.modTask s.cur.task fun k => { k with flights := listMod k.flights s.cur.which g, fetch := a }).modElem (elemOf s.cur.task)
      fun e => { e with instrs := e.instrs + 1 }) := by
  refine ⟨rfl, fun u hu => ?_, ?_, fun n hn => ?_, fun e => ?_⟩
  · simp [task_modTask_ne s hu]
  · simp
  · simp [Task.flight, listMod_getElem?, hn]
  · rw [elem_modElem_if]; by_cases h : e = elemOf s.cur.task
    · subst h; rfl
    · simp only [h, if_false]; rfl

/-- A branch that is the block's first becomes its branch. -/
theorem branch_takes {s : State} {f : Firing} (n : Next) (hh : s.here = some f) (hb : f.branch = none) :
    TakesBranch s (s.branch n) f n := by
  cases n with
  | block a =>
    have e : s.branch (.block a) = (s.modTask s.cur.task fun k => { k with
        flights := listMod k.flights s.cur.which fun f => { f with branch := some (.block a), fired := s.cur.idx :: f.fired }
        fetch := some a }).modElem (elemOf s.cur.task) fun e => { e with instrs := e.instrs + 1 } := by
      simp [State.branch, hh, hb, fire0_eq, State.modFlight]
    rw [e]
    refine ⟨?_, ?_, onlyBlock_of _ _ _⟩
    · simp [State.here, Task.flight, listMod_getElem?, here_eq hh]
    · simp
  | yield =>
    simp only [State.branch, hh, hb]
    rw [modFlight_fire0]
    have := firesOnly_of s (fun f => { f with branch := some .yield, fired := s.cur.idx :: f.fired })
    exact ⟨here_changed hh _, this.2, this.1⟩
  | exit =>
    simp only [State.branch, hh, hb]
    rw [modFlight_fire0]
    have := firesOnly_of s (fun f => { f with branch := some .exit, fired := s.cur.idx :: f.fired })
    exact ⟨here_changed hh _, this.2, this.1⟩

end Sys2Proof.Machine
end

