-- ==== Sys2Proof/Laws/Lines.lean ====
section
/-! SUPPORT. What lines at their homes leave alone: with no line marked by an epoch, settlement, and with it what an agent reads and writes, is the
plain storage (Machine/Lines.lean). -/

namespace Sys2Proof.Laws

open Sys2Proof.Machine

/-- R104: with no line marked, every line carries epoch 0. -/
theorem mark_of_no_marks {s : State} (h : s.marks = []) (line : Nat) : s.mark line = (0, 0) := by simp [State.mark, h, Table.get]

/-- R113: a line of epoch 0 is settled. -/
theorem settle_of_mark_zero {s : State} {line : Nat} (h : (s.mark line).1 = 0) : s.settle line = s := by simp [State.settle, State.settleLoop, h]

/-- R113: with no line marked, there is nothing to settle. -/
theorem settle_of_no_marks {s : State} (h : s.marks = []) (line : Nat) : s.settle line = s := settle_of_mark_zero (by rw [mark_of_no_marks h])

/-- R113: with no line marked, no line needs to be settled before it is read or written. -/
theorem settle_all_of_no_marks {s : State} (h : s.marks = []) (l : List Nat) : l.foldl State.settle s = s := by
  induction l with
  | nil => rfl
  | cons a r ih => simp [settle_of_no_marks h, ih]

/-- R113, R460: with no line marked, and none that the host shares in host bias, lines are served as they stand. -/
theorem deviceMeet_of_no_marks {s : State} (h : s.marks = []) (hb : s.hostBias = []) (lines : List Nat) : s.deviceMeet lines = s := by
  have e : ({ s with hostBias := [] } : State) = s := by rw [← hb]
  simpa only [State.deviceMeet, settle_all_of_no_marks h, hb, List.filter_nil] using e

/-- R113: an agent's write is the write of its cells. -/
theorem deviceWrite_of_no_marks {s : State} (h : s.marks = []) (hb : s.hostBias = []) (cells : List (Nat × Byte)) :
    s.deviceWrite cells = s.commitBytes cells := by
  rw [State.deviceWrite, deviceMeet_of_no_marks h hb]

/-- R113: an agent reads what stands there. -/
theorem seen_of_no_marks {s : State} (h : s.marks = []) (key n : Nat) : s.seen key n = s.num key n := by simp [State.seen, settle_of_no_marks h]

/-- R113: the bytes an agent reads are those that stand there. -/
theorem seenBytes_of_no_marks {s : State} (h : s.marks = []) (key n : Nat) : s.seenBytes key n = s.bytes key n := by
  simp [State.seenBytes, settle_all_of_no_marks h]

/-- R113, R460: a line of epoch 0 that the host does not share is served as it stands. -/
theorem prepare_of_mark_zero {s : State} {u : LineUse} (h : (s.mark u.line).1 = 0) (hm : u.mtype ≠ 3) : s.prepare u = s := by
  simp [State.prepare, settle_of_mark_zero h, hm]

/-! What settlement and a write at the home may change: storage, its errors and tags, epochs and shadows, and the pending work; no task, element,
request, packet or register. -/

/-- Nothing differs but storage, failing units, frames, marks, shadows, contexts and pending work. -/
def HomeOnly (s t : State) : Prop :=
  { t with mem := s.mem, l2mem := s.l2mem, hostmem := s.hostmem, bad := s.bad, frames := s.frames, marks := s.marks, shadows := s.shadows
           ctxs := s.ctxs, agenda := s.agenda, hostBias := s.hostBias } = s

theorem HomeOnly.refl (s : State) : HomeOnly s s := rfl

theorem HomeOnly.trans {s t u : State} (h : HomeOnly s t) (k : HomeOnly t u) : HomeOnly s u := by
  have := congrArg (fun x : State => ({ x with mem := s.mem, l2mem := s.l2mem, hostmem := s.hostmem, bad := s.bad, frames := s.frames, marks := s.marks
                                               shadows := s.shadows, ctxs := s.ctxs, agenda := s.agenda, hostBias := s.hostBias } : State)) k
  exact this.trans h

theorem HomeOnly.foldl {α : Type} {f : State → α → State} (h : ∀ s a, HomeOnly s (f s a)) (l : List α) (s : State) : HomeOnly s (l.foldl f s) := by
  induction l generalizing s with
  | nil => rfl
  | cons a r ih => exact (h s a).trans (ih _)

theorem HomeOnly.tasks {s t : State} (h : HomeOnly s t) : t.tasks = s.tasks := by
  unfold HomeOnly at h; have e := congrArg State.tasks h; exact e
theorem HomeOnly.cur {s t : State} (h : HomeOnly s t) : t.cur = s.cur := by
  unfold HomeOnly at h; have e := congrArg State.cur h; exact e
theorem HomeOnly.reqs {s t : State} (h : HomeOnly s t) : t.reqs = s.reqs := by
  unfold HomeOnly at h; have e := congrArg State.reqs h; exact e
theorem HomeOnly.nextId {s t : State} (h : HomeOnly s t) : t.nextId = s.nextId := by
  unfold HomeOnly at h; have e := congrArg State.nextId h; exact e
theorem HomeOnly.elems {s t : State} (h : HomeOnly s t) : t.elems = s.elems := by
  unfold HomeOnly at h; have e := congrArg State.elems h; exact e
theorem HomeOnly.mgmt {s t : State} (h : HomeOnly s t) : t.mgmt = s.mgmt := by
  unfold HomeOnly at h; have e := congrArg State.mgmt h; exact e

theorem dropLine_homeOnly (s : State) (line : Nat) : HomeOnly s (s.dropLine line) := by
  simp only [State.dropLine]; split <;> rfl

theorem setMark_homeOnly (s : State) (line e c : Nat) : HomeOnly s (s.setMark line e c) := by
  simp only [State.setMark]; split <;> rfl

theorem restoreLine_homeOnly (s : State) (h : Shadow) : HomeOnly s (s.restoreLine h) := by
  simp only [State.restoreLine, State.soil, State.modFrame]; split <;> rfl

theorem freeShadow_homeOnly (s : State) (h : Shadow) : HomeOnly s (s.freeShadow h) := rfl

theorem settleOnce_homeOnly (s : State) (line c e : Nat) : HomeOnly s (s.settleOnce line c e) := by
  simp only [State.settleOnce]
  split
  · split
    · split
      · exact (setMark_homeOnly ..).trans (freeShadow_homeOnly ..)
      · refine HomeOnly.trans ?_ (setMark_homeOnly ..)
        rfl
    · exact ((restoreLine_homeOnly ..).trans (setMark_homeOnly ..)).trans (freeShadow_homeOnly ..)
    · exact (setMark_homeOnly ..).trans (freeShadow_homeOnly ..)
  · exact setMark_homeOnly ..
  · exact setMark_homeOnly ..

theorem settleLoop_homeOnly (line n : Nat) (s : State) : HomeOnly s (s.settleLoop line n) := by
  induction n generalizing s with
  | zero => rfl
  | succ n ih => simp only [State.settleLoop]; split; rfl; exact (settleOnce_homeOnly ..).trans (ih _)

/-- R113: what settlement may change. -/
theorem settle_homeOnly (s : State) (line : Nat) : HomeOnly s (s.settle line) := settleLoop_homeOnly ..

theorem setByte_homeOnly (s : State) (key : Nat) (b : Byte) : HomeOnly s (s.setByte key b) := by
  simp only [State.setByte]
  split
  · rfl
  · split <;> rfl

theorem setBytes_homeOnly (s : State) (cells : List (Nat × Byte)) : HomeOnly s (s.setBytes cells) := by
  induction cells generalizing s with
  | nil => rfl
  | cons c r ih => exact (setByte_homeOnly ..).trans (ih _)

/-- R57, R91, R458: what a write at the homes may change. -/
theorem commitBytes_homeOnly (s : State) (cells : List (Nat × Byte)) : HomeOnly s (s.commitBytes cells) := by
  have soil : ∀ (s : State) l, HomeOnly s (s.soil l) := fun _ _ => rfl
  simp only [State.commitBytes]
  refine HomeOnly.trans (t := s.setBytes cells) ?_ (HomeOnly.trans (t := _) ?_ (HomeOnly.trans (HomeOnly.foldl soil _ _) rfl))
  · exact setBytes_homeOnly ..
  · split <;> rfl

/-- R113, R460: what an agent's look at lines may change. -/
theorem deviceMeet_homeOnly (s : State) (lines : List Nat) : HomeOnly s (s.deviceMeet lines) :=
  (HomeOnly.foldl settle_homeOnly lines s).trans rfl

/-- R113: what an agent's write may change. -/
theorem deviceWrite_homeOnly (s : State) (cells : List (Nat × Byte)) : HomeOnly s (s.deviceWrite cells) :=
  (deviceMeet_homeOnly ..).trans (commitBytes_homeOnly ..)

end Sys2Proof.Laws
end

