-- ==== Sys2Proof/Laws/Memory.lean ====
section
/-! SUPPORT. Laws of storage: what a read gives after a write, and that every operation keeps the canonical form. -/

namespace Sys2Proof.Machine

theorem wfFrom_mono {m : Memory} {a b : Nat} (h : m.wfFrom a = true) (hb : b ≤ a) : m.wfFrom b = true := by
  cases m with
  | nil => rfl
  | cons c r => simp only [Memory.wfFrom, Bool.and_eq_true, decide_eq_true_eq] at *; exact ⟨⟨by omega, h.1.2⟩, h.2⟩

theorem read_below {m : Memory} {lo a : Nat} (h : m.wfFrom lo = true) (ha : a < lo) : m.read a = 0 := by
  cases m with
  | nil => rfl
  | cons c r =>
    simp only [Memory.wfFrom, Bool.and_eq_true, decide_eq_true_eq] at h
    have : a < c.1 := by omega
    simp [Memory.read, this]

theorem write_wfFrom {m : Memory} {lo a : Nat} (b : Byte) (h : m.wfFrom lo = true) (ha : lo ≤ a) : (m.write a b).wfFrom lo = true := by
  induction m generalizing lo with
  | nil => by_cases hb : b = 0#8 <;> simp [Memory.write, Memory.wfFrom, hb, ha]
  | cons c r ih =>
    obtain ⟨k, v⟩ := c
    simp only [Memory.wfFrom, Bool.and_eq_true, decide_eq_true_eq, BitVec.ofNat_eq_ofNat] at h
    obtain ⟨⟨hk, hv⟩, hr⟩ := h
    by_cases h1 : a < k
    · by_cases hb : b = 0#8
      · simp [Memory.write, Memory.wfFrom, h1, hb, hk, hv, hr]
      · simp [Memory.write, Memory.wfFrom, h1, hb, hv, hr, ha]
    · by_cases h2 : a = k
      · subst h2
        by_cases hb : b = 0#8
        · simpa [Memory.write, hb] using wfFrom_mono hr (by omega)
        · simp [Memory.write, Memory.wfFrom, hb, hr, hk]
      · simp [Memory.write, Memory.wfFrom, h1, h2, hk, hv, ih hr (by omega : k + 1 ≤ a)]

/-- A write keeps the canonical form. -/
theorem write_wf {m : Memory} (a : Nat) (b : Byte) (h : m.wf = true) : (m.write a b).wf = true := write_wfFrom b h (Nat.zero_le _)

theorem read_write_from {m : Memory} {lo : Nat} (a k : Nat) (b : Byte) (h : m.wfFrom lo = true) :
    (m.write a b).read k = if k = a then b else m.read k := by
  induction m generalizing lo with
  | nil =>
    by_cases hb : b = 0#8
    · by_cases hk : k = a <;> simp [Memory.write, Memory.read, hb]
    · by_cases hk : k = a
      · simp [Memory.write, Memory.read, hb, hk]
      · by_cases h2 : k < a <;> simp [Memory.write, Memory.read, hb, hk, h2]
  | cons c r ih =>
    obtain ⟨j, v⟩ := c
    simp only [Memory.wfFrom, Bool.and_eq_true, decide_eq_true_eq] at h
    obtain ⟨⟨hj, hv⟩, hr⟩ := h
    by_cases h1 : a < j
    · by_cases hb : b = 0#8
      · simp only [Memory.write, h1, BitVec.ofNat_eq_ofNat, hb, if_true]
        by_cases hk : k = a
        · subst hk; simp [Memory.read, h1]
        · simp [hk]
      · simp only [Memory.write, h1, BitVec.ofNat_eq_ofNat, hb, if_true, if_false, Memory.read]
        by_cases hk : k = a
        · simp [hk]
        · by_cases h2 : k < a
          · simp [h2, hk, show k < j by omega]
          · simp [h2, hk]
    · by_cases h2 : a = j
      · subst h2
        by_cases hb : b = 0#8
        · simp only [Memory.write, hb, Nat.lt_irrefl, if_false, if_true, Memory.read]
          by_cases hk : k = a
          · subst hk; simpa using read_below hr (Nat.lt_succ_self _)
          · by_cases h3 : k < a
            · simp [hk, h3, read_below hr (show k < a + 1 by omega)]
            · simp [hk, h3]
        · by_cases hk : k = a
          · subst hk; simp [Memory.write, hb, Memory.read]
          · simp [Memory.write, hb, Memory.read, hk]
      · simp only [Memory.write, h1, h2, if_false, Memory.read, ih hr]
        by_cases hk : k = a
        · subst hk; simp [h1, h2]
        · simp [hk]

/-- What a read gives after a write. -/
theorem read_write {m : Memory} (a k : Nat) (b : Byte) (h : m.wf = true) : (m.write a b).read k = if k = a then b else m.read k :=
  read_write_from a k b h

theorem writeAll_wf {m : Memory} (l : List (Nat × Byte)) (h : m.wf = true) : (m.writeAll l).wf = true := by
  induction l generalizing m with
  | nil => exact h
  | cons c r ih => exact ih (write_wf _ _ h)

theorem filter_wfFrom {m : Memory} {lo : Nat} (p : Host.Cell → Bool) (h : m.wfFrom lo = true) :
    Memory.wfFrom (m.filter p) lo = true := by
  induction m generalizing lo with
  | nil => rfl
  | cons c r ih =>
    simp only [Memory.wfFrom, Bool.and_eq_true, decide_eq_true_eq, BitVec.ofNat_eq_ofNat] at h
    have hr := ih h.2
    by_cases hp : p c = true
    · simp [List.filter, hp, Memory.wfFrom, h.1.1, h.1.2, hr]
    · simp only [List.filter, hp]; exact wfFrom_mono hr (by omega)

/-- Dropping cells keeps the canonical form. -/
theorem filter_wf {m : Memory} (p : Host.Cell → Bool) (h : m.wf = true) : Memory.wf (m.filter p) = true := filter_wfFrom p h

theorem drop_wf {m : Memory} (a n : Nat) (h : m.wf = true) : (m.drop a n).wf = true := filter_wf _ h

theorem slice_wf {m : Memory} (a n : Nat) (h : m.wf = true) : (m.slice a n).wf = true := filter_wf _ h

end Sys2Proof.Machine
end

