-- ==== Sys2Proof/Laws/PerInstr.lean ====
section
/-! SUPPORT. Statements made for every constructor of Instr: the family RoundTrip, that the decoder reads a well-formed
instruction back from its words (spec/10_instruction_formats.md R226 to R244). -/

namespace Sys2Proof.Laws.RoundTrip

/-- A well-formed instruction is read back from its word, with every operand; a row that is no instruction word has none. -/
def Statement (i : Instr) : Prop := i.wf = true → ∀ w, encode i = some w → decodeWord w = .ok i

theorem illg : Statement (.illg) := by
  intro _ _ e; cases e; rfl

theorem add (h : Head) (w : Width) (b : OpB) : Statement (.add h w b) := by
  intro hw _ e
  cases e
  exact decodeWord_raw 0x001 h _ _ (by decide) (decodeAlu2_enc _ _ _) (Instr.ill_of_wf hw)

theorem sub (h : Head) (w : Width) (b : OpB) : Statement (.sub h w b) := by
  intro hw _ e
  cases e
  exact decodeWord_raw 0x002 h _ _ (by decide) (decodeAlu2_enc _ _ _) (Instr.ill_of_wf hw)

theorem mul (h : Head) (w : Width) (b : OpB) : Statement (.mul h w b) := by
  intro hw _ e
  cases e
  exact decodeWord_raw 0x003 h _ _ (by decide) (decodeAlu2_enc _ _ _) (Instr.ill_of_wf hw)

theorem mulh (h : Head) (w : Width) (b : OpB) : Statement (.mulh h w b) := by
  intro hw _ e
  cases e
  exact decodeWord_raw 0x004 h _ _ (by decide) (decodeAlu2_enc _ _ _) (Instr.ill_of_wf hw)

theorem mulhw (h : Head) (w : Width) (b : OpB) : Statement (.mulhw h w b) := by
  intro hw _ e
  cases e
  exact decodeWord_raw 0x005 h _ _ (by decide) (decodeAlu2_enc _ _ _) (Instr.ill_of_wf hw)

theorem div (h : Head) (w : Width) (b : OpB) : Statement (.div h w b) := by
  intro hw _ e
  cases e
  exact decodeWord_raw 0x006 h _ _ (by decide) (decodeAlu2_enc _ _ _) (Instr.ill_of_wf hw)

theorem divw (h : Head) (w : Width) (b : OpB) : Statement (.divw h w b) := by
  intro hw _ e
  cases e
  exact decodeWord_raw 0x007 h _ _ (by decide) (decodeAlu2_enc _ _ _) (Instr.ill_of_wf hw)

theorem rem (h : Head) (w : Width) (b : OpB) : Statement (.rem h w b) := by
  intro hw _ e
  cases e
  exact decodeWord_raw 0x008 h _ _ (by decide) (decodeAlu2_enc _ _ _) (Instr.ill_of_wf hw)

theorem remw (h : Head) (w : Width) (b : OpB) : Statement (.remw h w b) := by
  intro hw _ e
  cases e
  exact decodeWord_raw 0x009 h _ _ (by decide) (decodeAlu2_enc _ _ _) (Instr.ill_of_wf hw)

theorem neg (h : Head) (w : Width) : Statement (.neg h w) := by
  intro hw _ e
  cases e
  exact decodeWord_raw 0x00A h _ _ (by decide) (decodeAlu1_enc _ _) (Instr.ill_of_wf hw)

theorem abs (h : Head) (w : Width) : Statement (.abs h w) := by
  intro hw _ e
  cases e
  exact decodeWord_raw 0x00B h _ _ (by decide) (decodeAlu1_enc _ _) (Instr.ill_of_wf hw)

theorem min (h : Head) (w : Width) (b : OpB) : Statement (.min h w b) := by
  intro hw _ e
  cases e
  exact decodeWord_raw 0x00C h _ _ (by decide) (decodeAlu2_enc _ _ _) (Instr.ill_of_wf hw)

theorem max (h : Head) (w : Width) (b : OpB) : Statement (.max h w b) := by
  intro hw _ e
  cases e
  exact decodeWord_raw 0x00D h _ _ (by decide) (decodeAlu2_enc _ _ _) (Instr.ill_of_wf hw)

theorem minw (h : Head) (w : Width) (b : OpB) : Statement (.minw h w b) := by
  intro hw _ e
  cases e
  exact decodeWord_raw 0x00E h _ _ (by decide) (decodeAlu2_enc _ _ _) (Instr.ill_of_wf hw)

theorem maxw (h : Head) (w : Width) (b : OpB) : Statement (.maxw h w b) := by
  intro hw _ e
  cases e
  exact decodeWord_raw 0x00F h _ _ (by decide) (decodeAlu2_enc _ _ _) (Instr.ill_of_wf hw)

theorem and (h : Head) (w : Width) (b : OpB) : Statement (.and h w b) := by
  intro hw _ e
  cases e
  exact decodeWord_raw 0x010 h _ _ (by decide) (decodeAlu2_enc _ _ _) (Instr.ill_of_wf hw)

theorem or (h : Head) (w : Width) (b : OpB) : Statement (.or h w b) := by
  intro hw _ e
  cases e
  exact decodeWord_raw 0x011 h _ _ (by decide) (decodeAlu2_enc _ _ _) (Instr.ill_of_wf hw)

theorem xor (h : Head) (w : Width) (b : OpB) : Statement (.xor h w b) := by
  intro hw _ e
  cases e
  exact decodeWord_raw 0x012 h _ _ (by decide) (decodeAlu2_enc _ _ _) (Instr.ill_of_wf hw)

theorem andn (h : Head) (w : Width) (b : OpB) : Statement (.andn h w b) := by
  intro hw _ e
  cases e
  exact decodeWord_raw 0x013 h _ _ (by decide) (decodeAlu2_enc _ _ _) (Instr.ill_of_wf hw)

theorem not (h : Head) (w : Width) : Statement (.not h w) := by
  intro hw _ e
  cases e
  exact decodeWord_raw 0x014 h _ _ (by decide) (decodeAlu1_enc _ _) (Instr.ill_of_wf hw)

theorem shl (h : Head) (w : Width) (b : OpB) : Statement (.shl h w b) := by
  intro hw _ e
  cases e
  exact decodeWord_raw 0x015 h _ _ (by decide) (decodeAlu2_enc _ _ _) (Instr.ill_of_wf hw)

theorem shr (h : Head) (w : Width) (b : OpB) : Statement (.shr h w b) := by
  intro hw _ e
  cases e
  exact decodeWord_raw 0x016 h _ _ (by decide) (decodeAlu2_enc _ _ _) (Instr.ill_of_wf hw)

theorem sar (h : Head) (w : Width) (b : OpB) : Statement (.sar h w b) := by
  intro hw _ e
  cases e
  exact decodeWord_raw 0x017 h _ _ (by decide) (decodeAlu2_enc _ _ _) (Instr.ill_of_wf hw)

theorem rot (h : Head) (w : Width) (b : OpB) : Statement (.rot h w b) := by
  intro hw _ e
  cases e
  exact decodeWord_raw 0x018 h _ _ (by decide) (decodeAlu2_enc _ _ _) (Instr.ill_of_wf hw)

theorem clz (h : Head) (w : Width) : Statement (.clz h w) := by
  intro hw _ e
  cases e
  exact decodeWord_raw 0x019 h _ _ (by decide) (decodeAlu1_enc _ _) (Instr.ill_of_wf hw)

theorem ctz (h : Head) (w : Width) : Statement (.ctz h w) := by
  intro hw _ e
  cases e
  exact decodeWord_raw 0x01A h _ _ (by decide) (decodeAlu1_enc _ _) (Instr.ill_of_wf hw)

theorem popc (h : Head) (w : Width) : Statement (.popc h w) := by
  intro hw _ e
  cases e
  exact decodeWord_raw 0x01B h _ _ (by decide) (decodeAlu1_enc _ _) (Instr.ill_of_wf hw)

theorem brev (h : Head) (w : Width) : Statement (.brev h w) := by
  intro hw _ e
  cases e
  exact decodeWord_raw 0x01C h _ _ (by decide) (decodeAlu1_enc _ _) (Instr.ill_of_wf hw)

theorem bfx (h : Head) (w : Width) (b : OpB) : Statement (.bfx h w b) := by
  intro hw _ e
  cases e
  exact decodeWord_raw 0x01D h _ _ (by decide) (decodeAlu2_enc _ _ _) (Instr.ill_of_wf hw)

theorem bfxw (h : Head) (w : Width) (b : OpB) : Statement (.bfxw h w b) := by
  intro hw _ e
  cases e
  exact decodeWord_raw 0x01E h _ _ (by decide) (decodeAlu2_enc _ _ _) (Instr.ill_of_wf hw)

theorem bfi (h : Head) (w : Width) (b : OpB) : Statement (.bfi h w b) := by
  intro hw _ e
  cases e
  exact decodeWord_raw 0x01F h _ _ (by decide) (decodeAlu2_enc _ _ _) (Instr.ill_of_wf hw)

theorem lea (h : Head) (w : Width) (b : OpB) : Statement (.lea h w b) := by
  intro hw _ e
  cases e
  exact decodeWord_raw 0x020 h _ _ (by decide) (decodeAlu2_enc _ _ _) (Instr.ill_of_wf hw)

theorem mov (h : Head) : Statement (.mov h) := by
  intro hw _ e
  cases e
  exact decodeWord_raw 0x021 h _ _ (by decide) (decodeNone_enc _) (Instr.ill_of_wf hw)

theorem movi (h : Head) (k : BitVec 19) : Statement (.movi h k) := by
  intro hw _ e
  cases e
  exact decodeWord_raw 0x022 h _ _ (by decide) rfl (Instr.ill_of_wf hw)

theorem movhi (h : Head) (q : BitVec 2) (chunk : BitVec 16) : Statement (.movhi h q chunk) := by
  intro hw _ e
  cases e
  refine decodeWord_raw 0x023 h _ _ (by decide) ?_ (Instr.ill_of_wf hw)
  show (fun (h : Head) (o : BitVec 19) => fixed 18 1 0 o (.ok (.movhi h (bits 16 2 o) (bits 0 16 o)))) h _ = _
  simp (disch := decide) only [bits_append_low, bits_append_high, bits_all, bits_zero, Nat.reduceSub, fixed, need] <;> rfl

theorem sel (h : Head) (w : Width) (b : OpB) : Statement (.sel h w b) := by
  intro hw _ e
  cases e
  exact decodeWord_raw 0x024 h _ _ (by decide) (decodeAlu2_enc _ _ _) (Instr.ill_of_wf hw)

theorem sext (h : Head) (w : Width) : Statement (.sext h w) := by
  intro hw _ e
  cases e
  exact decodeWord_raw 0x025 h _ _ (by decide) (decodeAlu1_enc _ _) (Instr.ill_of_wf hw)

theorem zext (h : Head) (w : Width) : Statement (.zext h w) := by
  intro hw _ e
  cases e
  exact decodeWord_raw 0x026 h _ _ (by decide) (decodeAlu1_enc _ _) (Instr.ill_of_wf hw)

theorem teq (h : Head) (w : Width) (b : OpB) (pd : Option (BitVec 4)) : Statement (.teq h w b pd) := by
  intro hw _ e
  cases e
  exact decodeWord_raw 0x040 h _ _ (by decide) (decodeTest_enc _ _ _ _) (Instr.ill_of_wf hw)

theorem tne (h : Head) (w : Width) (b : OpB) (pd : Option (BitVec 4)) : Statement (.tne h w b pd) := by
  intro hw _ e
  cases e
  exact decodeWord_raw 0x041 h _ _ (by decide) (decodeTest_enc _ _ _ _) (Instr.ill_of_wf hw)

theorem tlt (h : Head) (w : Width) (b : OpB) (pd : Option (BitVec 4)) : Statement (.tlt h w b pd) := by
  intro hw _ e
  cases e
  exact decodeWord_raw 0x042 h _ _ (by decide) (decodeTest_enc _ _ _ _) (Instr.ill_of_wf hw)

theorem tle (h : Head) (w : Width) (b : OpB) (pd : Option (BitVec 4)) : Statement (.tle h w b pd) := by
  intro hw _ e
  cases e
  exact decodeWord_raw 0x043 h _ _ (by decide) (decodeTest_enc _ _ _ _) (Instr.ill_of_wf hw)

theorem tltw (h : Head) (w : Width) (b : OpB) (pd : Option (BitVec 4)) : Statement (.tltw h w b pd) := by
  intro hw _ e
  cases e
  exact decodeWord_raw 0x044 h _ _ (by decide) (decodeTest_enc _ _ _ _) (Instr.ill_of_wf hw)

theorem tlew (h : Head) (w : Width) (b : OpB) (pd : Option (BitVec 4)) : Statement (.tlew h w b pd) := by
  intro hw _ e
  cases e
  exact decodeWord_raw 0x045 h _ _ (by decide) (decodeTest_enc _ _ _ _) (Instr.ill_of_wf hw)

theorem tbit (h : Head) (w : Width) (b : OpB) (pd : Option (BitVec 4)) : Statement (.tbit h w b pd) := by
  intro hw _ e
  cases e
  exact decodeWord_raw 0x046 h _ _ (by decide) (decodeTest_enc _ _ _ _) (Instr.ill_of_wf hw)

theorem tnul (h : Head) (vc : BitVec 5) (pd : Option (BitVec 4)) : Statement (.tnul h vc pd) := by
  intro hw _ e
  cases e
  refine decodeWord_raw 0x047 h _ _ (by decide) ?_ (Instr.ill_of_wf hw)
  show (fun (h : Head) (o : BitVec 19) => fixed 16 3 1 o (need (bits 5 6 o == 0) .fixedField (decodePd o fun pd => .ok (.tnul h (bits 0 5 o) pd)))) h _ = _
  simp (disch := decide) only [tnul_fields, decodePd_enc, fixed, need] <;> rfl

theorem read (h : Head) (r : BitVec 5) (te : Bool) : Statement (.read h r te) := by
  intro hw _ e
  cases e
  refine decodeWord_raw 0x060 h _ _ (by decide) ?_ (Instr.ill_of_wf hw)
  show (fun (h : Head) (o : BitVec 19) => fixed 0 13 0 o (.ok (.read h (bits 14 5 o) (bit 13 o)))) h _ = _
  simp (disch := decide) only [encCtl, bits_append_low, bits_append_high, bits_all, bits_zero, bit_append_low, bit_append_high, bit_ofBool, Nat.reduceSub, fixed, need] <;> rfl

theorem write (h : Head) (r : BitVec 5) : Statement (.write h r) := by
  intro hw _ e
  cases e
  exact decodeWord_raw 0x061 h _ _ (by decide) (decodeRg_enc _ _) (Instr.ill_of_wf hw)

theorem nul (h : Head) (store : Bool) (n : BitVec 5) : Statement (.nul h store n) := by
  intro hw _ e
  cases e
  refine decodeWord_raw 0x062 h _ _ (by decide) ?_ (Instr.ill_of_wf hw)
  show (fun (h : Head) (o : BitVec 19) => fixed 0 13 0 o (.ok (.nul h (bit 13 o) (bits 14 5 o)))) h _ = _
  simp (disch := decide) only [encCtl, bits_append_low, bits_append_high, bits_all, bits_zero, bit_append_low, bit_append_high, bit_ofBool, Nat.reduceSub, fixed, need] <;> rfl

theorem br (h : Head) (off : BitVec 13) : Statement (.br h off) := by
  intro hw _ e
  cases e
  exact decodeWord_raw 0x063 h _ _ (by decide) (decodeOff_enc _ _) (Instr.ill_of_wf hw)

theorem brx (h : Head) : Statement (.brx h) := by
  intro hw _ e
  cases e
  exact decodeWord_raw 0x064 h _ _ (by decide) (decodeNone_enc _) (Instr.ill_of_wf hw)

theorem jtab (h : Head) (off : BitVec 13) : Statement (.jtab h off) := by
  intro hw _ e
  cases e
  exact decodeWord_raw 0x065 h _ _ (by decide) (decodeOff_enc _ _) (Instr.ill_of_wf hw)

theorem call (h : Head) (off : BitVec 13) : Statement (.call h off) := by
  intro hw _ e
  cases e
  exact decodeWord_raw 0x066 h _ _ (by decide) (decodeOff_enc _ _) (Instr.ill_of_wf hw)

theorem ret (h : Head) : Statement (.ret h) := by
  intro hw _ e
  cases e
  exact decodeWord_raw 0x067 h _ _ (by decide) (decodeNone_enc _) (Instr.ill_of_wf hw)

theorem exit (h : Head) : Statement (.exit h) := by
  intro hw _ e
  cases e
  exact decodeWord_raw 0x068 h _ _ (by decide) (decodeNone_enc _) (Instr.ill_of_wf hw)

theorem fan (h : Head) (t2 : Target) (t3 : Option Target) : Statement (.fan h t2 t3) := by
  intro hw _ e
  cases e
  exact decodeWord_raw 0x069 h _ _ (by decide) (decodeFan_enc _ _ _) (Instr.ill_of_wf hw)

theorem stamp (h : Head) (k : BitVec 2) : Statement (.stamp h k) := by
  intro hw _ e
  cases e
  refine decodeWord_raw 0x06A h _ _ (by decide) ?_ (Instr.ill_of_wf hw)
  show (fun (h : Head) (o : BitVec 19) => fixed 0 14 0 o (fixed 16 3 0 o (.ok (.stamp h (bits 14 2 o))))) h _ = _
  simp (disch := decide) only [stamp_fields, fixed, need] <;> rfl

theorem lpin (h : Head) : Statement (.lpin h) := by
  intro hw _ e
  cases e
  exact decodeWord_raw 0x06B h _ _ (by decide) (decodeNone_enc _) (Instr.ill_of_wf hw)

theorem lpnext (h : Head) : Statement (.lpnext h) := by
  intro hw _ e
  cases e
  exact decodeWord_raw 0x06C h _ _ (by decide) (decodeNone_enc _) (Instr.ill_of_wf hw)

theorem lpout (h : Head) : Statement (.lpout h) := by
  intro hw _ e
  cases e
  exact decodeWord_raw 0x06D h _ _ (by decide) (decodeNone_enc _) (Instr.ill_of_wf hw)

theorem send (h : Head) (port : BitVec 5) : Statement (.send h port) := by
  intro hw _ e
  cases e
  exact decodeWord_raw 0x06E h _ _ (by decide) (decodeRg_enc _ _) (Instr.ill_of_wf hw)

theorem sends (h : Head) (port : BitVec 5) : Statement (.sends h port) := by
  intro hw _ e
  cases e
  exact decodeWord_raw 0x06F h _ _ (by decide) (decodeRg_enc _ _) (Instr.ill_of_wf hw)

theorem msg (h : Head) (port : BitVec 5) : Statement (.msg h port) := by
  intro hw _ e
  cases e
  exact decodeWord_raw 0x070 h _ _ (by decide) (decodeRg_enc _ _) (Instr.ill_of_wf hw)

theorem notify (h : Head) (vc : BitVec 5) : Statement (.notify h vc) := by
  intro hw _ e
  cases e
  exact decodeWord_raw 0x071 h _ _ (by decide) (decodeRg_enc _ _) (Instr.ill_of_wf hw)

theorem rnext (h : Head) : Statement (.rnext h) := by
  intro hw _ e
  cases e
  exact decodeWord_raw 0x072 h _ _ (by decide) (decodeNone_enc _) (Instr.ill_of_wf hw)

theorem rsplit (h : Head) : Statement (.rsplit h) := by
  intro hw _ e
  cases e
  exact decodeWord_raw 0x073 h _ _ (by decide) (decodeNone_enc _) (Instr.ill_of_wf hw)

theorem yield (h : Head) : Statement (.yield h) := by
  intro hw _ e
  cases e
  exact decodeWord_raw 0x074 h _ _ (by decide) (decodeNone_enc _) (Instr.ill_of_wf hw)

theorem shdef (h : Head) (sh : BitVec 3) (num : BitVec 10) : Statement (.shdef h sh num) := by
  intro hw _ e
  cases e
  refine decodeWord_raw 0x080 h _ _ (by decide) ?_ (Instr.ill_of_wf hw)
  show (fun (h : Head) (o : BitVec 19) => fixed 0 6 0 o (.ok (.shdef h (shD o) (bits 6 10 o)))) h _ = _
  simp (disch := decide) only [bits_append_low, bits_append_high, bits_all, bits_zero, shD, Nat.reduceSub, fixed, need] <;> rfl

theorem shset (h : Head) (sh : BitVec 3) (f : ShField) : Statement (.shset h sh f) := by
  intro hw _ e
  cases e
  refine decodeWord_raw 0x081 h _ _ (by decide) ?_ (Instr.ill_of_wf hw)
  show (fun (h : Head) (o : BitVec 19) => fixed 4 12 0 o (match ShField.ofBits (shAux o) with | some f => .ok (.shset h (shD o) f) | none => .error .optionField)) h _ = _
  simp (disch := decide) only [bits_append_low, bits_append_high, bits_all, bits_zero, ShField.ofBits_toBits, shAux, shD, Nat.reduceSub, fixed, need] <;> rfl

theorem shget (h : Head) (sh : BitVec 3) (f : ShField) : Statement (.shget h sh f) := by
  intro hw _ e
  cases e
  refine decodeWord_raw 0x082 h _ _ (by decide) ?_ (Instr.ill_of_wf hw)
  show (fun (h : Head) (o : BitVec 19) => fixed 4 12 0 o (match ShField.ofBits (shAux o) with | some f => .ok (.shget h (shD o) f) | none => .error .optionField)) h _ = _
  simp (disch := decide) only [bits_append_low, bits_append_high, bits_all, bits_zero, ShField.ofBits_toBits, shAux, shD, Nat.reduceSub, fixed, need] <;> rfl

theorem shadv (h : Head) (sh : BitVec 3) (d : BitVec 2) : Statement (.shadv h sh d) := by
  intro hw _ e
  cases e
  refine decodeWord_raw 0x083 h _ _ (by decide) ?_ (Instr.ill_of_wf hw)
  show (fun (h : Head) (o : BitVec 19) => fixed 2 14 0 o (.ok (.shadv h (shD o) (bits 0 2 o)))) h _ = _
  simp (disch := decide) only [bits_append_low, bits_append_high, bits_all, bits_zero, shD, Nat.reduceSub, fixed, need] <;> rfl

theorem vadd (h : Head) (d a b : BitVec 3) (ty : Ty) (rm : Rm) (sat : Bool) : Statement (.vadd h d a b ty rm sat) := by
  intro hw _ e
  cases e
  refine decodeWord_raw 0x084 h _ _ (by decide) ?_ (Instr.ill_of_wf hw)
  show (fun (h : Head) (o : BitVec 19) => decodeV3rmSat (.vadd h) o) h _ = _
  simp (disch := decide) only [decodeTy_encShp, shD_encShp, shA_encShp, shB_encShp, shRm_encShp, aux_encShp, auxbit_encShp, bit_auxBit, bits_auxBit, fixed, need, decodeV3rmSat] <;> rfl

theorem vsub (h : Head) (d a b : BitVec 3) (ty : Ty) (rm : Rm) (sat : Bool) : Statement (.vsub h d a b ty rm sat) := by
  intro hw _ e
  cases e
  refine decodeWord_raw 0x085 h _ _ (by decide) ?_ (Instr.ill_of_wf hw)
  show (fun (h : Head) (o : BitVec 19) => decodeV3rmSat (.vsub h) o) h _ = _
  simp (disch := decide) only [decodeTy_encShp, shD_encShp, shA_encShp, shB_encShp, shRm_encShp, aux_encShp, auxbit_encShp, bit_auxBit, bits_auxBit, fixed, need, decodeV3rmSat] <;> rfl

theorem vmul (h : Head) (d a b : BitVec 3) (ty : Ty) (rm : Rm) (sat : Bool) : Statement (.vmul h d a b ty rm sat) := by
  intro hw _ e
  cases e
  refine decodeWord_raw 0x086 h _ _ (by decide) ?_ (Instr.ill_of_wf hw)
  show (fun (h : Head) (o : BitVec 19) => decodeV3rmSat (.vmul h) o) h _ = _
  simp (disch := decide) only [decodeTy_encShp, shD_encShp, shA_encShp, shB_encShp, shRm_encShp, aux_encShp, auxbit_encShp, bit_auxBit, bits_auxBit, fixed, need, decodeV3rmSat] <;> rfl

theorem vfma (h : Head) (d a b c : BitVec 3) (ty : Ty) (rm : Rm) : Statement (.vfma h d a b c ty rm) := by
  intro hw _ e
  cases e
  refine decodeWord_raw 0x087 h _ _ (by decide) ?_ (Instr.ill_of_wf hw)
  show (fun (h : Head) (o : BitVec 19) => decodeFma (.vfma h) o) h _ = _
  simp (disch := decide) only [decodeTy_encShp, shD_encShp, shA_encShp, shB_encShp, shRm_encShp, aux_encShp, bits_append_low, bits_append_high, bits_all, Nat.reduceSub, fixed, need, decodeFma] <;> rfl

theorem vfms (h : Head) (d a b c : BitVec 3) (ty : Ty) (rm : Rm) : Statement (.vfms h d a b c ty rm) := by
  intro hw _ e
  cases e
  refine decodeWord_raw 0x088 h _ _ (by decide) ?_ (Instr.ill_of_wf hw)
  show (fun (h : Head) (o : BitVec 19) => decodeFma (.vfms h) o) h _ = _
  simp (disch := decide) only [decodeTy_encShp, shD_encShp, shA_encShp, shB_encShp, shRm_encShp, aux_encShp, bits_append_low, bits_append_high, bits_all, Nat.reduceSub, fixed, need, decodeFma] <;> rfl

theorem vmin (h : Head) (d a b : BitVec 3) (ty : Ty) : Statement (.vmin h d a b ty) := by
  intro hw _ e
  cases e
  refine decodeWord_raw 0x089 h _ _ (by decide) ?_ (Instr.ill_of_wf hw)
  show (fun (h : Head) (o : BitVec 19) => decodeV3 (.vmin h) o) h _ = _
  simp (disch := decide) only [decodeTy_encShp, shD_encShp, shA_encShp, shB_encShp, low_encShp, fixed, need, decodeV3] <;> rfl

theorem vmax (h : Head) (d a b : BitVec 3) (ty : Ty) : Statement (.vmax h d a b ty) := by
  intro hw _ e
  cases e
  refine decodeWord_raw 0x08A h _ _ (by decide) ?_ (Instr.ill_of_wf hw)
  show (fun (h : Head) (o : BitVec 19) => decodeV3 (.vmax h) o) h _ = _
  simp (disch := decide) only [decodeTy_encShp, shD_encShp, shA_encShp, shB_encShp, low_encShp, fixed, need, decodeV3] <;> rfl

theorem vabs (h : Head) (d a : BitVec 3) (ty : Ty) (sat : Bool) : Statement (.vabs h d a ty sat) := by
  intro hw _ e
  cases e
  refine decodeWord_raw 0x08B h _ _ (by decide) ?_ (Instr.ill_of_wf hw)
  show (fun (h : Head) (o : BitVec 19) => fixed 10 3 0 o (fixed 1 5 0 o (decodeTy o fun ty => .ok (.vabs h (shD o) (shA o) ty (bit 0 o))))) h _ = _
  simp (disch := decide) only [decodeTy_encShp, shD_encShp, shA_encShp, auxbit_encShp, shB_field, rmAux_flag, bit_auxBit, fixed, need] <;> rfl

theorem vneg (h : Head) (d a : BitVec 3) (ty : Ty) (sat : Bool) : Statement (.vneg h d a ty sat) := by
  intro hw _ e
  cases e
  refine decodeWord_raw 0x08C h _ _ (by decide) ?_ (Instr.ill_of_wf hw)
  show (fun (h : Head) (o : BitVec 19) => fixed 10 3 0 o (fixed 1 5 0 o (decodeTy o fun ty => .ok (.vneg h (shD o) (shA o) ty (bit 0 o))))) h _ = _
  simp (disch := decide) only [decodeTy_encShp, shD_encShp, shA_encShp, auxbit_encShp, shB_field, rmAux_flag, bit_auxBit, fixed, need] <;> rfl

theorem vdiv (h : Head) (d a b : BitVec 3) (ty : Ty) (rm : Rm) : Statement (.vdiv h d a b ty rm) := by
  intro hw _ e
  cases e
  refine decodeWord_raw 0x08D h _ _ (by decide) ?_ (Instr.ill_of_wf hw)
  show (fun (h : Head) (o : BitVec 19) => fixed 0 4 0 o (decodeTy o fun ty => .ok (.vdiv h (shD o) (shA o) (shB o) ty (shRm o)))) h _ = _
  simp (disch := decide) only [decodeTy_encShp, shD_encShp, shA_encShp, shB_encShp, shRm_encShp, aux_encShp, bits_all, fixed, need] <;> rfl

theorem vsqrt (h : Head) (d a : BitVec 3) (ty : Ty) (rm : Rm) : Statement (.vsqrt h d a ty rm) := by
  intro hw _ e
  cases e
  refine decodeWord_raw 0x08E h _ _ (by decide) ?_ (Instr.ill_of_wf hw)
  show (fun (h : Head) (o : BitVec 19) => decodeV2rm (.vsqrt h) o) h _ = _
  simp (disch := decide) only [decodeTy_encShp, shD_encShp, shA_encShp, shRm_encShp, aux_encShp, shB_field, bits_all, fixed, need, decodeV2rm] <;> rfl

theorem vrcp (h : Head) (d a : BitVec 3) (ty : Ty) (rm : Rm) : Statement (.vrcp h d a ty rm) := by
  intro hw _ e
  cases e
  refine decodeWord_raw 0x08F h _ _ (by decide) ?_ (Instr.ill_of_wf hw)
  show (fun (h : Head) (o : BitVec 19) => decodeV2rm (.vrcp h) o) h _ = _
  simp (disch := decide) only [decodeTy_encShp, shD_encShp, shA_encShp, shRm_encShp, aux_encShp, shB_field, bits_all, fixed, need, decodeV2rm] <;> rfl

theorem vrsq (h : Head) (d a : BitVec 3) (ty : Ty) (rm : Rm) : Statement (.vrsq h d a ty rm) := by
  intro hw _ e
  cases e
  refine decodeWord_raw 0x090 h _ _ (by decide) ?_ (Instr.ill_of_wf hw)
  show (fun (h : Head) (o : BitVec 19) => decodeV2rm (.vrsq h) o) h _ = _
  simp (disch := decide) only [decodeTy_encShp, shD_encShp, shA_encShp, shRm_encShp, aux_encShp, shB_field, bits_all, fixed, need, decodeV2rm] <;> rfl

theorem vexp2 (h : Head) (d a : BitVec 3) (ty : Ty) (rm : Rm) : Statement (.vexp2 h d a ty rm) := by
  intro hw _ e
  cases e
  refine decodeWord_raw 0x091 h _ _ (by decide) ?_ (Instr.ill_of_wf hw)
  show (fun (h : Head) (o : BitVec 19) => decodeV2rm (.vexp2 h) o) h _ = _
  simp (disch := decide) only [decodeTy_encShp, shD_encShp, shA_encShp, shRm_encShp, aux_encShp, shB_field, bits_all, fixed, need, decodeV2rm] <;> rfl

theorem vlog2 (h : Head) (d a : BitVec 3) (ty : Ty) (rm : Rm) : Statement (.vlog2 h d a ty rm) := by
  intro hw _ e
  cases e
  refine decodeWord_raw 0x092 h _ _ (by decide) ?_ (Instr.ill_of_wf hw)
  show (fun (h : Head) (o : BitVec 19) => decodeV2rm (.vlog2 h) o) h _ = _
  simp (disch := decide) only [decodeTy_encShp, shD_encShp, shA_encShp, shRm_encShp, aux_encShp, shB_field, bits_all, fixed, need, decodeV2rm] <;> rfl

theorem vsin (h : Head) (d a : BitVec 3) (ty : Ty) (rm : Rm) : Statement (.vsin h d a ty rm) := by
  intro hw _ e
  cases e
  refine decodeWord_raw 0x093 h _ _ (by decide) ?_ (Instr.ill_of_wf hw)
  show (fun (h : Head) (o : BitVec 19) => decodeV2rm (.vsin h) o) h _ = _
  simp (disch := decide) only [decodeTy_encShp, shD_encShp, shA_encShp, shRm_encShp, aux_encShp, shB_field, bits_all, fixed, need, decodeV2rm] <;> rfl

theorem vcos (h : Head) (d a : BitVec 3) (ty : Ty) (rm : Rm) : Statement (.vcos h d a ty rm) := by
  intro hw _ e
  cases e
  refine decodeWord_raw 0x094 h _ _ (by decide) ?_ (Instr.ill_of_wf hw)
  show (fun (h : Head) (o : BitVec 19) => decodeV2rm (.vcos h) o) h _ = _
  simp (disch := decide) only [decodeTy_encShp, shD_encShp, shA_encShp, shRm_encShp, aux_encShp, shB_field, bits_all, fixed, need, decodeV2rm] <;> rfl

theorem vtanh (h : Head) (d a : BitVec 3) (ty : Ty) (rm : Rm) : Statement (.vtanh h d a ty rm) := by
  intro hw _ e
  cases e
  refine decodeWord_raw 0x095 h _ _ (by decide) ?_ (Instr.ill_of_wf hw)
  show (fun (h : Head) (o : BitVec 19) => decodeV2rm (.vtanh h) o) h _ = _
  simp (disch := decide) only [decodeTy_encShp, shD_encShp, shA_encShp, shRm_encShp, aux_encShp, shB_field, bits_all, fixed, need, decodeV2rm] <;> rfl

theorem vsigm (h : Head) (d a : BitVec 3) (ty : Ty) (rm : Rm) : Statement (.vsigm h d a ty rm) := by
  intro hw _ e
  cases e
  refine decodeWord_raw 0x096 h _ _ (by decide) ?_ (Instr.ill_of_wf hw)
  show (fun (h : Head) (o : BitVec 19) => decodeV2rm (.vsigm h) o) h _ = _
  simp (disch := decide) only [decodeTy_encShp, shD_encShp, shA_encShp, shRm_encShp, aux_encShp, shB_field, bits_all, fixed, need, decodeV2rm] <;> rfl

theorem vcvt (h : Head) (d a : BitVec 3) (dty sty : Ty) (rm : Rm) : Statement (.vcvt h d a dty sty rm) := by
  intro hw _ e
  cases e
  refine decodeWord_raw 0x097 h _ _ (by decide) ?_ (Instr.ill_of_wf hw)
  show (fun (h : Head) (o : BitVec 19) => fixed 10 3 0 o (decodeTy o fun ty => match Ty.ofBits (shAux o) with | some sty => .ok (.vcvt h (shD o) (shA o) ty sty (shRm o)) | none => .error .typeCode)) h _ = _
  simp (disch := decide) only [decodeTy_encShp, shD_encShp, shA_encShp, shRm_encShp, shAux, aux_encShp, shB_field, Ty.ofBits_toBits, bits_all, fixed, need] <;> rfl

theorem vscale (h : Head) (d a : BitVec 3) (by_ : ScaleBy) (ty : Ty) (rm : Rm) : Statement (.vscale h d a by_ ty rm) := by
  intro hw _ e
  cases by_ <;> cases e <;> refine decodeWord_raw 0x098 h _ _ (by decide) ?_ (Instr.ill_of_wf hw)
  all_goals
    show (fun (h : Head) (o : BitVec 19) => fixed 1 3 0 o (decodeTy o fun ty => if bit 0 o then fixed 10 3 0 o (.ok (.vscale h (shD o) (shA o) .slot ty (shRm o))) else .ok (.vscale h (shD o) (shA o) (.shape (shB o)) ty (shRm o)))) h _ = _
    simp (disch := decide) only [decodeTy_encShp, shD_encShp, shA_encShp, shB_encShp, shRm_encShp, aux_encShp, auxbit_encShp, shB_field, fixed, need] <;> rfl

theorem vqnt (h : Head) (d a : BitVec 3) (pass : QntPass) (ty : Ty) (sty : QntSrc) (rm : Rm) : Statement (.vqnt h d a pass ty sty rm) := by
  intro hw _ e
  cases pass <;> cases e <;> refine decodeWord_raw 0x099 h _ _ (by decide) ?_ (Instr.ill_of_wf hw)
  all_goals
    show (fun (h : Head) (o : BitVec 19) => fixed 2 1 0 o (decodeTy o fun ty => match QntSrc.ofBits (bits 0 2 o) with | some q => if bit 3 o then fixed 10 3 0 o (.ok (.vqnt h (shD o) (shA o) .scales ty q (shRm o))) else .ok (.vqnt h (shD o) (shA o) (.elements (shB o)) ty q (shRm o)) | none => .error .optionField)) h _ = _
    simp (disch := decide) only [decodeTy_encShp, shD_encShp, shA_encShp, shB_encShp, shRm_encShp, aux_encShp, auxbit_encShp, shB_field, QntSrc.ofBits_toBits, bits_append_low, bits_append_high, bits_all, bit_append_high, Nat.reduceSub, fixed, need] <;> rfl

theorem vand (h : Head) (d a b : BitVec 3) (ty : Ty) : Statement (.vand h d a b ty) := by
  intro hw _ e
  cases e
  refine decodeWord_raw 0x09A h _ _ (by decide) ?_ (Instr.ill_of_wf hw)
  show (fun (h : Head) (o : BitVec 19) => decodeV3 (.vand h) o) h _ = _
  simp (disch := decide) only [decodeTy_encShp, shD_encShp, shA_encShp, shB_encShp, low_encShp, fixed, need, decodeV3] <;> rfl

theorem vor (h : Head) (d a b : BitVec 3) (ty : Ty) : Statement (.vor h d a b ty) := by
  intro hw _ e
  cases e
  refine decodeWord_raw 0x09B h _ _ (by decide) ?_ (Instr.ill_of_wf hw)
  show (fun (h : Head) (o : BitVec 19) => decodeV3 (.vor h) o) h _ = _
  simp (disch := decide) only [decodeTy_encShp, shD_encShp, shA_encShp, shB_encShp, low_encShp, fixed, need, decodeV3] <;> rfl

theorem vxor (h : Head) (d a b : BitVec 3) (ty : Ty) : Statement (.vxor h d a b ty) := by
  intro hw _ e
  cases e
  refine decodeWord_raw 0x09C h _ _ (by decide) ?_ (Instr.ill_of_wf hw)
  show (fun (h : Head) (o : BitVec 19) => decodeV3 (.vxor h) o) h _ = _
  simp (disch := decide) only [decodeTy_encShp, shD_encShp, shA_encShp, shB_encShp, low_encShp, fixed, need, decodeV3] <;> rfl

theorem vshl (h : Head) (d a b : BitVec 3) (ty : Ty) : Statement (.vshl h d a b ty) := by
  intro hw _ e
  cases e
  refine decodeWord_raw 0x09D h _ _ (by decide) ?_ (Instr.ill_of_wf hw)
  show (fun (h : Head) (o : BitVec 19) => decodeV3 (.vshl h) o) h _ = _
  simp (disch := decide) only [decodeTy_encShp, shD_encShp, shA_encShp, shB_encShp, low_encShp, fixed, need, decodeV3] <;> rfl

theorem vshr (h : Head) (d a b : BitVec 3) (ty : Ty) : Statement (.vshr h d a b ty) := by
  intro hw _ e
  cases e
  refine decodeWord_raw 0x09E h _ _ (by decide) ?_ (Instr.ill_of_wf hw)
  show (fun (h : Head) (o : BitVec 19) => decodeV3 (.vshr h) o) h _ = _
  simp (disch := decide) only [decodeTy_encShp, shD_encShp, shA_encShp, shB_encShp, low_encShp, fixed, need, decodeV3] <;> rfl

theorem vcmp (h : Head) (d a b : BitVec 3) (ty : Ty) (cond : Cond) : Statement (.vcmp h d a b ty cond) := by
  intro hw _ e
  cases e
  refine decodeWord_raw 0x09F h _ _ (by decide) ?_ (Instr.ill_of_wf hw)
  show (fun (h : Head) (o : BitVec 19) => fixed 3 3 0 o (decodeTy o fun ty => .ok (.vcmp h (shD o) (shA o) (shB o) ty (Cond.ofBits (bits 0 3 o))))) h _ = _
  simp (disch := decide) only [decodeTy_encShp, shD_encShp, shA_encShp, shB_encShp, aux_encShp, rmAux_high, Cond.ofBits_toBits, bits_append_low, bits_all, fixed, need] <;> rfl

theorem vselm (h : Head) (d a b m : BitVec 3) (ty : Ty) : Statement (.vselm h d a b m ty) := by
  intro hw _ e
  cases e
  refine decodeWord_raw 0x0A0 h _ _ (by decide) ?_ (Instr.ill_of_wf hw)
  show (fun (h : Head) (o : BitVec 19) => fixed 3 3 0 o (decodeTy o fun ty => .ok (.vselm h (shD o) (shA o) (shB o) (bits 0 3 o) ty))) h _ = _
  simp (disch := decide) only [decodeTy_encShp, shD_encShp, shA_encShp, shB_encShp, aux_encShp, rmAux_high, bits_append_low, bits_all, fixed, need] <;> rfl

theorem vclamp (h : Head) (d a : BitVec 3) (ty : Ty) : Statement (.vclamp h d a ty) := by
  intro hw _ e
  cases e
  refine decodeWord_raw 0x0A1 h _ _ (by decide) ?_ (Instr.ill_of_wf hw)
  show (fun (h : Head) (o : BitVec 19) => fixed 10 3 0 o (fixed 0 6 0 o (decodeTy o fun ty => .ok (.vclamp h (shD o) (shA o) ty)))) h _ = _
  simp (disch := decide) only [decodeTy_encShp, shD_encShp, shA_encShp, low_encShp, shB_field, fixed, need] <;> rfl

theorem vsum (h : Head) (a : BitVec 3) (ty : Ty) (opt : Bool) : Statement (.vsum h a ty opt) := by
  intro hw _ e
  cases e
  refine decodeWord_raw 0x0A2 h _ _ (by decide) ?_ (Instr.ill_of_wf hw)
  show (fun (h : Head) (o : BitVec 19) => fixed 16 3 0 o (fixed 10 3 0 o (fixed 1 5 0 o (decodeTy o fun ty => .ok (.vsum h (shA o) ty (bit 0 o)))))) h _ = _
  simp (disch := decide) only [decodeTy_encShp, shA_encShp, auxbit_encShp, shB_field, shD_field, rmAux_flag, bit_auxBit, fixed, need] <;> rfl

theorem vrmax (h : Head) (a : BitVec 3) (ty : Ty) : Statement (.vrmax h a ty) := by
  intro hw _ e
  cases e
  refine decodeWord_raw 0x0A3 h _ _ (by decide) ?_ (Instr.ill_of_wf hw)
  show (fun (h : Head) (o : BitVec 19) => decodeRed (.vrmax h) o) h _ = _
  simp (disch := decide) only [decodeTy_encShp, shA_encShp, low_encShp, shB_field, shD_field, fixed, need, decodeRed] <;> rfl

theorem vrmin (h : Head) (a : BitVec 3) (ty : Ty) : Statement (.vrmin h a ty) := by
  intro hw _ e
  cases e
  refine decodeWord_raw 0x0A4 h _ _ (by decide) ?_ (Instr.ill_of_wf hw)
  show (fun (h : Head) (o : BitVec 19) => decodeRed (.vrmin h) o) h _ = _
  simp (disch := decide) only [decodeTy_encShp, shA_encShp, low_encShp, shB_field, shD_field, fixed, need, decodeRed] <;> rfl

theorem vargmx (h : Head) (a : BitVec 3) (ty : Ty) : Statement (.vargmx h a ty) := by
  intro hw _ e
  cases e
  refine decodeWord_raw 0x0A5 h _ _ (by decide) ?_ (Instr.ill_of_wf hw)
  show (fun (h : Head) (o : BitVec 19) => decodeRed (.vargmx h) o) h _ = _
  simp (disch := decide) only [decodeTy_encShp, shA_encShp, low_encShp, shB_field, shD_field, fixed, need, decodeRed] <;> rfl

theorem vdot (h : Head) (a b : BitVec 3) (ty : Ty) (opt : Bool) : Statement (.vdot h a b ty opt) := by
  intro hw _ e
  cases e
  refine decodeWord_raw 0x0A6 h _ _ (by decide) ?_ (Instr.ill_of_wf hw)
  show (fun (h : Head) (o : BitVec 19) => fixed 16 3 0 o (fixed 1 5 0 o (decodeTy o fun ty => .ok (.vdot h (shA o) (shB o) ty (bit 0 o))))) h _ = _
  simp (disch := decide) only [decodeTy_encShp, shA_encShp, shB_encShp, auxbit_encShp, shD_field, rmAux_flag, bit_auxBit, fixed, need] <;> rfl

theorem vperm (h : Head) (d a b : BitVec 3) (ty : Ty) : Statement (.vperm h d a b ty) := by
  intro hw _ e
  cases e
  refine decodeWord_raw 0x0A7 h _ _ (by decide) ?_ (Instr.ill_of_wf hw)
  show (fun (h : Head) (o : BitVec 19) => decodeV3 (.vperm h) o) h _ = _
  simp (disch := decide) only [decodeTy_encShp, shD_encShp, shA_encShp, shB_encShp, low_encShp, fixed, need, decodeV3] <;> rfl

theorem vgath (h : Head) (d a b : BitVec 3) (ty : Ty) : Statement (.vgath h d a b ty) := by
  intro hw _ e
  cases e
  refine decodeWord_raw 0x0A8 h _ _ (by decide) ?_ (Instr.ill_of_wf hw)
  show (fun (h : Head) (o : BitVec 19) => decodeV3 (.vgath h) o) h _ = _
  simp (disch := decide) only [decodeTy_encShp, shD_encShp, shA_encShp, shB_encShp, low_encShp, fixed, need, decodeV3] <;> rfl

theorem vscat (h : Head) (d a b : BitVec 3) (ty : Ty) : Statement (.vscat h d a b ty) := by
  intro hw _ e
  cases e
  refine decodeWord_raw 0x0A9 h _ _ (by decide) ?_ (Instr.ill_of_wf hw)
  show (fun (h : Head) (o : BitVec 19) => decodeV3 (.vscat h) o) h _ = _
  simp (disch := decide) only [decodeTy_encShp, shD_encShp, shA_encShp, shB_encShp, low_encShp, fixed, need, decodeV3] <;> rfl

theorem vjoin (h : Head) (d a b : BitVec 3) (outer : Bool) : Statement (.vjoin h d a b outer) := by
  intro hw _ e
  cases e
  refine decodeWord_raw 0x0AA h _ _ (by decide) ?_ (Instr.ill_of_wf hw)
  show (fun (h : Head) (o : BitVec 19) => fixed 1 5 0 o (need (bits 6 4 o == 11) .typeCode (.ok (.vjoin h (shD o) (shA o) (shB o) (bit 0 o))))) h _ = _
  simp (disch := decide) only [join_type, shD_encShp, shA_encShp, shB_encShp, auxbit_encShp, rmAux_flag, bit_auxBit, fixed, need] <;> rfl

theorem viota (h : Head) (d : BitVec 3) (ty : Ty) (rm : Rm) : Statement (.viota h d ty rm) := by
  intro hw _ e
  cases e
  refine decodeWord_raw 0x0AB h _ _ (by decide) ?_ (Instr.ill_of_wf hw)
  show (fun (h : Head) (o : BitVec 19) => fixed 10 6 0 o (fixed 0 4 0 o (decodeTy o fun ty => .ok (.viota h (shD o) ty (shRm o))))) h _ = _
  simp (disch := decide) only [decodeTy_encShp, shD_encShp, shRm_encShp, aux_encShp, shAB_zero, bits_all, fixed, need] <;> rfl

theorem vfill (h : Head) (d : BitVec 3) (ty : Ty) : Statement (.vfill h d ty) := by
  intro hw _ e
  cases e
  refine decodeWord_raw 0x0AC h _ _ (by decide) ?_ (Instr.ill_of_wf hw)
  show (fun (h : Head) (o : BitVec 19) => fixed 10 6 0 o (fixed 0 6 0 o (decodeTy o fun ty => .ok (.vfill h (shD o) ty)))) h _ = _
  simp (disch := decide) only [decodeTy_encShp, shD_encShp, low_encShp, shAB_zero, fixed, need] <;> rfl

theorem vcopy (h : Head) (d a : BitVec 3) (ty : Ty) : Statement (.vcopy h d a ty) := by
  intro hw _ e
  cases e
  refine decodeWord_raw 0x0AD h _ _ (by decide) ?_ (Instr.ill_of_wf hw)
  show (fun (h : Head) (o : BitVec 19) => fixed 10 3 0 o (fixed 0 6 0 o (decodeTy o fun ty => .ok (.vcopy h (shD o) (shA o) ty)))) h _ = _
  simp (disch := decide) only [decodeTy_encShp, shD_encShp, shA_encShp, low_encShp, shB_field, fixed, need] <;> rfl

theorem ld (h : Head) (sp : Space) (sz : Size) (sx : Bool) : Statement (.ld h sp sz sx) := by
  intro hw _ e
  cases e
  refine decodeWord_raw 0x100 h _ _ (by decide) ?_ (Instr.ill_of_wf hw)
  show (fun (h : Head) (o : BitVec 19) => fixed 1 12 0 o (decodeSp o fun sp => decodeSize o fun sz => .ok (.ld h sp sz (bit 0 o)))) h _ = _
  simp (disch := decide) only [decodeSp_encMem, size_encMem, mem_opt_flag, mem_flag, decodeSize, Size.ofBits_toBits, fixed, need] <;> rfl

theorem st (h : Head) (sp : Space) (sz : Size) (sid : BitVec 5) : Statement (.st h sp sz sid) := by
  intro hw _ e
  cases e
  refine decodeWord_raw 0x101 h _ _ (by decide) ?_ (Instr.ill_of_wf hw)
  show (fun (h : Head) (o : BitVec 19) => fixed 0 4 0 o (fixed 9 4 0 o (decodeSp o fun sp => decodeSize o fun sz => .ok (.st h sp sz (bits 4 5 o))))) h _ = _
  simp (disch := decide) only [decodeSp_encMem, size_encMem, sid_encMem, opt_encMem, mem_scope_zero, decodeSize, Size.ofBits_toBits, fixed, need] <;> rfl

theorem ldp (h : Head) (sp : Space) : Statement (.ldp h sp) := by
  intro hw _ e
  cases e
  refine decodeWord_raw 0x102 h _ _ (by decide) ?_ (Instr.ill_of_wf hw)
  show (fun (h : Head) (o : BitVec 19) => need (bits 13 3 o == 4) .sizeCode (fixed 0 13 0 o (decodeSp o fun sp => .ok (.ldp h sp)))) h _ = _
  simp (disch := decide) only [decodeSp_encMem, size_encMem, mem_low13, fixed, need] <;> rfl

theorem stp (h : Head) (sp : Space) (sid : BitVec 5) : Statement (.stp h sp sid) := by
  intro hw _ e
  cases e
  refine decodeWord_raw 0x103 h _ _ (by decide) ?_ (Instr.ill_of_wf hw)
  show (fun (h : Head) (o : BitVec 19) => need (bits 13 3 o == 4) .sizeCode (fixed 0 4 0 o (fixed 9 4 0 o (decodeSp o fun sp => .ok (.stp h sp (bits 4 5 o)))))) h _ = _
  simp (disch := decide) only [decodeSp_encMem, size_encMem, sid_encMem, opt_encMem, mem_scope_zero, fixed, need] <;> rfl

theorem pref (h : Head) (sp : Space) : Statement (.pref h sp) := by
  intro hw _ e
  cases e
  refine decodeWord_raw 0x104 h _ _ (by decide) ?_ (Instr.ill_of_wf hw)
  show (fun (h : Head) (o : BitVec 19) => fixed 0 16 0 o (decodeSp o fun sp => .ok (.pref h sp))) h _ = _
  simp (disch := decide) only [decodeSp_encMem, mem_low16, fixed, need] <;> rfl

theorem flush (h : Head) (sp : Space) : Statement (.flush h sp) := by
  intro hw _ e
  cases e
  refine decodeWord_raw 0x105 h _ _ (by decide) ?_ (Instr.ill_of_wf hw)
  show (fun (h : Head) (o : BitVec 19) => fixed 0 16 0 o (decodeSp o fun sp => .ok (.flush h sp))) h _ = _
  simp (disch := decide) only [decodeSp_encMem, mem_low16, fixed, need] <;> rfl

theorem inval (h : Head) (sp : Space) : Statement (.inval h sp) := by
  intro hw _ e
  cases e
  refine decodeWord_raw 0x106 h _ _ (by decide) ?_ (Instr.ill_of_wf hw)
  show (fun (h : Head) (o : BitVec 19) => fixed 0 16 0 o (decodeSp o fun sp => .ok (.inval h sp))) h _ = _
  simp (disch := decide) only [decodeSp_encMem, mem_low16, fixed, need] <;> rfl

theorem lds (h : Head) (sp : Space) (wait : Bool) : Statement (.lds h sp wait) := by
  intro hw _ e
  cases e
  refine decodeWord_raw 0x107 h _ _ (by decide) ?_ (Instr.ill_of_wf hw)
  show (fun (h : Head) (o : BitVec 19) => need (bits 13 3 o == 3) .sizeCode (fixed 1 12 0 o (decodeSp o fun sp => .ok (.lds h sp (bit 0 o))))) h _ = _
  simp (disch := decide) only [decodeSp_encMem, size_encMem, mem_opt_flag, mem_flag, fixed, need] <;> rfl

theorem sts (h : Head) (sp : Space) : Statement (.sts h sp) := by
  intro hw _ e
  cases e
  refine decodeWord_raw 0x108 h _ _ (by decide) ?_ (Instr.ill_of_wf hw)
  show (fun (h : Head) (o : BitVec 19) => need (bits 13 3 o == 3) .sizeCode (fixed 0 13 0 o (decodeSp o fun sp => .ok (.sts h sp)))) h _ = _
  simp (disch := decide) only [decodeSp_encMem, size_encMem, mem_low13, fixed, need] <;> rfl

theorem stclr (h : Head) (sp : Space) : Statement (.stclr h sp) := by
  intro hw _ e
  cases e
  refine decodeWord_raw 0x109 h _ _ (by decide) ?_ (Instr.ill_of_wf hw)
  show (fun (h : Head) (o : BitVec 19) => need (bits 13 3 o == 3) .sizeCode (fixed 0 13 0 o (decodeSp o fun sp => .ok (.stclr h sp)))) h _ = _
  simp (disch := decide) only [decodeSp_encMem, size_encMem, mem_low13, fixed, need] <;> rfl

theorem aadd (h : Head) (sp : Space) (sz : ASize) (m : AMode) (fp : Bool) : Statement (.aadd h sp sz m fp) := by
  intro hw _ e
  cases e
  refine decodeWord_raw 0x10A h _ _ (by decide) ?_ (Instr.ill_of_wf hw)
  show (fun (h : Head) (o : BitVec 19) => fixed 1 8 0 o (decodeSp o fun sp => decodeASize o fun sz => decodeMode o fun m => .ok (.aadd h sp sz m (bit 0 o)))) h _ = _
  simp (disch := decide) only [atomic_flag, atomic_mid8, decodeASize, ASize.ofBits_toBits, decodeSp_encAtomic, size_encAtomic, decodeMode_enc, fixed, need] <;> rfl

theorem amin (h : Head) (sp : Space) (sz : ASize) (m : AMode) : Statement (.amin h sp sz m) := by
  intro hw _ e
  cases e
  exact decodeWord_raw 0x10B h _ _ (by decide) (decodeAtomic_enc _ _ _ _) (Instr.ill_of_wf hw)

theorem amax (h : Head) (sp : Space) (sz : ASize) (m : AMode) : Statement (.amax h sp sz m) := by
  intro hw _ e
  cases e
  exact decodeWord_raw 0x10C h _ _ (by decide) (decodeAtomic_enc _ _ _ _) (Instr.ill_of_wf hw)

theorem aminw (h : Head) (sp : Space) (sz : ASize) (m : AMode) : Statement (.aminw h sp sz m) := by
  intro hw _ e
  cases e
  exact decodeWord_raw 0x10D h _ _ (by decide) (decodeAtomic_enc _ _ _ _) (Instr.ill_of_wf hw)

theorem amaxw (h : Head) (sp : Space) (sz : ASize) (m : AMode) : Statement (.amaxw h sp sz m) := by
  intro hw _ e
  cases e
  exact decodeWord_raw 0x10E h _ _ (by decide) (decodeAtomic_enc _ _ _ _) (Instr.ill_of_wf hw)

theorem aand (h : Head) (sp : Space) (sz : ASize) (m : AMode) : Statement (.aand h sp sz m) := by
  intro hw _ e
  cases e
  exact decodeWord_raw 0x10F h _ _ (by decide) (decodeAtomic_enc _ _ _ _) (Instr.ill_of_wf hw)

theorem aor (h : Head) (sp : Space) (sz : ASize) (m : AMode) : Statement (.aor h sp sz m) := by
  intro hw _ e
  cases e
  exact decodeWord_raw 0x110 h _ _ (by decide) (decodeAtomic_enc _ _ _ _) (Instr.ill_of_wf hw)

theorem axor (h : Head) (sp : Space) (sz : ASize) (m : AMode) : Statement (.axor h sp sz m) := by
  intro hw _ e
  cases e
  exact decodeWord_raw 0x111 h _ _ (by decide) (decodeAtomic_enc _ _ _ _) (Instr.ill_of_wf hw)

theorem aswp (h : Head) (sp : Space) (sz : ASize) (m : AMode) : Statement (.aswp h sp sz m) := by
  intro hw _ e
  cases e
  exact decodeWord_raw 0x112 h _ _ (by decide) (decodeAtomic_enc _ _ _ _) (Instr.ill_of_wf hw)

theorem acas (h : Head) (sp : Space) (sz : ASize) (sc : Scope) : Statement (.acas h sp sz sc) := by
  intro hw _ e
  cases e
  refine decodeWord_raw 0x113 h _ _ (by decide) ?_ (Instr.ill_of_wf hw)
  show (fun (h : Head) (o : BitVec 19) => fixed 0 10 0 o (decodeSp o fun sp => decodeASize o fun sz => decodeSc o fun sc => .ok (.acas h sp sz sc))) h _ = _
  simp (disch := decide) only [decodeSp_encMem, size_encMem, scope_encMem, mem_low10, decodeSc, decodeASize, ASize.ofBits_toBits, Scope.ofBits_toBits, fixed, need] <;> rfl

theorem acasm (h : Head) (sp : Space) (n : BitVec 2) (vk : BitVec 2) (sc : Scope) : Statement (.acasm h sp n vk sc) := by
  intro hw _ e
  cases e
  refine decodeWord_raw 0x114 h _ _ (by decide) ?_ (Instr.ill_of_wf hw)
  show (fun (h : Head) (o : BitVec 19) => need (bits 13 3 o == 3) .sizeCode (fixed 4 6 0 o (decodeSp o fun sp => decodeSc o fun sc => .ok (.acasm h sp (bits 0 2 o) (bits 2 2 o) sc)))) h _ = _
  simp (disch := decide) only [acasm_fields, decodeSp_encMem, size_encMem, scope_encMem, mem_mid6, decodeSc, Scope.ofBits_toBits, fixed, need] <;> rfl

theorem aenq (h : Head) (sp : Space) (sc : Scope) : Statement (.aenq h sp sc) := by
  intro hw _ e
  cases e
  refine decodeWord_raw 0x115 h _ _ (by decide) ?_ (Instr.ill_of_wf hw)
  show (fun (h : Head) (o : BitVec 19) => need (bits 13 3 o == 3) .sizeCode (fixed 0 10 0 o (decodeSp o fun sp => decodeSc o fun sc => .ok (.aenq h sp sc)))) h _ = _
  simp (disch := decide) only [decodeSp_encMem, size_encMem, scope_encMem, mem_low10, decodeSc, Scope.ofBits_toBits, fixed, need] <;> rfl

theorem achase (h : Head) (sp : Space) : Statement (.achase h sp) := by
  intro hw _ e
  cases e
  refine decodeWord_raw 0x116 h _ _ (by decide) ?_ (Instr.ill_of_wf hw)
  show (fun (h : Head) (o : BitVec 19) => need (bits 13 3 o == 3) .sizeCode (fixed 0 13 0 o (decodeSp o fun sp => .ok (.achase h sp)))) h _ = _
  simp (disch := decide) only [decodeSp_encMem, size_encMem, mem_low13, fixed, need] <;> rfl

theorem abxa (h : Head) (sp : Space) (m : AMode) : Statement (.abxa h sp m) := by
  intro hw _ e
  cases e
  refine decodeWord_raw 0x117 h _ _ (by decide) ?_ (Instr.ill_of_wf hw)
  show (fun (h : Head) (o : BitVec 19) => need (bits 13 3 o == 4) .sizeCode (fixed 0 9 0 o (decodeSp o fun sp => decodeMode o fun m => .ok (.abxa h sp m)))) h _ = _
  simp (disch := decide) only [decodeSp_encAtomic, size_encAtomic, decodeMode_enc, low_encAtomic, fixed, need] <;> rfl

theorem wenq (h : Head) : Statement (.wenq h) := by
  intro hw _ e
  cases e
  exact decodeWord_raw 0x118 h _ _ (by decide) (decodeNone_enc _) (Instr.ill_of_wf hw)

theorem otok (h : Head) (sc : Scope) : Statement (.otok h sc) := by
  intro hw _ e
  cases e
  refine decodeWord_raw 0x119 h _ _ (by decide) ?_ (Instr.ill_of_wf hw)
  show (fun (h : Head) (o : BitVec 19) => fixed 13 6 0 o (fixed 0 10 0 o (decodeSc o fun sc => .ok (.otok h sc)))) h _ = _
  simp (disch := decide) only [scope_encMem, mem_high6, mem_low10, decodeSc, Scope.ofBits_toBits, fixed, need] <;> rfl

theorem ojoin (h : Head) : Statement (.ojoin h) := by
  intro hw _ e
  cases e
  exact decodeWord_raw 0x11A h _ _ (by decide) (decodeNone_enc _) (Instr.ill_of_wf hw)

theorem fence (h : Head) (sc : Scope) : Statement (.fence h sc) := by
  intro hw _ e
  cases e
  refine decodeWord_raw 0x11B h _ _ (by decide) ?_ (Instr.ill_of_wf hw)
  show (fun (h : Head) (o : BitVec 19) => fixed 13 6 0 o (fixed 0 10 0 o (decodeSc o fun sc => .ok (.fence h sc)))) h _ = _
  simp (disch := decide) only [scope_encMem, mem_high6, mem_low10, decodeSc, Scope.ofBits_toBits, fixed, need] <;> rfl

theorem tlwait (h : Head) (tl : BitVec 4) : Statement (.tlwait h tl) := by
  intro hw _ e
  cases e
  refine decodeWord_raw 0x11C h _ _ (by decide) ?_ (Instr.ill_of_wf hw)
  show (fun (h : Head) (o : BitVec 19) => fixed 4 15 0 o (.ok (.tlwait h (bits 0 4 o)))) h _ = _
  simp (disch := decide) only [mem_high15, opt_encMem, fixed, need] <;> rfl

theorem tlread (h : Head) (tl : BitVec 4) : Statement (.tlread h tl) := by
  intro hw _ e
  cases e
  refine decodeWord_raw 0x11D h _ _ (by decide) ?_ (Instr.ill_of_wf hw)
  show (fun (h : Head) (o : BitVec 19) => fixed 4 15 0 o (.ok (.tlread h (bits 0 4 o)))) h _ = _
  simp (disch := decide) only [mem_high15, opt_encMem, fixed, need] <;> rfl

theorem tlbump (h : Head) (tl : BitVec 4) : Statement (.tlbump h tl) := by
  intro hw _ e
  cases e
  refine decodeWord_raw 0x11E h _ _ (by decide) ?_ (Instr.ill_of_wf hw)
  show (fun (h : Head) (o : BitVec 19) => fixed 4 15 0 o (.ok (.tlbump h (bits 0 4 o)))) h _ = _
  simp (disch := decide) only [mem_high15, opt_encMem, fixed, need] <;> rfl

theorem snap (h : Head) : Statement (.snap h) := by
  intro hw _ e
  cases e
  exact decodeWord_raw 0x11F h _ _ (by decide) (decodeNone_enc _) (Instr.ill_of_wf hw)

theorem snacc (h : Head) : Statement (.snacc h) := by
  intro hw _ e
  cases e
  exact decodeWord_raw 0x120 h _ _ (by decide) (decodeNone_enc _) (Instr.ill_of_wf hw)

theorem snrej (h : Head) : Statement (.snrej h) := by
  intro hw _ e
  cases e
  exact decodeWord_raw 0x121 h _ _ (by decide) (decodeNone_enc _) (Instr.ill_of_wf hw)

theorem snqry (h : Head) : Statement (.snqry h) := by
  intro hw _ e
  cases e
  exact decodeWord_raw 0x122 h _ _ (by decide) (decodeNone_enc _) (Instr.ill_of_wf hw)

theorem stgput (h : Head) (q : BitVec 4) : Statement (.stgput h q) := by
  intro hw _ e
  cases e
  refine decodeWord_raw 0x123 h _ _ (by decide) ?_ (Instr.ill_of_wf hw)
  show (fun (h : Head) (o : BitVec 19) => fixed 4 15 0 o (.ok (.stgput h (bits 0 4 o)))) h _ = _
  simp (disch := decide) only [mem_high15, opt_encMem, fixed, need] <;> rfl

theorem stgwait (h : Head) (q : BitVec 4) : Statement (.stgwait h q) := by
  intro hw _ e
  cases e
  refine decodeWord_raw 0x124 h _ _ (by decide) ?_ (Instr.ill_of_wf hw)
  show (fun (h : Head) (o : BitVec 19) => fixed 4 15 0 o (.ok (.stgwait h (bits 0 4 o)))) h _ = _
  simp (disch := decide) only [mem_high15, opt_encMem, fixed, need] <;> rfl

theorem stgclose (h : Head) (q : BitVec 4) : Statement (.stgclose h q) := by
  intro hw _ e
  cases e
  refine decodeWord_raw 0x125 h _ _ (by decide) ?_ (Instr.ill_of_wf hw)
  show (fun (h : Head) (o : BitVec 19) => fixed 4 15 0 o (.ok (.stgclose h (bits 0 4 o)))) h _ = _
  simp (disch := decide) only [mem_high15, opt_encMem, fixed, need] <;> rfl

theorem cpy (h : Head) (tl : BitVec 4) (cx : BitVec 2) (ty : Ty) (start follow : Bool) (mask : BitVec 4) : Statement (.cpy h tl cx ty start follow mask) := by
  intro hw _ e
  cases e
  refine decodeWord_raw 0x140 h _ _ (by decide) ?_ (Instr.ill_of_wf hw)
  show (fun (h : Head) (o : BitVec 19) => decodeCopy (.cpy h) o) h _ = _
  simp (disch := decide) only [tl_encEng, cx_encEng, er_encEng, mod_encEng, decodeTy_encEng, start_encEng, follow_encEng, fixed, need, decodeCopy] <;> rfl

theorem cpyt (h : Head) (tl : BitVec 4) (cx : BitVec 2) (ty : Ty) (start follow : Bool) (mask : BitVec 4) : Statement (.cpyt h tl cx ty start follow mask) := by
  intro hw _ e
  cases e
  refine decodeWord_raw 0x141 h _ _ (by decide) ?_ (Instr.ill_of_wf hw)
  show (fun (h : Head) (o : BitVec 19) => decodeCopy (.cpyt h) o) h _ = _
  simp (disch := decide) only [tl_encEng, cx_encEng, er_encEng, mod_encEng, decodeTy_encEng, start_encEng, follow_encEng, fixed, need, decodeCopy] <;> rfl

theorem cpyg (h : Head) (tl : BitVec 4) (cx : BitVec 2) (ty : Ty) (start follow : Bool) (mask : BitVec 4) : Statement (.cpyg h tl cx ty start follow mask) := by
  intro hw _ e
  cases e
  refine decodeWord_raw 0x142 h _ _ (by decide) ?_ (Instr.ill_of_wf hw)
  show (fun (h : Head) (o : BitVec 19) => decodeCopy (.cpyg h) o) h _ = _
  simp (disch := decide) only [tl_encEng, cx_encEng, er_encEng, mod_encEng, decodeTy_encEng, start_encEng, follow_encEng, fixed, need, decodeCopy] <;> rfl

theorem cpys (h : Head) (tl : BitVec 4) (cx : BitVec 2) (ty : Ty) (start follow : Bool) (mask : BitVec 4) : Statement (.cpys h tl cx ty start follow mask) := by
  intro hw _ e
  cases e
  refine decodeWord_raw 0x143 h _ _ (by decide) ?_ (Instr.ill_of_wf hw)
  show (fun (h : Head) (o : BitVec 19) => decodeCopy (.cpys h) o) h _ = _
  simp (disch := decide) only [tl_encEng, cx_encEng, er_encEng, mod_encEng, decodeTy_encEng, start_encEng, follow_encEng, fixed, need, decodeCopy] <;> rfl

theorem cpysus (h : Head) (cx : BitVec 2) : Statement (.cpysus h cx) := by
  intro hw _ e
  cases e
  refine decodeWord_raw 0x144 h _ _ (by decide) ?_ (Instr.ill_of_wf hw)
  show (fun (h : Head) (o : BitVec 19) => decodeCx (.cpysus h) o) h _ = _
  simp (disch := decide) only [eng_low13, tl_encEng, cx_encEng, fixed, need, decodeCx] <;> rfl

theorem cpyres (h : Head) (cx : BitVec 2) : Statement (.cpyres h cx) := by
  intro hw _ e
  cases e
  refine decodeWord_raw 0x145 h _ _ (by decide) ?_ (Instr.ill_of_wf hw)
  show (fun (h : Head) (o : BitVec 19) => decodeCx (.cpyres h) o) h _ = _
  simp (disch := decide) only [eng_low13, tl_encEng, cx_encEng, fixed, need, decodeCx] <;> rfl

theorem mldb (h : Head) (tl : BitVec 4) (m : BitVec 3) (ty : Ty) : Statement (.mldb h tl m ty) := by
  intro hw _ e
  cases e
  refine decodeWord_raw 0x146 h _ _ (by decide) ?_ (Instr.ill_of_wf hw)
  show (fun (h : Head) (o : BitVec 19) => fixed 10 5 0 o (fixed 3 3 0 o (decodeTy o fun ty => .ok (.mldb h (bits 15 4 o) (bits 0 3 o) ty)))) h _ = _
  simp (disch := decide) only [eng_cxer, eng_flags, tl_encEng, mod3_encEng, decodeTy_encEng, fixed, need] <;> rfl

theorem mscl (h : Head) (tl : BitVec 4) : Statement (.mscl h tl) := by
  intro hw _ e
  cases e
  refine decodeWord_raw 0x147 h _ _ (by decide) ?_ (Instr.ill_of_wf hw)
  show (fun (h : Head) (o : BitVec 19) => fixed 0 15 0 o (.ok (.mscl h (bits 15 4 o)))) h _ = _
  simp (disch := decide) only [eng_low15, tl_encEng, fixed, need] <;> rfl

theorem mma (h : Head) (tl : BitVec 4) (acc : BitVec 2) (m : BitVec 3) (ty : Ty) : Statement (.mma h tl acc m ty) := by
  intro hw _ e
  cases e
  refine decodeWord_raw 0x148 h _ _ (by decide) ?_ (Instr.ill_of_wf hw)
  show (fun (h : Head) (o : BitVec 19) => fixed 10 3 0 o (fixed 3 3 0 o (decodeTy o fun ty => .ok (.mma h (bits 15 4 o) (bits 13 2 o) (bits 0 3 o) ty)))) h _ = _
  simp (disch := decide) only [eng_flags, tl_encEng, cx_encEng, er_encEng, mod3_encEng, decodeTy_encEng, fixed, need] <;> rfl

theorem macrd (h : Head) (acc : BitVec 2) : Statement (.macrd h acc) := by
  intro hw _ e
  cases e
  refine decodeWord_raw 0x149 h _ _ (by decide) ?_ (Instr.ill_of_wf hw)
  show (fun (h : Head) (o : BitVec 19) => decodeCx (.macrd h) o) h _ = _
  simp (disch := decide) only [eng_low13, tl_encEng, cx_encEng, fixed, need, decodeCx] <;> rfl

theorem macpk (h : Head) (acc : BitVec 2) : Statement (.macpk h acc) := by
  intro hw _ e
  cases e
  refine decodeWord_raw 0x14A h _ _ (by decide) ?_ (Instr.ill_of_wf hw)
  show (fun (h : Head) (o : BitVec 19) => decodeCx (.macpk h) o) h _ = _
  simp (disch := decide) only [eng_low13, tl_encEng, cx_encEng, fixed, need, decodeCx] <;> rfl

theorem macclr (h : Head) (acc : BitVec 2) : Statement (.macclr h acc) := by
  intro hw _ e
  cases e
  refine decodeWord_raw 0x14B h _ _ (by decide) ?_ (Instr.ill_of_wf hw)
  show (fun (h : Head) (o : BitVec 19) => decodeCx (.macclr h) o) h _ = _
  simp (disch := decide) only [eng_low13, tl_encEng, cx_encEng, fixed, need, decodeCx] <;> rfl

theorem macst (h : Head) (tl : BitVec 4) (acc : BitVec 2) : Statement (.macst h tl acc) := by
  intro hw _ e
  cases e
  refine decodeWord_raw 0x14C h _ _ (by decide) ?_ (Instr.ill_of_wf hw)
  show (fun (h : Head) (o : BitVec 19) => fixed 0 13 0 o (.ok (.macst h (bits 15 4 o) (bits 13 2 o)))) h _ = _
  simp (disch := decide) only [eng_low13, tl_encEng, cx_encEng, fixed, need] <;> rfl

theorem cnclr (h : Head) (e : BitVec 3) : Statement (.cnclr h e) := by
  intro hw _ e
  cases e
  refine decodeWord_raw 0x14D h _ _ (by decide) ?_ (Instr.ill_of_wf hw)
  show (fun (h : Head) (o : BitVec 19) => decodeCan1 (.cnclr h) o) h _ = _
  simp (disch := decide) only [eng_high6, eng_low10, er_encEng, fixed, need, decodeCan1] <;> rfl

theorem cnfeed (h : Head) (e : BitVec 3) : Statement (.cnfeed h e) := by
  intro hw _ e
  cases e
  refine decodeWord_raw 0x14E h _ _ (by decide) ?_ (Instr.ill_of_wf hw)
  show (fun (h : Head) (o : BitVec 19) => decodeCan1 (.cnfeed h) o) h _ = _
  simp (disch := decide) only [eng_high6, eng_low10, er_encEng, fixed, need, decodeCan1] <;> rfl

theorem cnmax (h : Head) (e m : BitVec 3) : Statement (.cnmax h e m) := by
  intro hw _ e
  cases e
  refine decodeWord_raw 0x14F h _ _ (by decide) ?_ (Instr.ill_of_wf hw)
  show (fun (h : Head) (o : BitVec 19) => decodeCan2 (.cnmax h) o) h _ = _
  simp (disch := decide) only [eng_high6, eng_mid7, er_encEng, mod3_encEng, fixed, need, decodeCan2] <;> rfl

theorem cnsum (h : Head) (e m : BitVec 3) : Statement (.cnsum h e m) := by
  intro hw _ e
  cases e
  refine decodeWord_raw 0x150 h _ _ (by decide) ?_ (Instr.ill_of_wf hw)
  show (fun (h : Head) (o : BitVec 19) => decodeCan2 (.cnsum h) o) h _ = _
  simp (disch := decide) only [eng_high6, eng_mid7, er_encEng, mod3_encEng, fixed, need, decodeCan2] <;> rfl

theorem cninf (h : Head) (e m : BitVec 3) : Statement (.cninf h e m) := by
  intro hw _ e
  cases e
  refine decodeWord_raw 0x151 h _ _ (by decide) ?_ (Instr.ill_of_wf hw)
  show (fun (h : Head) (o : BitVec 19) => decodeCan2 (.cninf h) o) h _ = _
  simp (disch := decide) only [eng_high6, eng_mid7, er_encEng, mod3_encEng, fixed, need, decodeCan2] <;> rfl

theorem cnconj (h : Head) (e : BitVec 3) : Statement (.cnconj h e) := by
  intro hw _ e
  cases e
  refine decodeWord_raw 0x152 h _ _ (by decide) ?_ (Instr.ill_of_wf hw)
  show (fun (h : Head) (o : BitVec 19) => decodeCan1 (.cnconj h) o) h _ = _
  simp (disch := decide) only [eng_high6, eng_low10, er_encEng, fixed, need, decodeCan1] <;> rfl

theorem cneval (h : Head) (e : BitVec 3) : Statement (.cneval h e) := by
  intro hw _ e
  cases e
  refine decodeWord_raw 0x153 h _ _ (by decide) ?_ (Instr.ill_of_wf hw)
  show (fun (h : Head) (o : BitVec 19) => decodeCan1 (.cneval h) o) h _ = _
  simp (disch := decide) only [eng_high6, eng_low10, er_encEng, fixed, need, decodeCan1] <;> rfl

theorem cnmin (h : Head) (e : BitVec 3) : Statement (.cnmin h e) := by
  intro hw _ e
  cases e
  refine decodeWord_raw 0x154 h _ _ (by decide) ?_ (Instr.ill_of_wf hw)
  show (fun (h : Head) (o : BitVec 19) => decodeCan1 (.cnmin h) o) h _ = _
  simp (disch := decide) only [eng_high6, eng_low10, er_encEng, fixed, need, decodeCan1] <;> rfl

theorem cnsimp (h : Head) (e : BitVec 3) : Statement (.cnsimp h e) := by
  intro hw _ e
  cases e
  refine decodeWord_raw 0x155 h _ _ (by decide) ?_ (Instr.ill_of_wf hw)
  show (fun (h : Head) (o : BitVec 19) => decodeCan1 (.cnsimp h) o) h _ = _
  simp (disch := decide) only [eng_high6, eng_low10, er_encEng, fixed, need, decodeCan1] <;> rfl

theorem cnld (h : Head) (tl : BitVec 4) (e : BitVec 3) : Statement (.cnld h tl e) := by
  intro hw _ e
  cases e
  refine decodeWord_raw 0x156 h _ _ (by decide) ?_ (Instr.ill_of_wf hw)
  show (fun (h : Head) (o : BitVec 19) => decodeCanMem (.cnld h) o) h _ = _
  simp (disch := decide) only [eng_low10, tl_encEng, cx_encEng, er_encEng, fixed, need, decodeCanMem] <;> rfl

theorem cnst (h : Head) (tl : BitVec 4) (e : BitVec 3) : Statement (.cnst h tl e) := by
  intro hw _ e
  cases e
  refine decodeWord_raw 0x157 h _ _ (by decide) ?_ (Instr.ill_of_wf hw)
  show (fun (h : Head) (o : BitVec 19) => decodeCanMem (.cnst h) o) h _ = _
  simp (disch := decide) only [eng_low10, tl_encEng, cx_encEng, er_encEng, fixed, need, decodeCanMem] <;> rfl

theorem cninfo (h : Head) (e : BitVec 3) : Statement (.cninfo h e) := by
  intro hw _ e
  cases e
  refine decodeWord_raw 0x158 h _ _ (by decide) ?_ (Instr.ill_of_wf hw)
  show (fun (h : Head) (o : BitVec 19) => decodeCan1 (.cninfo h) o) h _ = _
  simp (disch := decide) only [eng_high6, eng_low10, er_encEng, fixed, need, decodeCan1] <;> rfl

theorem trap (h : Head) (code : BitVec 7) : Statement (.trap h code) := by
  intro hw _ e
  cases e
  refine decodeWord_raw 0x180 h _ _ (by decide) ?_ (Instr.ill_of_wf hw)
  show (fun (h : Head) (o : BitVec 19) => fixed 7 12 0 o (.ok (.trap h (bits 0 7 o)))) h _ = _
  simp (disch := decide) only [bits_append_low, bits_append_high, bits_all, bits_zero, Nat.reduceSub, fixed, need] <;> rfl

theorem eret (h : Head) : Statement (.eret h) := by
  intro hw _ e
  cases e
  exact decodeWord_raw 0x181 h _ _ (by decide) (decodeNone_enc _) (Instr.ill_of_wf hw)

theorem csrrd (h : Head) (csr : BitVec 12) : Statement (.csrrd h csr) := by
  intro hw _ e
  cases e
  refine decodeWord_raw 0x182 h _ _ (by decide) ?_ (Instr.ill_of_wf hw)
  show (fun (h : Head) (o : BitVec 19) => fixed 0 7 0 o (.ok (.csrrd h (bits 7 12 o)))) h _ = _
  simp (disch := decide) only [bits_append_low, bits_append_high, bits_all, bits_zero, Nat.reduceSub, fixed, need] <;> rfl

theorem csrwr (h : Head) (csr : BitVec 12) : Statement (.csrwr h csr) := by
  intro hw _ e
  cases e
  refine decodeWord_raw 0x183 h _ _ (by decide) ?_ (Instr.ill_of_wf hw)
  show (fun (h : Head) (o : BitVec 19) => fixed 0 7 0 o (.ok (.csrwr h (bits 7 12 o)))) h _ = _
  simp (disch := decide) only [bits_append_low, bits_append_high, bits_all, bits_zero, Nat.reduceSub, fixed, need] <;> rfl

theorem bkpt (h : Head) (code : BitVec 7) : Statement (.bkpt h code) := by
  intro hw _ e
  cases e
  refine decodeWord_raw 0x184 h _ _ (by decide) ?_ (Instr.ill_of_wf hw)
  show (fun (h : Head) (o : BitVec 19) => fixed 7 12 0 o (.ok (.bkpt h (bits 0 7 o)))) h _ = _
  simp (disch := decide) only [bits_append_low, bits_append_high, bits_all, bits_zero, Nat.reduceSub, fixed, need] <;> rfl

theorem sleep (h : Head) : Statement (.sleep h) := by
  intro hw _ e
  cases e
  exact decodeWord_raw 0x185 h _ _ (by decide) (decodeNone_enc _) (Instr.ill_of_wf hw)

theorem perf (h : Head) (n : BitVec 12) : Statement (.perf h n) := by
  intro hw _ e
  cases e
  refine decodeWord_raw 0x186 h _ _ (by decide) ?_ (Instr.ill_of_wf hw)
  show (fun (h : Head) (o : BitVec 19) => fixed 0 7 0 o (.ok (.perf h (bits 7 12 o)))) h _ = _
  simp (disch := decide) only [bits_append_low, bits_append_high, bits_all, bits_zero, Nat.reduceSub, fixed, need] <;> rfl

theorem blockFetch : Statement (.blockFetch) := by
  intro _ _ e; cases e

theorem blockCommit : Statement (.blockCommit) := by
  intro _ _ e; cases e

theorem blockQuiescentFault : Statement (.blockQuiescentFault) := by
  intro _ _ e; cases e

theorem activationStart : Statement (.activationStart) := by
  intro _ _ e; cases e

theorem taskPromote : Statement (.taskPromote) := by
  intro _ _ e; cases e

theorem messageArrive : Statement (.messageArrive) := by
  intro _ _ e; cases e

theorem bindingFill : Statement (.bindingFill) := by
  intro _ _ e; cases e

theorem longLatencyResult : Statement (.longLatencyResult) := by
  intro _ _ e; cases e

theorem rnextServe : Statement (.rnextServe) := by
  intro _ _ e; cases e

theorem stageWaiterServe : Statement (.stageWaiterServe) := by
  intro _ _ e; cases e

theorem sleepExpire : Statement (.sleepExpire) := by
  intro _ _ e; cases e

theorem tlwaitTimeout : Statement (.tlwaitTimeout) := by
  intro _ _ e; cases e

theorem tlbumpComplete : Statement (.tlbumpComplete) := by
  intro _ _ e; cases e

theorem spillTimeout : Statement (.spillTimeout) := by
  intro _ _ e; cases e

theorem batchApply : Statement (.batchApply) := by
  intro _ _ e; cases e

theorem frontierResume : Statement (.frontierResume) := by
  intro _ _ e; cases e

theorem notificationArrive : Statement (.notificationArrive) := by
  intro _ _ e; cases e

theorem batchAck : Statement (.batchAck) := by
  intro _ _ e; cases e

theorem loopAdmit : Statement (.loopAdmit) := by
  intro _ _ e; cases e

theorem packetAccept : Statement (.packetAccept) := by
  intro _ _ e; cases e

theorem linkDisable : Statement (.linkDisable) := by
  intro _ _ e; cases e

theorem reductionNodeArrive : Statement (.reductionNodeArrive) := by
  intro _ _ e; cases e

theorem reductionTimeout : Statement (.reductionTimeout) := by
  intro _ _ e; cases e

theorem homeAtomic : Statement (.homeAtomic) := by
  intro _ _ e; cases e

theorem aenqAtHome : Statement (.aenqAtHome) := by
  intro _ _ e; cases e

theorem achaseHop : Statement (.achaseHop) := by
  intro _ _ e; cases e

theorem structLdsAtAgent : Statement (.structLdsAtAgent) := by
  intro _ _ e; cases e

theorem structStsAtAgent : Statement (.structStsAtAgent) := by
  intro _ _ e; cases e

theorem structStclrAtAgent : Statement (.structStclrAtAgent) := by
  intro _ _ e; cases e

theorem readerCancel : Statement (.readerCancel) := by
  intro _ _ e; cases e

theorem wenqAtTarget : Statement (.wenqAtTarget) := by
  intro _ _ e; cases e

theorem wenqHeadWake : Statement (.wenqHeadWake) := by
  intro _ _ e; cases e

theorem wenqRingTimeout : Statement (.wenqRingTimeout) := by
  intro _ _ e; cases e

theorem linkRequestArrive : Statement (.linkRequestArrive) := by
  intro _ _ e; cases e

theorem linkRetransmit : Statement (.linkRetransmit) := by
  intro _ _ e; cases e

theorem linkTimeout : Statement (.linkTimeout) := by
  intro _ _ e; cases e

theorem replyEntryAgeOut : Statement (.replyEntryAgeOut) := by
  intro _ _ e; cases e

theorem l2Access : Statement (.l2Access) := by
  intro _ _ e; cases e

theorem l2FillComplete : Statement (.l2FillComplete) := by
  intro _ _ e; cases e

theorem pageWalk : Statement (.pageWalk) := by
  intro _ _ e; cases e

theorem walkComplete : Statement (.walkComplete) := by
  intro _ _ e; cases e

theorem settleBackground : Statement (.settleBackground) := by
  intro _ _ e; cases e

theorem hbmRefresh : Statement (.hbmRefresh) := by
  intro _ _ e; cases e

theorem hbmScrub : Statement (.hbmScrub) := by
  intro _ _ e; cases e

theorem l2Scrub : Statement (.l2Scrub) := by
  intro _ _ e; cases e

theorem l2FrameSpare : Statement (.l2FrameSpare) := by
  intro _ _ e; cases e

theorem pseudoChannelSpare : Statement (.pseudoChannelSpare) := by
  intro _ _ e; cases e

theorem pseudoChannelCopyDone : Statement (.pseudoChannelCopyDone) := by
  intro _ _ e; cases e

theorem stackDegrade : Statement (.stackDegrade) := by
  intro _ _ e; cases e

theorem copyStart : Statement (.copyStart) := by
  intro _ _ e; cases e

theorem copyStep : Statement (.copyStep) := by
  intro _ _ e; cases e

theorem followOnStart : Statement (.followOnStart) := by
  intro _ _ e; cases e

theorem macroLoad : Statement (.macroLoad) := by
  intro _ _ e; cases e

theorem scaleTokenAccept : Statement (.scaleTokenAccept) := by
  intro _ _ e; cases e

theorem mmaStart : Statement (.mmaStart) := by
  intro _ _ e; cases e

theorem mmaComplete : Statement (.mmaComplete) := by
  intro _ _ e; cases e

theorem macclrPerform : Statement (.macclrPerform) := by
  intro _ _ e; cases e

theorem macstPerform : Statement (.macstPerform) := by
  intro _ _ e; cases e

theorem canopyLoad : Statement (.canopyLoad) := by
  intro _ _ e; cases e

theorem canopyStore : Statement (.canopyStore) := by
  intro _ _ e; cases e

theorem launchDoorbell : Statement (.launchDoorbell) := by
  intro _ _ e; cases e

theorem launchTake : Statement (.launchTake) := by
  intro _ _ e; cases e

theorem determinismChange : Statement (.determinismChange) := by
  intro _ _ e; cases e

theorem loadPlace : Statement (.loadPlace) := by
  intro _ _ e; cases e

theorem loadDrain : Statement (.loadDrain) := by
  intro _ _ e; cases e

theorem preemptStart : Statement (.preemptStart) := by
  intro _ _ e; cases e

theorem preemptSave : Statement (.preemptSave) := by
  intro _ _ e; cases e

theorem loadResume : Statement (.loadResume) := by
  intro _ _ e; cases e

theorem bedFail : Statement (.bedFail) := by
  intro _ _ e; cases e

theorem pullQueuePull : Statement (.pullQueuePull) := by
  intro _ _ e; cases e

theorem trapRecordDeliver : Statement (.trapRecordDeliver) := by
  intro _ _ e; cases e

theorem laneFail : Statement (.laneFail) := by
  intro _ _ e; cases e

theorem planeFail : Statement (.planeFail) := by
  intro _ _ e; cases e

theorem hostCxlMemRead : Statement (.hostCxlMemRead) := by
  intro _ _ e; cases e

theorem hostCxlMemWrite : Statement (.hostCxlMemWrite) := by
  intro _ _ e; cases e

theorem translationInvalidatePage : Statement (.translationInvalidatePage) := by
  intro _ _ e; cases e

theorem translationInvalidateAll : Statement (.translationInvalidateAll) := by
  intro _ _ e; cases e

theorem tensorInvalidate : Statement (.tensorInvalidate) := by
  intro _ _ e; cases e

theorem invalidationComplete : Statement (.invalidationComplete) := by
  intro _ _ e; cases e

theorem contextCreate : Statement (.contextCreate) := by
  intro _ _ e; cases e

theorem contextDestroy : Statement (.contextDestroy) := by
  intro _ _ e; cases e

theorem identWrite : Statement (.identWrite) := by
  intro _ _ e; cases e

theorem killQueue : Statement (.killQueue) := by
  intro _ _ e; cases e

theorem killContext : Statement (.killContext) := by
  intro _ _ e; cases e

theorem killComplete : Statement (.killComplete) := by
  intro _ _ e; cases e

theorem dbgRefire : Statement (.dbgRefire) := by
  intro _ _ e; cases e

theorem dbgKill : Statement (.dbgKill) := by
  intro _ _ e; cases e

theorem dbgRefireSuppress : Statement (.dbgRefireSuppress) := by
  intro _ _ e; cases e

theorem warmReset : Statement (.warmReset) := by
  intro _ _ e; cases e

theorem coldReset : Statement (.coldReset) := by
  intro _ _ e; cases e

theorem registerWrite : Statement (.registerWrite) := by
  intro _ _ e; cases e

theorem spdmRequest : Statement (.spdmRequest) := by
  intro _ _ e; cases e

theorem spdmSlhDsaRequest : Statement (.spdmSlhDsaRequest) := by
  intro _ _ e; cases e

theorem doeDiscovery : Statement (.doeDiscovery) := by
  intro _ _ e; cases e

theorem powerGrant : Statement (.powerGrant) := by
  intro _ _ e; cases e

theorem thermalThrottle : Statement (.thermalThrottle) := by
  intro _ _ e; cases e

theorem thermalRecover : Statement (.thermalRecover) := by
  intro _ _ e; cases e

theorem thermalShutdown : Statement (.thermalShutdown) := by
  intro _ _ e; cases e

theorem flitResend : Statement (.flitResend) := by
  intro _ _ e; cases e

theorem hostSnoop : Statement (.hostSnoop) := by
  intro _ _ e; cases e

theorem powerLoss : Statement (.powerLoss) := by
  intro _ _ e; cases e

end Sys2Proof.Laws.RoundTrip
end

