-- ==== Sys2Proof/Laws/Scalar.lean ====
section
/-! SUPPORT. The integer operations of Machine/Scalar.lean in terms of bit vectors of the operation's width. -/

namespace Sys2Proof.Machine

theorem low_eq (w : Nat) (v : Word) : low w v = (v.setWidth w).toNat := by simp [low]

theorem lowS_eq (w : Nat) (v : Word) : lowS w v = (v.setWidth w).toInt := by
  rw [lowS, show BitVec.ofNat w v.toNat = v.setWidth w from BitVec.eq_of_toNat_eq (by simp)]

theorem extS_eq {w n : Nat} {r : BitVec w} (h : BitVec.ofNat w n = r) : extS w n = r.signExtend 64 := by rw [extS, h]

theorem extSI_eq {w : Nat} {n : Int} {r : BitVec w} (h : BitVec.ofInt w n = r) : extSI w n = r.signExtend 64 := by rw [extSI, h]

theorem extZ_eq {w n : Nat} {r : BitVec w} (h : n % 2 ^ w = r.toNat) : extZ w n = r.setWidth 64 := by
  rw [extZ, h]; exact BitVec.eq_of_toNat_eq (by simp)

theorem width_le (w : Width) : w.bits ≤ 64 := by cases w <;> decide
theorem width_pos (w : Width) : 0 < w.bits := by cases w <;> decide

theorem ofNat_low (w : Nat) (v : Word) : BitVec.ofNat w v.toNat = v.setWidth w := BitVec.eq_of_toNat_eq (by simp)

theorem clzAt_spec (w : Nat) (a : Word) : clzAt w a ≤ w ∧ (∀ i, w - clzAt w a ≤ i → i < w → a.getLsbD i = false)
    ∧ (clzAt w a < w → a.getLsbD (w - 1 - clzAt w a) = true) := by
  unfold clzAt
  suffices H : ∀ n, n ≤ w →
      let c := (List.range n).foldl (fun r i => if a.getLsbD i then w - 1 - i else r) w
      w - n ≤ c ∧ c ≤ w ∧ (∀ i, w - c ≤ i → i < n → a.getLsbD i = false) ∧ (c < w → a.getLsbD (w - 1 - c) = true) by
    have := H w (Nat.le_refl _); exact ⟨this.2.1, this.2.2.1, this.2.2.2⟩
  intro n
  induction n with
  | zero => intro _; simp
  | succ n ih =>
    intro hn
    obtain ⟨h0, h1, h2, h3⟩ := ih (by omega)
    simp only [List.range_succ, List.foldl_append, List.foldl_cons, List.foldl_nil]
    by_cases hb : a.getLsbD n = true
    · simp only [hb, if_true]
      refine ⟨by omega, by omega, fun i hi hi' => by omega, fun _ => ?_⟩
      rw [show w - 1 - (w - 1 - n) = n by omega]; exact hb
    · simp only [hb]
      refine ⟨by simpa using (by omega), h1, fun i hi hi' => ?_, h3⟩
      by_cases e : i = n
      · subst e; simpa using hb
      · exact h2 i hi (by omega)

theorem ctzAt_spec (w : Nat) (a : Word) : ctzAt w a ≤ w ∧ (∀ i, i < ctzAt w a → a.getLsbD i = false)
    ∧ (ctzAt w a < w → a.getLsbD (ctzAt w a) = true) := by
  unfold ctzAt
  suffices H : ∀ n k, k + n = w →
      let c := (List.range' k n).foldr (fun i r => if a.getLsbD i then i else r) w
      k ≤ c ∧ c ≤ w ∧ (∀ i, k ≤ i → i < c → a.getLsbD i = false) ∧ (c < w → a.getLsbD c = true) by
    have := H w 0 (by omega); rw [← List.range_eq_range'] at this
    exact ⟨this.2.1, fun i hi => this.2.2.1 i (Nat.zero_le _) hi, this.2.2.2⟩
  intro n
  induction n with
  | zero => intro k hk; simp only [List.range'_zero, List.foldr_nil]; exact ⟨by omega, Nat.le_refl _, fun i hi hi' => by omega, fun h => by omega⟩
  | succ n ih =>
    intro k hk
    obtain ⟨h0, h1, h2, h3⟩ := ih (k + 1) (by omega)
    simp only [List.range'_succ, List.foldr_cons]
    by_cases hb : a.getLsbD k = true
    · simp only [if_pos hb]; exact ⟨Nat.le_refl _, by omega, fun i hi hi' => by omega, fun _ => hb⟩
    · simp only [hb]
      refine ⟨by simpa using (by omega), h1, fun i hi hi' => ?_, h3⟩
      by_cases e : i = k
      · subst e; simpa using hb
      · exact h2 i (by omega) hi'

theorem popAt_eq (w : Nat) (a : Word) : popAt w a = (List.range w).countP fun i => (a.setWidth w).getLsbD i := by
  rw [popAt, ← List.countP_eq_length_filter]
  apply List.countP_congr
  intro i hi
  simp [List.mem_range.mp hi]

theorem brevAt_testBit (w : Nat) (a : Word) (i : Nat) : (brevAt w a).testBit i = (decide (i < w) && a.getLsbD (w - 1 - i)) := by
  unfold brevAt
  suffices H : ∀ n, let r := (List.range n).foldl (fun r i => if a.getLsbD (w - 1 - i) then r + 2 ^ i else r) 0
      r < 2 ^ n ∧ ∀ i, r.testBit i = (decide (i < n) && a.getLsbD (w - 1 - i)) from (H w).2 i
  intro n
  induction n with
  | zero => simp
  | succ n ih =>
    obtain ⟨h0, h1⟩ := ih
    simp only [List.range_succ, List.foldl_append, List.foldl_cons, List.foldl_nil]
    by_cases hb : a.getLsbD (w - 1 - n) = true
    · simp only [hb, if_true]
      refine ⟨by rw [Nat.pow_succ]; omega, fun i => ?_⟩
      rw [Nat.add_comm, show 2 ^ n = 2 ^ n * 1 by omega, Nat.two_pow_add_eq_or_of_lt h0, Nat.testBit_or, h1, Nat.mul_one, Nat.testBit_two_pow]
      by_cases e : n = i
      · subst e; simp [hb]
      · simp only [e, decide_false, Bool.false_or]; congr 1; simp; omega
    · simp only [hb]
      refine ⟨by simpa using Nat.lt_trans h0 (Nat.pow_lt_pow_succ (by omega)), fun i => ?_⟩
      simp only [Bool.false_eq_true, if_false]
      rw [h1]
      by_cases e : i = n
      · subst e; simp [hb]
      · congr 1; simp; omega

end Sys2Proof.Machine
end

