-- ==== Sys2Proof/Laws/Sending.lean ====
section
/-! SUPPORT. What sending an operation leaves (Machine/Operands.lean, Machine/MemOps.lean). -/

namespace Sys2Proof.Machine

open Sys2Proof.Safety

/-- The request that the cursor's instruction sends. -/
def State.newReq (s : State) (f : Firing) (op : Op) (key va : Nat) (use : Option LineUse) : Req :=
  { id := s.nextId, op := op, task := some s.cur.task, serial := f.serial, idx := s.cur.idx, ctx := (s.task s.cur.task).ctx,
    load := (s.task s.cur.task).load, loc := key, va := va, use := use, start := s.cycle,
    order := if (s.task s.cur.task).waved then f.waveNumber s.cur.idx else 0, act := (s.task s.cur.task).acts }

/-- The change of the block when its instruction sends: it has fired, and has used the translation of a line. -/
def sentBlock (idx va : Nat) (use : Option LineUse) (f : Firing) : Firing :=
  { f with fired := idx :: f.fired
           used := if use.isSome then (if va / 2 ^ 16 ∈ f.used then f.used else va / 2 ^ 16 :: f.used) else f.used }

/-- A state after an operation is sent. -/
theorem sendReq_eq {s : State} {f : Firing} (h : s.here = some f) (op : Op) (key va : Nat) (use : Option LineUse) :
    s.sendReq op key va use = (s.nextId,
      { (s.modFlight s.cur.task s.cur.which (sentBlock s.cur.idx va use)).modElem (elemOf s.cur.task) fun e => { e with instrs := e.instrs + 1 } with
        reqs := s.reqs ++ [s.newReq f op key va use], nextId := s.nextId + 1 }) := by
  simp only [State.sendReq, State.queueReq, h, Option.isSome_some, if_true]
  cases use with
  | none => rfl
  | some u =>
    simp only [Option.isSome_some, if_true]
    have e : (s.usePage va).fire0 = (s.modFlight s.cur.task s.cur.which (sentBlock s.cur.idx va (some u))).modElem (elemOf s.cur.task)
        fun e => { e with instrs := e.instrs + 1 } := modFlight_fire0 s _
    rw [← e]
    rfl

theorem sends_of {s t : State} {f : Firing} (h : s.here = some f) (op : Op) (key va : Nat) (use : Option LineUse)
    (hr : ∃ r l, t.reqs = s.reqs ++ r :: l ∧ (∀ q ∈ l, q.task = none) ∧ r.id = s.nextId ∧ r.op = op ∧ r.task = some s.cur.task ∧ r.serial = f.serial ∧ r.idx = s.cur.idx
      ∧ r.ctx = (s.task s.cur.task).ctx ∧ r.loc = key ∧ r.va = va ∧ r.use = use ∧ r.answer = none)
    (ht : { t with reqs := s.reqs, nextId := s.nextId, agenda := s.agenda, packets := s.packets, circuits := s.circuits, combines := s.combines } =
      (s.modFlight s.cur.task s.cur.which (sentBlock s.cur.idx va use)).modElem (elemOf s.cur.task) fun e => { e with instrs := e.instrs + 1 }) :
    Sends s t f op key va use := by
  have hf := firesOnly_of s (sentBlock s.cur.idx va use)
  rw [← ht] at hf
  refine ⟨hr, ?_, hf.1.1, hf.1.2, hf.2⟩
  have := here_changed h (sentBlock s.cur.idx va use)
  rw [← ht] at this
  exact ⟨_, this, rfl, rfl⟩

/-- What sending leaves. -/
theorem sendReq_sends {s : State} {f : Firing} (h : s.here = some f) (op : Op) (key va : Nat) (use : Option LineUse) :
    Sends s (s.sendReq op key va use).2 f op key va use := by
  rw [sendReq_eq h]
  exact sends_of h _ _ _ _ ⟨_, [], rfl, by simp, rfl, rfl, rfl, rfl, rfl, rfl, rfl, rfl, rfl, rfl⟩ rfl

/-- Sends does not look at the pending work. -/
theorem sends_agenda {s t : State} {f : Firing} {op : Op} {key va : Nat} {use : Option LineUse} (h : Sends s t f op key va use) (l : List Work) :
    Sends s { t with agenda := l } f op key va use := h

theorem find_fresh {l : List Req} {n : Nat} (h : ∀ q ∈ l, q.id < n) (r : Req) (hr : r.id = n) :
    (l ++ [r]).find? (fun q => q.id == n) = some r := by
  rw [List.find?_append, List.find?_eq_none.mpr]
  · simp [hr]
  · intro x hx; have := h x hx; simp; omega

/-- A packet that nothing may combine with, off every circuit, is sent on its way: it joins the packets, with its step pending. -/
theorem sendPacket_spec (s : State) (p : Packet) (n : Nat) (hp : p.payload = .request n) (hc : ∀ q : Packet, q.payload = p.payload → s.combinable q = none)
    (hs : p.slot = none) :
    { s.sendPacket p with nextId := s.nextId, packets := s.packets, agenda := s.agenda } = s
      ∧ ∃ q ∈ (s.sendPacket p).packets, q.payload = p.payload ∧ q.dest = p.dest ∧ Work.packetAccept q.id ∈ (s.sendPacket p).agenda := by
  simp only [State.sendPacket]
  generalize hq : ({ p with id := s.newId.1, src := p.at_, route := (s.newId.2.routeFor p.at_ p.dest).getD (fullRoute true p.at_ p.dest) } : Packet) = q
  have e1 : q.payload = p.payload := by rw [← hq]
  have e2 : q.dest = p.dest := by rw [← hq]
  have e3 : q.slot = none := by rw [← hq]; exact hs
  have e4 : q.id = s.nextId := by rw [← hq]; rfl
  have hw : ∀ u : State, u.reqs = s.reqs → u.mayWait q = false := by
    intro u hu
    have : u.combinable q = none := by
      have := hc q e1
      simpa only [State.combinable, State.req, hu] using this
    simp [State.mayWait, this, e1, hp]
  split
  · simp only [State.enterMesh, State.takeTurns, e3]
    rw [State.tryMerge, if_pos (by rw [hw _ (by rfl)]; rfl)]
    refine ⟨rfl, { q with fresh := false }, ?_, e1, e2, ?_⟩
    · simp [State.post]
    · simp [State.post, e4]
  · refine ⟨rfl, q, ?_, e1, e2, ?_⟩
    · simp [State.post]
    · simp [State.post, e4]

/-- An operation that packets do not combine (R92). -/
def Op.combines : Op → Bool
  | .atomic _ _ _ _ c _ _ => c
  | _ => false

/-- What issuing an operation leaves, but for one that may combine on the mesh of its package: it is sent, and is on its way. -/
theorem issue_sends {s : State} {f : Firing} (h : s.here = some f) (hi : IdsFresh s) (op : Op) (key va : Nat) (ho : op.combines = false ∨ s.remote key = true)
    (use : Option LineUse) :
    Sends s (s.issue op key va use) f op key va use
      ∧ Routed s (s.issue op key va use) key (op.atAgent || use.any fun u => u.ms) (s.newReq f op key va use).homeWork := by
  simp only [State.issue, sendReq_eq h]
  generalize hr : s.newReq f op key va use = r
  generalize hu : ({ (s.modFlight s.cur.task s.cur.which (sentBlock s.cur.idx va use)).modElem (elemOf s.cur.task) fun e => { e with instrs := e.instrs + 1 } with
        reqs := s.reqs ++ [r], nextId := s.nextId + 1 } : State) = u
  have hm : u.mgmt = s.mgmt := by rw [← hu]; rfl
  have hq : u.reqs = s.reqs ++ [r] := by rw [← hu]
  have hid : r.id = s.nextId := by rw [← hr]; rfl
  have hf : u.req s.nextId = some r := by rw [State.req, hq]; exact find_fresh hi r hid
  have hl : r.loc = key := by rw [← hr]; rfl
  have hop : r.op = op := by rw [← hr]; rfl
  have ht : { u with reqs := s.reqs, nextId := s.nextId, agenda := s.agenda, packets := s.packets, circuits := s.circuits, combines := s.combines } =
      (s.modFlight s.cur.task s.cur.which (sentBlock s.cur.idx va use)).modElem (elemOf s.cur.task) fun e => { e with instrs := e.instrs + 1 } := by
    rw [← hu]; rfl
  have hrem : u.remote key = s.remote key := by simp [State.remote, State.package, hm]
  have hhome : u.homeRouter key r.atAgent = s.homeRouter key (op.atAgent || use.any fun u => u.ms) := by
    simp only [State.homeRouter, hrem, Req.atAgent, ← hr]; rfl
  have hreq : ∃ x l, u.reqs = s.reqs ++ x :: l ∧ (∀ q ∈ l, q.task = none) ∧ x.id = s.nextId ∧ x.op = op ∧ x.task = some s.cur.task ∧ x.serial = f.serial
      ∧ x.idx = s.cur.idx ∧ x.ctx = (s.task s.cur.task).ctx ∧ x.loc = key ∧ x.va = va ∧ x.use = use ∧ x.answer = none :=
    ⟨r, [], hq, by simp, hid, hop, by rw [← hr]; rfl, by rw [← hr]; rfl, by rw [← hr]; rfl, by rw [← hr]; rfl, hl, by rw [← hr]; rfl,
      by rw [← hr]; rfl, by rw [← hr]; rfl⟩
  have htile : r.tileOf = some s.cur.task.tile := by rw [← hr]; rfl
  simp only [State.route, hf, htile, hl]
  by_cases hg : isGl key = true
  · simp only [hg, Bool.not_true, Bool.false_eq_true, if_false, hrem]
    by_cases hc : s.remote key = true
    · simp only [hc, if_true]
      refine ⟨sends_of h _ _ _ _ hreq ht, ⟨fun x => (Bool.false_ne_true (x.symm.trans hg)).elim, fun _ => by simp [State.post], fun _ x => ?_⟩⟩
      rw [hc] at x; exact Bool.noConfusion x
    · replace ho := ho.resolve_right hc
      have hcomb : ∀ q : Packet, q.payload = .request s.nextId → u.combinable q = none := by
        intro q e
        simp only [State.combinable, e, hf, hop]
        cases op with
        | atomic _ _ _ _ c _ _ => simp only [Op.combines] at ho; subst ho; rfl
        | _ => rfl
      simp only [hc, Bool.false_eq_true, if_false]
      generalize hpk : ({ id := 0, net := 0, load := r.load, at_ := routerOf s.cur.task.tile, dest := u.homeRouter key r.atAgent, payload := .request s.nextId,
                          slot := match r.op with | .atomic _ _ _ _ true _ _ => u.combSlot r.load s.cur.task.tile (u.homeRouter key r.atAgent) | _ => none } : Packet) = pk
      have hs : pk.slot = none := by
        rw [← hpk, hop]
        cases op with
        | atomic _ _ _ _ c _ _ => simp only [Op.combines] at ho; subst ho; rfl
        | _ => rfl
      have hpay : pk.payload = .request s.nextId := by rw [← hpk]
      have sp := sendPacket_spec u pk s.nextId hpay (fun q e => hcomb q (e.trans hpay)) hs
      obtain ⟨e, q, hq1, hq2, hq3, hq4⟩ := sp
      refine ⟨sends_of h _ _ _ _ ?_ ?_, fun x => (Bool.false_ne_true (x.symm.trans hg)).elim, fun x => (hc x).elim, fun _ _ => ⟨q, hq1, hq2.trans hpay, ?_, hq4⟩⟩
      · have : (u.sendPacket pk).reqs = u.reqs := by have := congrArg State.reqs e; exact this
        rw [this]; exact hreq
      · rw [← ht]
        have := congrArg (fun x : State => ({ x with reqs := s.reqs, nextId := s.nextId, agenda := s.agenda, packets := s.packets
                                                     circuits := s.circuits, combines := s.combines } : State)) e
        exact this
      · rw [hq3, ← hpk, ← hhome]
  · simp only [hg, Bool.not_false, if_true]
    refine ⟨sends_of h _ _ _ _ hreq ht, ⟨fun _ => by simp [State.post], fun x => ?_, fun x => (hg x).elim⟩⟩
    simp [State.remote, hg] at x

/-- R19, R105: what comes before a write is sent leaves the blocks, the pending operations and their numbers as they are. -/
theorem forWrite_keeps (s : State) (ctx tile va key : Nat) (use : Option LineUse) :
    let t := (s.forWrite ctx tile va key use).2
    t.tasks = s.tasks ∧ t.cur = s.cur ∧ t.reqs = s.reqs ∧ t.nextId = s.nextId ∧ t.elems = s.elems ∧ t.mgmt = s.mgmt := by
  have orEntry (a b : Nat) : Laws.HomeOnly s (s.orEntry a b) :=
    ((Laws.settle_homeOnly ..).trans (Laws.dropLine_homeOnly ..)).trans (Laws.commitBytes_homeOnly ..)
  cases use with
  | none => exact ⟨rfl, rfl, rfl, rfl, rfl, rfl⟩
  | some u =>
    have all {t : State} (h : Laws.HomeOnly s t) :
        t.tasks = s.tasks ∧ t.cur = s.cur ∧ t.reqs = s.reqs ∧ t.nextId = s.nextId ∧ t.elems = s.elems ∧ t.mgmt = s.mgmt :=
      ⟨h.tasks, h.cur, h.reqs, h.nextId, h.elems, h.mgmt⟩
    simp only [State.forWrite, State.markDirty]
    split
    · split
      · exact ⟨rfl, rfl, rfl, rfl, rfl, rfl⟩
      · have e := all (orEntry u.entry (2 ^ 56)); exact e
    · exact all (orEntry ..)

/-- The cursor's block is there as before. -/
theorem forWrite_here (s : State) (ctx tile va key : Nat) (use : Option LineUse) : (s.forWrite ctx tile va key use).2.here = s.here := by
  obtain ⟨a, b, -⟩ := forWrite_keeps s ctx tile va key use
  simp only [State.here, State.task, a, b]

/-- The next operation's number is new as before. -/
theorem forWrite_idsFresh {s : State} (h : IdsFresh s) (ctx tile va key : Nat) (use : Option LineUse) : IdsFresh (s.forWrite ctx tile va key use).2 := by
  obtain ⟨-, -, a, b, -⟩ := forWrite_keeps s ctx tile va key use
  simpa only [IdsFresh, a, b] using h

end Sys2Proof.Machine
end

