-- ==== Sys2Proof/Tests/Slice0.lean ====
section
/-! SUPPORT. Tests: the ill-formed terms that the checks refuse, the manual's words and worked values, and states that meet the premises of the
statements. Every expected value is the manual's. -/

open Sys2Proof Sys2Proof.Machine Sys2Proof.Safety

namespace Sys2Proof.Tests

/- One theorem at a time: the kernel evaluates whole states here, and several at once take more memory than the check allows. -/
set_option Elab.async false

/-! Helpers of the tests. -/

/-- An instruction's guards, targets, hint and scheduling control, all absent. -/
def bare : Head := ⟨none, none, none, none, 0, 0⟩
/-- The same with a first target. -/
def dst (i : BitVec 7) (k : Slot) : Head := ⟨none, none, some ⟨i, k⟩, none, 0, 0⟩
/-- The machine whose next step fires a word in a block of its own, every slot holding 0 and a released token in slot p. -/
def lone (w : Nat) : State := State.reset.withFetchWord 64 w
/-- That block with other values in its slots a, b and c. -/
def feed (s : State) (a b c : Word) : State := s.modFlight ⟨0, 0, 0⟩ 0 fun (f : Firing) =>
  { f with slots := [((0, 0), plain a), ((0, 1), plain b), ((0, 2), plain c), ((0, 3), { v := 0, tok := some {} })] }
/-- A change of that block. -/
def inBlock (s : State) (g : Firing → Firing) : State := s.modFlight ⟨0, 0, 0⟩ 0 g
/-- A change of its task. -/
def inTask (s : State) (g : Task → Task) : State := s.modTask ⟨0, 0, 0⟩ g
/-- The machine turned to a step of pending work. -/
def turned (w : Work) : State := { State.reset with cur := { work := some w } }
/-- The state that an instruction's meaning answers. -/
def after (i : Instr) (s : State) : Option State := match exec i s with | .next t => some t | _ => none
/-- What stands in a slot of the block at the cursor after an instruction. -/
def gave (i : Instr) (s : State) (k : Nat × Nat) : Option Word := ((after i s).bind fun t => t.here.bind fun f => f.slots.find k).map fun v => v.v
/-- The fault of a parked task after an instruction. -/
def parkedWith (i : Instr) (s : State) : Option (FCode × Nat) :=
  (after i s).bind fun t => (t.task ⟨0, 0, 0⟩).parked.map fun p => (p.2.code, p.2.cause)

/-! Ill-formed terms, one for each check of WellFormed, which the check refuses. -/

theorem test_ill_guard : (Instr.mov ⟨none, some ⟨true, 0⟩, none, none, 0, 0⟩).ill = some .guardField := by decide
theorem test_ill_target : (Instr.write (dst 1 .a) 3).ill = some .targetField := by decide
theorem test_ill_hint : (Instr.mov ⟨none, none, none, none, 1, 0⟩).ill = some .cacheHint := by decide
theorem test_ill_type : (Instr.vfma bare 0 1 2 3 .i32 .rne).ill = some .typeCode := by decide
theorem test_ill_size : (Instr.aadd bare .gl .b8 (.sync .pod) true).ill = some .sizeCode := by decide
theorem test_ill_option : (Instr.vadd bare 0 1 2 .f32 .rne true).ill = some .optionField := by decide
theorem test_ill_store : (Instr.st bare .gl .b8 24).ill = some .storeId := by decide
theorem test_ill_csr : (Instr.csrwr bare 0x010).ill = some .csrNumber := by decide
/-- R243, R7, R133, R235, R233: an opcode, codes and a field that no instruction may carry. -/
theorem test_ill_word :
    [0xFF80000000000000, 0x800004400001E000, 0x8C80042E00001800, 0x8500043800003400, 0x3500000000000001].map (decodeTableWord 64) =
      List.replicate 5 none := by decide

/-! Words that the manual writes out, with what it says they are (spec/10 to spec/14). -/

theorem test_word_tests : decodeTableWord 64 0x210004300003900A = some (.tlt (dst 6 .a) .w32 (.imm 10) (some 2))
    ∧ decodeTableWord 64 0x20800000000187FF = some (.tne bare .w64 (.imm 0x7FF) (some 0))
    ∧ decodeTableWord 64 0x3760000000000000 = some (.send ⟨some ⟨true, 0⟩, none, none, none, 0, 0⟩ 0) := by decide
theorem test_word_shapes : decodeTableWord 64 0x40000000000300C0 = some (.shdef bare 3 3)
    ∧ decodeTableWord 64 0x4200046A00000400 = some (.vadd (dst 13 .b) 0 0 1 .f32 .rne false)
    ∧ decodeTableWord 64 0x55E0000000000300 = some (.viota ⟨some ⟨true, 0⟩, none, none, none, 0, 0⟩ 0 .w64 .rne) := by decide
theorem test_word_stores : decodeTableWord 64 0x80C6000000006020 = some (.st ⟨some ⟨false, 3⟩, none, none, none, 0, 0⟩ .gl .b8 2)
    ∧ decodeTableWord 64 0x8400000000006000 = some (.sts bare .gl) ∧ decodeTableWord 64 0x8380043A00006001 = some (.lds (dst 7 .b) .gl true) := by decide
theorem test_word_atomics : decodeTableWord 64 0x8500043800007400 = some (.aadd (dst 7 .a) .gl .b8 (.sync .pod) false)
    ∧ decodeTableWord 64 0x8500044800006200 = some (.aadd (dst 9 .a) .gl .b8 .comb false)
    ∧ decodeTableWord 64 0x8D80044600001400 = some (.fence (dst 8 .p) .pod) ∧ decodeTableWord 64 0x8F00000000000001 = some (.tlbump bare 1)
    ∧ decodeTableWord 64 0x8F8004291A000000 = some (.snap ⟨none, none, some ⟨5, .a⟩, some ⟨13, .a⟩, 0, 0⟩) := by decide
theorem test_word_copies : decodeTableWord 64 0xA00000000000C2C2 = some (.cpy bare 1 2 .w32 false false 2)
    ∧ decodeTableWord 64 0xA000000000010271 = some (.cpy bare 2 0 .w8 true true 1)
    ∧ decodeTableWord 64 0xA200000000004000 = some (.cpysus bare 2) ∧ decodeTableWord 64 0xA280000000004000 = some (.cpyres bare 2) := by decide
theorem test_word_matrix : decodeTableWord 64 0xA40000000001A0C5 = some (.mma bare 3 1 5 .e4m3)
    ∧ decodeTableWord 64 0xA3000000000100C0 = some (.mldb bare 2 0 .e4m3) ∧ decodeTableWord 64 0xA580000000000000 = some (.macclr bare 0)
    ∧ decodeTableWord 64 0xA380000000010000 = some (.mscl bare 2)
    ∧ decodeTableWord 64 0xA640000000010000 = some (.macst ⟨some ⟨false, 0⟩, none, none, none, 0, 0⟩ 2 0) := by decide
theorem test_word_canopy : decodeTableWord 64 0xA800000000000001 = some (.cnsum bare 0 1) ∧ decodeTableWord 64 0xAA00043800000000 = some (.cnmin (dst 7 .a) 0)
    ∧ decodeTableWord 64 0xA700000000000400 = some (.cnfeed bare 1) ∧ decodeTableWord 64 0xA980041000000400 = some (.cneval (dst 2 .a) 1) := by decide
/-! States that meet the premises of the statements: one named theorem for each set of premises. Scalar and control instructions. -/

/-- Each reading of the operands answers for a lone block: the premises of every result statement. -/
theorem meets_ready : ((lone 0).operands bare true true true).isSome ∧ ((lone 0).operands bare true true false).isSome
    ∧ ((lone 0).operands bare true false true).isSome ∧ ((lone 0).operands bare true false false).isSome ∧ ((lone 0).operands bare false false false).isSome
    ∧ ((lone 0).operandsStore bare true true true).isSome ∧ ((lone 0).operandsStore bare true true false).isSome
    ∧ ((lone 0).operandsStore bare true false false).isSome ∧ ((lone 0).operandsStore bare false false false).isSome
    ∧ ((lone 0).operandsRead bare true true false).isSome ∧ ((lone 0).operandsRead bare true false false).isSome
    ∧ ((lone 0).operandsSent bare true true true).isSome ∧ ((lone 0).operandsSent bare true true false).isSome
    ∧ ((lone 0).operandsSent bare true false false).isSome ∧ ((lone 0).operandsShp bare true false false).isSome
    ∧ ((lone 0).operandsShp bare false false false).isSome ∧ ((lone 0).operandsVec bare true true).isSome ∧ ((lone 0).operandsVec bare true false).isSome
    ∧ ((lone 0).operandsVec bare false false).isSome ∧ ((lone 0).operandsEng bare true true true).isSome ∧ ((lone 0).operandsEng bare true true false).isSome
    ∧ ((lone 0).operandsEng bare true false true).isSome ∧ ((lone 0).operandsEng bare true false false).isSome
    ∧ ((lone 0).operandsEng bare false false false).isSome ∧ ((lone 0).operandsCn bare true true).isSome ∧ ((lone 0).operandsCn bare true false).isSome
    ∧ ((lone 0).operandsCn bare false false).isSome ∧ ((lone 0).operandsSnap bare true true).isSome ∧ ((lone 0).operandsSnap bare true false).isSome
    ∧ ((lone 0).operandsAfter bare false false false).isSome := by decide

/-- SEL with slot a zero and not. -/
theorem meets_select : ((lone 0).operands bare true true true).map (·.a.v) = some 0
    ∧ ((feed (lone 0) 1 2 3).operands bare true true true).map (·.a.v) = some 1 := by decide
/-- The block at the cursor holds no fault, its targets are empty and distinct; a value that stands in a target; the oldest block. -/
theorem meets_delivery : (lone 0).here.map (·.fault) = some none ∧ (lone 0).here.map (fun f => f.slots.find (slotOf ⟨1, .a⟩)) = some none
    ∧ slotOf ⟨1, .a⟩ ≠ slotOf ⟨1, .b⟩ ∧ (lone 0).here.bind (fun f => f.slots.find (slotOf ⟨0, .a⟩)) = some (plain 0)
    ∧ (lone 0).cur.which = 0 ∧ (lone 0).reqs = [] := by decide
/-- A younger block at the cursor, whose elder holds no fault: a full slot and a written predicate. -/
def younger : State := { inTask (lone 0) fun k => { k with flights := k.flights ++ k.flights } with cur := { which := 1 } }
theorem meets_younger : younger.cur.which ≠ 0 ∧ younger.here.map (·.fault) = some none
    ∧ (younger.here.bind fun f => f.slots.find (slotOf ⟨0, .a⟩)).isSome ∧ ((younger.task ⟨0, 0, 0⟩).flights.head?.map (·.fault)) = some none
    ∧ ((inBlock younger fun f => f).cur.which ≠ 0) := by decide
/-- Second arrivals: a target whose slot holds a value, by the second of two targets and by one of FAN's; two targets that name one slot. -/
theorem collides (f : Firing) (l : List (Nat × Nat)) (n i : Nat) (k : Nat × Nat) (h : l[i]? = some k) (h1 : (f.slots.find k).isSome ∨ k ∈ l.take i)
    (h2 : k.1 = n) (h3 : ∀ x ∈ l, n ≤ x.1) : Collides f l n :=
  ⟨⟨i, k, ⟨h, h1⟩, h2⟩, fun _ _ m => h3 _ (List.mem_of_getElem? m.1)⟩
theorem meets_collisions : Collides (loneBlock 0) ([⟨1, .a⟩, ⟨0, .a⟩].map slotOf) 0 ∧ Collides (loneBlock 0) ([⟨3, .b⟩, ⟨2, .a⟩, ⟨2, .a⟩].map slotOf) 2
    ∧ (lone 0).here = some (loneBlock 0) ∧ younger.here = some (loneBlock 0) ∧ (loneBlock 0).fault = none ∧ (loneBlock 0).issued = [] :=
  ⟨collides _ _ _ 1 (0, 0) (by decide) (by decide) rfl (by decide), collides _ _ _ 2 (2, 0) (by decide) (by decide) rfl (by decide), by decide, by decide,
    by decide, by decide⟩
/-- A predicate not written, and one written in a younger block. -/
theorem meets_predicate : (lone 0).here.map (fun f => f.preds.find 2) = some none
    ∧ (let s := younger.modFlight ⟨0, 0, 0⟩ 1 fun (f : Firing) => { f with preds := [(2, true)] }
       (s.here.bind fun f => f.preds.find 2).isSome ∧ s.cur.which ≠ 0) := by decide
/-- A parked task that a handle names, and a handle that names none. -/
def parked : State := (lone 0).fireFault { code := .perm }
theorem meets_parked : parked.parkedAt 0 (parked.handle ⟨0, 0, 0⟩) = some ⟨0, 0, 0⟩ ∧ (parked.task ⟨0, 0, 0⟩).parked.isSome
    ∧ parked.parkedAt 0 1 = none := by decide
/-- Traps: an ordinary firing, and one that an ERET has suppressed. -/
theorem meets_trap : (lone 0).here.map (·.suppress) = some none ∧ (inBlock (lone 0) fun f => { f with suppress := some 5 }).here.map (·.suppress) = some (some 5) := by
  decide
/-- READ: a full register, an empty one, and the four cases of a successor. -/
theorem meets_read : ((lone 0).task ⟨0, 0, 0⟩).regs[31]? = some { full := true }
    ∧ ((inTask (lone 0) fun k => { k with regs := List.replicate 32 {} }).task ⟨0, 0, 0⟩).regs[0]? = some ({} : Reg)
    ∧ (let s := younger.modFlight ⟨0, 0, 0⟩ 0 fun (f : Firing) => { f with hdr := { f.hdr with wmask := 1 }, regs := [(0, .value (plain 7))] }
       (s.task ⟨0, 0, 0⟩).flights.head?.map (fun g => (g.hdr.wmask.getLsbD 0, g.regs.find 0)) = some (true, some (.value (plain 7)))
         ∧ (s.task ⟨0, 0, 0⟩).flights.head?.map (fun g => (g.hdr.wmask.getLsbD 1, g.regs.find 1)) = some (false, none))
    ∧ (let s := younger.modFlight ⟨0, 0, 0⟩ 0 fun (f : Firing) => { f with hdr := { f.hdr with wmask := 1 } }
       (s.task ⟨0, 0, 0⟩).flights.head?.map (fun g => (g.hdr.wmask.getLsbD 0, g.regs.find 0)) = some (true, none)) := by decide
/-- A register with no product and one with, a store identifier free. -/
theorem meets_products : (lone 0).here.map (fun f => (f.regs.find 3, f.nulls, f.stores)) = some (none, [], [])
    ∧ ((inBlock (lone 0) fun f => { f with regs := [(3, .null)] }).here.bind fun f => f.regs.find 3).isSome := by decide
/-- Branches: a code of one block of 16 bytes; a target in it, one beyond it, and one not aligned. -/
def coded : State := inTask (lone 0) fun k => { k with code := List.replicate 4 0 }
theorem meets_branch : coded.here.map (·.branch) = some none ∧ 8 * (coded.task ⟨0, 0, 0⟩).code.length = 32
    ∧ (BitVec.ofNat 64 0 + 16 * (1 : BitVec 13).signExtend 64 : Word).toNat = 16
    ∧ ((feed coded 16 0 0).operands bare true false false).map (·.a.v) = some 16 ∧ ((feed coded 32 0 0).operands bare true false false).map (·.a.v) = some 32
    ∧ ((feed coded 8 0 0).operands bare true false false).map (·.a.v) = some 8
    ∧ ((inBlock coded fun f => { f with branch := some .exit }).here.bind (·.branch)).isSome := by decide

/-! Memory, messages and system instructions. -/

/-- A task of a load that stands on bed 0: its operator is a range operator and its context's trap operator, and it has two ports. -/
def loaded : State :=
  let c (place : Place) (size : Nat) : ChanCfg := { src := .trap, place := place, task := 0, size := size, summary := {}, depth := 1 }
  let cfg : LoadCfg := { beds := 1, clear := false, dsBase := 0, dsLen := 0, ops := [⟨0, 0, [0], true⟩]
                         tasks := [{ op := 0, bed := 0, tile := 0, elem := 0, slot := 0, waved := false, code := [], inputs := [3], ports := [0, 1], sums := [] }], chans := [c ⟨0, 0, 0, 3⟩ 256, c ⟨0, 0, 0, 4⟩ 8] }
  { inTask (lone 0) (fun k => { k with load := 7, launch := 1 }) with
    loads := [{ id := 7, launch := 1, ctx := 0, number := 0, cfg := cfg, phase := .placed, beds := [0] }] }
theorem meets_ports : (loaded.portChan ⟨0, 0, 0⟩ 0).map (·.2.size) = some 256 ∧ (loaded.portChan ⟨0, 0, 0⟩ 1).map (·.2.size) = some 8
    ∧ loaded.portChan ⟨0, 0, 0⟩ 2 = none ∧ (loaded.operandsStore bare true true true).isSome
    ∧ (loaded.loadOf ⟨0, 0, 0⟩).map (fun l => l.cfg.chans.map (·.place)) = some [loaded.placeOf ⟨0, 0, 0⟩ 3, loaded.placeOf ⟨0, 0, 0⟩ 4] := by decide
theorem meets_operators : loaded.inRange ⟨0, 0, 0⟩ = true ∧ (lone 0).inRange ⟨0, 0, 0⟩ = false ∧ loaded.isTrapTask ⟨0, 0, 0⟩ = true
    ∧ (lone 0).isTrapTask ⟨0, 0, 0⟩ = false ∧ ((feed loaded 0 2 0).operandsStore bare true true true).map (·.b.v.toNat) = some 2
    ∧ ((feed loaded 0 3 0).operandsStore bare true true true).map (·.b.v.toNat) = some 3 := by decide
/-- SENDS: a payload of 1 and of 256 bytes, and lengths 0 and 257. -/
theorem meets_payload : ((feed loaded 0 256 0).operandsRead bare true true false).map (·.b.v.toNat) = some 256
    ∧ loaded.readReady (keysOf (localKey .ls 0 0 0) 256) = true ∧ loaded.badIn (localKey .ls 0 0 0) 256 = none
    ∧ loaded.readReady (keysOf (localKey .ls 0 0 0x7FFF) 1) = true ∧ ((feed loaded 0 257 0).operandsRead bare true true false).map (·.b.v.toNat) = some 257
    ∧ (loaded.operandsRead bare true true false).map (·.b.v) = some 0 := by decide
/-- SLEEP with no count and with one; an activation's stamp. -/
theorem meets_sleep : ((feed (lone 0) 5 0 0).operandsStore bare true false false).map (·.a.v) = some 5 ∧ ((lone 0).task ⟨0, 0, 0⟩).act.isSome := by decide

/-- A page of global memory that the die's cache maps, with its D bit set. -/
def leaf (mt : Nat) : Leaf := ⟨0, 2 ^ 16, 0, mt, 0, 0, true, true, true, 2 ^ 20, true⟩
def mapped (mt : Nat) (s : State) : State := ({ s with tc := [⟨0, 0, 0, leaf mt⟩] } : State).modCtx 0 fun c => { c with ptw := 1 <<< 63 }
/-- Whether an access of the cursor's task passes its checks, may read its bytes now, and finds them good. -/
def passes (s : State) (sp : Space) (a : Word) (n : Nat) (u : Use) : Bool := match s.check s.cur.task sp a n n u with
  | .ok k _ => s.readReady (keysOf k n) && (s.badIn k n).isNone && !s.remote k
  | _ => false
theorem meets_loads : passes (mapped 0 (lone 0)) .gl 0 8 .read = true ∧ passes (mapped 0 (lone 0)) .gl 0xFFF0 16 .read = true
    ∧ passes (lone 0) .ls 0x7FF0 16 .read = true ∧ passes (lone 0) .ds 0x02FFFFF8 8 .read = true ∧ (mapped 0 (lone 0)).reqs = []
    ∧ ((lone 0).task ⟨0, 0, 0⟩).waved = false := by decide
theorem meets_stores : passes (mapped 0 (lone 0)) .gl 0 8 .write = true ∧ passes (lone 0) .ts 0 16 .write = true ∧ passes (lone 0) .ls 0x7FFF 1 .write = true
    ∧ (lone 0).here.map (·.fault) = some none := by decide
/-- A store to the payload of a message. -/
def holding : State := inTask loaded fun k => { k with act := some { stamp := {}, msgs := [{ ctx := 0, stamp := {}, payload := List.replicate 16 5, load := 7, vc := 3 }] } }
theorem meets_payload_store : (match holding.check holding.cur.task .ch 0x308 8 8 .write with | .ok _ _ => true | _ => false) = true := by decide
/-- Addresses that fail their checks at the ends of a storage. -/
theorem meets_checks : spaceSize .ls = 2 ^ 15 ∧ ((feed (lone 0) 0x7FF9 0 0).operandsRead bare true false false).map (·.a.v.toNat + 8) = some (2 ^ 15 + 1)
    ∧ ((feed (lone 0) 0x7FF9 0 0).operandsStore bare true true false).isSome ∧ ((feed (lone 0) 4 0 0).operandsRead bare true false false).map (·.a.v.toNat % 8) = some 4
    ∧ ((feed (lone 0) 4 0 0).operandsStore bare true true false).map (·.a.v.toNat % 8) = some 4 := by decide
/-- Cache control: an address beyond the space, a local line, and a line that its home holds. -/
def cached : State := { mapped 0 (lone 0) with frames := [⟨0, 0, 0, 0, 1, 0, false, 0, 0, 0, 0, 0⟩] }
theorem meets_cache : ((feed (lone 0) (2 ^ 56) 0 0).operandsRead bare true false false).map (·.a.v.toNat) = some (2 ^ 56)
    ∧ (match (lone 0).check ⟨0, 0, 0⟩ .ls 0 1 1 .cache with | .ok _ u => u.isNone | _ => false) = true
    ∧ (match cached.check ⟨0, 0, 0⟩ .gl 0 1 1 .cache with | .ok k (some u) => !u.ms && decide (u.mtype < 2) && !cached.remote k && cached.held k | _ => false) = true := by
  decide
theorem meets_structure : passes (mapped 2 (lone 0)) .gl 0 8 .structRead = true ∧ passes (mapped 2 (lone 0)) .gl 0 8 .structWrite = true
    ∧ (lone 0).replayHere = none ∧ ((feed (lone 0) 0 1 0).operandsSent bare true true false).map (·.b.v.toNat) = some 1
    ∧ ((feed (lone 0) 0 256 0).operandsSent bare true true false).map (·.b.v.toNat) = some 256 := by decide
theorem meets_atomics : passes (mapped 0 (lone 0)) .gl 0 4 .atomic = true ∧ passes (lone 0) .ts 0 16 .atomic = true
    ∧ isGl (localKey .ts 0 0 0) = false := by decide
/-- The D bit of the one page that the die's cache maps is set, so that a write through it changes nothing first. -/
theorem meets_dirty : (match (mapped 0 (lone 0)).check ⟨0, 0, 0⟩ .gl 64 8 8 .write with
    | .ok 64 (some u) => (mapped 0 (lone 0)).tc.any fun e => e.die == 0 && e.ctx == 0 && e.leaf.entry == u.entry && e.page == u.va / e.leaf.size * e.leaf.size
        && e.leaf.dirty
    | _ => false) = true := by decide
/-- A combinable atomic of a line of this package that nothing is behind. -/
theorem meets_combining : (mapped 0 (lone 0)).behindWrite ⟨0, 0, 0⟩ 0 (keysOf 0 8) = false ∧ (mapped 0 (lone 0)).waveOk ⟨0, 0, 0⟩ 0 0 true = true
    ∧ (mapped 0 (lone 0)).remote 0 = false ∧ isGl 0 = true := by decide
theorem meets_lists : (0 : Word).toNat % 32 + 8 * ((2 : BitVec 2).toNat + 2) ≤ 32 ∧ passes (mapped 0 (lone 0)) .gl 16 16 .atomic = true
    ∧ passes (mapped 0 (lone 0)) .gl 32 32 .atomic = true ∧ ((feed (lone 0) 0 64 0).operandsSent bare true true false).map (·.b.v.toNat % 128) = some 64
    ∧ ((feed (lone 0) 0 0 256).operandsSent bare true true true).map (fun o => (o.b.v.toNat % 256 + o.c.v.toNat, o.a.v.toNat % 32)) = some (256, 0)
    ∧ (lone 0).readReady (keysOf (localKey .ls 0 0 0) 256) = true := by decide
/-- No access of the block must come first; ACHASE with 1 and with 64 hops; AENQ's header and node. -/
theorem meets_order : (lone 0).orderOk true = true ∧ (lone 0).orderOk false = true ∧ (mapped 0 (lone 0)).reqs = []
    ∧ (∀ b ∈ [(1 : Nat), 64 + 256 * 2040], 1 ≤ b % 128 ∧ b % 128 ≤ 64 ∧ (b / 256 % 2048) % 8 = 0 ∧ b / 128 % 2 = 0 ∧ b < 2 ^ 19)
    ∧ passes (mapped 0 (lone 0)) .gl 32 8 .atomic = true ∧ ((mapped 0 (lone 0)).usePage 32).here.isSome
    ∧ (lone 0).remote (2 ^ 43) = true ∧ (lone 0).readReady (keysOf (localKey .ls 0 0 0) 1) = true := by decide +kernel
/-- A replayed instruction whose entry stands. -/
theorem meets_replay : (let s := inTask (lone 0) fun k => { k with replay := [⟨0, 1, 2, []⟩] }
    s.replayHere.isSome ∧ (s.operandsSent bare true true true).isSome ∧ (s.operandsAfter bare false false false).isSome ∧ (s.operandsSnap bare true false).isSome) := by
  decide
/-- A value that refers to an access, two tokens, and a fence without a slot p. -/
theorem meets_tokens :
    (let s := inBlock (lone 0) fun f => { f with slots := [((0, 0), ⟨0, some ⟨0, 0, true⟩, none⟩), ((0, 1), ⟨0, none, some ⟨.bed, [], []⟩⟩)] }
     (s.operands bare true false false).map (fun o => (o.a.tok, o.a.ref.isSome)) = some (none, true)
       ∧ (s.operands bare false false false).map (·.p) = some ⟨0, none, none⟩)
    ∧ (let s := inBlock (lone 0) fun f => { f with slots := [((0, 0), ⟨0, none, some ⟨.tile, [], []⟩⟩), ((0, 1), ⟨0, none, some ⟨.bed, [], []⟩⟩)] }
       (s.operands bare true true false).map (fun o => (o.a.tok.isSome, o.b.tok.isSome)) = some (true, true)) := by decide
theorem meets_timelines : ((lone 0).ctx 0).tls[15]? = some ({} : Timeline) ∧ ((lone 0).operandsRead bare true true false).map (·.a.v.toNat) = some 0
    ∧ ((feed (lone 0) 1 0 0).operandsRead bare true true false).map (fun o => (o.a.v.toNat, o.b.v)) = some (1, 0) := by decide
/-- A stage queue open with room, closed by its own operator, and bound to another. -/
theorem meets_stages : ((lone 0).stage 0 3).foreign ((lone 0).operator ⟨0, 0, 0⟩) = false ∧ ((lone 0).stage 0 3).closed = false
    ∧ ((lone 0).stage 0 3).vals.length + (lone 0).reserved 0 3 < 16
    ∧ (({ lone 0 with stages := [((0, 3), { owner := some (9, 9) })] } : State).stage 0 3).foreign ((lone 0).operator ⟨0, 0, 0⟩) = true := by decide
/-- SNAP of the least range, and of ranges that its checks refuse. -/
theorem meets_snap : (match ({ (lone 0).ctx 0 with snapw := 1 <<< 63 } : Ctx).snapCheck 0 (2 ^ 16) with | .ok p => p.isNone | _ => false) = true ∧ ((lone 0).ctx 0).freeEpoch.isSome
    ∧ ((feed (lone 0) (2 ^ 56) 0 0).operandsSnap bare true true).map (·.a.v.toNat) = some (2 ^ 56)
    ∧ ((feed (lone 0) 1 0 0).operandsSnap bare true true).map (·.a.v.toNat % 2 ^ 16) = some 1
    ∧ ((feed (lone 0) 0 0 0).operandsSnap bare true true).map (·.b.v.toNat) = some 0 := by decide
/-- Contexts in which SNAP of [0, 64 KiB) stops: not enabled, a range that it meets and that does not hold it, one that holds it at depth 3, 32 ranges. -/
theorem meets_snap_causes :
    (let c (on : Word) (ranges : List (Nat × Range)) : Ctx := { (lone 0).ctx 0 with snapw := on, ranges := ranges }
     (c 0 []).snapw.getLsbD 63 = false ∧ (c (1 <<< 63) []).snapw.getLsbD 63 = true
       ∧ (match (c (1 <<< 63) [(0, ⟨0, none, 1, true, 1, 1, 1⟩)]).snapCheck 0 (2 ^ 17) with | .error n => n == (.snapDepth, 1) | .ok _ => false) = true
       ∧ (match (c (1 <<< 63) [(0, ⟨3, none, 1, false, 0, 1, 1⟩)]).snapCheck 0 (2 ^ 16) with | .error n => n == (.snapDepth, 0) | .ok _ => false) = true
       ∧ (List.replicate 32 (0, (⟨0, none, 1, false, 9, 1, 1⟩ : Range))).length = 32) := by decide +kernel
/-- An open snapshot that a handle names, innermost and not held; a handle of none. -/
def snapped : State := (feed (lone 0) 32 0 0).modCtx 0 fun (c : Ctx) =>
  { c with ranges := [(0, ⟨0, none, 1, false, 0, 1, 1⟩)], gens := [(0, 1)], epochs := [(1, ⟨.opened, 0, 0⟩)] }
theorem meets_snapshots : (snapped.operandsSnap bare true false).bind (fun o => ((snapped.ctx 0).rangeOf o.a.v).map fun x => (x.1, x.2.held)) = some (0, false)
    ∧ (∀ x ∈ (snapped.ctx 0).ranges, x.2.parent ≠ some 0) ∧ ((lone 0).ctx 0).rangeOf 0 = none ∧ (snapped.ctx 0).within 0 5 0 = true := by decide
/-- The same with one nested in it, and held. -/
theorem meets_nested : (let s := snapped.modCtx 0 fun (c : Ctx) => { c with ranges := c.ranges ++ [(1, ⟨1, some 0, 2, false, 0, 1, 1⟩)] }
      ((s.ctx 0).rangeOf 32).map (fun x => (x.1, x.2.held)) = some (0, false) ∧ (∃ x ∈ (s.ctx 0).ranges, x.2.parent = some 0))
    ∧ (let s := snapped.modCtx 0 fun (c : Ctx) => { c with ranges := [(0, ⟨0, none, 1, true, 0, 1, 1⟩)] }
       ((s.ctx 0).rangeOf 32).map (·.2.held) = some true) := by decide

/-! Shapes and vector instructions. -/

/-- A record of n elements of 2^e bytes, one after the other, in a storage. -/
def rec (space e n base : Nat) : Row := BitVec.ofNat 512 (space * 2 ^ 509 + e * 2 ^ 503 + base * 2 ^ 384 + n * 2 ^ 64 + 2 ^ e)
/-- Records of 64 words, of 2 and 64 bytes, of 64 wide elements, of 4 and of 16 elements, in the element's storage. -/
def shaped : State := inTask (lone 0) fun k => { k with sh := [rec 4 2 64 0, rec 4 2 64 256, rec 4 2 64 512, rec 4 0 2 0x400, rec 4 4 64 0x1000, rec 4 0 64 0x800,
                                                              rec 4 3 4 0xC00, rec 4 2 16 0] }
/-- Whether the records and the elements they name can be read. -/
def reads (s : State) (v : VSpec) : Bool := match s.vecRead bare v ⟨0, none, none⟩ with | .ok _ _ _ _ _ _ => true | _ => false
theorem meets_elementwise : reads shaped { a := opd 0 .f32, b := opd 1 .f32, d := opd 2 .f32, counts := countsAll true false } = true
    ∧ reads shaped { a := opd 0 .i32, b := opd 1 .i32, d := opd 2 .i32, counts := countsAll true false } = true
    ∧ reads shaped { a := opd 0 .f32, b := opd 1 .f32, c := opd 2 .f32, d := opd 2 .f32, counts := countsAll true true } = true
    ∧ reads shaped { a := opd 0 .i32, d := opd 2 .i32, counts := countsAll false false } = true
    ∧ reads shaped { a := opd 0 .f32, d := opd 2 .f32, counts := countsAll false false } = true ∧ reads shaped { d := opd 2 .w32 } = true := by decide +kernel
theorem meets_choices : reads shaped { a := opd 0 .f32, b := opd 1 .f32, d := opdAny 5, counts := countsAll true false } = true
    ∧ reads shaped { a := opd 0 .i32, b := opd 1 .i32, c := opdAny 5, d := opd 2 .i32, counts := countsAll true true } = true := by decide +kernel
/-- Comparisons and limits of unsigned numbers and of floats. -/
theorem meets_choice_types : ∀ t ∈ [Ty.w32, .f32, .i32], reads shaped { a := opd 0 t, b := opd 1 t, d := opdAny 5, counts := countsAll true false } = true
    ∧ reads shaped { a := opd 0 t, d := opd 2 t, counts := countsAll false false } = true := by decide +kernel
theorem meets_conversions : reads shaped { a := opd 0 .f32, d := opd 5 .i8, counts := countsAll false false } = true
    ∧ reads shaped { a := opd 5 .ds8, d := opd 2 .f32, counts := countsAll false false } = true
    ∧ reads shaped { a := opd 0 .f32, d := opd 4 .bx128, counts := countsAll false false } = true
    ∧ reads shaped { a := opd 4 .bx128, d := opd 2 .f32, counts := countsAll false false } = true
    ∧ reads shaped { a := opd 0 .f32, b := some ⟨3, [1]⟩, d := opd 2 .f32, counts := fun na nb _ nd =>
        if na ≠ nd then some 0 else if nb ≠ (na + 31) / 32 then some 1 else none } = true
    ∧ reads shaped { a := opd 0 .f32, d := some ⟨3, [1]⟩, counts := fun na _ _ nd => if nd ≠ (na + 31) / 32 then some 3 else none } = true
    ∧ reads shaped { a := opd 0 .f32, b := some ⟨3, [1]⟩, d := some ⟨5, [1]⟩, counts := fun na nb _ nd =>
        if na ≠ nd then some 0 else if nb ≠ (na + 31) / 32 then some 1 else none } = true
    ∧ ((feed shaped 127 0 0).operandsVec bare true false).map (·.a.v.toInt) = some 127
    ∧ ((feed shaped (-126) 0 0).operandsVec bare true false).map (·.a.v.toInt) = some (-126) := by decide +kernel
theorem meets_reductions : reads shaped { a := opd 0 .f32, counts := fun _ _ _ _ => none } = true
    ∧ reads shaped { a := opd 0 .i32, counts := fun _ _ _ _ => none } = true ∧ shaped.vwork = {}
    ∧ reads shaped { a := opd 0 .f32, b := opd 1 .f32, counts := fun na nb _ _ => if nb != na then some 1 else none } = true
    ∧ reads shaped { a := opd 0 .i32, b := opd 1 .i32, counts := fun na nb _ _ => if nb != na then some 1 else none } = true := by decide +kernel
theorem meets_moves : reads shaped { a := opd 7 .f32, b := opdAny 5, d := opd 2 .f32, counts := fun _ nb _ nd => if nb ≠ nd then some 1 else none
                                     limit := fun ra _ => if 64 < shCount ra * shEsz ra then some 0 else none } = true
    ∧ reads shaped { kind := .gather, a := opd 0 .f32, b := opdAny 5, d := opd 2 .f32, counts := fun _ nb _ nd => if nb ≠ nd then some 1 else none
                     limit := fun ra _ => if shDims ra ≠ 1 then some 0 else none } = true
    ∧ reads shaped { kind := .scatter, a := opd 0 .f32, b := opdAny 5, d := opd 2 .f32, counts := fun na nb _ _ => if na ≠ nb then some 1 else none
                     limit := fun _ rd => if shDims rd ≠ 1 then some 3 else none } = true
    ∧ reads shaped { a := some ⟨6, [8]⟩, b := some ⟨6, [8]⟩, d := some ⟨4, [16]⟩ } = true := by decide +kernel
/-- Records that each check refuses, and a count at each end. -/
theorem meets_shape_checks : (rec 7 2 4 0).extractLsb' 509 3 = 7 ∧ (rec 4 5 4 0).extractLsb' 503 3 = 5 ∧ rec 4 0 4 0 ≠ 0 ∧ shBadField (rec 4 0 4 0) = false
    ∧ shEsz (rec 4 0 4 0) ≠ Ty.f32.bytes ∧ shCount (rec 4 2 0 0) = 0 ∧ shCount (rec 4 2 65537 0) = 65537 ∧ (shaped.task ⟨0, 0, 0⟩).sh[7]?.isSome
    ∧ (shaped.operandsShp bare false false false).isSome ∧ (shaped.shapeTable ⟨0, 0, 0⟩).length ≤ 0
    ∧ ({ loaded with loads := loaded.loads.map fun l => { l with shapes := [0] } } : State).shapeTable ⟨0, 0, 0⟩ = [0] := by decide +kernel
/-- A destination in a temporary, and one in storage whose identifier, 31, stands in the SMASK. -/
theorem meets_results :
    (let s := inTask (lone 0) fun k => { k with sh := List.replicate 8 (BitVec.ofNat 512 (2 ^ 508 + 2 * 2 ^ 503 + 16 * 2 ^ 64 + 4)) }
     ((s.task ⟨0, 0, 0⟩).shape 7).getLsbD 508 = true ∧ (match s.elemChecks [] ((s.task ⟨0, 0, 0⟩).shape 7) 1 .write with | [.ok (.vt _ _)] => true | _ => false) = true)
    ∧ (let s := inBlock shaped fun f => { f with hdr := { f.hdr with smask := 0x80000000 } }
       ((s.task ⟨0, 0, 0⟩).shape 7).getLsbD 508 = false ∧ s.here.map (fun f => (f.hdr.smask.getLsbD 31, f.stores, f.nulls)) = some (true, [], [])
         ∧ (match s.elemChecks [] ((s.task ⟨0, 0, 0⟩).shape 7) 1 .write with | [.ok (.mem _ _)] => true | _ => false) = true) := by decide +kernel

/-! Engines. -/

/-- A record of d dimensions. -/
def rec2 (space e x sx y sy base : Nat) : Row :=
  BitVec.ofNat 512 (space * 2 ^ 509 + e * 2 ^ 503 + 2 ^ 501 + base * 2 ^ 384 + x * 2 ^ 64 + sx + (y * 2 ^ 64 + sy) * 2 ^ 96)
/-- The premises of a copy of each form: equal counts, transposed extents, and a list of indices. -/
theorem meets_copies : EngineShape (rec 3 2 64 0) 4 ∧ shCount (rec 3 2 64 0) = shCount (rec 2 2 64 0) ∧ shDims (rec2 3 2 4 4 8 16 0) = 2
    ∧ shExtRaw (rec2 3 2 4 4 8 16 0) 0 = shExtRaw (rec2 3 2 8 4 4 32 0) 1 ∧ shExtRaw (rec2 3 2 4 4 8 16 0) 1 = shExtRaw (rec2 3 2 8 4 4 32 0) 0
    ∧ EngineShape (rec 3 3 64 0) 8 ∧ shDims (rec 3 2 64 0) = 1 ∧ (lone 0).engRoom 0 3 = true ∧ (lone 0).engRoom 0 4 = true := by
  unfold EngineShape; decide +kernel
/-- Operand words of a follow-on MMA, of a follow-on load with scales, and of none; a start condition. -/
theorem meets_follow : aShapeOk (rec2 3 0 128 1 128 128 0) false = true ∧ aShapeOk (rec2 3 0 64 1 128 64 0) true = true
    ∧ bShapeOk (rec2 3 0 128 1 128 128 0) = true ∧ (let sc := rec2 3 0 128 1 4 128 0; EngineShape sc 1 ∧ bScaleOk sc = true)
    ∧ (let w : Word := BitVec.ofNat 64 (2 + 8 * 1 + 2 ^ 13 + 3 * 2 ^ 19); w.extractLsb' 13 1 = 1 ∧ Ty.ofBits (w.extractLsb' 19 4) = some .e4m3 ∧ w.extractLsb' 34 30 = 0)
    ∧ (let w : Word := BitVec.ofNat 64 (2 + 8 * 1 + 5 * 2 ^ 19); w.extractLsb' 13 1 = 0 ∧ Ty.ofBits (w.extractLsb' 19 4) = some .i8)
    ∧ (0 : Word).extractLsb' 13 21 = 0 := by unfold EngineShape; decide +kernel
theorem meets_matrix : (let r := rec2 3 2 128 4 128 512 0; EngineShape r 4 ∧ shDims r = 2 ∧ shExtRaw r 0 = 128 ∧ shStrRaw r 0 = 4 ∧ shExtRaw r 1 = 128
      ∧ shStrRaw r 1 % 64 = 0 ∧ shBase r % 64 = 0)
    ∧ (let r := rec 3 0 512 0; EngineShape r 1 ∧ shCount r % 4 = 0 ∧ shCount r = 512)
    ∧ ((feed (lone 0) 1 0 0).operandsEng bare true false false).map (·.a.v.toNat) = some 1
    ∧ ((feed (lone 0) 2 0 0).operandsEng bare true false false).map (·.a.v.toNat) = some 2
    ∧ ((feed (lone 0) 16383 0 0).operandsStore bare true false false).map (·.a.v.toNat) = some 16383
    ∧ ((feed (lone 0) 16384 0 0).operandsStore bare true false false).map (·.a.v.toNat) = some 16384
    ∧ ((((lone 0).tile 0).matrix.filter fun c => c.op.accOf == some 0).map (·.id)) = []
    ∧ (({ id := 1, op := .macclr 0 0, ctx := 0, load := 0, tl := 0 } : Cmd).op.accOf) = some 0 := by unfold EngineShape; decide +kernel
/-- CPYRES of the own tile, of another by the trap operator, of another by another task, of a unit that does not exist. -/
theorem meets_resume : ((lone 0).operandsEng bare true true false).map (fun o => (o.b.v.toNat, (o.a.v.extractLsb' 0 2).toNat, o.a.v.extractLsb' 3 61)) = some (0, 0, 0)
    ∧ (lone 0).tileEnabled 0 = true ∧ loaded.isTrapTask loaded.cur.task = true ∧ (feed loaded 0 1 0).tileEnabled 1 = true
    ∧ ((feed (lone 0) 0 1 0).operandsEng bare true true false).map (·.b.v.toNat) = some 1 ∧ (lone 0).isTrapTask ⟨0, 0, 0⟩ = false
    ∧ ((feed (lone 0) 3 0 0).operandsEng bare true true false).map (fun o => (o.a.v.extractLsb' 0 2).toNat) = some 3 := by decide +kernel
/-- Envelopes: empty ones, one with a segment, a lost one; records of units. -/
theorem meets_canopy : (lone 0).here.map (·.canopy) = some [] ∧ ((lone 0).env 0 7).lost = false ∧ ((lone 0).env 0 7).segs = []
    ∧ (let s := (lone 0).modTile 0 fun (t : Tile) => { t with envs := [{ segs := [⟨0, 0, 0, 0x7F800000⟩] }, { lost := true }] }
       (s.env 0 0).segs ≠ [] ∧ (s.env 0 0).lost = false ∧ (s.env 0 1).lost = true)
    ∧ (let r := rec 3 4 257 0; EngineShape r 16 ∧ shDims r = 1 ∧ shStrRaw r 0 = 16 ∧ shBase r % 64 = 0) ∧ (lone 0).engRoom 0 5 = true
    ∧ ((feed (lone 0) 0x1FF 0 0).operandsCn bare true false).map (·.a.v.toNat) = some (0x100 + 255) := by unfold EngineShape; decide +kernel

/-! Blocks, activations and results. -/

/-- A jump table of one entry at 0: n is 1 and the target 16, in a page that the die's cache maps. -/
def table : State := { mapped 0 coded with mem := [(0, 1), (8, 16)] }
def readsAs (s : State) (a : Word) : Option Nat := match s.readTable s.cur.task a with | .value v _ => some v.toNat | _ => none
theorem meets_jump : readsAs table 0 = some 1 ∧ readsAs table 8 = some 16
    ∧ (match table.readTable table.cur.task 0 with | .value n u => readsAs u (0 + 8 + 8 * 0) == some 16 && decide ((0 : Word) < n) | _ => false) = true
    ∧ ((feed table 0 1 0).operandsRead bare true true false).map (·.b.v) = some 1 ∧ ((feed table 4 0 0).operandsRead bare true true false).map (·.a.v.toNat % 8) = some 4
    ∧ (feed table 0 1 0).here.isSome := by decide +kernel

/-- A task about to fetch its entry block: of one EXIT (R240, R264), and of a word that no instruction has. -/
def fetching (code : List Word) : State :=
  { inTask State.reset fun k => { k with phase := .active, act := some { stamp := {} }, fetch := some 0, code := code } with
    cur := { work := some (.blockFetch ⟨0, 0, 0⟩) } }
theorem meets_fetch : (let s := fetching [0, 0x0007000000000000, 0x3400000000000000, 0]
      s.mayFetch ⟨0, 0, 0⟩ = true ∧ fetchFault false (s.task ⟨0, 0, 0⟩).sh ((s.task ⟨0, 0, 0⟩).blockAt 0).1 ((s.task ⟨0, 0, 0⟩).blockAt 0).2 = none)
    ∧ (let s := fetching [0, 0, 0, 0]
      s.mayFetch ⟨0, 0, 0⟩ = true ∧ illegalAt ((s.task ⟨0, 0, 0⟩).blockAt 0).2 = some 0 ∧ (s.task ⟨0, 0, 0⟩).flights = [] ∧ s.reqs = []) := by decide +kernel
/-- A task of a load whose entry block is an overlay block that its element's instruction store holds. -/
def overlaid : State :=
  let s := inTask loaded fun k => { k with phase := .active, act := some { stamp := {} }, fetch := some 0, flights := []
                                           code := [0, 0x0007000000000000, 0x3400000000000000, 0] }
  { s with
    loads := s.loads.map fun l => { l with cfg := { l.cfg with tasks := l.cfg.tasks.map fun k => { k with blocks := [(0, 32, 2 ^ 16)] } } }
    elems := [(⟨0, 0⟩, { overlays := [(0, 0)] })], cur := { work := some (.blockFetch ⟨0, 0, 0⟩) } }
theorem meets_overlay : overlaid.mayFetch ⟨0, 0, 0⟩ = true ∧ (overlaid.taskCfg ⟨0, 0, 0⟩).bind (·.overlayAt 0) = some (32, 2 ^ 16)
    ∧ (0, 0) ∈ (overlaid.elem ⟨0, 0⟩).overlays ∧ overlaid.bad = [] ∧ (loaded.taskCfg ⟨0, 0, 0⟩).map (·.overlayAt 0) = some none
    ∧ fetchFault false (overlaid.task ⟨0, 0, 0⟩).sh ((overlaid.task ⟨0, 0, 0⟩).blockAt 0).1 ((overlaid.task ⟨0, 0, 0⟩).blockAt 0).2 = none := by decide +kernel
/-- A binding whose page its bed's configuration cache holds, and one whose page no address has. -/
theorem meets_binding :
    (let s : State := { loaded with cfgCache := [(0, [0])], cur := { work := some (.bindingFill ⟨0, 0, 0⟩) } }
     (s.taskCfg ⟨0, 0, 0⟩).map (fun c => decide (c.page ∈ s.cfgCache.get (bedOf 0) [])) = some true ∧ 0 ∉ (s.elem ⟨0, 0⟩).bound ∧ s.bad = [])
    ∧ (let s : State := { loaded with loads := loaded.loads.map fun l => { l with cfg := { l.cfg with tasks := l.cfg.tasks.map fun k =>
         { k with page := 2 ^ 56 } } } }
       (s.fillBinding ⟨0, 0, 0⟩).1 = some .addrRange) := by decide +kernel
/-- A block with its products, a register, a local store and a branch; and one whose product is missing. -/
def finished : Firing := { loneBlock 0x3300000000000000 with fired := [0], branch := some (.block 0) }
def committing (f : Firing) : State :=
  { inTask State.reset fun k => { k with phase := .active, act := some { stamp := {} }, flights := [f] } with cur := { work := some (.blockCommit ⟨0, 0, 0⟩) } }
theorem meets_commit :
    (let f := { finished with hdr := { finished.hdr with wmask := 1, smask := 1 }, regs := [(0, .value (plain 7))], stores := [⟨0, 0, [(localKey .ls 0 0 0, 5)], [], [], none⟩] }
     let s := committing f
     s.mayCommit ⟨0, 0, 0⟩ = true ∧ (s.task ⟨0, 0, 0⟩).flights = [f] ∧ f.defer = [] ∧ f.vt = [] ∧ f.canopy = [] ∧ f.branch = some (.block 0)
       ∧ isGl (localKey .ls 0 0 0) = false ∧ f.stores.length = 1 ∧ s.reqs = [] ∧ (s.task ⟨0, 0, 0⟩).waved = false)
    ∧ ((committing { finished with branch := none }).quiescentFault ⟨0, 0, 0⟩).map (fun r => (r.code, r.detail)) = some (.blockFormat, 0)
    ∧ ((committing { finished with hdr := { finished.hdr with wmask := 0x80000000 } }).quiescentFault ⟨0, 0, 0⟩).map (·.detail) = some 31 := by decide +kernel

/-- A ready task of a placed load with two pending activations. -/
def ready : State :=
  { inTask loaded fun k => { k with phase := .ready, act := none, flights := [], pending := [{ stamp := { c0 := 3 } }, { stamp := { c0 := 1 }, since := 9 }] } with
    cur := { work := some (.activationStart ⟨0, 0⟩) }, cycle := 5000 }
theorem meets_activation : ready.mayStartOn ⟨0, 0⟩ = true ∧ ready.nextReady ⟨0, 0⟩ = some ⟨0, 0, 0⟩
    ∧ (firstPending (ready.task ⟨0, 0, 0⟩).pending).map (·.stamp.c0) = some 1 ∧ (ready.task ⟨0, 0, 0⟩).promoted = none
    ∧ (∃ a ∈ (ready.task ⟨0, 0, 0⟩).pending, a.since + 4096 ≤ ready.cycle) ∧ (ready.task ⟨0, 0, 0⟩).phase = .ready
    ∧ 0 ∉ (ready.elem ⟨0, 0⟩).bound ∧ (ready.elem ⟨0, 0⟩).bound.length < 16 ∧ (ready.elem ⟨0, 0⟩).unmatched = [] := by decide

/-- A request of the task, number 5, of a block that has committed, answered or not. -/
def awaiting (op : Op) (a : Option Answer) (w : Work) : State :=
  { inTask loaded fun k => { k with flights := [], regs := [{ due := some (.result 5 false) }, { due := some (.result 5 true) }] } with
    reqs := [{ id := 5, op := op, task := some ⟨0, 0, 0⟩, answer := a, load := 7 }], nextId := 6, cur := { work := some w }, cycle := 10000000 }
theorem meets_results_due : (let s := awaiting (.load 8 false) (some { r0 := 1, r1 := 2 }) (.longLatencyResult 5)
      ((s.req 5).bind (·.answer)).isSome ∧ (s.task ⟨0, 0, 0⟩).flights = [] ∧ (s.task ⟨0, 0, 0⟩).regs.map (·.due) = [some (.result 5 false), some (.result 5 true)])
    ∧ (let s := { inTask (awaiting (.load 8 false) (some { r0 := 1 }) (.longLatencyResult 5)) fun k => { k with flights := [loneBlock 0x8000044000006000] } with tick := 0 }
      (s.task ⟨0, 0, 0⟩).flights.map (fun f => (f.serial, f.fault, f.words.map fun w => match decodeHead w with | .ok h => h.t0 | .error _ => none, f.slots.find (8, 0)))
        = [(0, none, [some (⟨8, .a⟩ : Target)], none)]) := by decide +kernel
/-- A result that has still to set out, one that has come back, one that meets a value in its target, and one that no reply brings. -/
theorem meets_returns :
    (let s := awaiting (.load 8 false) (some { r0 := 1 }) (.longLatencyResult 5)
     (s.req 5).map (fun r => (r.returned, s.replyBefore r, r.isStore, s.replyOk r)) = some (false, false, false, true)
       ∧ (({ s with reqs := s.reqs.map fun r => { r with back := true } } : State).req 5).map (fun r => (r.returned, r.link.isSome)) = some (true, false))
    ∧ (let s := { inTask (awaiting (.load 8 false) (some { r0 := 1 }) (.longLatencyResult 5)) fun k => { k with flights := [loneBlock 0x8000040000006000] } with
                  reqs := [{ id := 5, op := .load 8 false, task := some ⟨0, 0, 0⟩, answer := some { r0 := 1 }, back := true }] }
       (s.task ⟨0, 0, 0⟩).flights = [loneBlock 0x8000040000006000] ∧ (s.req 5).map (fun r => s.keeps r true) = some false
         ∧ (match decodeHead 0x8000040000006000 with | .ok h => h.t0.map slotOf == some (0, 0) | .error _ => false) = true)
    ∧ ((awaiting .rnext none (.rnextServe 5)).req 5).map (awaiting .rnext none (.rnextServe 5)).replyOk = some true := by decide +kernel
theorem meets_late_collision : Collides (loneBlock 0x8000040000006000) ([⟨0, .a⟩].map slotOf) 0 := collides _ _ _ 0 (0, 0) (by decide) (by decide) rfl (by decide)
/-- A draw of an interval that has numbers, of a closed one, and of an empty one beside a larger. -/
def drawing (rs : List (Nat × Nat × Nat × Nat × Bool)) : State := let s := awaiting .rnext none (.rnextServe 5)
  { s with loads := s.loads.map fun l => { l with ranges := rs } }
theorem meets_draws : ((drawing [(0, 0, 4, 5, false)]).loadOf ⟨0, 0, 0⟩).map (·.ranges) = some [(0, 0, 4, 5, false)]
    ∧ ((drawing []).taskCfg ⟨0, 0, 0⟩).map (·.op) = some 0 ∧ ((drawing []).req 5).map (·.answer) = some none := by decide +kernel
theorem meets_split_draw : ((drawing [(0, 0, 4, 4, false), (0, 1, 0, 2, true)]).loadOf ⟨0, 0, 0⟩).map (·.ranges)
    = some [(0, 0, 4, 4, false), (0, 1, 0, 2, true)] := by decide +kernel
/-- The oldest waiter of a stage queue that holds a value, and of one that is closed. -/
theorem meets_stage_waiter :
    (let s : State := { awaiting (.stgwait 0 3) none (.stageWaiterServe 0 3) with stages := [((0, 3), { vals := [(9, [])], waiters := [5] })] }
     (s.stage 0 3).waiters = [5] ∧ (s.req 5).isSome ∧ (s.stage 0 3).vals = [(9, [])])
    ∧ (let s : State := { awaiting (.stgwait 0 3) none (.stageWaiterServe 0 3) with stages := [((0, 3), { closed := true, waiters := [5] })] }
     (s.stage 0 3).vals = [] ∧ (s.stage 0 3).closed = true) := by decide +kernel
/-- A sleep that is over, one that a drain ends; a timeline wait past its limit; a number that completes in order, and one out of order. -/
theorem meets_waits : (let s := awaiting (.sleep 1048576) none (.sleepExpire 5)
      (s.req 5).map (fun r => (r.op, decide (1048576 ≤ s.cycle - r.start))) = some (Op.sleep 1048576, true))
    ∧ (let s : State := { awaiting (.sleep 1048576) none (.sleepExpire 5) with cycle := 10, loads := loaded.loads.map fun l => { l with phase := .draining } }
      (s.req 5).map (fun r => (decide (s.cycle - r.start < 1048576), s.marker r.load)) = some (true, true))
    ∧ (let s := awaiting (.tlwait 15 3 1) none (.tlwaitTimeout 5)
      (s.req 5).map (fun r => (r.op, decide (1 * 2400 ≤ s.cycle - r.start))) = some (Op.tlwait 15 3 1, true))
    ∧ (∀ n ∈ [1, 2], let s := awaiting (.tlbump 15 n) none (.tlbumpComplete 0 15 n)
      s.fenced ⟨0, 0, 0⟩ 1 = true ∧ (s.ctx 0).tls[15]? = some ({} : Timeline) ∧ (s.reqs.map fun q => (q.ctx, q.op, q.id)) = [(0, Op.tlbump 15 n, 5)]) := by decide +kernel

/-! Translation and the homes. -/

/-- Memory that holds a number of n bytes at an address. -/
def holds (a n v : Nat) : Memory := ((bytesOfNat n v).zipIdx.map fun b => (a + b.2, b.1)).filter fun c => c.2 ≠ 0
/-- A context whose tables begin at 16 MiB; there a leaf of 32 GiB that permits reads, or an entry that is not valid. -/
def paged (e : Nat) : State :=
  { (lone 0).modCtx 0 fun (c : Ctx) => { c with live := true, ptw := BitVec.ofNat 64 (2 ^ 63 + 2 ^ 24) } with
    mem := holds (2 ^ 24) 8 e, misses := [⟨1, 0, 0, 0, .read, false, [⟨.instr ⟨0, 0, 0⟩ 0 0, 8, .read⟩]⟩], nextId := 2 }
theorem meets_walk : (match ((paged (2 ^ 52 + 2)).walk 0 0 0 .read).1 with | .ok (l, _) => decide (l.size = 2 ^ 35 ∧ l.entry = 2 ^ 24) | .error _ => false) = true
    ∧ (match ((paged 0).walk 0 0 0 .read).1 with | .ok _ => false | .error x => x.code == .pageFault) = true ∧ ((paged 0).oldestMiss 0).map (·.id) = some 1
    ∧ ((paged 0).misses.filter fun x => x.die == 0 && x.walking).length < 64 ∧ (paged 0).misses.map (·.waiters.length) = [1]
    ∧ ((paged 0).task ⟨0, 0, 0⟩).flights.map (fun f => (f.serial, f.fault)) = [(0, none)] ∧ (paged 0).mem.wf = true
    ∧ (paged (2 ^ 52 + 2)).mem.wf = true := by decide +kernel
/-- A walk that meets a failing unit. -/
theorem meets_bad_walk : (let s : State := { paged (2 ^ 52 + 2) with bad := [2 ^ 24] }
    (match (s.walk 0 0 0 .read).1 with | .ok _ => false | .error x => x.code == .uncorrectable && x.unit == 2 ^ 24) = true) := by decide +kernel
/-- Invalidations: of the largest page, of everything and of a tensor, none of them running, and one that runs and waits for nothing. -/
theorem meets_invalidations : ((paged 0).ctx 0).live = true ∧ ((paged 0).ctx 0).inval.busy = false ∧ (3 : Word).getLsbD 3 = false ∧ (3 : Word).getLsbD 4 = false
    ∧ (8 : Word).getLsbD 3 = true ∧ (8 : Word).getLsbD 4 = false ∧ (16 : Word).getLsbD 3 = false ∧ (16 : Word).getLsbD 4 = true
    ∧ (∀ f ∈ cached.frames, f.die < 12 ∧ (f.sln * 12 + f.die) * 2048 < 0x018000000000)
    ∧ (let s := (paged 0).modCtx 0 fun (c : Ctx) => { c with inval := { busy := true, blocks := [3] } }
       (s.ctx 0).inval.busy = true ∧ s.tasks.map (fun x => x.2.flights.map (·.serial)) = [[0]]) := by decide +kernel

/-- A request of the task, number 5, at an address of global memory, of a line that its class keeps out of the L2, or that it lets in. -/
def asking (op : Op) (cls loc : Nat) (w : Work) : State :=
  { lone 0 with reqs := [{ id := 5, op := op, task := some ⟨0, 0, 0⟩, loc := loc, va := loc, use := some { line := 0, va := 0, mtype := 0, cls := cls, tid := 0, ms := false, tile := 0 } }], nextId := 6, cur := { work := some w } }
/-- Whether an operation may be performed, its line neither marked, nor being filled, nor a miss that allocates. -/
def plainly (s : State) : Bool := match s.req 5 with
  | some r => r.answer.isNone && s.mayPerform r && s.replyOk r && s.combines.isEmpty && match r.use with
    | some w => (s.mark w.line).1 == 0 && decide (w.mtype < 3) && w.epoch == 0 && !s.filling w.line && !s.allocates w
    | none => false
  | none => false
theorem meets_home_reads : plainly (asking (.load 1 true) 2 0 (.l2Access 5)) = true ∧ plainly (asking (.load 8 true) 2 2040 (.l2Access 5)) = true
    ∧ plainly (asking (.store [(0, 5)]) 2 0 (.l2Access 5)) = true ∧ (lone 0).badIn 0 8 = none ∧ ((lone 0).task ⟨0, 0, 0⟩).waved = false := by decide +kernel
/-- A store of one aligned 8-byte part, and one of two. -/
theorem meets_parts : (partsOf (([(0, 5), (7, 5)] : List (Nat × Byte)).map (·.1))).length ≤ 1 ∧ 1 < (partsOf (([(7, 5), (8, 6)] : List (Nat × Byte)).map (·.1))).length
    ∧ plainly (asking (.store [(7, 5), (8, 6)]) 2 7 (.l2Access 5)) = true := by decide +kernel
theorem meets_fill : (let s := asking (.load 8 false) 0 2040 (.l2Access 5)
      (s.req 5).map (fun r => (s.mayPerform r, r.use.map fun w => (s.allocates w, s.filling w.line, (s.mark w.line).1))) = some (true, some (true, false, 0)))
    ∧ (let s := asking (.load 8 false) 0 2040 (.l2FillComplete 0)
       let t : State := { s with reqs := s.reqs.map fun r => { r with held := true } }
       t.reqs.map (fun q => (q.held, lineOf q.loc)) = [(true, 0)] ∧ (t.victim (homeDie 0) (l2Slice (stackLine 0)) (l2Set (stackLine 0))).isSome) := by decide +kernel
/-- A line whose epoch rejects, with its shadow. -/
def rejected : State :=
  { (lone 0).modCtx 0 fun (c : Ctx) => { c with epochs := [(1, ⟨.rejecting, 0, 1⟩)] } with
    marks := [(0, (1, 0))], shadows := [⟨0, 0, 1, 0, 2 ^ 20⟩], cur := { work := some (.settleBackground 0) } }
theorem meets_settlement : rejected.mark 0 = (1, 0) ∧ (rejected.ctx 0).epochs.find 1 = some ⟨.rejecting, 0, 1⟩
    ∧ rejected.shadowOf 0 0 1 = some ⟨0, 0, 1, 0, 2 ^ 20⟩ ∧ paIsHbm 0 = true ∧ rejected.mem.wf = true ∧ rejected.l2mem.wf = true := by decide +kernel
theorem meets_performed_atomics : plainly (asking (.atomic 9 8 (2 ^ 64 - 1) 0 false false false) 2 0 (.homeAtomic 5)) = true
    ∧ plainly (asking (.atomic 0 1 255 0 false false false) 2 2047 (.homeAtomic 5)) = true
    ∧ plainly (asking (.atomic 8 16 (2 ^ 128 - 1) 0 false false false) 2 16 (.homeAtomic 5)) = true
    ∧ plainly (asking (.atomic 0 4 0x3F800000 0 false true false) 2 4 (.homeAtomic 5)) = true
    ∧ plainly (asking (.acasm 4 3 [0, 0, 0, 0] [1, 2, 3, 4]) 2 0 (.homeAtomic 5)) = true ∧ (lone 0).badIn 0 32 = none := by decide +kernel
theorem meets_enqueue : plainly (asking (.aenq 0 64 64 none) 2 0 (.aenqAtHome 5)) = true ∧ (lone 0).badIn 8 8 = none ∧ (∀ i, i < 8 → (lone 0).byte (0 + 8 + i) = 0)
    ∧ (lone 0).frames = [] ∧ (lone 0).marks = [] ∧ ((lone 0).ctx 0).ranges = [] := by decide +kernel
/-- A chase that has hops left, in a page that the die's cache maps; one whose count ends, and one at the end of its list. -/
def chasing (left va : Nat) : State := let s := mapped 0 (asking (.achase left 0 0) 0 0 (.achaseHop 5))
  { s with reqs := s.reqs.map fun r => { r with va := va } }
theorem meets_chase : (match (chasing 64 8).checkFor 0 0 8 .read (.op 5) with
      | (.ok pa (some w), _) => decide (pa = 8) && ((chasing 64 8).mark w.line).1 == 0 && w.mtype != 3
      | _ => false) = true
    ∧ (chasing 64 8).behindWrite ⟨0, 0, 0⟩ 0 (keysOf 8 8) = false ∧ ((chasing 64 0).req 5).map (·.va) = some 0
    ∧ ((chasing 0 8).req 5).map (·.op) = some (.achase 0 0 0) := by decide +kernel
theorem meets_chase_check : ((chasing 64 8).checkFor 0 0 8 .read (.op 5)).2 = chasing 64 8 := rfl
/-- A chase whose next node lies on another package, and one that has arrived there. -/
def farther : State := { chasing 64 8 with mgmt := { (chasing 64 8).mgmt with ident := 0x1FF0000 }, tc := [⟨0, 0, 0, { leaf 0 with pa := 2 ^ 43 }⟩], reqs := (chasing 64 8).reqs.map fun r => { r with use := none } }
theorem meets_far_chase : (match farther.checkFor 0 0 8 .read (.op 5) with
      | (.ok pa (some _), _) => decide (paPackage pa ≠ farther.package)
      | _ => false) = true
    ∧ (farther.req 5).map (fun r => (r.use, r.link, r.answer.isSome, farther.mayPerform r)) = some (none, none, false, true)
    ∧ ((chasing 64 8).req 5).map (fun r => (r.use.isSome, (chasing 64 8).mayPerform r)) = some (true, true) := by decide +kernel
/-- AENQ with an old tail at 128, in a page that the cache maps, and with one that is not aligned. -/
def tailed (tl : Nat) : State := { mapped 0 (asking (.aenq 0 64 64 none) 2 0 (.aenqAtHome 5)) with mem := holds 8 8 tl }
theorem meets_tail : (tailed 128).num 8 8 = 128 ∧ (tailed 129).num 8 8 = 129
    ∧ (match (tailed 128).checkFor (homeDie 0) 0 128 .write (.op 5) with | (.ok pa (some _), _) => pa == 128 | _ => false) = true
    ∧ (tailed 128).mem.wf = true ∧ (tailed 128).frames = [] ∧ (tailed 128).marks = [] ∧ ((tailed 128).ctx 0).ranges = []
    ∧ ((tailed 128).req 5).map (tailed 128).mayPerform = some true := by decide +kernel
theorem meets_tail_check : ((tailed 128).checkFor (homeDie 0) 0 128 .write (.op 5)).2 = tailed 128 := rfl
/-- A WENQ at a descriptor of a ring of one place, empty, full, and not valid; the ring stands at 256. -/
def enqueuing (d : Nat) (w : Work) (heldAt : Bool) : State := let s := mapped 0 (asking (.wenq 255 [7] none) 2 0 w)
  { s with mem := holds 0 32 d, reqs := s.reqs.map fun r => { r with use := some { line := 0, va := 0, mtype := 0, cls := 2, tid := 0, ms := true, tile := 0 }, held := heldAt } }
def ringOf (tail head : Nat) : Nat := tail + head * 2 ^ 64 + 2 ^ 192 + 2 ^ 255
theorem meets_rings : (let s := enqueuing (ringOf 0 0) (.wenqAtTarget 5) false
      wenqOk (s.num 0 32) true = true ∧ wenqLog (s.num 0 32) = 0 ∧ (s.req 5).map s.mayPerform = some true ∧ s.badIn 0 32 = none ∧ s.mem.wf = true
        ∧ (match s.checkFor 0 0 256 .write (.op 5) with | (.ok pa (some w), _) => pa == 256 && (s.mark w.line).1 == 0 && w.mtype == 0 | _ => false) = true)
    ∧ (let d := (enqueuing (ringOf 1 0) (.wenqAtTarget 5) false).num 0 32
       wenqOk d true = true ∧ 2 ^ wenqLog d ≤ (d % 2 ^ 64 + 2 ^ 64 - d / 2 ^ 64 % 2 ^ 64) % 2 ^ 64)
    ∧ wenqOk ((enqueuing 0 (.wenqAtTarget 5) false).num 0 32) true = false := by decide +kernel
theorem meets_ring_check : ((enqueuing (ringOf 0 0) (.wenqAtTarget 5) false).checkFor 0 0 256 .write (.op 5)).2 = enqueuing (ringOf 0 0) (.wenqAtTarget 5) false := rfl
theorem meets_held_ring : ((enqueuing (ringOf 0 0) (.wenqHeadWake 5) true).req 5).map (fun r => (r.held, decide (0 < r.came + 240000))) = some (true, true)
    ∧ (({ enqueuing (ringOf 1 0) (.wenqRingTimeout 5) true with cycle := 240000 } : State).req 5).map (fun r => (r.held, decide (r.came + 240000 ≤ 240000)))
      = some (true, true) := by decide +kernel

/-- A structure word: full, deferred with a reader, and empty. -/
def word (op : Op) (w : Work) (l : List (Nat × SWord)) : State := { asking op 2 0 w with words := l }
theorem meets_words : plainly (word (.lds true) (.structLdsAtAgent 5) [(0, .full 7)]) = true
    ∧ (word (.lds true) (.structLdsAtAgent 5) [(0, .full 7)]).words.find 0 = some (.full 7) ∧ (word (.lds true) (.structLdsAtAgent 5) []).words.find 0 = none
    ∧ (word (.lds true) (.structLdsAtAgent 5) [(0, .deferred [4])]).poolUsed 0 < 8192 ∧ (5 : Nat) ∉ [4]
    ∧ plainly (word (.sts 9) (.structStsAtAgent 5) [(0, .full 7)]) = true
    ∧ (let s := word (.sts 9) (.structStsAtAgent 5) [(0, .deferred [4])]
       let t : State := { s with reqs := s.reqs ++ [{ id := 4, op := .lds true }] }
       t.words.find 0 = some (.deferred [4]) ∧ (t.req 4).map (·.answer) = some none ∧ (t.req 5).map t.mayPerform = some true)
    ∧ plainly (word (.stclr 256) (.structStclrAtAgent 5) [(2040, .full 7)]) = true := by decide +kernel
/-- A reader whose activation a drain abandons, its block outstanding; and one without a drain. -/
theorem meets_cancel :
    (let s := { inTask loaded fun k => { k with load := 7 } with
        reqs := [{ id := 5, op := .lds true, task := some ⟨0, 0, 0⟩, load := 7 }], words := [(0, .deferred [5])], cur := { work := some (.readerCancel 5) } }
     let t : State := { s with loads := s.loads.map fun l => { l with phase := .draining } }
     s.draining 7 = false ∧ t.draining 7 = true ∧ (t.task ⟨0, 0, 0⟩).flights.map (·.serial) = [0] ∧ t.reqs.map (·.answer) = [none]) := by decide +kernel

/-! Links, packets, messages, reductions and the tracker. -/

/-- A request over a link, number 5, sent at cycle 0. -/
def linked (op : Op) (retries cycle : Nat) (w : Work) : State :=
  { lone 0 with
    reqs := [{ id := 5, op := op, task := some ⟨0, 0, 1⟩, link := some ⟨1, 2, 3⟩, retries := retries }], nextId := 6, cur := { work := some w }, cycle := cycle }
/-- What the premises of the link statements ask of the request. -/
def linkOk (s : State) (retransmitted entry : Bool) (after : Nat) : Bool := match s.req 5 with
  | some r => r.answer.isNone && r.link.isSome && r.retransmitted == retransmitted && r.needsEntry == entry && decide (after ≤ s.cycle - r.start)
      && !s.deferredAck 5 && decide (planeOf r.loc 0 ∉ s.ports.disabled) && s.combines.isEmpty
  | none => false
theorem meets_link_requests : linkOk (linked (.atomic 0 8 1 0 false false false) 0 0 (.linkRequestArrive 5 0)) true true 0 = true
    ∧ linkOk (linked (.atomic 0 8 1 0 false false false) 1 2160000 (.linkRequestArrive 5 0)) true true 2160000 = true
    ∧ linkOk (linked (.load 8 false) 0 120000 (.linkRetransmit 5)) true false 120000 = true
    ∧ linkOk (linked (.load 8 false) 3 960000 (.linkRetransmit 5)) true false 960000 = true
    ∧ linkOk (linked (.sts 1) 4 1200000 (.linkTimeout 5)) true true 1200000 = true ∧ linkOk (linked (.load 8 false) 4 1200000 (.linkTimeout 5)) true false 1200000 = true
    ∧ linkOk (linked (.store [(0, 1)]) 0 1200000 (.linkTimeout 5)) false false 1200000 = true
    ∧ ((linked (.store [(0, 1)]) 0 1200000 (.linkTimeout 5)).task ⟨0, 0, 1⟩).flights = []
    ∧ (((lone 0).modCtx 0 fun (c : Ctx) => { c with ten := true }).ctx 0).ten = true ∧ ((lone 0).ctx 0).traps.length < 64 := by decide +kernel
/-- An entry of the request's agent and link that is done, one too old, and ports with and without a spare lane. -/
theorem meets_entries :
    (let e : ReplyEntry := { agent := agentOf 0, link := ⟨1, 2, 3⟩, req := 5, born := 0, first := 0, done := some { r0 := 7 } }
     let s : State := { linked (.sts 1) 0 2400000 (.replyEntryAgeOut 0) with replies := [e] }
     (s.replies.find? fun e => e.agent == agentOf 0 && e.link == ⟨1, 2, 3⟩).bind (·.done) = some { r0 := 7 }
       ∧ (s.replies.find? fun e => e.agent == 0) = some e ∧ 2400000 ≤ s.cycle - e.born)
    ∧ (let s : State := { lone 0 with ports := { lanes := [4] } }
       4 ∈ s.ports.lanes ∧ 3 ∉ s.ports.lanes ∧ 4 ∉ s.ports.disabled ∧ (3, 4) ∉ s.ports.links ∧ s.ports.fails.get (3, 4) 0 = 0) := by decide +kernel
/-- A request that has not been sent over its link, of a task or of none; planes down; no entry, one still to be done, and 4,096 of them. -/
theorem meets_arrivals :
    (let s : State := { asking (.sts 1) 2 (2 ^ 43) (.linkRequestArrive 5 0) with packets := [] }
     (s.req 5).map (fun r => (r.link.isNone, s.mayPerform r, r.tileOf)) = some (true, true, some 0)
       ∧ (({ s with reqs := s.reqs.map fun r => { r with task := none } } : State).req 5).map (·.tileOf) = some none)
    ∧ (let s := linked (.sts 1) 0 0 (.linkRequestArrive 5 0)
       (s.req 5).map (fun r => (s.arrivesBefore r 0, s.refusesRetries r, decide (s.cycle - r.start < 2160000))) = some (false, false, true)
         ∧ s.replies = [] ∧ planeOf 0 0 ∈ ({ disabled := [planeOf 0 0] } : Ports).disabled)
    ∧ (let e : ReplyEntry := { agent := agentOf 0, link := ⟨1, 2, 3⟩, req := 5, born := 0, first := 0 }
       ([e].find? fun e => e.agent == agentOf 0 && e.link == ⟨1, 2, 3⟩) = some e ∧ e.done = none)
    ∧ 4096 ≤ ((List.replicate 4096 ({ agent := agentOf 0, link := ⟨1, 2, 4⟩, req := 6, born := 0, first := 0 } : ReplyEntry)).filter fun e => e.agent == agentOf 0).length := by
  decide +kernel
/-- A circuit flit at router 0 whose slot is claimed to the east, due and not yet due, and in a slot that no claim takes. -/
theorem meets_circuits :
    (let p : Packet := { id := 9, net := 0, load := 7, at_ := 0, dest := 2, payload := .ack ⟨0, 0, 0⟩ 1, fresh := false, slot := some 200, due := 5 }
     let s : State := { lone 0 with packets := [p], claims := [⟨0, 200, 2, 0⟩], cycle := 5 }
     s.circuitOuts p = [2] ∧ neighbour 0 2 = some 1 ∧ p.due ≤ s.cycle ∧ 4 < p.due ∧ s.packetFree p = true ∧ p.recs = []
       ∧ s.circuitOuts { p with slot := some 201 } = []) := by decide +kernel
/-- Room at the next router; a reply at its destination; a circuit that no disabled link cuts; links whose failed sends are counted. -/
theorem meets_ways :
    (let p : Packet := { id := 9, net := 1, load := 7, at_ := 0, dest := 1, route := [1], payload := .reply 5, fresh := false }
     let s : State := { asking (.load 8 false) 2 0 (.packetAccept 9) with packets := [p] }
     s.packetFree p = true ∧ s.routeOk 0 [1] = true ∧ s.inputRoom p 1 = true ∧ (s.req 5).isSome ∧ p.lost = none
       ∧ ({ s with packets := [{ p with at_ := 1, route := [] }] } : State).packetFree { p with at_ := 1, route := [] } = true)
    ∧ (let p : Packet := { id := 9, net := 0, load := 7, at_ := 0, dest := 2, payload := .ack ⟨0, 0, 0⟩ 1, fresh := false, slot := some 200, due := 5 }
       let s : State := { lone 0 with packets := [p], claims := [⟨0, 200, 2, 0⟩], cycle := 5 }
       s.cutEnds p = []) := by decide +kernel
/-- A packet on its way from router 0 to the next, and one at its destination. -/
def carried (p : Payload) (dest : Nat) (w : Work) (s : State) : State :=
  { s with packets := [{ id := 9, net := 0, load := 7, at_ := 0, dest := dest, route := if dest = 0 then [] else [1], payload := p }], nextId := 10, cur := { work := some w } }
theorem meets_packets : (let s := carried (.request 5) 0 (.packetAccept 9) (asking (.load 8 false) 2 0 (.packetAccept 9))
      s.packets.map s.packetFree = [true] ∧ (s.req 5).isSome ∧ s.packets.map (fun p => (p.slot, p.recs)) = [(none, [])])
    ∧ (carried (.ack ⟨0, 0, 0⟩ 1) 1 (.packetAccept 9) (lone 0)).packets.map (fun p => (p.at_, p.dest, p.route, (lone 0).routeOk p.at_ p.route))
      = [(0, 1, [1], true)]
    ∧ (carried (.request 5) 0 (.packetAccept 9) (lone 0)).packets.map (fun p => (p.at_, p.dest)) = [(0, 0)] ∧ (lone 0).reqs = [] := by decide +kernel
/-- A combine record of two requests and the one in their place. -/
theorem meets_combine :
    (let op : Op := .atomic 0 8 3 0 true false false
     let s : State := { lone 0 with reqs := [{ id := 1, op := op }, { id := 2, op := op }, { id := 3, op := op }], combines := [{ merged := 3, first := 1, second := 2, port := 0, v := 1 }] }
     (s.req 1).map (·.answer) = some none ∧ (s.req 2).map (·.answer) = some none ∧ (s.req 3).map (·.op) = some op) := by decide +kernel

def msg (n : Nat) : Msg := { ctx := 0, stamp := { c0 := n }, payload := [7], load := 7, vc := 3, until_ := 1 }
/-- A message for a task whose binding is in the store; for one that has exited; a note. -/
def receiving (p : Payload) (w : Work) : State := carried p 0 w ({ inTask loaded fun k => { k with phase := .idle, act := none, flights := [] } with
  elems := [(⟨0, 0⟩, { bound := [0] })] })
theorem meets_messages :
    (let s := receiving (.message (msg 1)) (.messageArrive 9)
     (s.load 7).map (fun l => (l.receiver (l.placeAt ⟨0, 0⟩ 3), l.chanAt (l.placeAt ⟨0, 0⟩ 3), l.phase, l.cfg.loopOf 0, l.taskRef 0))
         = some (some 0, some 0, .placed, none, ⟨0, 0, 0⟩)
       ∧ (s.task ⟨0, 0, 0⟩).phase = .idle ∧ (s.vc ⟨0, 0⟩ 3).held = [] ∧ (s.vc ⟨0, 0⟩ 3).queue = [] ∧ (s.vc ⟨0, 0⟩ 3).spilled = false ∧ 0 ∈ (s.elem ⟨0, 0⟩).bound
       ∧ (s.elem ⟨0, 0⟩).unmatched = [] ∧ s.inputs ⟨0, 0, 0⟩ = [3] ∧ (s.task ⟨0, 0, 0⟩).claims 3 (msg 1).stamp = 0)
    ∧ ((inTask (receiving (.message (msg 1)) (.messageArrive 9)) fun k => { k with phase := .exited }).task ⟨0, 0, 0⟩).phase = .exited
    ∧ ((receiving (.note ⟨7, ⟨0, 0, 0⟩, ⟨0, 0, 0, 3⟩, {}, 1⟩) (.notificationArrive 9)).task ⟨0, 0, 0⟩).phase ≠ .exited := by decide +kernel
/-- A message held past its time at a full queue, with an overflow ring. -/
theorem meets_spill :
    (let s : State := { lone 0 with
        loads := loaded.loads, cycle := 1, cur := { work := some (.spillTimeout ⟨0, 0⟩ 3) }
        elems := [(⟨0, 0⟩, { vcs := [(3, { queue := (List.range 16).map msg, held := [msg 16], ringBase := some (2 ^ 20), ringHead := 63 })] })] }
     (s.vc ⟨0, 0⟩ 3).held = [msg 16] ∧ (s.vc ⟨0, 0⟩ 3).queue.length = 16 ∧ (msg 16).until_ ≤ s.cycle ∧ (s.load (msg 16).load).isSome
       ∧ (s.vc ⟨0, 0⟩ 3).ringBase = some (2 ^ 20) ∧ s.badIn (2 ^ 20 + 320 * ((s.vc ⟨0, 0⟩ 3).ringHead % 64)) 320 = none) := by decide +kernel
/-- A loop of bound 1 with a waiting message and nothing in flight. -/
theorem meets_loop :
    (let s : State := { lone 0 with
        cur := { work := some (.loopAdmit 7 0) }
        loads := loaded.loads.map fun l => { l with loops := [{ loop := 0, waiting := [msg 1] }], cfg := { l.cfg with loops := [⟨1, 0, 1, 2, []⟩] } } }
     (∀ x ∈ [msg 1, msg 1], x.stamp = (msg 1).stamp) ∧ (s.load 7).map (·.loops) = some [{ loop := 0, waiting := [msg 1] }] ∧ (s.load 7).map (fun l => l.cfg.loops.map (·.k)) = some [1]) := by decide +kernel

/-- A pair group of two contributors, whose one node is the root, and of four. -/
def grouped (n : Nat) (nodes : List RedNode) : State := { lone 0 with
  loads := loaded.loads.map fun l => { l with nodes := nodes, cfg := { l.cfg with groups := [⟨.iadd, false, 4, List.range n⟩] } } }
theorem meets_groups : (⟨.iadd, false, 4, [0, 1]⟩ : GroupCfg).up 64 = none ∧ ((⟨.iadd, false, 4, [0, 1, 2, 3]⟩ : GroupCfg).up 64).isSome
    ∧ (let s := carried (.contribution 0 64 false {} [1] 1 false) 0 (.reductionNodeArrive 9) (grouped 2 [])
       (s.load 7).map (fun l => (l.cfg.groups.length, l.nodes)) = some (1, [])
         ∧ s.packets.map (fun p => (p.id, p.load, p.payload)) = [(9, 7, .contribution 0 64 false {} [1] 1 false)])
    ∧ (let x : RedNode := { group := 0, node := 64, stamp := {}, a := some ([1], 1, false), until_ := 5 }
       let s : State := { carried (.contribution 0 64 true {} [2] 2 false) 0 (.reductionNodeArrive 9) (grouped 2 [x]) with cycle := 5 }
       (s.load 7).map (·.nodes) = some [x] ∧ x.sent = false ∧ x.b = none ∧ x.until_ ≠ 0 ∧ x.until_ ≤ s.cycle ∧ ({ s with cycle := 4 } : State).cycle < x.until_) := by
  decide +kernel

def key0 : Key := ⟨false, ⟨0, 0, 0, 3⟩, {}⟩
/-- A packet that raises one count, for a load with an entry of that key; one that would raise it too far; a held one. -/
def tracked (d : Int) (held : List Batch) (w : Work) : State := carried (.batch { load := 7, deltas := [(key0, d)] }) 0 w
  { lone 0 with loads := loaded.loads.map fun l => { l with entries := [{ key := key0, count := 1 }], held := held } }
theorem meets_batches : (let s := tracked 1 [] (.batchApply 9)
     (s.load 7).map (fun l => (l.entries.map (·.key), s.packetFault l { load := 7, deltas := [(key0, 1)] })) = some ([key0], none)
       ∧ (s.load 7).map (fun l => s.packetFault l { load := 7, deltas := [(key0, 2 ^ 23)] }) = some (some 1)) := by decide +kernel
theorem meets_resume_batch : (let b : Batch := { load := 7, deltas := [(key0, 1)] }
     let s := tracked 1 [b] (.frontierResume 0)
     ((s.heldOn 0).find? fun x => (s.packetFault x.1 x.2.2).isNone).map (fun x => (x.1.id, x.2)) = some (7, 0, b)
       ∧ s.entriesUsed 0 + 256 ≤ 8192) := by decide +kernel
/-- Acknowledgements: of a running activation, and the last of an ended one. -/
theorem meets_acks : (loaded.loadOf ⟨0, 0, 0⟩).isSome ∧ (loaded.task ⟨0, 0, 0⟩).ended = []
    ∧ (let b : Batch := { load := 7, deltas := [(key0, 1)] }
       let s := inTask loaded fun k => { k with act := none, ended := [{ stamp := {}, unacked := [4], held := [b] }] }
       (s.task ⟨0, 0, 0⟩).ended.map (fun a => (a.unacked, a.held)) = [([4], [b])] ∧ s.packets = []) := by decide +kernel

/-! Engine commands. -/

/-- The first n elements of a record, of e bytes, lie in an engine's local storage. -/
def inLocal (r : Row) (e n : Nat) : Bool :=
  (shSpace r == .ds || shSpace r == .bs || shSpace r == .ts)
    && (List.range n).all fun j => decide (shAddr r j + e ≤ if shSpace r = .ds then 0x03000000 else spaceSize (shSpace r))
theorem inLocal_iff (r : Row) (e n : Nat) (h : inLocal r e n = true) : InLocal r e 0 n := by
  simp only [inLocal, Bool.and_eq_true, Bool.or_eq_true, beq_iff_eq, List.all_eq_true, List.mem_range, decide_eq_true_eq] at h
  exact ⟨by rcases h.1 with (h | h) | h <;> simp [h], fun j _ hj => h.2 j hj⟩
/-- A tile whose copy context 0 holds a copy of four words between two places of an element's storage, waiting or running. -/
def copying (state : CmdState) (w : Work) : State := { (lone 0).modTile 0 fun (t : Tile) => { t with
  copies := [{ cmds := [{ id := 3, op := .copy 0 (rec 2 2 4 64) (rec 2 2 4 0) 0 .w32 0 none none, state := state }] }, {}, {}, {}] } with
    cur := { work := some w } }
theorem meets_copy_start : (let s := copying .waiting (.copyStart 0 0)
      ((s.tile 0).queue 0).map (fun c => (c.id, c.state, s.mayStart c none)) = [(3, .waiting, true)] ∧ shAligned (rec 2 2 4 64) = true
        ∧ shAligned (rec 2 2 4 0) = true ∧ shSpace (rec 2 2 4 64) ≠ .ts) := by decide +kernel
/-- A copy whose checks pass; one out of its storage, one not aligned, and a multicast to no tile. -/
theorem meets_copy_faults : copyFault 0 0 (rec 2 2 4 64) (rec 2 2 4 0) 0 0 = none ∧ (copyFault 0 0 (rec 2 2 4 (2 ^ 40)) (rec 2 2 4 0) 0 0).isSome = true
    ∧ shAligned (rec 2 2 4 2) = false ∧ copyFault 0 0 (rec 2 2 4 2) (rec 2 2 4 0) (rec 2 2 4 2) 1 = some { code := .align, addr := 2, acc := .write } ∧ shSpace (rec 3 2 4 0) = .ts ∧ (copyFault 0 0 (rec 3 2 4 0) (rec 2 2 4 0) 0 0).isSome = true := by decide +kernel
theorem meets_copy_step : (let s := copying .running (.copyStep 0 0)
      ((s.tile 0).queue 0).map (fun c => (c.state, c.suspend, c.prog)) = [(.running, false, 0)] ∧ (s.tile 0).copyTurn = some 0 ∧ (s.tile 0).matrix = [] ∧ s.bad = []
        ∧ shEsz (rec 2 2 4 64) = 4 ∧ shEsz (rec 2 2 4 0) = 4
        ∧ stepLen (shAddr (rec 2 2 4 64)) (shAddr (rec 2 2 4 64) 0 / 2048) 4 0 = 4 ∧ shCount (rec 2 2 4 64) = 4) := by decide +kernel
theorem meets_copy_places : InLocal (rec 2 2 4 64) 4 0 4 ∧ InLocal (rec 2 2 4 0) 4 0 4
    ∧ (∀ i j, 0 ≤ i → i < j → j < 0 + 4 → shAddr (rec 2 2 4 64) i + 4 ≤ shAddr (rec 2 2 4 64) j) := by
  refine ⟨inLocal_iff _ _ _ (by decide +kernel), inLocal_iff _ _ _ (by decide +kernel), fun i j _ h k => ?_⟩
  have : ∀ i ∈ List.range 4, ∀ j ∈ List.range 4, i < j → shAddr (rec 2 2 4 64) i + 4 ≤ shAddr (rec 2 2 4 64) j := by decide +kernel
  exact this i (by simp; omega) j (by simp; omega) h

/-- A tile whose matrix queue holds one command. -/
def commanding (op : EngOp) (state : CmdState) (w : Work) : State :=
  { (lone 0).modTile 0 fun (t : Tile) => { t with matrix := [{ id := 3, op := op, state := state, tok := if state = .running then some ⟨4, 9, []⟩ else none }]
                                                  scale := [⟨4, 9, []⟩], accs := List.replicate 4 { fp := false }
                                                  macros := List.replicate 8 { valid := true } } with cur := { work := some w } }
def square : Row := rec2 3 0 128 1 128 128 0
def rows4 : Row := rec2 3 0 128 1 4 128 0
/-- Whether the command may be performed. -/
def may (s : State) : Bool := match s.matrixCmd 0 3 with | some c => s.matrixMay 0 c 0 && c.state != .failed && s.bad.isEmpty | none => false
theorem meets_commands : may (commanding (.mldb 7 .i8 square 0) .waiting (.macroLoad 0 3)) = true
    ∧ may (commanding (.mldb 7 .e4m3 square rows4) .waiting (.macroLoad 0 3)) = true ∧ may (commanding (.mscl (rec 3 0 16 0) 3 9) .waiting (.scaleTokenAccept 0 3)) = true
    ∧ may (commanding (.mma 0 0 .i8 rows4 false 124 9) .waiting (.mmaStart 0 3)) = true ∧ may (commanding (.mma 0 0 .i8 rows4 false 124 9) .running (.mmaStart 0 3)) = true
    ∧ may (commanding (.macclr 3 0) .waiting (.macclrPerform 0 3)) = true ∧ may (commanding (.macst 3 127 (rec2 3 2 128 4 1 512 0)) .waiting (.macstPerform 0 3)) = true
    ∧ ((commanding (.mscl (rec 3 0 16 0) 3 9) .waiting (.scaleTokenAccept 0 3)).tile 3).scale.length < 16 := by decide +kernel
theorem meets_mma : (let s := commanding (.mma 0 0 .i8 rows4 false 124 9) .waiting (.mmaStart 0 3)
      takeToken (s.tile 0).scale 9 = some (⟨4, 9, []⟩, []) ∧ ((s.tile 0).macros[0]?).map (·.valid) = some true ∧ (s.accum 0 0).fp = false ∧ ((s.tile 0).accs[0]?).isSome
        ∧ mmaCause { valid := true } false .i8 (shExtRaw rows4 1) ⟨4, 9, []⟩ = none) := by decide +kernel
/-- An MMA with no row read, with its one row and every element at three K-blocks, and with a row of two. -/
def midway (rows : List (List Nat)) (counts : List Nat) (r : Row) : State :=
  (commanding (.mma 0 0 .i8 r false 124 9) .running (.mmaStart 0 3)).modTile 0 fun (t : Tile) =>
    { t with matrix := t.matrix.map fun c => { c with rows := rows, counts := counts } }
theorem meets_last_blocks : (∀ n ∈ List.range 128, 3 ≤ (List.replicate 128 3).getD n 0) ∧ List.replicate 128 3 ≠ [] ∧ ((midway [List.replicate 128 1] (List.replicate 128 3) rows4).matrixCmd 0 3).map
    (fun c => (c.prog, c.rows.length)) = some (0, 1) := by decide +kernel
theorem meets_rows : may (midway [] [] rows4) = true ∧ may (midway [List.replicate 128 1] (List.replicate 128 3) rows4) = true
    ∧ (∃ n, n < 128 ∧ (List.replicate 128 3).getD n 4 < 4) ∧ (∀ n, n < 128 → 4 ≤ (List.replicate 128 3).getD n 4 + 1)
    ∧ (∃ n, n < 128 ∧ (List.replicate 128 0).getD n 4 + 1 < 4) ∧ shExtRaw (rec2 3 0 128 1 1 128 0) 1 ≤ 0 + 1 ∧ 0 + 1 < shExtRaw rows4 1
    ∧ (midway [] [] rows4).bad = [] ∧ (midway [] [] rows4).reqs = [] ∧ ((midway [] [] rows4).matrixCmd 0 3).map (·.sent) = some false := by
  have e : ∀ n ∈ List.range 128, 4 ≤ (List.replicate 128 3).getD n 4 + 1 := by decide +kernel
  exact ⟨by decide +kernel, by decide +kernel, ⟨0, by decide⟩, fun n h => e n (List.mem_range.2 h), ⟨0, by decide⟩, by decide +kernel, by decide +kernel, rfl, rfl,
    by decide +kernel⟩
/-- The bytes of a macro lie in the element's storage, as do its scales, a row of an accumulator and a scale token's bytes. -/
theorem meets_places : InLocal square 1 0 16384 ∧ InLocal rows4 1 0 512 ∧ InLocal rows4 1 0 ((0 + 1) * 128) ∧ InLocal (rec 3 0 16 0) 1 0 16
    ∧ InLocal (rec2 3 2 128 4 1 512 0) 4 (0 * 128) (0 * 128 + 128) := by
  have e : (shExt square 0 = 128 ∧ shExt square 1 = 128 ∧ shExt square 2 = 1 ∧ shBase square = 0) ∧
      shStr square 0 = 1 ∧ shStr square 1 = 128 ∧ shStr square 2 = 0 ∧ shStr square 3 = 0 := by
    decide +kernel
  obtain ⟨⟨a, b, c, d⟩, f, g, i, k⟩ := e
  have sp : shSpace square = .bs ∨ shSpace square = .ts ∨ shSpace square = .ds := by decide +kernel
  have big : 16384 ≤ spaceSize (shSpace square) ∧ 16384 ≤ 0x03000000 := by decide +kernel
  refine ⟨⟨by rcases sp with h | h | h <;> simp [h], fun j _ h => ?_⟩, inLocal_iff _ _ _ (by decide +kernel), inLocal_iff _ _ _ (by decide +kernel),
    inLocal_iff _ _ _ (by decide +kernel), inLocal_iff _ _ _ (by decide +kernel)⟩
  have : shAddr square j < 16384 := by simp only [shAddr, a, b, c, d, f, g, i, k]; omega
  split <;> omega
theorem meets_row_order : ∀ n ∈ List.range 128, shAddr (rec2 3 2 128 4 1 512 0) (0 * 128 + n) = shAddr (rec2 3 2 128 4 1 512 0) (0 * 128) + 4 * n := by decide +kernel
/-- A follow-on in the matrix queue. -/
theorem meets_follow_on : (((commanding (.mma 0 0 .i8 rows4 false 124 9) .waiting (.followOnStart 0 3)).tile 0).matrix.find? fun m => m.id == 3).isSome := by
  decide +kernel
/-- An envelope of one segment, and an empty one; a place in storage for two units; its image in memory. -/
def env1 : Env := { segs := [⟨0, 0, 0, 0x7F800000⟩] }
theorem meets_envelopes : env1.lost = false ∧ env1.segs.length + 1 ≤ shCount (rec 3 4 2 0) ∧ unit0Ok (env1.image.headD 0) = true
    ∧ segsOk (f32 env1.xlo) (f32 env1.xhi) (f32 env1.xlo) none env1.segs = true ∧ unit0Ok (({} : Env).image.headD 0) = true ∧ ({} : Env).segs = []
    ∧ inLocal (rec 3 4 2 0) 16 2 = true ∧ (∀ j ∈ List.range 2, shAddr (rec 3 4 2 0) j = shAddr (rec 3 4 2 0) 0 + 16 * j)
    ∧ (let c : Cmd := { id := 3, op := .cnst 0 (rec 3 4 2 0) }
       let s := (lone 0).modTile 0 fun (t : Tile) => { t with envs := [env1], canopy := [c] }
       (s.tile 0).canopy = [c] ∧ s.canopyMay c = true ∧ (s.tile 0).envs[0]? = some env1 ∧ s.bad = []) := by decide +kernel
/-- A store that runs, with the image it has read. -/
theorem meets_running_store : (let c : Cmd := { id := 3, op := .cnst 0 (rec 3 4 2 0), state := .running, rows := [env1.image] }
    let s := (lone 0).modTile 0 fun (t : Tile) => { t with canopy := [c] }
    (s.tile 0).canopy = [c] ∧ s.canopyMay c = true ∧ c.sent = false) := by decide +kernel
theorem meets_envelope_image :
    (let image := env1.image.flatMap fun u => bytesOfNat 16 u
     let s : State := { lone 0 with mem := ((image.zipIdx.map fun b => (keyAt 0 (rec 3 4 2 0) 0 + b.2, b.1)).filter fun c => c.2 ≠ 0) }
     ∀ i ∈ List.range (16 * (env1.segs.length + 1)), s.byte (keyAt 0 (rec 3 4 2 0) 0 + i) = image.getD i 0) := by decide +kernel

/-! Launches and loads. -/

/-- A live context whose launch queue 3, of one place at 2^20, has one packet of a kind; its image, at virtual address 0, has one load and three
sections of no bytes, and stands at 3 MiB. -/
def oneLoad : LoadCfg := { beds := 1, clear := false, dsBase := 0, dsLen := 0, tasks := [{ op := 0, bed := 0, tile := 0, elem := 0, slot := 0, waved := false, code := [5], inputs := [], ports := [], sums := [] }] }
def image : Image := { loads := [oneLoad], shapes := [], rows := [(0, 0, .always)] }
/-- R193: a header of three sections and one load. -/
def header : Nat := 0x58464C46 * 2 ^ 480 + 2 ^ 464 + 3 * 2 ^ 456 + 2 ^ 368
def queued (kind : Nat) (w : Work) : State :=
  let s : State := mapped 0 ((lone 0).modCtx 0 fun (c : Ctx) =>
    { c with live := true, ovn := 8192, lqs := c.lqs.set 3 { valid := true, lqbase := 2 ^ 20, cqbase := 2 ^ 21, bell := 1 } })
  { s with tc := [⟨0, 0, 0, { leaf 0 with pa := 3 * 2 ^ 20 }⟩]
           mem := (7, 0x80) :: (2 ^ 20 + 63, BitVec.ofNat 8 kind) :: holds (3 * 2 ^ 20) 160 (header + 2 ^ 512 * (2 ^ 248 + 2 ^ 256 * 2 ^ 249 + 2 ^ 512 * (3 * 2 ^ 248)))
           images := [((0, 0), image)], cur := { work := some w }, mgmt := { s.mgmt with imgpol := 1 } }
theorem meets_packet_kinds : (queued 1 (.launchTake 0 3)).mayTake 0 3 false = true ∧ (queued 2 (.determinismChange 0 3)).mayTake 0 3 true = true
    ∧ packetOk ((queued 1 (.launchTake 0 3)).packetAt 0 3 0) = true ∧ packetOk ((queued 2 (.launchTake 0 3)).packetAt 0 3 0) = true
    ∧ (queued 3 (.launchTake 0 3)).mayTake 0 3 false = true ∧ packetOk ((queued 3 (.launchTake 0 3)).packetAt 0 3 0) = false
    ∧ descOk ((queued 1 (.launchTake 0 3)).descriptor 0) = true ∧ image.loads[field header 367 352]? = some oneLoad ∧ field header 367 352 < 1 ∧ (queued 1 (.launchTake 0 3)).mem.wf = true := by
  decide +kernel
theorem meets_image : (let u := ((queued 1 (.launchTake 0 3)).advanceHead 0 3).readDesc 0
    (match (u.imageFault 0 0 0).1 with | .ok h => h == header | .error _ => false) = true ∧ (u.images.find (0, 0)).isSome) := by decide +kernel
theorem meets_image_state : ((((queued 1 (.launchTake 0 3)).advanceHead 0 3).readDesc 0).imageFault 0 0 0).2
    = ((queued 1 (.launchTake 0 3)).advanceHead 0 3).readDesc 0 := by decide +kernel
/-- The load has no trap operator; and one that has it while the context's TEN is 0. -/
theorem meets_trap_places : (queued 1 (.launchTake 0 3)).hostBias = [] ∧ (∀ z ∈ image.loads, z.trapOk ((queued 1 (.launchTake 0 3)).ctx 0) = true)
    ∧ ({ oneLoad with ops := [⟨0, 0, [0], false⟩], chans := [{ src := .trap, place := ⟨0, 0, 0, 3⟩, task := 0, size := 160, summary := {}, depth := 0 }] } : LoadCfg).trapOk
        ((queued 1 (.launchTake 0 3)).ctx 0) = false := by decide +kernel
/-- An image without its sections. -/
def refused : State := { queued 1 (.launchTake 0 3) with mem := [(7, 0x80), (2 ^ 20 + 63, 1)] }
theorem meets_refusal : (match (((refused.advanceHead 0 3).readDesc 0).imageFault 0 0 0).1 with | .ok _ => false | .error x => x == (1, 0)) = true
    ∧ (((refused.advanceHead 0 3).readDesc 0).imageFault 0 0 0).2 = (refused.advanceHead 0 3).readDesc 0 := by decide +kernel
theorem meets_doorbell : (let s : State := { queued 1 (.launchDoorbell 0 3 1) with mem := [(256 + 32 * 3 + 31, 0x80)] }
    field (descLq (s.descriptor 0) 3) 255 255 = 1 ∧ (s.ctx 0).live = true) := by decide +kernel

/-- A load, number 7, of launch 1, in a phase, on bed 0 unless it waits. -/
def loading (p : LoadPhase) (rows : List (Nat × Nat × SeqWhen)) (w : Work) : State :=
  let s := queued 1 w
  { s with
    tasks := [], images := [((0, 0), { image with rows := rows })]
    launches := [{ id := 1, ctx := 0, queue := 3, tag := 0, epoch := 0, args := [], image := 0, level := 0 }]
    loads := [{ id := 7, launch := 1, ctx := 0, number := 0, cfg := oneLoad, phase := p, beds := if p == .waiting || p == .saved then [] else [0]
                saved := if p == .saved then some {} else none }] }
/-- The answer of a test of the load. -/
def ofLoad (s : State) (g : Load → Bool) : Bool := match s.load 7 with | some l => g l | none => false
theorem meets_place : (let s := loading .waiting [] (.loadPlace 7)
    ofLoad s (fun l => s.mayPlace l && !s.neverFits l && (s.bedsFor l).isSome && (s.launch l.launch).isSome && l.cfg.chans.isEmpty) = true) := by decide +kernel
/-- The configuration of a bed without pages enters its cache; a page that no address has cannot. -/
theorem meets_fills : (let s := loading .waiting [] (.loadPlace 7)
    (s.fillBeds 0 ([0].zip (oneLoad.pages ++ [[]]))).1 = none ∧ (s.fillBeds 0 ([0].zip ([[2 ^ 56]] ++ [[]]))).1 = some .addrRange ∧ s.bad = []) := by
  decide +kernel
theorem meets_fill_states : (let s := loading .waiting [] (.loadPlace 7)
    { (s.fillBeds 0 ([0].zip (oneLoad.pages ++ [[]]))).2 with cfgCache := s.cfgCache } = s
      ∧ { (s.fillBeds 0 ([0].zip ([[2 ^ 56]] ++ [[]]))).2 with cfgCache := s.cfgCache } = s) := ⟨rfl, rfl⟩
theorem meets_never : (let s := loading .waiting [] (.loadPlace 7)
    let t : State := { s with loads := s.loads.map fun l => { l with cfg := { l.cfg with beds := 1000 } } }
    ofLoad t (fun l => t.mayPlace l && t.neverFits l && (t.launch l.launch).isSome) = true) := by decide +kernel
theorem meets_drained : (let s := loading .placed [] (.loadDrain 7)
    ofLoad s (fun l => s.mayDrain l && (s.launch l.launch).isSome) = true ∧ (s.images.find (0, 0)).map (·.rows) = some [])
    ∧ (let s := loading .placed [(0, 0, .always)] (.loadDrain 7)
    ofLoad s (fun l => s.mayDrain l) = true ∧ (s.images.find (0, 0)).map (fun i => (i.rows, i.loads.length)) = some ([(0, 0, .always)], 1)) := by decide +kernel
theorem meets_preemption : (let s := loading .placed [] (.preemptStart 7)
    let t : State := { s with beds := { s.beds with out := [0] } }
    ofLoad t t.mayPreempt = true)
    ∧ (let s := loading .draining [] (.preemptSave 7)
    ofLoad s s.mayPreemptSave = true)
    ∧ (let s := loading .saved [] (.loadResume 7)
    ofLoad s (fun l => s.mayResume l && !s.neverFits l && (s.bedsFor l).isSome && l.saved.isSome) = true) := by decide +kernel
/-- A record for the trap channel of a placed load. -/
theorem meets_trap_delivery : (let s : State := { loaded.modCtx 0 fun (c : Ctx) => { c with traps := [{ code := .perm }] } with cur := { work := some (.trapRecordDeliver 0) } }
    s.mayDeliver 0 = true ∧ (s.trapChannel 0).map (fun x => (x.1.id, x.2.place)) = some (7, ⟨0, 0, 0, 3⟩) ∧ (s.ctx 0).traps.length = 1
      ∧ ofLoad s (fun l => l.placeAt ⟨0, 0⟩ 3 == ⟨0, 0, 0, 3⟩ && l.receiver ⟨0, 0, 0, 3⟩ == some 0 && l.chanAt ⟨0, 0, 0, 3⟩ == some 0
          && l.cfg.loopOf 0 == none && (s.task (l.taskRef 0)).phase != .exited) = true) := by decide +kernel
/-- A bed that works, on a die whose spare is free or used; a pull queue with one packet. -/
theorem meets_beds : (lone 0).tileEnabled (0 * 64 + 3 * 4) = true ∧ (lone 0).beds.used = []
    ∧ (let s : State := { lone 0 with beds := { used := [(0, 5)] } }
       s.tileEnabled (0 * 64 + 3 * 4) = true ∧ (∃ u ∈ s.beds.used, u.1 = 0)) := by decide +kernel
theorem meets_pull : (let s : State := { queued 1 (.pullQueuePull 0 7) with mem := [(2 ^ 22, 1)] }
    let t := s.modCtx 0 fun (c : Ctx) => { c with pqs := c.pqs.set 7 { valid := true, lq := 3, src := 2 ^ 23, taddr := 2 ^ 22 } }
    (t.ctx 0).live = true ∧ t.mgmt.resetting = false ∧ (t.pq 0 7).valid = true ∧ (t.lq 0 3).valid = true ∧ t.num (t.pq 0 7).taddr 8 = (t.pq 0 7).head + 1
      ∧ t.pullFault (2 ^ 23) = false ∧ t.marks = [] ∧ t.mem.wf = true ∧ t.descBase 0 + 768 + 32 * 7 + 8 + 8 ≤ 2 ^ 20) := by decide +kernel

/-! The host, the context, resets and upkeep. -/

/-- A killed launch that has run out, and nothing else running. -/
theorem meets_kill : (lone 0).mgmt.kill.getLsbD 63 = false
    ∧ (let s := loading .placed [] .killComplete
       let t : State := { s with launches := s.launches.map fun x => { x with killed := true }, mgmt := { s.mgmt with killing := [1] } }
       t.launches.map t.killReady = [true] ∧ t.loads.filter t.killMore = [] ∧ 3 < (t.ctx 0).lqs.length) := by decide +kernel
/-- DBGACT on the parked task; a context to create, valid and not; one to destroy, with a launch and without. -/
theorem meets_contexts : parked.parkedAt (field parked.mgmt.dbgres.toNat 22 17) parked.mgmt.dbgres.toNat = some ⟨0, 0, 0⟩
    ∧ ((lone 0).ctx 0).live = false ∧ ((lone 0).ctx 0).busy = false ∧ (lone 0).power.booted = true ∧ descOk ((lone 0).descriptor 0) = true
    ∧ field (1 : Word).toNat 62 3 = 0 ∧ field (1 : Word).toNat 1 0 = 1 ∧ field (2 : Word).toNat 1 0 = 2
    ∧ (let s : State := { lone 0 with mem := [(0, 1)] }
       descOk (s.descriptor 0) = false ∧ (s.ctx 0).live = false)
    ∧ (queued 1 (.contextDestroy 0 2)).launches = [] ∧ ((queued 1 (.contextDestroy 0 2)).ctx 0).live = true
    ∧ (loading .placed [] (.contextDestroy 0 2)).launches.map (·.ctx) = [0] ∧ ((loading .placed [] (.contextDestroy 0 2)).ctx 0).busy = false := by decide +kernel
theorem meets_host : State.reset.marks = [] ∧ State.reset.ctxs = [] ∧ State.reset.tc = [] ∧ State.reset.words = [] ∧ State.reset.badIn 0 64 = none
    ∧ isGl (0x060000000000 / 64 * 64) = true ∧ paIsHost (0x060000000000 / 64 * 64) = true ∧ field (0x1FF0000 : Word).toNat 8 0 = State.reset.package
    ∧ 0x018000000000 - 64 + 64 ≤ 0x018000000000 := by decide +kernel
/-- An object of two words in the write mailbox, an SPDM request; an answer of two words in the read mailbox. -/
theorem meets_mailboxes : (let s : State := { State.reset with sec := { sent := bytesOfNat 8 (1 + 1 * 2 ^ 16 + 2 * 2 ^ 32), answers := [bytesOfNat 8 7] } }
    8 ≤ s.sec.sent.length ∧ 4 * (natOfBytes ((s.sec.sent.drop 4).take 4) % 2 ^ 18) = s.sec.sent.length
      ∧ objectWork s.sec.sent = some (.spdmRequest s.sec.sent) ∧ (2 ^ 31 : Word).getLsbD 31 = true ∧ (2 ^ 31 : Word).getLsbD 0 = false
      ∧ (s.sec.answers.headD []).length = 8 ∧ State.reset.hostBias = [] ∧ State.reset.bad.length < 4095) := by decide +kernel
theorem meets_resets : State.reset.mem.wf = true ∧ State.reset.launches = [] ∧ State.reset.shadows = [] ∧ State.reset.marks = [] ∧ State.reset.hostLines = [] := by
  decide
/-- A structure page, by a word of it; no context's status among the bytes read; a bank with and without a spare row; a failing word of another
array, and a context number. -/
theorem meets_host_pages : ({ State.reset with words := [(8, .full 7)] } : State).structureAt (lineOf 0) = true
    ∧ State.reset.structureAt (lineOf 0) = false ∧ State.reset.freshStatus 0 64 = State.reset ∧ State.reset.filling 0 = false
    ∧ 8 ≤ (((List.range 8).map fun i => (0, i)).filter fun x => x.1 == 0 && bankOf x.2 == bankOf 5).length
    ∧ ((State.reset.spares.rows).filter fun x => x.1 == 0 && bankOf x.2 == bankOf 5).length < 8 ∧ isGl (localKey .ls 0 0 8) = false
    ∧ localKey .ls 0 0 8 < 2 ^ 64 ∧ (63 : Nat) < 64 := by decide +kernel
theorem meets_upkeep : 0 < ((List.range 12).map fun d => [1].getD d 0).sum ∧ 11 ∉ State.reset.power.hot ∧ isGl 0 = true ∧ paIsHbm 0 = true
    ∧ (cached.frameOf 0).isSome ∧ (0, 0, 0, 15) ∉ State.reset.spares.dead ∧ State.reset.spares.frames.get (0, 0) 0 < 32
    ∧ 32 ≤ ({ frames := [((0, 0), 32)] } : Spares).frames.get (0, 0) 0 ∧ (0, 191) ∉ State.reset.spares.failed ∧ (0, 191) ∉ State.reset.spares.copying
    ∧ State.reset.sparesUsed 0 < 4 ∧ 4 ≤ ({ State.reset with spares := { spared := [(0, 0), (0, 1), (0, 2), (0, 3)] } } : State).sparesUsed 0
    ∧ (0, 191) ∈ ({ copying := [(0, 191)] } : Spares).copying := by decide +kernel

/-! The machine as a whole. -/

/-- A well-formed instruction with its word, and an event's row without one. -/
theorem meets_encoding : (Instr.exit bare).wf = true ∧ encode (.exit bare) = some 0x3400000000000000 ∧ encode .coldReset = none := by decide
/-- The storages' form, the ring's length and new numbers, where every step must keep them. -/
theorem meets_invariants : MemoryOk State.reset ∧ State.reset.ring.length ≤ 4096 ∧ IdsFresh State.reset := by
  refine ⟨⟨by decide, by decide, by decide⟩, by decide, fun q h => ?_⟩
  simp [State.reset] at h
/-- The word of a lone block is the one choice, with a word that decodes; a piece of pending work is one. -/
theorem meets_choice : (lone 0x3400000000000000).choices = [{}] ∧ (lone 0x3400000000000000).wordAt {} = some 0x3400000000000000
    ∧ (match decodeWord 0x3400000000000000 with | .ok i => i == .exit bare | .error _ => false) = true
    ∧ (({ State.reset with agenda := [.coldReset] } : State).choices.map (·.work)) = [some .coldReset] ∧ State.reset.choices = [] := by decide +kernel
theorem meets_asleep : Asleep { State.reset with power := { stopped := true } } := by
  exact ⟨by decide, by decide⟩
/-- A step from reset runs the word that is placed where it fetches. -/
theorem test_step_runs : (match step (State.reset.withFetchWord 64 0x1100040800000005) with
    | .next t => t.here.map (·.fired) | _ => none) = some [0] := by decide +kernel

/-! Values that the manual works out. -/

/-- R252, R253: 7 / 0 and 7 rem 0, −8 / −1 at width 8, and −7 / 2 with its remainder. -/
theorem test_division : (let at_ (i : Instr) (a b : Word) := gave i (feed (lone 0) a b 0) (6, 0)
    at_ (.div (dst 6 .a) .w64 .slot) 7 0 = some 0 ∧ at_ (.rem (dst 6 .a) .w64 .slot) 7 0 = some 7
      ∧ at_ (.div (dst 6 .a) .w8 .slot) 0x80 0xFF = some 0xFFFFFFFFFFFFFF80 ∧ at_ (.rem (dst 6 .a) .w8 .slot) 0x80 0xFF = some 0
      ∧ at_ (.div (dst 6 .a) .w64 .slot) (-7) 2 = some (-3) ∧ at_ (.rem (dst 6 .a) .w64 .slot) (-7) 2 = some (-1)) := by decide +kernel
/-- R253: shifts by an immediate of −1. -/
theorem test_shifts : (let at_ (i : Instr) := gave i (feed (lone 0) 0x81 0 0) (6, 0)
    at_ (.shl (dst 6 .a) .w8 (.imm (-1))) = some 0 ∧ at_ (.shr (dst 6 .a) .w8 (.imm (-1))) = some 0 ∧ at_ (.sar (dst 6 .a) .w8 (.imm (-1))) = some (-1)
      ∧ at_ (.rot (dst 6 .a) .w8 (.imm (-1))) = some 0xFFFFFFFFFFFFFFC0) := by decide +kernel
/-- R174: byte 0x9B is −80 of 64; R290: Ds8(0.8) is 0x23. -/
theorem test_weights : ds8Int 0x9B = -80 ∧ ds8Of (.rat false 8 10) = 0x23 := by decide +kernel
/-- R290: 1,000, −1.5, 0.005 and 300 as one block of e4m3. -/
theorem test_quantised : scalePass fp32 false .e4m3 [0x447A0000, 0xBFC00000, 0x3BA3D70A, 0x43960000] = 0x80
    ∧ [0x447A0000, 0xBFC00000, 0x3BA3D70A, 0x43960000].map (elementPass fp32 false .e4m3 .rne 0x80) = [0x7E, 0xB4, 0x01, 0x71] := by decide +kernel
/-- R177: the worked K-block: 919,584 × 2^−11. -/
theorem test_k_block : (match alignBlock false 11 ([0x7E, 0x30, 0x19] ++ List.replicate 29 0), alignBlock false 3 ([0x38, 0x40, 0x28] ++ List.replicate 29 0) with
    | some (a, i), some (b, j) => (blockSum a b, i + j) == ((919584 : Int), (-11 : Int)) | _, _ => false) = true := by decide +kernel
/-- R207: the order of stamps of depth 2. -/
theorem test_stamp_order : (let st (a b c : Nat) : Stamp := { depth := 2, c0 := a, c1 := b, c2 := c }
    ((st 5 2 7).le (st 5 3 0) && !(st 5 3 0).le (st 5 2 7) && !(st 5 2 7).le (st 6 1 0) && !(st 6 1 0).le (st 5 2 7) && (st 4 9 9).le (st 6 9 9)
      && !(st 6 9 9).le (st 4 9 9) && decide ((st 5 2 7).issue < (st 5 3 0).issue ∧ (st 5 2 7).issue < (st 6 1 0).issue ∧ (st 4 9 9).issue < (st 6 9 9).issue)) = true) := by
  decide
/-- R271: E1 draws: E0's interval [0, 10) is split at 5. -/
def otherDraw : State :=
  let s := drawing [(0, 0, 0, 10, false), (0, 1, 10, 10, false)]
  { s.modTask ⟨0, 1, 0⟩ fun _ => s.task ⟨0, 0, 0⟩ with reqs := s.reqs.map fun r => { r with task := some ⟨0, 1, 0⟩ } }
theorem test_draw : ((after .rnextServe otherDraw).bind fun u => (u.req 5).bind (·.answer)).map (·.r0) = some 5 := by decide +kernel
theorem test_split : (match after .rnextServe otherDraw with
    | some u => (u.loads.map (·.ranges)).flatten == [(0, 0, 0, 5, false), (0, 1, 6, 10, false)] | none => false) = true := by decide +kernel
/-- R467: word 0 of the worked record: code 0x0A, index 14, a write, context 3. -/
theorem test_record : (Record.word0 { code := .shadowExhausted, index := 14, acc := .write, ctx := 3 }) = 0x0D0E000A := by decide
/-- spec/13: the header of nine instructions and one store, with exit kind yield. -/
theorem test_header : (let h := decodeHeader ((0x120D000000000001 : Word) ++ (0x0000003000000000 : Word))
    h.nm1 = 9 ∧ h.nst = 1 ∧ h.smask = 1 ∧ h.wmask = 0x30) := by decide
/-- spec/14, a small dual: e0 after its feeds, its sum with (1.5, 0), the minimum of that, and the conjugate of what the feeds made. -/
def fed (l : List (BitVec 32 × BitVec 32 × BitVec 16)) : Env := l.foldl (fun e x => match cnFeed false 0 e x.1 x.2.1 x.2.2 with | .ok v => v | .error _ => e)
  { xlo := 0, xhi := 0x41200000 }
def dual : Env := fed [(0xC0000000, 0x41000000, 1), (0xBF800000, 0x40A00000, 2), (0, 0, 3), (0xBF800000, 0x40400000, 4), (0xBF800000, 0x40A00000, 0)]
theorem test_feeds : dual.segs = [⟨0xC0000000, 0x41000000, 1, 0x40400000⟩, ⟨0xBF800000, 0x40A00000, 0, 0x40A00000⟩, ⟨0, 0, 3, 0x41200000⟩] := by decide +kernel
theorem test_sum : (match cnSum false 0 dual (fed [(0x3FC00000, 0, 9)]) with
    | .ok v => decide (v.segs = [⟨0xBF000000, 0x41000000, 1, 0x40400000⟩, ⟨0x3F000000, 0x40A00000, 0, 0x40A00000⟩, ⟨0x3FC00000, 0, 3, 0x41200000⟩]
        ∧ cnMin false v = 0x40D0000040400000)
    | .error _ => false) = true := by decide +kernel
theorem test_conjugate : (match cnConj false 0 dual with
    | .ok v => decide (v.segs.map (·.slope) = [0, 0x40400000, 0x40A00000, 0x41200000] ∧ v.segs.map (fun g => g.icpt.toNat % 2 ^ 31) = [0x41000000, 0x40000000, 0, 0]
        ∧ v.segs.map (·.tag) = [1, 0, 3, 3]
        ∧ v.segs.map (·.right) = [0xC0000000, 0xBF800000, 0, 0x7F800000] ∧ v.xlo = 0xFF800000 ∧ v.xhi = 0x7F800000)
    | .error _ => false) = true := by decide +kernel
/-- Envelopes: a dual over [0, 10], the whole line, a point, two domains that do not meet, and a domain that is none. -/
def wholeLine : Env := { xlo := 0xFF800000, xhi := 0x7F800000, segs := [⟨0x3F800000, 0, 0, 0x7F800000⟩], lost := false }
theorem meets_domains : DomainOk dual ∧ DomainOk wholeLine ∧ ¬ DomainOk { xlo := 0x3F800000, xhi := 0 }
    ∧ Min.min (numberOf (f32 0x3F800000)) (numberOf (f32 0x40400000)) < Max.max (numberOf (f32 0)) (numberOf (f32 0x40000000))
    ∧ ¬ (f32 wholeLine.xhi).finite = true ∧ (f32 0x7FC00000).finite = false := by unfold DomainOk; decide +kernel
theorem meets_lines : LinesOk dual.segs ∧ LinesOk wholeLine.segs := by unfold LinesOk; decide +kernel
theorem meets_env : EnvOk dual ∧ EnvOk wholeLine := by
  refine ⟨⟨meets_domains.1, meets_lines.1, by decide +kernel, by decide +kernel, by decide +kernel, fun g h => ?_⟩, ⟨meets_domains.2.1, meets_lines.2, by decide +kernel, by decide +kernel, by decide +kernel, fun g h => ?_⟩⟩
  · have : dual.segs.getLast? = some ⟨0, 0, 3, 0x41200000⟩ := by decide +kernel
    rw [this] at h; cases h; decide +kernel
  · cases h; decide +kernel
theorem meets_conj : conjOf dual ≠ [] ∧ (conjOf dual).length ≤ 256 ∧ conjOf wholeLine = [] := by decide +kernel

end Sys2Proof.Tests
end

section
/-! SUPPORT. The checks of an address in a local space, and the faults they name (R8, R33, R36). -/

namespace Sys2Proof.Proofs

open Sys2Proof.Machine

@[simp] theorem bytesOfNat_length (n v : Nat) : (bytesOfNat n v).length = n := by
  induction n generalizing v with
  | zero => rfl
  | succ n ih => simp [bytesOfNat, ih]

theorem exec_ld (h : Head) (sp : Space) (sz : Size) (sx : Bool) (s : State) : exec (.ld h sp sz sx) s = execLd h sp sz sx s := rfl

theorem exec_st (h : Head) (sp : Space) (sz : Size) (sid : BitVec 5) (s : State) : exec (.st h sp sz sid) s = execSt h sp sz sid s := rfl

/-- R33, step 1: an access beyond a local space is out of range, whatever its alignment. -/
theorem checkLocal_beyond {sp : Space} {addr : Word} {size : Nat} (hr : spaceSize sp < addr.toNat + size) (tile elem align : Nat) (u : Use) :
    checkLocal sp tile elem addr size align u = .bad (xfault .addrRange 7 0) := by
  simp [checkLocal, hr]

/-- R33, step 2: an access within a local space that is not aligned. -/
theorem checkLocal_misaligned {sp : Space} {addr : Word} {size align : Nat} (hr : addr.toNat + size ≤ spaceSize sp) (ha : addr.toNat % align ≠ 0)
    (tile elem : Nat) (u : Use) : checkLocal sp tile elem addr size align u = .bad (xfault .align 0 0) := by
  simp [checkLocal, Nat.not_lt.mpr hr, ha]

/-- R33: the checks of an access to a local space other than ch are those of its place. -/
theorem check_local {sp : Space} (hg : sp ≠ .gl) (hc : sp ≠ .ch) (s : State) (t : TaskRef) (addr : Word) (size align : Nat) (u : Use) :
    s.check t sp addr size align u = checkLocal sp t.tile t.elem addr size align u := by
  cases sp with
  | gl => exact absurd rfl hg
  | ch => exact absurd rfl hc
  | ds | bs | ts | ls => rfl

/-- R304: a local LD whose check fails takes the fault that the check names. -/
theorem execLd_bad {h : Head} {s : State} {sp : Space} {o : Opnds} {sz : Size} {x : XFault} (sx : Bool) (ho : s.operandsRead h true false false = some o)
    (hord : s.orderOk false = true) (hx : s.check s.cur.task sp o.a.v sz.num sz.num .read = .bad x) :
    exec (.ld h sp sz sx) s = .next (s.fireFault (x.record .read o.a.v.toNat)) := by
  simp [exec_ld, execLd, ho, State.loadHere, hord, hx]

/-- R304: an ST whose check fails takes the fault that the check names. -/
theorem execSt_bad {h : Head} {s : State} {sp : Space} {o : Opnds} {sz : Size} {x : XFault} (sid : BitVec 5) (ho : s.operandsStore h true true false = some o)
    (hx : s.check s.cur.task sp o.a.v sz.num sz.num .write = .bad x) :
    exec (.st h sp sz sid) s = .next (s.fireFault (x.record .write o.a.v.toNat)) := by
  simp [exec_st, execSt, ho, State.storeHere, hx]

/-- R36, R467: the record of a check that fails for another reason than a failing unit. -/
theorem record_xfault {code : FCode} (h : code ≠ .uncorrectable) (cause detail : Nat) (u : Use) (addr : Nat) :
    (xfault code cause detail).record u addr = { code := code, cause := cause, detail := detail, acc := u.acc, addr := addr } := by
  simp [XFault.record, xfault, h]

/-- Settles O22: the range is looked at before the alignment, and either failure is the fault of the access. -/
theorem addressChecksFault : Obligations.AddressChecksFault := by
  unfold Obligations.AddressChecksFault
  intro h s sz sx sid sp hg hc
  have hcheck := check_local hg hc s s.cur.task
  refine ⟨fun o ho hord hr => ?_, fun o ho hord hr ha => ?_, fun o ho hr => ?_, fun o ho hr ha => ?_⟩
  · rw [execLd_bad sx ho hord ((hcheck ..).trans (checkLocal_beyond hr ..)), record_xfault (by decide)]; rfl
  · rw [execLd_bad sx ho hord ((hcheck ..).trans (checkLocal_misaligned hr ha ..)), record_xfault (by decide)]; rfl
  · rw [execSt_bad sid ho ((hcheck ..).trans (checkLocal_beyond hr ..)), record_xfault (by decide)]; rfl
  · rw [execSt_bad sid ho ((hcheck ..).trans (checkLocal_misaligned hr ha ..)), record_xfault (by decide)]; rfl

end Sys2Proof.Proofs
end

section
/-! SUPPORT. Raising a fault, taking it, the return from it, and software traps (R35, R200, R365, R366). -/

namespace Sys2Proof.Proofs

open Sys2Proof.Machine

/-! What taking a fault leaves of the storage and of the task that parks (R35, R470). -/

/-- No storage differs: neither memory, nor the L2's lines, nor the host-line cache's. -/
def SameStorage (s t : State) : Prop := t.mem = s.mem ∧ t.l2mem = s.l2mem ∧ t.hostmem = s.hostmem

theorem SameStorage.trans {s t u : State} (h : SameStorage s t) (k : SameStorage t u) : SameStorage s u :=
  ⟨k.1.trans h.1, k.2.1.trans h.2.1, k.2.2.trans h.2.2⟩

/-- The task stands as it was, but for the activations that it has still to start. -/
def SameRun (k k' : Task) : Prop :=
  k'.phase = k.phase ∧ k'.flights = k.flights ∧ k'.fetch = k.fetch ∧ k'.parked = k.parked
    ∧ k'.regs = k.regs ∧ k'.sh = k.sh ∧ k'.vt = k.vt ∧ k'.replay = k.replay

theorem SameRun.refl (k : Task) : SameRun k k := ⟨rfl, rfl, rfl, rfl, rfl, rfl, rfl, rfl⟩

/-- A change of a table's values that keeps its keys relates the value that is read to the one that was. -/
theorem get_map_rel {κ α : Type} [DecidableEq κ] {R : α → α → Prop} {g : κ × α → κ × α} (hk : ∀ x, (g x).1 = x.1) (hR : ∀ x, R x.2 (g x).2)
    (t : Table κ α) (k : κ) {d : α} (hd : R d d) : R (t.get k d) (Table.get (t.map g) k d) := by
  induction t with
  | nil => exact hd
  | cons e r ih =>
    simp only [List.map_cons, Table.get, hk]
    by_cases h : e.1 = k
    · simpa only [h, if_true] using hR e
    · simpa only [h, if_false] using ih

theorem cancelDrain_storage (s : State) (id : Nat) : SameStorage s (s.cancelDrain id) := by
  simp only [State.cancelDrain]
  split
  · exact ⟨rfl, rfl, rfl⟩
  · split <;> exact ⟨rfl, rfl, rfl⟩

/-- R470: a drain that is cancelled leaves a Parked task parked as it is. -/
theorem cancelDrain_parked (s : State) (id : Nat) (t : TaskRef) (h : (s.task t).phase = .parked) : SameRun (s.task t) ((s.cancelDrain id).task t) := by
  revert h
  simp only [State.cancelDrain]
  split
  · exact fun _ => SameRun.refl _
  · split
    · exact fun _ => SameRun.refl _
    · refine get_map_rel (R := fun k k' => k.phase = .parked → SameRun k k') (fun x => ?_) (fun x h => ?_) s.tasks t fun _ => SameRun.refl _
      · split <;> rfl
      · split
        · simp [SameRun, h]
        · exact SameRun.refl _

/-- R469: the record goes to a trap queue or the black-box ring. -/
theorem sendRecord_storage (s : State) (r : Record) (own : Bool) : SameStorage s (s.sendRecord r own) := by
  simp only [State.sendRecord]
  split <;> exact ⟨rfl, rfl, rfl⟩

theorem sendRecord_task (s : State) (r : Record) (own : Bool) (t : TaskRef) : (s.sendRecord r own).task t = s.task t := by
  simp only [State.sendRecord]
  split <;> rfl

/-- R35, R200: the task that a fault parks, and the storage, which keeps every byte. -/
theorem park_spec (s : State) (t : TaskRef) (f : Firing) (r : Record) :
    SameRun { s.task t with phase := .parked, flights := [], fetch := none, parked := some (f, r) } ((s.park t f r false).task t)
      ∧ SameStorage s (s.park t f r false) := by
  simp only [State.park, Bool.false_and, Bool.false_eq_true, if_false, sendRecord_task]
  generalize hu : State.forgetBlocks _ t _ = u
  have hk : u.task t = { s.task t with
      phase := .parked, flights := [], fetch := none, parked := some (f, r)
      seq := if (s.task t).waved then f.wave - f.hdr.pdelta.toNat else (s.task t).seq } := by
    rw [← hu]; exact task_setTask s t _
  have hs : SameStorage s u := by rw [← hu]; exact ⟨rfl, rfl, rfl⟩
  constructor
  · have := cancelDrain_parked u (s.task t).load t (by rw [hk])
    rw [hk] at this
    exact this
  · have hc : SameStorage s (u.cancelDrain (s.task t).load) := hs.trans (cancelDrain_storage ..)
    exact SameStorage.trans (t := ((u.cancelDrain (s.task t).load).closeStages t).modElem (elemOf t) _) hc (sendRecord_storage ..)

/-! Raising a fault (R35, R467). -/

theorem raise_task (s : State) (t : TaskRef) (which : Nat) (r : Record) :
    (s.raise t which r).task t =
      { s.task t with flights := listMod (s.task t).flights which fun f => { f with fault := lowerFault f.fault (s.fillRecord t r) } } := by
  simp only [State.raise]
  split <;> exact task_modFlight ..

theorem raise_reqs (s : State) (t : TaskRef) (which : Nat) (r : Record) : (s.raise t which r).reqs = s.reqs := by
  simp only [State.raise]
  split <;> rfl

theorem raise_storage (s : State) (t : TaskRef) (which : Nat) (r : Record) : SameStorage s (s.raise t which r) := by
  simp only [State.raise]
  split <;> exact ⟨rfl, rfl, rfl⟩

/-- Nothing of a block is outstanding, nor waiting for a walk: its fault may be taken (R35). -/
def Quiet (s : State) (t : TaskRef) (f : Firing) : Prop :=
  (∀ q ∈ s.reqs, q.task = some t → q.serial = f.serial → q.holds = false) ∧ ∀ i ∈ f.issued, i ∈ f.fired

/-- R35: the fault of a quiet oldest block, no breakpoint's, parks its task. -/
theorem takeFault_of_quiet {s : State} {t : TaskRef} {f : Firing} {r : Record} {l : List Firing} (hl : (s.task t).flights = f :: l) (hf : f.fault = some r)
    (hc : r.code ≠ .softwareTrap) (hq : Quiet s t f) : s.takeFault t = s.park t f r false := by
  have hreq : (s.reqs.any fun q => q.task == some t && q.serial == f.serial && q.holds) = false := by
    simpa [List.any_eq_false] using hq.1
  have hiss : (f.issued.any fun i => !decide (i ∈ f.fired)) = false := by
    simpa [List.any_eq_false] using hq.2
  have hcode : (r.code == .softwareTrap) = false := beq_eq_false_iff_ne.mpr hc
  simp [State.takeFault, hl, hf, hreq, hiss, hcode]

/-- R35, R200, R467: the task at the cursor has parked with its block and the record, and keeps its registers, temporaries and replay entries; no
storage differs. -/
def Parks (s t : State) (f : Firing) (r : Record) : Prop :=
  let k := s.task s.cur.task
  let k' := t.task s.cur.task
  k'.phase = .parked ∧ k'.flights = [] ∧ k'.fetch = none
    ∧ (∃ g p, k'.parked = some (g, p) ∧ g.addr = f.addr ∧ g.words = f.words ∧ p.code = r.code ∧ p.cause = r.cause ∧ p.index = s.cur.idx
        ∧ p.addr = r.addr ∧ p.detail = r.detail ∧ p.ctx = k.ctx ∧ p.handle = s.handle s.cur.task ∧ p.stamp = k.stamp)
    ∧ k'.regs = k.regs ∧ k'.sh = k.sh ∧ k'.vt = k.vt ∧ k'.replay = k.replay
    ∧ t.mem = s.mem ∧ t.l2mem = s.l2mem ∧ t.hostmem = s.hostmem

/-- R35: a fault that the instruction at the cursor raises in a quiet oldest block without a fault is taken at once. -/
theorem faultHere_parks {s : State} {f : Firing} {r : Record} (h : s.here = some f) (hw : s.cur.which = 0) (hf : f.fault = none)
    (hc : r.code ≠ .softwareTrap) (hq : Quiet s s.cur.task f) : Parks s (s.faultHere r) f r := by
  obtain ⟨l, hl⟩ : ∃ l, (s.task s.cur.task).flights = f :: l := by
    have := here_eq h
    rwa [hw, ← List.head?_eq_getElem?, List.head?_eq_some_iff] at this
  let p := s.fillRecord s.cur.task { r with index := s.cur.idx }
  let u := s.raise s.cur.task s.cur.which { r with index := s.cur.idx }
  have hu : u.task s.cur.task = { s.task s.cur.task with flights := { f with fault := some p } :: l } := by
    rw [raise_task, hl, hw]
    simp [listMod, hf, lowerFault, p]
  have hpark : s.faultHere r = u.park s.cur.task { f with fault := some p } p false :=
    takeFault_of_quiet (l := l) (by rw [hu]) rfl hc ⟨by rw [raise_reqs]; exact hq.1, hq.2⟩
  obtain ⟨⟨hphase, hfl, hfetch, hparked, hregs, hsh, hvt, hreplay⟩, hst⟩ := park_spec u s.cur.task { f with fault := some p } p
  rw [← hpark] at hphase hfl hfetch hparked hregs hsh hvt hreplay hst
  simp only [hu] at hregs hsh hvt hreplay
  exact ⟨hphase, hfl, hfetch, ⟨_, p, hparked, rfl, rfl, rfl, rfl, rfl, rfl, rfl, rfl, rfl, rfl⟩, hregs, hsh, hvt, hreplay,
    (raise_storage ..).trans hst⟩

/-- R35: the same of a fault that counts its instruction as fired. -/
theorem fireFault_parks {s : State} {f : Firing} {r : Record} (h : s.here = some f) (hw : s.cur.which = 0) (hf : f.fault = none)
    (hc : r.code ≠ .softwareTrap) (hq : Quiet s s.cur.task f) : Parks s (s.fireFault r) f r := by
  have hk : s.fire0.task s.cur.task = { s.task s.cur.task with
      flights := listMod (s.task s.cur.task).flights s.cur.which fun f => { f with fired := s.cur.idx :: f.fired } } := by simp [fire0_eq]
  have hp := faultHere_parks (s := s.fire0) (r := r) (f := { f with fired := s.cur.idx :: f.fired }) (here_changed h _) hw hf hc
    ⟨hq.1, fun i hi => List.mem_cons_of_mem _ (hq.2 i hi)⟩
  simp only [Parks, State.handle, fire0_cur, hk] at hp
  exact hp

/-! The return from a fault (R366, R302). -/

theorem refire_task {s : State} {u : TaskRef} {f : Firing} {r : Record} (h : (s.task u).parked = some (f, r)) (v : Option Word) :
    (s.refire u v).task u = { s.task u with phase := .active, parked := none, fetch := some f.addr, refire := v } := by
  rw [State.refire, task_modTask, h]

theorem refire_frame (s : State) (u : TaskRef) (v : Option Word) : { s.refire u v with tasks := s.tasks } = s := rfl

theorem refire_task_ne (s : State) {u w : TaskRef} (h : w ≠ u) (v : Option Word) : (s.refire u v).task w = s.task w := task_modTask_ne s h _

/-- R366: action 0 fires the block again with its traps. -/
theorem eret_again {s : State} {ctx : Nat} {handle : Word} {u : TaskRef} (h : s.parkedAt ctx handle.toNat = some u) (value : Word) :
    s.eret ctx handle 0 value = s.refire u none := by
  simp [State.eret, h]

/-- R366: action 2 fires the block again, ERET's value in the place of its traps. -/
theorem eret_suppress {s : State} {ctx : Nat} {handle : Word} {u : TaskRef} (h : s.parkedAt ctx handle.toNat = some u) (value : Word) :
    s.eret ctx handle 2 value = s.refire u (some value) := by
  simp [State.eret, h]

/-- R366: a handle of no Parked task is recorded as an event. -/
theorem eret_unmatched {s : State} {ctx : Nat} {handle : Word} (h : s.parkedAt ctx handle.toNat = none) (action value : Word) :
    s.eret ctx handle action value = s.event 0x08 12 ctx handle.toNat action.toNat := by
  simp [State.eret, h]

/-! Software traps (R365). -/

theorem suppressed_of_here {s : State} {f : Firing} (h : s.here = some f) : s.suppressed = f.suppress := by
  simp [State.suppressed, h]

theorem exec_trap (h : Head) (code : BitVec 7) (s : State) : exec (.trap h code) s = execTrap h code s := rfl

theorem exec_bkpt (h : Head) (code : BitVec 7) (s : State) : exec (.bkpt h code) s = execBkpt h code s := rfl

theorem exec_illg (s : State) : exec .illg s = .next (s.faultHere { code := .illegalOp }) := rfl

/-- Settles O15: taking a fault is parking (`park_spec`), the return from it fetches the parked block again, and a trap either raises its record or,
suppressed, delivers. -/
theorem faultsParkAndReturn : Obligations.FaultsParkAndReturn := by
  unfold Obligations.FaultsParkAndReturn
  refine ⟨fun s r f hh hw hf hc hreq hiss => ?_, fun s ctx handle value => ⟨fun u f r hu hp => ?_, fun a hn => ?_⟩, fun h code s f hh => ?_⟩
  · have hq : Quiet s s.cur.task f := ⟨hreq, hiss⟩
    have hhere : Parks s (s.faultHere r) f r := faultHere_parks hh hw hf hc hq
    refine ⟨fireFault_parks hh hw hf hc hq, hhere, fun hr => ⟨_, exec_illg s, ?_⟩⟩
    rw [← hr]
    exact hhere
  · rw [eret_again hu, eret_suppress hu]
    exact ⟨refire_task hp _, refire_frame .., refire_task hp _, refire_frame ..,
      fun w hw => ⟨refire_task_ne s hw _, refire_task_ne s hw _⟩⟩
  · rw [eret_unmatched hn]
    exact ⟨rfl, rfl⟩
  · have hs := suppressed_of_here hh
    simp only [exec_trap, exec_bkpt, execTrap, execBkpt, hs]
    refine ⟨fun o ho hn => ?_, fun o v ho hv => ?_, fun o ho hn => ?_, fun o v ho hv => ?_⟩
    · rw [ho, hn]
    · rw [ho, hv]
    · rw [ho, hn]
    · rw [ho, hv]

end Sys2Proof.Proofs
end

section
/-! SUPPORT. Why the first part of O43 fails (R20, R113). A walk settles the line of a leaf entry when it reads the entry, and then settles the line of
the tensor's descriptor. Settlement takes at most 256 turns (Machine/Lines.lean). A state may hold more epochs than the 255 of R103; where their
chain of merging epochs is 256 long and the descriptor stands on the entry's own line, the second settlement goes on where the first stopped, reaches a
rejecting epoch, and restores an image of the line whose A bit is clear, after the walk has seen the bit set. -/

namespace Sys2Proof.Proofs

open Sys2Proof.Machine

/-- R113: a turn at a merging epoch that owns no shadow of the line passes the line to the enclosing epoch. -/
theorem settleOnce_merging {s : State} {line c e : Nat} {x : Epoch} (hx : (s.ctx c).epochs.find e = some x) (hm : x.state = .merging)
    (hs : s.shadowOf line c e = none) : s.settleOnce line c e = s.setMark line x.parent c := by
  simp [State.settleOnce, hx, hs, hm]

/-- R113: a turn at a rejecting epoch restores the line from the epoch's shadow. -/
theorem settleOnce_rejecting {s : State} {line c e : Nat} {x : Epoch} {h : Shadow} (hx : (s.ctx c).epochs.find e = some x) (hr : x.state = .rejecting)
    (hs : s.shadowOf line c e = some h) : s.settleOnce line c e = ((s.restoreLine h).setMark line h.prior c).freeShadow h := by
  simp [State.settleOnce, hx, hs, hr]

/-- R113: settlement takes a turn while the line's epoch is not open. -/
theorem settleLoop_succ {s : State} {line c e : Nat} (hm : s.mark line = (e, c)) (he : e ≠ 0) (ho : (s.ctx c).epochOpen e = false) (n : Nat) :
    s.settleLoop line (n + 1) = (s.settleOnce line c e).settleLoop line n := by
  simp [State.settleLoop, hm, he, ho]

/-- R113: settlement ends at epoch 0. -/
theorem settleLoop_of_mark_zero {s : State} {line : Nat} (h : (s.mark line).1 = 0) (n : Nat) : s.settleLoop line n = s := by
  cases n <;> simp [State.settleLoop, h]

end Sys2Proof.Proofs

namespace Sys2Proof.Proofs.LongChain

open Sys2Proof.Machine

/-- Epochs from e up: n merging ones, each enclosed by the next, and a rejecting one that owns a shadow. -/
def chainFrom (e : Nat) : Nat → Table Nat Epoch
  | 0 => [(e, ⟨.rejecting, 0, 1⟩)]
  | n + 1 => (e, ⟨.merging, e + 1, 0⟩) :: chainFrom (e + 1) n

theorem find_chainFrom_merging {e n k : Nat} (hk : e ≤ k) (hn : k < e + n) : (chainFrom e n).find k = some ⟨.merging, k + 1, 0⟩ := by
  induction n generalizing e with
  | zero => omega
  | succ n ih =>
    by_cases h : e = k
    · simp [chainFrom, Table.find, h]
    · simp [chainFrom, Table.find, h, ih (e := e + 1) (by omega) (by omega)]

theorem find_chainFrom_rejecting (e n : Nat) : (chainFrom e n).find (e + n) = some ⟨.rejecting, 0, 1⟩ := by
  induction n generalizing e with
  | zero => simp [chainFrom, Table.find]
  | succ n ih =>
    have := ih (e + 1)
    rw [show e + 1 + n = e + (n + 1) by omega] at this
    simp [chainFrom, Table.find, this]

/-- The line of the page table's root, in the host memory window; the tensor table stands on it too. -/
def rootLine : Nat := 6 * 2 ^ 40

/-- The old image of the root's line: a line of zeroes. -/
def image : Shadow := { line := rootLine, ctx := 0, owner := 257, prior := 0, slot := 0 }

/-- A context that translates by the root, with a tensor table of two entries. -/
def rootCtx : Ctx := { ptw := BitVec.ofNat 64 (2 ^ 63 + rootLine), ttw := BitVec.ofNat 64 (2 ^ 52 + rootLine), epochs := chainFrom 1 256 }

/-- A valid descriptor (R26): one tile of 2^11 elements, one element in use. -/
def descriptor : Nat := 2 ^ 255 + 11 * 2 ^ 224 + 2 ^ 96 + 2 ^ 64 + 2 ^ 32 + 1

/-- A miss of a read of the first page. -/
def miss : Miss := { id := 0, die := 0, ctx := 0, page := 0, use := .read, walking := true, waiters := [] }

/-- The walk of the miss is to complete; the root's first entry is a leaf of tensor 1 that permits reads and has its A bit set, on a line that epoch e has
marked. -/
def chainState (e : Nat) : State :=
  { State.reset with
    cur := { work := some (.walkComplete 0 0) }, misses := [miss], mem := [(rootLine, 0x12), (rootLine + 6, 0x90)], marks := [(rootLine, (e, 0))]
    tdc := [(0, 1, descriptor)], shadows := [image], ctxs := [(0, rootCtx)] }

/-- What the second settlement leaves: the zeroes of the image, no mark and no shadow. -/
def restored : State :=
  { chainState 257 with mem := [], marks := [], shadows := [], ctxs := [(0, (rootCtx.addPend 257 (-1)).sweep 255)] }

/-! The two settlements. -/

theorem chainState_mark (e : Nat) : (chainState e).mark rootLine = (e, 0) := by
  simp [State.mark, chainState, Table.get]

theorem chainState_ctx (e : Nat) : (chainState e).ctx 0 = rootCtx := rfl

theorem chainState_marked (e : Nat) (he : e ≠ 0) (c : Nat) : (chainState c).setMark rootLine e 0 = chainState e := by
  simp [State.setMark, he, chainState, Table.put, State.reset]

theorem not_open_of_find {c : Ctx} {e : Nat} {x : Epoch} (hx : c.epochs.find e = some x) (hs : x.state ≠ .opened) : c.epochOpen e = false := by
  simp [Ctx.epochOpen, hx, hs]

theorem settleLoop_climbs {e n : Nat} (h1 : 1 ≤ e) (h2 : e + n ≤ 257) : (chainState e).settleLoop rootLine n = chainState (e + n) := by
  induction n generalizing e with
  | zero => rfl
  | succ n ih =>
    have hx : ((chainState e).ctx 0).epochs.find e = some ⟨.merging, e + 1, 0⟩ := find_chainFrom_merging h1 (by omega)
    have hs : (chainState e).shadowOf rootLine 0 e = none := by
      have : (257 == e) = false := by simp; omega
      simp [State.shadowOf, chainState, image, this]
    rw [settleLoop_succ (chainState_mark e) (by omega) (not_open_of_find hx (by simp)), settleOnce_merging hx rfl hs,
      chainState_marked (e + 1) (by omega), ih (by omega) (by omega), show e + 1 + n = e + (n + 1) by omega]

/-- The first settlement ends at the rejecting epoch, its turns used up. -/
theorem settle_first : (chainState 1).settle rootLine = chainState 257 := settleLoop_climbs (n := 256) (by omega) (by omega)

/-- The second one restores the image. -/
theorem settle_second : (chainState 257).settle rootLine = restored := by
  have hx : ((chainState 257).ctx 0).epochs.find 257 = some ⟨.rejecting, 0, 1⟩ := find_chainFrom_rejecting 1 256
  have hs : (chainState 257).shadowOf rootLine 0 257 = some image := rfl
  have hrestored : (((chainState 257).restoreLine image).setMark rootLine image.prior 0).freeShadow image = restored := by rfl
  rw [State.settle, settleLoop_succ (n := 255) (chainState_mark 257) (by omega) (not_open_of_find hx (by decide)), settleOnce_rejecting hx rfl hs,
    hrestored, settleLoop_of_mark_zero rfl]

/-! The walk. -/

/-- The root's first entry: tensor 1, the permission to read, and the A bit. -/
def entry : Nat := 2 + 2 ^ 4 + 2 ^ 52 + 2 ^ 55

theorem lineOf_rootLine : lineOf rootLine = rootLine := by decide

theorem walkerMeets_chainState : (chainState 1).walkerMeets 0 rootLine = chainState 257 := by
  have hmeet : (chainState 1).deviceMeet [rootLine] = chainState 257 := by
    simp only [State.deviceMeet, List.foldl_cons, List.foldl_nil, settle_first]
    rfl
  simp only [State.walkerMeets, lineOf_rootLine, hmeet]
  rfl

/-- The walk sees the A bit set, and ends with the image restored. -/
theorem walk_chainState : (chainState 1).walk 0 0 0 .read = (.ok (leafOf entry 3 rootLine false, []), restored) := by
  have hword : (chainState 257).num rootLine 8 = entry := by decide +kernel
  have hbad : (chainState 257).badIn rootLine 8 = none := by rfl
  have hmeet : (chainState 257).deviceMeet [lineOf ((chainState 257).tensorAt 0 1)] = restored := by
    rw [show lineOf ((chainState 257).tensorAt 0 1) = rootLine by decide +kernel]
    simp only [State.deviceMeet, List.foldl_cons, List.foldl_nil, settle_second]
    rfl
  have htensor : restored.tensorFault 0 0 1 0 3 = none := by decide +kernel
  have hwalk : (chainState 1).walk 0 0 0 .read = (chainState 1).walkFrom 0 0 0 .read 4 rootLine [] := by
    have henabled : ¬ field ((chainState 1).ctx 0).ptw.toNat 63 63 = 0 := by decide +kernel
    have hroot : field ((chainState 1).ctx 0).ptw.toNat 51 24 * 2 ^ 24 = rootLine := by decide +kernel
    have hcold (lvl : Nat) : (chainState 1).walkHit 0 0 0 lvl = none := rfl
    simp only [State.walk, henabled, hcold, hroot, if_false]
  rw [hwalk, State.walkFrom]
  simp only [show rootLine + 8 * levelIndex 0 3 = rootLine by decide, walkerMeets_chainState, hword, hbad]
  rw [if_neg (by decide), if_pos (by decide), if_pos (by decide)]
  simp only [show (leafOf entry 3 rootLine (field entry 56 56 == 1 || Use.read.writes)) = leafOf entry 3 rootLine false by decide,
    show (leafOf entry 3 rootLine false).tid = 1 by decide, show (leafOf entry 3 rootLine false).mtype = 0 by decide,
    show (leafOf entry 3 rootLine false).fault .read = none by decide, one_ne_zero, if_false, hmeet, htensor]
  rfl

/-- The completed walk leaves the bytes of the restored line. -/
theorem walkComplete_chainState : ∃ t, exec .walkComplete (chainState 1) = .next t ∧ ∀ key, t.byte key = restored.byte key := by
  have hexec : exec .walkComplete (chainState 1) = execWalkComplete (chainState 1) := rfl
  have hwork : (chainState 1).cur.work = some (.walkComplete 0 0) := rfl
  have hmiss : ((chainState 1).misses.find? fun m => m.id == 0) = some miss := rfl
  have hwalk : (chainState 1).walk 0 miss.ctx (miss.page * 2 ^ 16) miss.use = (.ok (leafOf entry 3 rootLine false, []), restored) := walk_chainState
  simp only [hexec, execWalkComplete, hwork, hmiss, hwalk]
  exact ⟨_, rfl, fun _ => rfl⟩

/-- Refutes O43: a walk that has found its leaf with the A bit set does not leave it set when the settlement of the tensor's line, the entry's own,
goes on restoring that line. -/
theorem not_translationServes : ¬ Obligations.TranslationServes := by
  unfold Obligations.TranslationServes
  intro h
  obtain ⟨hleaf, -⟩ := (h.1 (chainState 1) 0 miss).2 rfl rfl
  obtain ⟨t, ht, -, -, hA, -⟩ := hleaf _ _ _ walk_chainState (by unfold Safety.MemoryOk; decide)
  obtain ⟨u, hu, hbyte⟩ := walkComplete_chainState
  have hut : u = t := by simpa [hu] using ht
  rw [← hut, hbyte] at hA
  exact absurd hA (by decide +kernel)

end Sys2Proof.Proofs.LongChain
end

section
/-! SUPPORT. Ranges of storage: what the last write of a list of cells leaves, and what reads give after a range is dropped, taken, or moved
(Machine/Store.lean, Machine/Lines.lean). -/

namespace Sys2Proof.Proofs

open Sys2Proof.Machine

/-! The last write of a list of cells. -/

theorem lastWrite_or (l : List (Nat × Byte)) (key : Nat) (d : Option Byte) : lastWrite l key d = (lastWrite l key none).or d := by
  induction l generalizing d with
  | nil => simp [lastWrite]
  | cons c r ih =>
    by_cases h : c.1 = key
    · simp only [lastWrite, h, if_true]; rw [ih (some c.2), Option.or_assoc]; rfl
    · simp only [lastWrite, h, if_false]; exact ih d

/-- The first write of a list counts where no later one meets its key. -/
theorem lastWrite_cons (k : Nat) (b : Byte) (r : List (Nat × Byte)) (key : Nat) :
    lastWrite ((k, b) :: r) key none = (lastWrite r key none).or (if k = key then some b else none) := by
  rw [lastWrite, lastWrite_or]

theorem lastWrite_of_no_key {l : List (Nat × Byte)} {key : Nat} (h : ∀ c ∈ l, c.1 ≠ key) (d : Option Byte) : lastWrite l key d = d := by
  induction l generalizing d with
  | nil => rfl
  | cons c r ih => simp [lastWrite, h c, ih fun x hx => h x (List.mem_cons_of_mem _ hx)]

theorem lastWrite_shift {l : List (Nat × Byte)} {a b k : Nat} (h : ∀ c ∈ l, a ≤ c.1) (hk : b ≤ k) (d : Option Byte) :
    lastWrite (l.map fun c => (c.1 - a + b, c.2)) k d = lastWrite l (k - b + a) d := by
  induction l generalizing d with
  | nil => rfl
  | cons c r ih =>
    have hc := h c List.mem_cons_self
    have hkey : c.1 - a + b = k ↔ c.1 = k - b + a := by omega
    simp only [List.map_cons, lastWrite, hkey]
    exact ih (fun x hx => h x (List.mem_cons_of_mem _ hx)) _

/-- Bytes placed from a key up: each key of the range is written once. -/
theorem lastWrite_placeBytes (b : List Byte) (key a : Nat) :
    lastWrite (placeBytes key b) a none = if key ≤ a ∧ a < key + b.length then some (b.getD (a - key) 0) else none := by
  induction b generalizing key with
  | nil => simp [placeBytes, lastWrite]
  | cons x r ih =>
    rw [placeBytes, lastWrite_cons, ih]
    rcases Nat.lt_trichotomy a key with h | rfl | h
    · rw [if_neg (by omega), if_neg (by omega), if_neg (by omega)]; rfl
    · rw [if_neg (by omega), if_pos rfl, if_pos (by simp)]; simp
    · rw [if_neg (show key ≠ a by omega), Option.or_none]
      obtain ⟨j, rfl⟩ : ∃ j, a = key + 1 + j := ⟨a - (key + 1), by omega⟩
      have hj : key + 1 + j - key = j + 1 := by omega
      simp only [hj, Nat.add_sub_cancel_left, List.getD_cons_succ, List.length_cons]
      exact if_congr (by omega) rfl rfl

/-! Reads of a memory after a range is dropped, taken, or written. -/

theorem read_writeAll {m : Memory} (l : List (Nat × Byte)) (h : m.wf = true) (k : Nat) :
    (m.writeAll l).read k = (lastWrite l k none).getD (m.read k) := by
  induction l generalizing m with
  | nil => rfl
  | cons c r ih =>
    obtain ⟨a, b⟩ := c
    rw [Memory.writeAll, ih (write_wf _ _ h), read_write _ _ _ h, lastWrite_cons]
    by_cases hk : k = a
    · subst hk; cases lastWrite r k none <;> simp
    · cases lastWrite r k none <;> simp [hk, Ne.symm hk]

theorem key_ge_of_wfFrom {m : Memory} {lo : Nat} (h : m.wfFrom lo = true) : ∀ c ∈ m, lo ≤ c.1 := by
  induction m generalizing lo with
  | nil => simp
  | cons c r ih =>
    simp only [Memory.wfFrom, Bool.and_eq_true, decide_eq_true_eq] at h
    obtain ⟨⟨hlo, -⟩, hr⟩ := h
    refine List.forall_mem_cons.mpr ⟨hlo, fun x hx => ?_⟩
    have := ih hr x hx
    omega

theorem lastWrite_self_from {m : Memory} {lo : Nat} (h : m.wfFrom lo = true) (k : Nat) : (lastWrite m k none).getD 0 = m.read k := by
  induction m generalizing lo with
  | nil => rfl
  | cons c r ih =>
    obtain ⟨a, b⟩ := c
    simp only [Memory.wfFrom, Bool.and_eq_true, decide_eq_true_eq] at h
    obtain ⟨-, hr⟩ := h
    by_cases hk : a < k
    · simpa [lastWrite, Memory.read, hk.ne, hk.ne', Nat.lt_asymm hk] using ih hr
    · have hnone (d : Option Byte) : lastWrite r k d = d := lastWrite_of_no_key (fun c hc => by have := key_ge_of_wfFrom hr c hc; omega) d
      rcases (Nat.not_lt.mp hk).lt_or_eq with hlt | rfl
      · simp [lastWrite, Memory.read, hnone, hlt, hlt.ne']
      · simp [lastWrite, Memory.read, hnone]

/-- A memory in canonical form is the list of its own writes. -/
theorem lastWrite_self {m : Memory} (h : m.wf = true) (k : Nat) : (lastWrite m k none).getD 0 = m.read k := lastWrite_self_from h k

theorem read_filter_from {m : Memory} {lo : Nat} (h : m.wfFrom lo = true) (p : Nat → Bool) (k : Nat) :
    Memory.read (m.filter fun c => p c.1) k = if p k then m.read k else 0 := by
  induction m generalizing lo with
  | nil => simp [Memory.read]
  | cons c r ih =>
    obtain ⟨a, b⟩ := c
    simp only [Memory.wfFrom, Bool.and_eq_true, decide_eq_true_eq] at h
    obtain ⟨-, hr⟩ := h
    by_cases hp : p a = true
    · simp only [List.filter_cons, hp, if_true, Memory.read, ih hr]
      by_cases hk : k = a
      · subst hk; simp [hp]
      · by_cases hlt : k < a <;> simp [hk, hlt]
    · simp only [List.filter_cons, hp, Bool.false_eq_true, if_false, Memory.read, ih hr]
      rcases Nat.lt_trichotomy k a with hlt | rfl | hgt
      · simpa [hlt] using fun _ => read_below hr (Nat.lt_succ_of_lt hlt)
      · simp [hp]
      · simp [hgt.ne', Nat.lt_asymm hgt]

theorem read_drop {m : Memory} (h : m.wf = true) (a n k : Nat) : (m.drop a n).read k = if a ≤ k ∧ k < a + n then 0 else m.read k := by
  rw [Memory.drop, read_filter_from h fun k => !(decide (a ≤ k) && decide (k < a + n))]
  by_cases hk : a ≤ k ∧ k < a + n <;> simp [hk]

theorem read_slice {m : Memory} (h : m.wf = true) (a n k : Nat) : (m.slice a n).read k = if a ≤ k ∧ k < a + n then m.read k else 0 := by
  rw [Memory.slice, read_filter_from h fun k => decide (a ≤ k) && decide (k < a + n)]
  by_cases hk : a ≤ k ∧ k < a + n <;> simp [hk]

theorem slice_keys (m : Memory) (a n : Nat) : ∀ c ∈ m.slice a n, a ≤ c.1 ∧ c.1 < a + n := by
  intro c hc
  simpa using (List.mem_filter.mp hc).2

/-- A range of one memory moved into another, to a range of its own: the range reads as the source did, the rest as before. -/
theorem read_moved {src dst : Memory} (hs : src.wf = true) (hd : dst.wf = true) (a b n k : Nat) :
    ((dst.drop b n).writeAll ((src.slice a n).map fun c => (c.1 - a + b, c.2))).read k =
      if b ≤ k ∧ k < b + n then src.read (k - b + a) else dst.read k := by
  rw [read_writeAll _ (drop_wf b n hd), read_drop hd]
  by_cases hk : b ≤ k ∧ k < b + n
  · rw [if_pos hk, if_pos hk, lastWrite_shift (fun c hc => (slice_keys src a n c hc).1) hk.1, lastWrite_self (slice_wf a n hs), read_slice hs,
      if_pos (by omega)]
  · rw [if_neg hk, if_neg hk, lastWrite_of_no_key, Option.getD_none]
    intro c hc
    obtain ⟨x, hx, rfl⟩ := List.mem_map.mp hc
    have := slice_keys src a n x hx
    simp only
    omega

/-- The same where the range keeps its place. -/
theorem read_moved_here {src dst : Memory} (hs : src.wf = true) (hd : dst.wf = true) (a n k : Nat) :
    ((dst.drop a n).writeAll (src.slice a n)).read k = if a ≤ k ∧ k < a + n then src.read k else dst.read k := by
  have hmap : (src.slice a n).map (fun c => (c.1 - a + a, c.2)) = src.slice a n := by
    refine (List.map_congr_left fun c hc => ?_).trans (List.map_id _)
    rw [Nat.sub_add_cancel (slice_keys src a n c hc).1]; rfl
  have := read_moved hs hd a a n k
  rw [hmap] at this
  rw [this]
  by_cases hk : a ≤ k ∧ k < a + n
  · rw [if_pos hk, if_pos hk, Nat.sub_add_cancel hk.1]
  · rw [if_neg hk, if_neg hk]

theorem read_copyLine {src dst : Memory} (hs : src.wf = true) (hd : dst.wf = true) (a b k : Nat) :
    (copyLine src dst a b).read k = if b ≤ k ∧ k < b + 2048 then src.read (k - b + a) else dst.read k := read_moved hs hd a b 2048 k

theorem copyLine_wf {dst : Memory} (src : Memory) (hd : dst.wf = true) (a b : Nat) : (copyLine src dst a b).wf = true :=
  writeAll_wf _ (drop_wf b 2048 hd)

end Sys2Proof.Proofs
end

section
/-! SUPPORT. The bytes that the homes serve (R57, R60): what a write at a home leaves, and what moves a line between the levels without changing what
is read (Machine/Store.lean, Machine/Lines.lean). -/

namespace Sys2Proof.Proofs

open Sys2Proof.Machine

/-! Lines and frames. -/

/-- R12 to R14: what the address of a line's first byte tells of every byte of the line. -/
theorem line_facts {key line : Nat} (h : key / 2048 = line / 2048) :
    isGl key = isGl line ∧ paIsHbm key = paIsHbm line ∧ paPackage key = paPackage line ∧ homeDie key = homeDie line ∧ stackLine key = stackLine line := by
  simp only [isGl, dsKey, paIsHbm, paPackage, homeDie, stackLine, paOffset]
  exact ⟨decide_eq_decide.mpr (by omega), decide_eq_decide.mpr (by omega), by omega, by omega, by omega⟩

theorem frameOf_of_line (s : State) {key line : Nat} (h : key / 2048 = line / 2048) : s.frameOf key = s.frameOf line := by
  obtain ⟨hgl, hhbm, hpkg, hdie, hsln⟩ := line_facts h
  simp only [State.frameOf, hgl, hhbm, hpkg, hdie, hsln]

/-- R57: the L2 holds a line whole. -/
theorem held_of_line (s : State) {key line : Nat} (h : key / 2048 = line / 2048) : s.held key = s.held line := by
  rw [State.held, State.held, frameOf_of_line s h]

/-- R54, R55: the L2 holds a line of this package's HBM that one of its frames names. -/
theorem held_iff {s : State} {key : Nat} : s.held key = true ↔
    (isGl key = true ∧ paIsHbm key = true ∧ paPackage key = s.package) ∧ ∃ f ∈ s.frames, f.st ≠ 0 ∧ f.die = homeDie key ∧ f.sln = stackLine key := by
  rw [State.held, State.frameOf]
  split_ifs with h
  · simp only [Bool.and_eq_true, beq_iff_eq] at h
    simp [List.find?_isSome, h, and_assoc]
  · simp only [Bool.and_eq_true, beq_iff_eq, and_assoc] at h
    simp [h]

/-- R13, R60: the host-line cache holds no line of HBM. -/
theorem hostHeld_of_hbm (s : State) {key : Nat} (h : paIsHbm key = true) : s.hostHeld key = false := by
  have : paIsHost key = false := by
    simp only [paIsHbm, paIsHost, decide_eq_true_eq, decide_eq_false_iff_not] at h ⊢
    omega
  simp [State.hostHeld, this]

theorem byte_of_held {s : State} {key : Nat} (h : s.held key = true) : s.byte key = s.l2mem.read key := by simp [State.byte, h]

theorem byte_of_hbm_not_held {s : State} {key : Nat} (hh : paIsHbm key = true) (h : s.held key = false) : s.byte key = s.mem.read key := by
  simp [State.byte, h, hostHeld_of_hbm s hh]

/-! What keeps the storages and the places of lines. -/

/-- The storages are the same, and every line is where it was. -/
def SameHomes (s t : State) : Prop := SameStorage s t ∧ t.hostLines = s.hostLines ∧ ∀ key, t.held key = s.held key

theorem SameHomes.refl (s : State) : SameHomes s s := ⟨⟨rfl, rfl, rfl⟩, rfl, fun _ => rfl⟩

theorem SameHomes.trans {s t u : State} (h : SameHomes s t) (k : SameHomes t u) : SameHomes s u :=
  ⟨h.1.trans k.1, k.2.1.trans h.2.1, fun key => (k.2.2 key).trans (h.2.2 key)⟩

theorem SameHomes.foldl {α : Type} {f : State → α → State} (h : ∀ s a, SameHomes s (f s a)) (l : List α) (s : State) : SameHomes s (l.foldl f s) := by
  induction l generalizing s with
  | nil => exact .refl s
  | cons a r ih => exact (h s a).trans (ih _)

theorem SameHomes.byte {s t : State} (h : SameHomes s t) (key : Nat) : t.byte key = s.byte key := by
  obtain ⟨⟨hmem, hl2, hhost⟩, hlines, hheld⟩ := h
  rw [State.byte, State.byte, State.hostHeld, State.hostHeld, hheld, hmem, hl2, hhost, hlines]

theorem SameHomes.memoryOk {s t : State} (h : SameHomes s t) (hs : Safety.MemoryOk s) : Safety.MemoryOk t := by
  obtain ⟨⟨hmem, hl2, hhost⟩, -⟩ := h
  simpa only [Safety.MemoryOk, hmem, hl2, hhost] using hs

/-- What the homes look at stands. -/
theorem SameHomes.of_eq {s t : State} (hm : t.mem = s.mem) (hl : t.l2mem = s.l2mem) (hh : t.hostmem = s.hostmem) (hlines : t.hostLines = s.hostLines)
    (hf : t.frames = s.frames) (hi : t.mgmt = s.mgmt) : SameHomes s t :=
  ⟨⟨hm, hl, hh⟩, hlines, fun key => by rw [State.held, State.held, State.frameOf, State.frameOf, State.package, State.package, hf, hi]⟩

/-- R55: a change of tag records that keeps which lines they name. -/
theorem held_of_mapped_frames {s t : State} {g : Frame → Frame} (hf : t.frames = s.frames.map g) (hi : t.mgmt = s.mgmt)
    (hg : ∀ f, ((g f).st ≠ 0 ↔ f.st ≠ 0) ∧ (g f).die = f.die ∧ (g f).sln = f.sln) (key : Nat) : t.held key = s.held key := by
  have hp : t.package = s.package := by rw [State.package, State.package, hi]
  rw [Bool.eq_iff_iff, held_iff, held_iff, hf, hp]
  simp [hg]

theorem modFrame_sameHomes (s : State) (line : Nat) {g : Frame → Frame} (hg : ∀ f, f.st ≠ 0 → (g f).st ≠ 0 ∧ (g f).die = f.die ∧ (g f).sln = f.sln) :
    SameHomes s (s.modFrame line g) := by
  refine ⟨⟨rfl, rfl, rfl⟩, rfl, held_of_mapped_frames rfl rfl fun f => ?_⟩
  split
  · next h => obtain ⟨hst, -⟩ := h; simpa [hst] using hg f hst
  · simp

theorem soil_sameHomes (s : State) (line : Nat) : SameHomes s (s.soil line) :=
  modFrame_sameHomes s line fun f _ => ⟨by dsimp only; split <;> decide, rfl, rfl⟩

theorem setMark_sameHomes (s : State) (line epoch ctx : Nat) : SameHomes s (s.setMark line epoch ctx) := by
  obtain ⟨m, hm⟩ : ∃ m, s.setMark line epoch ctx =
      ({ s with marks := m } : State).modFrame line fun f => { f with epoch := epoch, ctx := if epoch = 0 then f.ctx else ctx } := by
    simp only [State.setMark]
    split <;> exact ⟨_, rfl⟩
  rw [hm]
  exact .trans (.of_eq rfl rfl rfl rfl rfl rfl) (modFrame_sameHomes _ _ fun f hf => ⟨hf, rfl, rfl⟩)

theorem freeShadow_sameHomes (s : State) (h : Shadow) : SameHomes s (s.freeShadow h) := .of_eq rfl rfl rfl rfl rfl rfl

theorem madeGood_sameHomes (s : State) (cells : List (Nat × Byte)) : SameHomes s (s.madeGood cells) := by
  rw [State.madeGood]
  refine .trans (t := if s.bad.isEmpty then s else { s with bad := s.bad.filter fun u => !coversUnit cells u }) ?_ (.foldl soil_sameHomes _ _)
  split
  · exact .refl s
  · exact .of_eq rfl rfl rfl rfl rfl rfl

/-! Writes at the homes. -/

theorem held_setByte (s : State) (k : Nat) (b : Byte) (key : Nat) : (s.setByte k b).held key = s.held key := by
  simp only [State.setByte]
  split
  · rfl
  · split <;> rfl

theorem hostHeld_setByte (s : State) (k : Nat) (b : Byte) (key : Nat) : (s.setByte k b).hostHeld key = s.hostHeld key := by
  simp only [State.setByte]
  split
  · rfl
  · split <;> rfl

theorem setByte_memoryOk {s : State} (h : Safety.MemoryOk s) (k : Nat) (b : Byte) : Safety.MemoryOk (s.setByte k b) := by
  obtain ⟨hm, hl, hh⟩ := h
  simp only [State.setByte]
  split
  · exact ⟨hm, write_wf _ _ hl, hh⟩
  · split
    · exact ⟨hm, hl, write_wf _ _ hh⟩
    · exact ⟨write_wf _ _ hm, hl, hh⟩

/-- R57: a byte written at its home is the byte read there, and no other changes. -/
theorem byte_setByte {s : State} (h : Safety.MemoryOk s) (k : Nat) (b : Byte) (key : Nat) :
    (s.setByte k b).byte key = if key = k then b else s.byte key := by
  obtain ⟨hm, hl, hh⟩ := h
  by_cases hk : key = k
  · subst hk
    rw [State.byte, held_setByte, hostHeld_setByte, if_pos rfl]
    by_cases h1 : s.held key = true
    · simp [State.setByte, h1, read_write _ _ _ hl]
    · by_cases h2 : s.hostHeld key = true
      · simp [State.setByte, h1, h2, read_write _ _ _ hh]
      · simp [State.setByte, h1, h2, read_write _ _ _ hm]
  · rw [State.byte, held_setByte, hostHeld_setByte, if_neg hk, State.byte]
    by_cases h1 : s.held k = true
    · simp [State.setByte, h1, read_write _ _ _ hl, hk]
    · by_cases h2 : s.hostHeld k = true
      · simp [State.setByte, h1, h2, read_write _ _ _ hh, hk]
      · simp [State.setByte, h1, h2, read_write _ _ _ hm, hk]

theorem byte_setBytes {s : State} (h : Safety.MemoryOk s) (cells : List (Nat × Byte)) (key : Nat) :
    (s.setBytes cells).byte key = (lastWrite cells key none).getD (s.byte key) := by
  induction cells generalizing s with
  | nil => rfl
  | cons c r ih =>
    obtain ⟨k, b⟩ := c
    rw [State.setBytes, ih (setByte_memoryOk h k b), byte_setByte h, lastWrite_cons]
    by_cases hk : key = k
    · subst hk; cases lastWrite r key none <;> simp
    · cases lastWrite r key none <;> simp [hk, Ne.symm hk]

/-- R57: cells committed at their homes: each key reads its last write, and every other key reads as before. -/
theorem byte_commitBytes {s : State} (h : Safety.MemoryOk s) (cells : List (Nat × Byte)) (key : Nat) :
    (s.commitBytes cells).byte key = (lastWrite cells key none).getD (s.byte key) := by
  have hgood : SameHomes (s.setBytes cells) (s.commitBytes cells) := (madeGood_sameHomes (s.setBytes cells) cells).trans (.of_eq rfl rfl rfl rfl rfl rfl)
  rw [hgood.byte, byte_setBytes h]

/-! Lines between the levels. -/

/-- Nothing differs but what the L2 and HBM hold, and the L2's tag records and replacement state. -/
def L2Only (s t : State) : Prop := { t with mem := s.mem, l2mem := s.l2mem, frames := s.frames, plru := s.plru } = s

/-- R57: a line that leaves the L2 takes its bytes to HBM, and no other line's there change. -/
theorem dropLine_spec {s : State} (h : Safety.MemoryOk s) (line : Nat) :
    (s.dropLine line).mem.wf = true ∧ (s.dropLine line).l2mem.wf = true
      ∧ (∀ k, ¬(s.held line = true ∧ line ≤ k ∧ k < line + 2048) → (s.dropLine line).mem.read k = s.mem.read k)
      ∧ L2Only s (s.dropLine line) := by
  obtain ⟨hm, hl, -⟩ := h
  rw [State.dropLine]
  split_ifs with hheld
  · refine ⟨copyLine_wf _ hm _ _, drop_wf _ _ hl, fun k hk => ?_, rfl⟩
    have := read_copyLine hl hm line line k
    rwa [if_neg fun hin => hk ⟨hheld, hin⟩] at this
  · exact ⟨hm, hl, fun _ _ => rfl, rfl⟩

theorem package_lt (s : State) : s.package < 512 := Nat.mod_lt _ (by decide)

/-- R53, R60: a line that may be in this package's L2 is one of global memory. -/
theorem isGl_of_package {s : State} {line : Nat} (h : paPackage line = s.package) : isGl line = true := by
  have := package_lt s
  simp only [paPackage, isGl, dsKey] at *
  exact decide_eq_true (by omega)

/-- R54, R57: what stood in the way that a new line takes has left the L2. -/
def evicted (s : State) (die : Nat) : Option Frame → State
  | some f => s.dropLine (lineAt s.package die f.sln)
  | none => s

/-- R56, R57: an allocation is an eviction, the copy of the line's bytes, and its tag record. -/
theorem allocate_eq {s : State} {u : LineUse}
    (hv : (s.victim (homeDie u.line) (l2Slice (stackLine u.line)) (l2Set (stackLine u.line))).isSome) (ctx : Nat) :
    ∃ (o : Option Frame) (f : Frame) (r : State), r = evicted s (homeDie u.line) o ∧ f.st ≠ 0 ∧ f.die = homeDie u.line ∧ f.sln = stackLine u.line
      ∧ ∃ plru, s.allocate u ctx = { r with l2mem := copyLine r.mem r.l2mem u.line u.line, frames := r.frames ++ [f], plru := plru } := by
  obtain ⟨w, hw⟩ := Option.isSome_iff_exists.mp hv
  simp only [State.allocate, hw]
  have hst (b : Bool) : (if b = true then 3 else 1) ≠ 0 := by cases b <;> decide
  exact ⟨_, _, _, rfl, hst _, rfl, rfl, _, rfl⟩

/-- R57: an eviction leaves the other lines of HBM as they were. -/
theorem evicted_spec {s : State} (h : Safety.MemoryOk s) {line : Nat} (hline : line % 2048 = 0) (hnot : s.held line = false) (o : Option Frame) :
    (evicted s (homeDie line) o).mem.wf = true ∧ (evicted s (homeDie line) o).l2mem.wf = true
      ∧ (∀ i, i < 2048 → (evicted s (homeDie line) o).mem.read (line + i) = s.mem.read (line + i))
      ∧ L2Only s (evicted s (homeDie line) o) := by
  cases o with
  | none => exact ⟨h.1, h.2.1, fun _ _ => rfl, rfl⟩
  | some f =>
    obtain ⟨hwf, hwl, hread, hrest⟩ := dropLine_spec h (lineAt s.package (homeDie line) f.sln)
    refine ⟨hwf, hwl, fun i hi => hread _ fun ⟨hheld, hlo, hhi⟩ => ?_, hrest⟩
    have hsame : s.held line = s.held (lineAt s.package (homeDie line) f.sln) := held_of_line s (by simp only [lineAt] at *; omega)
    rw [hnot, hheld] at hsame
    exact Bool.noConfusion hsame

/-- R56, R57: a line that the L2 takes on a miss reads there as it stood in HBM. -/
theorem allocate_spec {s : State} (h : Safety.MemoryOk s) {u : LineUse} (ha : s.allocates u = true) (hline : u.line % 2048 = 0)
    (hv : (s.victim (homeDie u.line) (l2Slice (stackLine u.line)) (l2Set (stackLine u.line))).isSome) (ctx : Nat) :
    (s.allocate u ctx).held u.line = true ∧ (∀ i, i < 2048 → (s.allocate u ctx).byte (u.line + i) = s.byte (u.line + i))
      ∧ L2Only s (s.allocate u ctx) := by
  simp only [State.allocates, State.cacheable, Bool.and_eq_true, beq_iff_eq, Bool.not_eq_true', decide_eq_true_eq] at ha
  obtain ⟨⟨⟨⟨⟨⟨⟨hhbm, hpkg⟩, -⟩, -⟩, -⟩, -⟩, hnot⟩, -⟩ := ha
  obtain ⟨o, f, r, hr, hst, hdie, hsln, plru, he⟩ := allocate_eq hv ctx
  obtain ⟨hwf, hwl, hread, hrest⟩ := evicted_spec h hline hnot o
  rw [← hr] at hwf hwl hread hrest
  have hmgmt : r.mgmt = s.mgmt := by have := congrArg State.mgmt hrest; exact this
  have hheld : (s.allocate u ctx).held u.line = true := by
    rw [he, held_iff]
    refine ⟨⟨isGl_of_package hpkg, hhbm, ?_⟩, f, List.mem_append_right _ List.mem_cons_self, hst, hdie, hsln⟩
    simpa only [State.package, hmgmt] using hpkg
  refine ⟨hheld, fun i hi => ?_, ?_⟩
  · have hi' : (u.line + i) / 2048 = u.line / 2048 := by omega
    have hbyte := byte_of_held ((held_of_line _ hi').trans hheld)
    rw [hbyte, he, byte_of_hbm_not_held ((line_facts hi').2.1.trans hhbm) ((held_of_line s hi').trans hnot)]
    have hcopy := read_copyLine hwf hwl u.line u.line (u.line + i)
    rw [if_pos (by omega), show u.line + i - u.line + u.line = u.line + i by omega, hread i hi] at hcopy
    exact hcopy
  · rw [he]
    exact hrest

end Sys2Proof.Proofs
end

section
/-! SUPPORT. Settlement of a line in the background (R113): the shadows it leaves, and the image that a rejecting epoch gives back. -/

namespace Sys2Proof.Proofs

open Sys2Proof.Machine

/-! Which epochs are open. -/

theorem find_map_any {κ α : Type} [DecidableEq κ] {g : κ × α → κ × α} {p : α → Bool} (hk : ∀ x, (g x).1 = x.1) (hp : ∀ x, p (g x).2 = p x.2)
    (t : Table κ α) (k : κ) : (Table.find (t.map g) k).any p = (Table.find t k).any p := by
  induction t with
  | nil => rfl
  | cons x r ih =>
    simp only [List.map_cons, Table.find, hk]
    by_cases h : x.1 = k
    · simp [h, hp]
    · simp [h, ih]

theorem epochOpen_eq_any (c : Ctx) (e : Nat) : c.epochOpen e = (c.epochs.find e).any fun x => x.state == .opened := by
  rw [Ctx.epochOpen]
  cases c.epochs.find e <;> rfl

/-- R103: no value that returns to free was open. -/
theorem epochOpen_sweep (n : Nat) (c : Ctx) (e : Nat) : (c.sweep n).epochOpen e = c.epochOpen e := by
  induction n generalizing c with
  | zero => rfl
  | succ n ih =>
    rw [Ctx.sweep, ih, epochOpen_eq_any, epochOpen_eq_any]
    refine find_map_any (fun x => ?_) (fun x => ?_) _ _
    · split <;> rfl
    · split
      · next h =>
        simp only [Ctx.freeable, Bool.and_eq_true, bne_iff_ne, ne_eq] at h
        obtain ⟨⟨⟨⟨hopen, -⟩, -⟩, -⟩, -⟩ := h
        simp [hopen]
      · rfl

theorem epochOpen_addPend (c : Ctx) (o : Nat) (d : Int) (e : Nat) : (c.addPend o d).epochOpen e = c.epochOpen e := by
  rw [epochOpen_eq_any, epochOpen_eq_any]
  refine find_map_any (fun x => ?_) (fun x => ?_) _ _ <;> split <;> rfl

theorem ctx_modCtx_ne (s : State) {n m : Nat} (h : m ≠ n) (f : Ctx → Ctx) : (s.modCtx n f).ctx m = s.ctx m := get_put_ne _ h _ _

/-- R113: freeing a shadow opens and closes no epoch. -/
theorem epochOpen_freeShadow (s : State) (h : Shadow) (c e : Nat) : ((s.freeShadow h).ctx c).epochOpen e = (s.ctx c).epochOpen e := by
  rw [State.freeShadow]
  by_cases hc : c = h.ctx
  · subst hc
    rw [ctx_modCtx, epochOpen_sweep, epochOpen_addPend]
    rfl
  · rw [ctx_modCtx_ne _ hc]
    rfl

/-! Freeing a list of shadows. -/

theorem foldl_freeShadow_shadows (l : List Shadow) (s : State) (h : Shadow) : h ∈ (l.foldl State.freeShadow s).shadows ↔ h ∈ s.shadows ∧ h ∉ l := by
  induction l generalizing s with
  | nil => simp
  | cons x r ih =>
    have hx : (s.freeShadow x).shadows = s.shadows.filter fun y => decide (y ≠ x) := rfl
    rw [List.foldl_cons, ih, hx]
    simp [and_assoc]

theorem foldl_freeShadow_open (l : List Shadow) (s : State) (c e : Nat) :
    ((l.foldl State.freeShadow s).ctx c).epochOpen e = (s.ctx c).epochOpen e := by
  induction l generalizing s with
  | nil => rfl
  | cons x r ih => rw [List.foldl_cons, ih, epochOpen_freeShadow]

/-- R113: after the background settlement of a line, the owner of every shadow of the line is open. -/
theorem settleBack_shadows {s : State} {line : Nat} {h : Shadow} (hm : h ∈ (s.settleBack line).shadows) (hl : h.line = line) :
    ((s.settleBack line).ctx h.ctx).epochOpen h.owner = true := by
  rw [State.settleBack, foldl_freeShadow_shadows] at hm
  obtain ⟨hin, hnot⟩ := hm
  rw [State.settleBack, foldl_freeShadow_open]
  simpa [List.mem_filter, hin, hl] using hnot

theorem settleBack_homeOnly (s : State) (line : Nat) : Laws.HomeOnly s (s.settleBack line) :=
  (Laws.settle_homeOnly s line).trans (.foldl Laws.freeShadow_homeOnly _ _)

theorem settleBack_sameHomes (s : State) (line : Nat) : SameHomes (s.settle line) (s.settleBack line) := .foldl freeShadow_sameHomes _ _

theorem foldl_freeShadow_marks (l : List Shadow) (s : State) : (l.foldl State.freeShadow s).marks = s.marks := by
  induction l generalizing s with
  | nil => rfl
  | cons x r ih => exact ih _

theorem mark_settleBack (s : State) (line k : Nat) : (s.settleBack line).mark k = (s.settle line).mark k := by
  rw [State.mark, State.mark, State.settleBack, foldl_freeShadow_marks]

/-! The image of a rejecting epoch. -/

/-- R113, R114: the restored line reads as its shadow's slot did. -/
theorem byte_restoreLine {s : State} (hok : Safety.MemoryOk s) {h : Shadow} (hline : h.line % 2048 = 0) (hhbm : paIsHbm h.line = true) {i : Nat}
    (hi : i < 2048) : (s.restoreLine h).byte (h.line + i) = s.mem.read (h.slot + i) := by
  obtain ⟨hm, hl, -⟩ := hok
  have hi' : (h.line + i) / 2048 = h.line / 2048 := by omega
  have hcopy {dst : Memory} (hd : dst.wf = true) : (copyLine s.mem dst h.slot h.line).read (h.line + i) = s.mem.read (h.slot + i) := by
    rw [read_copyLine hm hd, if_pos (by omega), show h.line + i - h.line + h.slot = h.slot + i by omega]
  have hsame (u : State) : SameHomes u (({ u with bad := s.copyBad h.slot h.line } : State).soil h.line) :=
    .trans (.of_eq rfl rfl rfl rfl rfl rfl) (soil_sameHomes _ _)
  rw [State.restoreLine]
  by_cases hheld : s.held h.line = true
  · simp only [hheld, if_true]
    have hbyte : ({ s with l2mem := copyLine s.mem s.l2mem h.slot h.line } : State).byte (h.line + i) = _ :=
      byte_of_held ((held_of_line s hi').trans hheld)
    exact ((hsame _).byte _).trans (hbyte.trans (hcopy hl))
  · rw [Bool.not_eq_true] at hheld
    simp only [hheld, Bool.false_eq_true, if_false]
    have hbyte : ({ s with mem := copyLine s.mem s.mem h.slot h.line } : State).byte (h.line + i) = _ :=
      byte_of_hbm_not_held ((line_facts hi').2.1.trans hhbm) ((held_of_line s hi').trans hheld)
    exact ((hsame _).byte _).trans (hbyte.trans (hcopy hm))

theorem mark_setMark_zero (s : State) (line ctx : Nat) : (s.setMark line 0 ctx).mark line = (0, 0) := by
  have herase (t : Table Nat (Nat × Nat)) : (t.erase line).get line (0, 0) = (0, 0) := by
    induction t with
    | nil => rfl
    | cons x r ih =>
      rw [Table.erase, List.filter_cons]
      split
      · next h => rw [Table.get, if_neg (by simpa using h)]; exact ih
      · exact ih
  exact herase s.marks

/-- R113: a line whose rejecting epoch has its shadow there, pushed from epoch 0, settles in one turn. -/
theorem settle_rejecting {s : State} {line : Nat} {h : Shadow} {p n : Nat} (hm : s.mark line = (h.owner, h.ctx)) (ho : h.owner ≠ 0)
    (hx : (s.ctx h.ctx).epochs.find h.owner = some ⟨.rejecting, p, n⟩) (hs : s.shadowOf line h.ctx h.owner = some h) (hp : h.prior = 0) :
    s.settle line = ((s.restoreLine h).setMark line 0 h.ctx).freeShadow h := by
  have hclosed : (s.ctx h.ctx).epochOpen h.owner = false := by rw [epochOpen_eq_any, hx]; rfl
  rw [State.settle, settleLoop_succ hm ho hclosed, settleOnce_rejecting hx rfl hs, hp]
  have hmark : (((s.restoreLine h).setMark line 0 h.ctx).freeShadow h).mark line = (0, 0) := mark_setMark_zero _ _ h.ctx
  exact settleLoop_of_mark_zero (congrArg Prod.fst hmark) 255

theorem exec_settleBackground {s : State} {line : Nat} (hw : s.cur.work = some (.settleBackground line)) :
    exec .settleBackground s = .next (s.settleBack line) := by
  have hexec : exec .settleBackground s = execSettleBackground s := rfl
  simp only [hexec, execSettleBackground, hw]

end Sys2Proof.Proofs
end

section
/-! SUPPORT. Answers of pending operations (R78, R95), little-endian numbers (R164), and how an access at its home begins (R56, R57, R368). -/

namespace Sys2Proof.Proofs

open Sys2Proof.Machine

/-! Pending operations. -/

/-- A change of pending operations that keeps their numbers changes the one that a number names. -/
theorem find_map_req {g : Req → Req} (hg : ∀ q, (g q).id = q.id) (l : List Req) (id : Nat) :
    (l.map g).find? (fun q => q.id == id) = (l.find? fun q => q.id == id).map g := by
  rw [List.find?_map]
  have : ((fun q : Req => q.id == id) ∘ g) = fun q => q.id == id := funext fun q => by rw [Function.comp, hg]
  rw [this]

theorem id_of_req {s : State} {id : Nat} {r : Req} (h : s.req id = some r) : r.id = id := by simpa using List.find?_some h

/-- What modReq does to the operation it names. -/
theorem req_modReq {s : State} {id : Nat} {r : Req} (h : s.req id = some r) {f : Req → Req} (hf : ∀ q, (f q).id = q.id) :
    (s.modReq id f).req id = some (f r) := by
  have hfind := find_map_req (g := fun q => if q.id = id then f q else q) (fun q => by split <;> simp [hf]) s.reqs id
  exact hfind.trans (by rw [← State.req, h, Option.map_some, if_pos (id_of_req h)])

theorem req_dropReq (s : State) (id : Nat) : (s.dropReq id).req id = none := by
  simp [State.req, State.dropReq]

/-- R95: an operation that no merged request stands for ends with its answer, and its result is on its way. -/
theorem finish_eq {s : State} {id : Nat} {q : Req} (hc : ∀ c ∈ s.combines, c.merged ≠ id) (hq : s.req id = some q) (ha : q.answer = none) (a : Answer) :
    s.finish id a = ((s.modReq id fun q => { q with answer := some a, held := false }).entryDone id a).post (.longLatencyResult id) := by
  have hnone : (s.combines.find? fun c => c.merged == id) = none := List.find?_eq_none.mpr fun c hmem => by simpa using hc c hmem
  simp [State.finish, State.answer, hnone, hq, ha, State.modReq]

/-- R78, R453: an operation whose reply comes back is answered; nothing differs but the operations, reply tables and the pending work. -/
theorem reply_spec {s : State} {id : Nat} {q : Req} (hc : ∀ c ∈ s.combines, c.merged ≠ id) (hq : s.req id = some q) (ha : q.answer = none)
    (hr : s.replyOk q = true) (a : Answer) :
    Safety.Answered (s.reply id a) id a ∧ ∃ l p g, s.reply id a = { s with reqs := l, replies := p, agenda := g } := by
  have he : s.reply id a = s.finish id a := by simp only [State.reply, hq, hr, if_true]
  rw [he, finish_eq hc hq ha]
  have hreq := req_modReq hq (f := fun q => { q with answer := some a, held := false }) fun _ => rfl
  exact ⟨⟨⟨_, hreq, rfl⟩, List.mem_append_right _ List.mem_cons_self⟩, _, _, _, rfl⟩

/-! Little-endian numbers. -/

/-- R164: the bits of a little-endian number are its bytes' in order. -/
theorem testBit_natOfBytes (l : List Byte) (k : Nat) : (natOfBytes l).testBit k = (l.getD (k / 8) 0).getLsbD (k % 8) := by
  induction l generalizing k with
  | nil => simp [natOfBytes]
  | cons b r ih =>
    rw [natOfBytes, Nat.add_comm, show 256 = 2 ^ 8 from rfl, Nat.testBit_two_pow_mul_add _ b.isLt]
    split
    · next h => rw [Nat.div_eq_of_lt h, Nat.mod_eq_of_lt h]; rfl
    · next h =>
      obtain ⟨j, rfl⟩ : ∃ j, k = j + 8 := ⟨k - 8, by omega⟩
      rw [Nat.add_sub_cancel, ih, Nat.add_mod_right, Nat.add_div_right _ (by decide)]
      rfl

/-- R304: the bits of a value read of n bytes: theirs, and above them the sign or zero. -/
theorem getLsbD_readValue {l : List Byte} (hn : 1 ≤ l.length) (sx : Bool) {k : Nat} (hk : k < 64) :
    (readValue l.length sx (natOfBytes l)).getLsbD k =
      if k < 8 * l.length then (l.getD (k / 8) 0).getLsbD (k % 8) else (sx && (l.getD (l.length - 1) 0).getLsbD 7) := by
  cases sx with
  | false =>
    simp only [readValue, Bool.false_eq_true, if_false, BitVec.getLsbD_ofNat, hk, decide_true, Bool.true_and, Bool.false_and, testBit_natOfBytes]
    split
    · rfl
    · rw [List.getD_eq_default _ _ (by omega)]; simp
  | true =>
    have hmsb : (BitVec.ofNat (8 * l.length) (natOfBytes l)).msb = (l.getD (l.length - 1) 0).getLsbD 7 := by
      rw [BitVec.msb_eq_getLsbD_last, BitVec.getLsbD_ofNat, testBit_natOfBytes, show (8 * l.length - 1) / 8 = l.length - 1 by omega,
        show (8 * l.length - 1) % 8 = 7 by omega, decide_eq_true (by omega), Bool.true_and]
    simp only [readValue, if_true, BitVec.getLsbD_signExtend, hk, decide_true, Bool.true_and, hmsb, BitVec.getLsbD_ofNat, testBit_natOfBytes]
    split
    · next h => rw [decide_eq_true h, Bool.true_and]
    · rfl

/-- The value that a read of n bytes from a key up gives. -/
def readAt (s : State) (key n : Nat) (sx : Bool) : Word := readValue n sx (natOfBytes ((keysOf key n).map s.byte))

/-- R57, R164, R304: the read's bytes are those that stand at the keys, and what lies above them is the sign or zero. -/
theorem readAt_spec (s : State) (key : Nat) {n : Nat} (sx : Bool) (h1 : 1 ≤ n) (h8 : n ≤ 8) :
    (∀ i, i < n → (readAt s key n sx).extractLsb' (8 * i) 8 = s.byte (key + i))
      ∧ ∀ i, 8 * n ≤ i → i < 64 → (readAt s key n sx).getLsbD i = (sx && (s.byte (key + n - 1)).getLsbD 7) := by
  have hlen : ((keysOf key n).map s.byte).length = n := by simp [keysOf]
  have hget {i : Nat} (hi : i < n) : ((keysOf key n).map s.byte).getD i 0 = s.byte (key + i) := by simp [keysOf, hi]
  have hbits {k : Nat} (hk : k < 64) := getLsbD_readValue (l := (keysOf key n).map s.byte) (by omega) sx hk
  rw [hlen] at hbits
  refine ⟨fun i hi => BitVec.eq_of_getLsbD_eq fun j hj => ?_, fun i hi hi64 => ?_⟩
  · rw [BitVec.getLsbD_extractLsb', decide_eq_true hj, Bool.true_and, readAt, hbits (by omega), if_pos (by omega),
      show (8 * i + j) / 8 = i by omega, show (8 * i + j) % 8 = j by omega, hget hi]
  · rw [readAt, hbits hi64, if_neg (by omega), hget (by omega), show key + (n - 1) = key + n - 1 by omega]

/-! The access as it meets its line. -/

/-- R56, R57, R368: the state in which the access of a request to a line has begun. -/
def taken (s : State) (r : Req) (u : LineUse) : State :=
  if r.came = 0 then
    (match r.tileOf with
      | some n => s.countL2 n u
      | none => s).modReq r.id fun q => { q with came := s.tick + 1 }
  else s

theorem countL2_eq (s : State) (n : Nat) (u : LineUse) : ∃ tiles, s.countL2 n u = { s with tiles := tiles } := by
  rw [State.countL2]
  split_ifs <;> exact ⟨_, rfl⟩

/-- R57, R368: beginning an access counts it, and marks the request. -/
theorem taken_eq {s : State} {r : Req} (hr : s.req r.id = some r) (u : LineUse) :
    ∃ l tiles, taken s r u = { s with reqs := l, tiles := tiles } ∧ ∃ c, (taken s r u).req r.id = some { r with came := c } := by
  have hmod {t : State} (ht : t.req r.id = some r) := req_modReq ht (f := fun q => { q with came := s.tick + 1 }) fun _ => rfl
  rw [taken]
  split
  · cases r.tileOf with
    | none => exact ⟨_, _, rfl, _, hmod hr⟩
    | some n =>
      obtain ⟨tiles, he⟩ := countL2_eq s n u
      simp only [he]
      exact ⟨_, _, rfl, _, hmod hr⟩
  · exact ⟨_, _, rfl, _, hr⟩

theorem hit_eq (s : State) (u : LineUse) : ∃ plru, s.hit u = { s with plru := plru } := by
  rw [State.hit]
  split <;> exact ⟨_, rfl⟩

/-- The access of the request has begun: nothing differs but the request's mark, the replacement state and the counters of tiles. -/
def Began (s t : State) (r : Req) : Prop :=
  (∃ l p tiles, t = { s with reqs := l, plru := p, tiles := tiles }) ∧ ∃ c, t.req r.id = some { r with came := c }

theorem Began.sameHomes {s t : State} {r : Req} (h : Began s t r) : SameHomes s t := by
  obtain ⟨⟨l, p, tiles, rfl⟩, -⟩ := h
  exact .of_eq rfl rfl rfl rfl rfl rfl

theorem exec_l2Access (s : State) : exec .l2Access s = execL2Access s := rfl

/-- R57: an access of a line goes by what the home finds as it begins. -/
theorem execL2Access_line {s : State} {id : Nat} {r : Req} {u : LineUse} (hw : s.cur.work = some (.l2Access id)) (hr : s.req id = some r)
    (ha : r.answer = none) (hp : s.mayPerform r = true) (hu : r.use = some u) (hf : s.filling u.line = false) (hm : u.mtype ≠ 4) :
    execL2Access s = .next (
      if s.allocates u && r.op != .flush && r.op != .inval then
        if (taken s r u).fillsFor r then
          ((taken s r u).modReq id fun q => { q with held := true, came := (taken s r u).tick + 1 }).post (.l2FillComplete u.line)
        else (((taken s r u).prepare u).allocate u r.ctx).performAccess r
      else (if r.came = 0 then (taken s r u).hit u else taken s r u).performAccess r) := by
  have hid := id_of_req hr
  subst hid
  obtain ⟨l, tiles, he, -⟩ := taken_eq hr u
  have hfill : (taken s r u).filling u.line = false := by rw [he]; exact hf
  have hall : (taken s r u).allocates u = s.allocates u := by rw [he]; rfl
  simp only [execL2Access, hw, hr, ha, hp, hu, Option.isSome_none, Bool.not_true, Bool.false_eq_true, if_false]
  show (if (taken s r u).filling u.line then _ else if (taken s r u).allocates u && _ && _ then (if (taken s r u).fillsFor r then _ else _)
    else if u.mtype = 4 then _ else _) = _
  rw [hfill, hall, if_neg (by decide), if_neg hm]
  split
  · split <;> rfl
  · rfl

/-- R57: an access that need not fill its line is performed at once. -/
theorem execL2Access_performs {s : State} {id : Nat} {r : Req} (hw : s.cur.work = some (.l2Access id)) (hr : s.req id = some r)
    (ha : r.answer = none) (hp : s.mayPerform r = true)
    (hu : ∀ w, r.use = some w → w.mtype < 3 ∧ s.filling w.line = false ∧ s.allocates w = false) :
    ∃ t, exec .l2Access s = .next (t.performAccess r) ∧ Began s t r := by
  have hid := id_of_req hr
  subst hid
  rw [exec_l2Access]
  cases huse : r.use with
  | none =>
    refine ⟨s, ?_, ⟨_, _, _, rfl⟩, r.came, hr⟩
    simp [execL2Access, hw, hr, ha, hp, huse]
  | some u =>
    obtain ⟨hm, hf, hall⟩ := hu u huse
    refine ⟨_, (execL2Access_line hw hr ha hp huse hf (by omega)).trans (by rw [hall]; rfl), ?_⟩
    obtain ⟨l, tiles, he, c, hc⟩ := taken_eq hr u
    split
    · obtain ⟨p, hp⟩ := hit_eq (taken s r u) u
      rw [hp]
      exact ⟨⟨l, p, tiles, by rw [he]⟩, c, hc⟩
    · exact ⟨⟨l, s.plru, tiles, he⟩, c, hc⟩

end Sys2Proof.Proofs
end

section
/-! SUPPORT. What performing a read or a store does (R48, R57, R105), and what the order of a task looks at when a fill ends (R57, R69). -/

namespace Sys2Proof.Proofs

open Sys2Proof.Machine

/-! Reads. -/

/-- R104, R113: the line of a request is of epoch 0, and of no page that the host shares. -/
def Plain (s : State) (r : Req) : Prop := ∀ w, r.use = some w → (s.mark w.line).1 = 0 ∧ w.mtype < 3

/-- R113: a plain line needs no settlement before it is served. -/
theorem Plain.prepare {s : State} {r : Req} (h : Plain s r) {w : LineUse} (hw : r.use = some w) : s.prepare w = s := by
  obtain ⟨hm, ht⟩ := h w hw
  exact Laws.prepare_of_mark_zero hm (by omega)

/-- R132: outside a waved task a read takes what stands at its home. -/
theorem readFor_eq_byte {s : State} {r : Req} (h : ∀ u, r.task = some u → (s.task u).waved = false) : s.readFor r = s.byte := by
  funext key
  rw [State.readFor]
  split
  · next u hu => simp [State.readByte, State.forwarded, h u hu]
  · rfl

/-- R57, R304: a read of a plain line answers what stands there. -/
theorem performAccess_load {s : State} {r : Req} {n : Nat} {sx : Bool} (hop : r.op = .load n sx) (hp : Plain s r) (hb : s.badIn r.loc n = none)
    (hw : ∀ u, r.task = some u → (s.task u).waved = false) :
    s.performAccess r = s.reply r.id { r0 := readAt s r.loc n sx, r1 := readAt s r.loc n sx } := by
  rw [State.performAccess, hop]
  cases hu : r.use with
  | none => simp only [State.readFault, hb, State.readNum, readFor_eq_byte hw]; rfl
  | some w => simp only [hp.prepare hu, State.readFault, hb, State.readNum, readFor_eq_byte hw]; rfl

/-! Stores. -/

theorem openEpoch_zero (c : Ctx) (n : Nat) : c.openEpoch n 0 = 0 := by cases n <;> simp [Ctx.openEpoch]

/-- R105: a store that no snapshot covers pushes nothing. -/
theorem pushedFor_plain {s : State} {r : Req} (hp : Plain s r) (he : ∀ w, r.use = some w → w.epoch = 0) : s.pushedFor r = some s := by
  rw [State.pushedFor]
  cases hu : r.use with
  | none => rfl
  | some w => simp [hp.prepare hu, State.push, he w hu, openEpoch_zero]

theorem performAccess_store {s : State} {r : Req} {b : List (Nat × Byte)} (hop : r.op = .store b) (hp : Plain s r) :
    s.performAccess r = s.performStore r b := by
  rw [State.performAccess, hop]
  cases hu : r.use with
  | none => rfl
  | some w => simp only [hp.prepare hu]

/-- R49: a local store is performed whole. -/
theorem performStore_local {s : State} {r : Req} (hu : r.use = none) (b : List (Nat × Byte)) :
    s.performStore r b = (s.storeBytes r b).dropReq r.id := by
  simp only [State.performStore, State.pushedFor, hu]

/-- R48: a store of a line is performed by one of its aligned parts. -/
theorem performStore_line {s : State} {r : Req} (hp : Plain s r) (he : ∀ w, r.use = some w → w.epoch = 0) {w : LineUse} (hu : r.use = some w)
    (b : List (Nat × Byte)) :
    s.performStore r b =
      let n := s.nextPart (b.map (·.1))
      let t := s.storeBytes r (b.filter fun c => c.1 / 8 == n)
      if (b.filter fun c => c.1 / 8 != n).isEmpty then t.stored r
      else (t.modReq r.id fun q => { q with op := .store (b.filter fun c => c.1 / 8 != n), got := q.got ++ b.filter fun c => c.1 / 8 == n }).post
        (.l2Access r.id) := by
  simp only [State.performStore, pushedFor_plain hp he, hu]

theorem madeGood_homeOnly (s : State) (cells : List (Nat × Byte)) : Laws.HomeOnly s (s.madeGood cells) := by
  rw [State.madeGood]
  refine .trans (t := if s.bad.isEmpty then s else { s with bad := s.bad.filter fun u => !coversUnit cells u }) ?_ (.foldl (f := State.soil) (fun _ _ => rfl) _ _)
  split <;> rfl

/-- R131: what passing a store's siblings changes of them. -/
theorem passSiblings_eq (s : State) (r : Req) (keys : List Nat) :
    ∃ g : Req → Req, s.passSiblings r keys = { s with reqs := s.reqs.map g } ∧ (∀ q, (g q).id = q.id) ∧ ∀ q, q.id = r.id → g q = q := by
  refine ⟨_, rfl, fun q => ?_, fun q hq => ?_⟩
  · dsimp only
    split
    · split <;> rfl
    · rfl
  · simp only [hq, bne_self_eq_false, Bool.and_false, Bool.false_and, Bool.false_eq_true, if_false]
    split <;> rfl

/-- R57, R65: the bytes of a store at their home; the request itself, the tasks, and what replies look at stand. -/
theorem storeBytes_spec {s : State} (hok : Safety.MemoryOk s) (r : Req) (cells : List (Nat × Byte)) :
    (∀ key, (s.storeBytes r cells).byte key = (lastWrite cells key none).getD (s.byte key))
      ∧ (∀ q, s.req r.id = some q → (s.storeBytes r cells).req r.id = some q)
      ∧ (s.storeBytes r cells).tasks = s.tasks ∧ (s.storeBytes r cells).combines = s.combines
      ∧ (s.storeBytes r cells).mgmt = s.mgmt ∧ (s.storeBytes r cells).ports = s.ports := by
  obtain ⟨g, hg, hid, hkeep⟩ := passSiblings_eq s r (cells.map (·.1))
  have hhome : Laws.HomeOnly (s.passSiblings r (cells.map (·.1))) (s.storeBytes r cells) :=
    (Laws.commitBytes_homeOnly ..).trans (madeGood_homeOnly ..)
  have hgood : SameHomes ((s.passSiblings r (cells.map (·.1))).commitBytes cells) (s.storeBytes r cells) := madeGood_sameHomes ..
  have hsame : SameHomes s (s.passSiblings r (cells.map (·.1))) := by rw [hg]; exact .of_eq rfl rfl rfl rfl rfl rfl
  refine ⟨fun key => ?_, fun q hq => ?_, ?_, ?_, ?_, ?_⟩
  · rw [hgood.byte, byte_commitBytes (hsame.memoryOk hok), hsame.byte]
  · rw [State.req, hhome.reqs, hg]
    exact (find_map_req hid _ _).trans (by rw [← State.req, hq, Option.map_some, hkeep q (id_of_req hq)])
  · rw [hhome.tasks, hg]
  · have := congrArg State.combines hhome; rw [hg] at this; exact this
  · rw [hhome.mgmt, hg]
  · have := congrArg State.ports hhome; rw [hg] at this; exact this

/-! Parts of an access (R48). -/

theorem nextPart_mem (s : State) {keys : List Nat} (h : 0 < (partsOf keys).length) : s.nextPart keys ∈ partsOf keys := by
  have hlt : Config.freeNat s.tick % (partsOf keys).length < (partsOf keys).length := Nat.mod_lt _ h
  simp only [State.nextPart, List.getD_eq_getElem _ _ hlt]
  exact List.getElem_mem hlt

theorem div_mem_partsOf {b : List (Nat × Byte)} {c : Nat × Byte} (hc : c ∈ b) : c.1 / 8 ∈ partsOf (b.map (·.1)) := by
  rw [partsOf, List.mem_eraseDups]
  exact List.mem_map_of_mem (List.mem_map_of_mem hc)

/-- A narrow access is its next part. -/
theorem div_eq_nextPart (s : State) {b : List (Nat × Byte)} (h : (partsOf (b.map (·.1))).length ≤ 1) {c : Nat × Byte} (hc : c ∈ b) :
    c.1 / 8 = s.nextPart (b.map (·.1)) := by
  have hmem := div_mem_partsOf hc
  have hnext := nextPart_mem s (List.length_pos_of_mem hmem)
  obtain ⟨x, hx⟩ := List.length_eq_one_iff.mp (Nat.le_antisymm h (List.length_pos_of_mem hmem))
  rw [hx, List.mem_singleton] at hmem hnext
  rw [hmem, hnext]

/-- A wide access has more than its next part. -/
theorem rest_of_wide {b : List (Nat × Byte)} (h : 1 < (partsOf (b.map (·.1))).length) (n : Nat) : (b.filter fun c => c.1 / 8 != n).isEmpty = false := by
  by_contra hnone
  rw [Bool.not_eq_false, List.isEmpty_iff, List.filter_eq_nil_iff] at hnone
  have hall : ∀ x ∈ (b.map (·.1)).map (· / 8), x = n := fun x hx => by
    obtain ⟨k, hk, rfl⟩ := List.mem_map.mp hx
    obtain ⟨c, hc, rfl⟩ := List.mem_map.mp hk
    simpa using hnone c hc
  have hone : (partsOf (b.map (·.1))).length ≤ 1 := by
    rw [partsOf]
    match hl : (b.map (·.1)).map (· / 8) with
    | [] => simp
    | x :: r =>
      rw [hl] at hall
      have hr : r.filter (fun y => !y == x) = [] := List.filter_eq_nil_iff.mpr fun y hy => by
        simp [hall y (List.mem_cons_of_mem _ hy), hall x List.mem_cons_self]
      simp [List.eraseDups_cons, hr]
  omega

/-! A fill. -/

/-- R57: a request is no longer held. -/
def unheld (s : State) (id : Nat) : State := s.modReq id fun q => { q with held := false }

theorem unheld_reqs (s : State) (id : Nat) : (unheld s id).reqs = s.reqs.map fun q => { q with held := q.held && q.id != id } := by
  refine List.map_congr_left fun q _ => ?_
  by_cases h : q.id = id
  · simp [h]
  · have : (q.id != id) = true := by simpa using h
    simp [h, this]

theorem req_unheld {s : State} {id : Nat} {r : Req} (h : s.req id = some r) : (unheld s id).req id = some { r with held := false } :=
  req_modReq h fun _ => rfl

theorem unheld_sameHomes (s : State) (id : Nat) : SameHomes s (unheld s id) := .of_eq rfl rfl rfl rfl rfl rfl

theorem any_congr_mem {α : Type} {l : List α} {p q : α → Bool} (h : ∀ a ∈ l, p a = q a) : l.any p = l.any q := by
  rw [Bool.eq_iff_iff, List.any_eq_true, List.any_eq_true]
  exact exists_congr fun a => and_congr_right fun ha => by rw [h a ha]

section
variable {s t : State} {held : Req → Bool}

/-- Whether requests are held does not count for the order of a task. -/
theorem inOrder_of_held (hr : t.reqs = s.reqs.map fun q => { q with held := held q }) (ht : t.tasks = s.tasks) (q : Req) : t.inOrder q = s.inOrder q := by
  have hperformed (u : TaskRef) : t.performed u = s.performed u := funext fun x => by
    rw [State.performed, State.task, hr, ht, List.any_map]; rfl
  have hfenced (u : TaskRef) : t.fenced u = s.fenced u := funext fun x => by
    rw [State.fenced, State.task, hr, ht, List.any_map]; rfl
  have haccess : t.behindAccess q = s.behindAccess q := by
    rw [State.behindAccess, hr, List.any_map]; rfl
  have hwave : t.behindWave q = s.behindWave q := by
    rw [State.behindWave, hr, List.any_map]; rfl
  simp only [State.inOrder, State.released, hperformed, hfenced, haccess, hwave]

end

/-- R57, R69: a read that is no longer held may be performed as before: no other request was held, and no WENQ was. -/
theorem mayPerform_unheld {s : State} {r : Req} {n : Nat} {sx : Bool} (hheld : (s.reqs.filter fun q => q.held) = [r]) (hop : r.op = .load n sx) :
    (unheld s r.id).mayPerform r = s.mayPerform r := by
  have hr := unheld_reqs s r.id
  have ht : (unheld s r.id).tasks = s.tasks := rfl
  have hw : (unheld s r.id).words = s.words := rfl
  generalize unheld s r.id = t at hr ht hw ⊢
  have hone {q : Req} (hq : q ∈ s.reqs) (h : q.held = true) : q = r := by
    have : q ∈ s.reqs.filter fun q => q.held := List.mem_filter.mpr ⟨hq, h⟩
    rwa [hheld, List.mem_singleton] at this
  have hother {q : Req} (hq : q ∈ s.reqs) (hne : q.id ≠ r.id) : q.held = false := by
    by_contra h
    exact hne (by rw [hone hq (by simpa using h)])
  have hbusy {q : Req} (hq : q ∈ s.reqs) : ({ q with held := q.held && q.id != r.id } : Req).wenqBusy = q.wenqBusy := by
    by_cases h : q.held = true
    · obtain rfl := hone hq h
      simp [Req.wenqBusy, hop]
    · rw [Bool.not_eq_true] at h
      rw [show ({ q with held := q.held && q.id != r.id } : Req) = q by rw [h, Bool.false_and, ← h]]
  have hsame {q : Req} (hq : q ∈ s.reqs) (hne : q.id ≠ r.id) : ({ q with held := q.held && q.id != r.id } : Req) = q := by
    rw [hother hq hne, Bool.false_and, ← hother hq hne]
  have hwenq (q : Req) : (t.reqs.any fun x => x.wenqBusy && x.loc == q.loc && x.id != q.id) = s.reqs.any fun x => x.wenqBusy && x.loc == q.loc && x.id != q.id := by
    rw [hr, List.any_map]
    exact any_congr_mem fun x hx => congrArg (fun b => b && x.loc == q.loc && x.id != q.id) (hbusy hx)
  have hholds (q : Req) : t.holdsLine q = s.holdsLine q := by
    have hpool : t.poolUsed q.loc = s.poolUsed q.loc := by rw [State.poolUsed, State.poolUsed, hw]
    rw [State.holdsLine, State.holdsLine, inOrder_of_held hr ht, hpool, hw, hwenq]
  have hline : t.lineBefore r = s.lineBefore r := by
    rw [State.lineBefore, State.lineBefore]
    cases r.use with
    | none => rfl
    | some u =>
      simp only [hr, List.any_map]
      congr 1
      refine any_congr_mem fun q hq => ?_
      by_cases hne : q.id = r.id
      · simp [hne]
      · simp only [Function.comp, hsame hq hne, hholds]
  rw [State.mayPerform, State.mayPerform, inOrder_of_held hr ht, hline]

end Sys2Proof.Proofs
end

section
/-! SUPPORT. Requests served at their home: reads, stores, misses and fills (R48, R53, R56, R57, R456). -/

namespace Sys2Proof.Proofs

open Sys2Proof.Machine

theorem filter_eq_of_imp {α : Type} {l : List α} {p q : α → Bool} {a : α} (h : l.filter q = [a]) (hpq : ∀ x, p x = true → q x = true) (ha : p a = true) :
    l.filter p = [a] := by
  have hand : (fun x => p x && q x) = p := funext fun x => by
    cases hp : p x
    · rfl
    · rw [hpq x hp]; rfl
  have hff := List.filter_filter (p := p) (q := q) (l := l)
  rw [hand, h] at hff
  rw [← hff]
  simp [ha]

theorem held_of_only {l : List Req} {r : Req} (h : (l.filter fun q => q.held) = [r]) : r.held = true := by
  have hmem : r ∈ l.filter fun q => q.held := by rw [h]; exact List.mem_cons_self
  exact (List.mem_filter.mp hmem).2

/-- R57: the one read that a fill has held is performed when it ends. -/
theorem serveHeld_one {s : State} {r : Req} {w : LineUse} {n : Nat} {sx : Bool} (hheld : (s.reqs.filter fun q => q.held) = [r]) (hu : r.use = some w)
    (hop : r.op = .load n sx) (hp : s.mayPerform r = true) :
    s.serveHeld w.line true 1 = (unheld s r.id).performAccess { r with held := false } := by
  have hmay : (s.modReq r.id fun q => { q with held := false }).mayPerform r = true := (mayPerform_unheld hheld hop).trans hp
  have hfirst : firstHeld [r] = some r := rfl
  rw [State.serveHeld, filter_eq_of_imp hheld (fun x hx => by simp only [Bool.and_eq_true] at hx; exact hx.1.1) (by simp [held_of_only hheld, hu, hop])]
  simp only [hfirst, hu, if_true, hmay, State.serveHeld, State.performHeld, hop]
  rfl

/-- R57: the fill of a line that one read waits for allocates the line and serves the read. -/
theorem execL2FillComplete_one {s : State} {r : Req} {w : LineUse} (hw : s.cur.work = some (.l2FillComplete w.line))
    (hheld : (s.reqs.filter fun q => q.held) = [r]) (hu : r.use = some w) (hp : Plain s r) (hall : s.allocates w = true) :
    exec .l2FillComplete s = .next ((s.allocate w r.ctx).serveHeld w.line true 1) := by
  have hexec : exec .l2FillComplete s = execL2FillComplete s := rfl
  have hlist : (s.reqs.filter fun q => q.held && q.use.any fun u => u.line == w.line) = [r] :=
    filter_eq_of_imp hheld (fun x hx => by simp only [Bool.and_eq_true] at hx; exact hx.1) (by simp [held_of_only hheld, hu])
  have hfirst : firstHeld [r] = some r := rfl
  simp only [hexec, execL2FillComplete, hw, hlist, hfirst, hu, hp.prepare hu, hall, if_true, List.length_singleton]

theorem L2Only.exists_eq {s t : State} (h : L2Only s t) : ∃ m l f p, t = { s with mem := m, l2mem := l, frames := f, plru := p } :=
  ⟨t.mem, t.l2mem, t.frames, t.plru, by conv_rhs => rw [← h]⟩

/-- A request that its home may perform now, and whose answer goes to nobody else (R69, R79, R95), of a task that is not waved (R132). -/
structure Served (s : State) (id : Nat) (r : Req) : Prop where
  req : s.req id = some r
  unanswered : r.answer = none
  may : s.mayPerform r = true
  alone : ∀ c ∈ s.combines, c.merged ≠ id
  back : s.replyOk r = true
  unwaved : ∀ u, r.task = some u → (s.task u).waved = false

/-- The request's line is plain, no snapshot covers it, and the home need not fill it. -/
def Direct (s : State) (r : Req) : Prop :=
  ∀ w, r.use = some w → (s.mark w.line).1 = 0 ∧ w.mtype < 3 ∧ w.epoch = 0 ∧ s.filling w.line = false ∧ s.allocates w = false

theorem Direct.plain {s : State} {r : Req} (h : Direct s r) : Plain s r := fun w hw => by
  obtain ⟨hm, ht, -⟩ := h w hw
  exact ⟨hm, ht⟩

theorem Direct.epoch {s : State} {r : Req} (h : Direct s r) : ∀ w, r.use = some w → w.epoch = 0 := fun w hw => by
  obtain ⟨-, -, he, -⟩ := h w hw
  exact he

/-- R453: whether a reply comes back depends on the request's way and on the ports. -/
theorem replyOk_congr {s t : State} (hm : t.mgmt = s.mgmt) (hp : t.ports = s.ports) {q r : Req} (hlink : q.link = r.link) (hloc : q.loc = r.loc)
    (hvia : q.via = r.via) : t.replyOk q = s.replyOk r := by
  rw [State.replyOk, State.replyOk, State.remote, State.remote, State.package, State.package, hm, hp, hlink, hloc, hvia]

/-- What an access that has begun finds as it was. -/
theorem Began.keeps {s t : State} {r : Req} (h : Began s t r) :
    (Plain s r → Plain t r) ∧ t.badIn = s.badIn ∧ t.tasks = s.tasks ∧ t.combines = s.combines ∧ t.mgmt = s.mgmt ∧ t.ports = s.ports := by
  obtain ⟨⟨l, p, tiles, rfl⟩, -⟩ := h
  exact ⟨id, rfl, rfl, rfl, rfl, rfl⟩

section
variable {s : State} {id : Nat} {r : Req}

/-- R57: a direct access is performed by the state in which it has begun. -/
theorem Served.performs (h : Served s id r) (hd : Direct s r) (hw : s.cur.work = some (.l2Access id)) :
    ∃ t, exec .l2Access s = .next (t.performAccess r) ∧ Began s t r :=
  execL2Access_performs hw h.req h.unanswered h.may fun w hu => by
    obtain ⟨-, ht, -, hf, ha⟩ := hd w hu
    exact ⟨ht, hf, ha⟩

/-- R78, R453: the answer of a request served comes back, from a state that keeps what replies look at. -/
theorem Served.replies (h : Served s id r) {t : State} (hc : t.combines = s.combines) (hm : t.mgmt = s.mgmt) (hp : t.ports = s.ports) {q : Req}
    (hq : t.req id = some q) (ha : q.answer = none) (hlink : q.link = r.link) (hloc : q.loc = r.loc) (hvia : q.via = r.via) (a : Answer) :
    Safety.Answered (t.reply id a) id a ∧ ∃ l p g, t.reply id a = { t with reqs := l, replies := p, agenda := g } :=
  reply_spec (hc ▸ h.alone) hq ha ((replyOk_congr hm hp hlink hloc hvia).trans h.back) a

/-- R57, R164: a read of a line that need not be filled. -/
theorem Served.load (h : Served s id r) (hd : Direct s r) (hw : s.cur.work = some (.l2Access id)) {n : Nat} {sx : Bool} (hop : r.op = .load n sx)
    (hb : s.badIn r.loc n = none) :
    ∃ t, exec .l2Access s = .next t ∧ Safety.Answered t id { r0 := readAt s r.loc n sx, r1 := readAt s r.loc n sx }
      ∧ { t with reqs := s.reqs, agenda := s.agenda, plru := s.plru, tiles := s.tiles, replies := s.replies } = s := by
  have hid := id_of_req h.req
  subst hid
  obtain ⟨t, ht, hbegan⟩ := h.performs hd hw
  obtain ⟨hplain, hbad, htasks, hcomb, hmgmt, hports⟩ := hbegan.keeps
  have hread : readAt t r.loc n sx = readAt s r.loc n sx := by rw [readAt, readAt, funext hbegan.sameHomes.byte]
  rw [performAccess_load hop (hplain hd.plain) (hbad ▸ hb) (fun u hu => by rw [State.task, htasks]; exact h.unwaved u hu), hread] at ht
  obtain ⟨⟨l, p, tiles, he⟩, c, hc⟩ := hbegan
  obtain ⟨hans, l', p', g, he'⟩ := h.replies hcomb hmgmt hports hc h.unanswered rfl rfl rfl { r0 := readAt s r.loc n sx, r1 := readAt s r.loc n sx }
  exact ⟨_, ht, hans, by rw [he', he]⟩

/-- R48, R49, R57, R456: a store that is performed in one step. -/
theorem Served.store (h : Served s id r) (hd : Direct s r) (hw : s.cur.work = some (.l2Access id)) {b : List (Nat × Byte)} (hop : r.op = .store b)
    (hok : Safety.MemoryOk s) (hb : r.use = none ∨ (partsOf (b.map (·.1))).length ≤ 1) :
    ∃ t, exec .l2Access s = .next t ∧ (r.use = none ∨ r.link = none → t.req id = none) ∧ (r.use ≠ none → r.link ≠ none → Safety.Answered t id {})
      ∧ (∀ key, t.byte key = (lastWrite b key none).getD (s.byte key)) ∧ t.tasks = s.tasks := by
  have hid := id_of_req h.req
  subst hid
  obtain ⟨t, ht, hbegan⟩ := h.performs hd hw
  obtain ⟨hplain, -, htasks, hcomb, hmgmt, hports⟩ := hbegan.keeps
  have hsame := hbegan.sameHomes
  obtain ⟨-, c, hc⟩ := hbegan
  obtain ⟨hbyte, hreq, htasks', hcomb', hmgmt', hports'⟩ := storeBytes_spec (hsame.memoryOk hok) r b
  have hbytes {u : State} (hu : SameHomes (t.storeBytes r b) u) (key : Nat) : u.byte key = (lastWrite b key none).getD (s.byte key) := by
    rw [hu.byte, hbyte, hsame.byte]
  rw [performAccess_store hop (hplain hd.plain)] at ht
  have hdrop : SameHomes (t.storeBytes r b) ((t.storeBytes r b).dropReq r.id) := .of_eq rfl rfl rfl rfl rfl rfl
  cases hu : r.use with
  | none =>
    rw [performStore_local hu] at ht
    exact ⟨_, ht, fun _ => req_dropReq _ _, fun hn => absurd rfl hn, hbytes hdrop, htasks'.trans htasks⟩
  | some w =>
    have hpart (x : Nat × Byte) (hx : x ∈ b) := div_eq_nextPart t (hb.resolve_left (by simp [hu])) hx
    have hnow : (b.filter fun x => x.1 / 8 == t.nextPart (b.map (·.1))) = b := List.filter_eq_self.mpr fun x hx => by simpa using hpart x hx
    have hrest : (b.filter fun x => x.1 / 8 != t.nextPart (b.map (·.1))) = [] := List.filter_eq_nil_iff.mpr fun x hx => by simpa using hpart x hx
    simp only [performStore_line (hplain hd.plain) hd.epoch hu, hnow, hrest, List.isEmpty_nil, if_true, State.stored] at ht
    cases hl : r.link with
    | none =>
      simp only [hl, Option.isSome_none, Bool.false_eq_true, if_false] at ht
      exact ⟨_, ht, fun _ => req_dropReq _ _, fun _ hn => absurd rfl hn, hbytes hdrop, htasks'.trans htasks⟩
    | some i =>
      simp only [hl, Option.isSome_some, if_true] at ht
      obtain ⟨hans, l, p, g, he⟩ := h.replies (hcomb'.trans hcomb) (hmgmt'.trans hmgmt) (hports'.trans hports) (hreq _ hc) h.unanswered rfl rfl rfl {}
      refine ⟨_, ht, fun hn => by simp at hn, fun _ _ => hans, hbytes ?_, ?_⟩
      · rw [he]; exact .of_eq rfl rfl rfl rfl rfl rfl
      · rw [he]; exact htasks'.trans htasks

/-- R48: a wide store of a line: one of its aligned parts is written, and the others are still to come. -/
theorem Served.storePart (h : Served s id r) (hd : Direct s r) (hw : s.cur.work = some (.l2Access id)) {b : List (Nat × Byte)} (hop : r.op = .store b)
    (hok : Safety.MemoryOk s) {w : LineUse} (hu : r.use = some w) (hb : 1 < (partsOf (b.map (·.1))).length) :
    ∃ t q n, exec .l2Access s = .next t ∧ n ∈ partsOf (b.map (·.1)) ∧ t.req id = some q ∧ q.op = .store (b.filter fun c => c.1 / 8 != n)
      ∧ q.answer = none ∧ Work.l2Access id ∈ t.agenda ∧ t.tasks = s.tasks
      ∧ ∀ key, t.byte key = (lastWrite (b.filter fun c => c.1 / 8 == n) key none).getD (s.byte key) := by
  have hid := id_of_req h.req
  subst hid
  obtain ⟨t, ht, hbegan⟩ := h.performs hd hw
  obtain ⟨hplain, -, htasks, -⟩ := hbegan.keeps
  have hsame := hbegan.sameHomes
  obtain ⟨-, c, hc⟩ := hbegan
  have hn := nextPart_mem t (Nat.lt_trans Nat.zero_lt_one hb)
  simp only [performAccess_store hop (hplain hd.plain), performStore_line (hplain hd.plain) hd.epoch hu, rest_of_wide hb, Bool.false_eq_true, if_false] at ht
  obtain ⟨hbyte, hreq, htasks', -⟩ := storeBytes_spec (hsame.memoryOk hok) r (b.filter fun c => c.1 / 8 == t.nextPart (b.map (·.1)))
  refine ⟨_, _, _, ht, hn, req_modReq (hreq _ hc) fun _ => rfl, rfl, h.unanswered, List.mem_append_right _ List.mem_cons_self, htasks'.trans htasks,
    fun key => ?_⟩
  rw [← hsame.byte, ← hbyte]
  exact (SameHomes.of_eq rfl rfl rfl rfl rfl rfl).byte key

/-- R56, R57: a read that allocates waits for the fill of its line. -/
theorem Served.miss (h : Served s id r) (hw : s.cur.work = some (.l2Access id)) {w : LineUse} (hu : r.use = some w) {n : Nat} {sx : Bool}
    (hop : r.op = .load n sx) (hall : s.allocates w = true) (ht : w.mtype < 3) (hf : s.filling w.line = false) :
    ∃ t q, exec .l2Access s = .next t ∧ t.req id = some q ∧ q.held = true ∧ q.answer = none ∧ Work.l2FillComplete w.line ∈ t.agenda
      ∧ { t with reqs := s.reqs, agenda := s.agenda, tiles := s.tiles } = s := by
  have hid := id_of_req h.req
  subst hid
  obtain ⟨l, tiles, he, c, hc⟩ := taken_eq h.req w
  have hexec := execL2Access_line hw h.req h.unanswered h.may hu hf (by omega)
  have hfills : (taken s r w).fillsFor r = true := by rw [State.fillsFor, hop]
  have hflush : (r.op != .flush) = true := by rw [hop]; rfl
  have hinval : (r.op != .inval) = true := by rw [hop]; rfl
  simp only [hall, hflush, hinval, hfills, Bool.and_self, if_true] at hexec
  refine ⟨_, _, hexec, req_modReq hc fun _ => rfl, rfl, h.unanswered, List.mem_append_right _ List.mem_cons_self, ?_⟩
  rw [he]
  rfl

/-- R57: after the fill of its line the L2 holds the line, and the read is answered with what stood in memory. -/
theorem Served.fill (h : Served s id r) {w : LineUse} (hw : s.cur.work = some (.l2FillComplete w.line)) (hu : r.use = some w) {n : Nat} {sx : Bool}
    (hop : r.op = .load n sx) (hall : s.allocates w = true) (hm : (s.mark w.line).1 = 0) (ht : w.mtype < 3)
    (hheld : (s.reqs.filter fun q => q.held) = [r]) (hloc : lineOf r.loc = w.line) (hspan : r.loc % 2048 + n ≤ 2048) (hline : w.line % 2048 = 0)
    (hok : Safety.MemoryOk s) (hb : s.badIn r.loc n = none)
    (hv : (s.victim (homeDie w.line) (l2Slice (stackLine w.line)) (l2Set (stackLine w.line))).isSome) :
    ∃ t, exec .l2FillComplete s = .next t ∧ Safety.Answered t id { r0 := readAt s r.loc n sx, r1 := readAt s r.loc n sx } ∧ t.held w.line = true
      ∧ t.tasks = s.tasks := by
  have hid := id_of_req h.req
  subst hid
  have hplain : Plain s r := fun x hx => by
    obtain rfl : w = x := by simpa [hu] using hx
    exact ⟨hm, ht⟩
  obtain ⟨hl2, hbytes, honly⟩ := allocate_spec hok hall hline hv r.ctx
  obtain ⟨m, l, f, p, ha⟩ := honly.exists_eq
  have hmay : (s.allocate w r.ctx).mayPerform r = true := by rw [ha]; exact h.may
  have hserve := serveHeld_one (s := s.allocate w r.ctx) (by rw [ha]; exact hheld) hu hop hmay
  have hreq : (s.allocate w r.ctx).req r.id = some r := by rw [ha]; exact h.req
  have hread : readAt (unheld (s.allocate w r.ctx) r.id) r.loc n sx = readAt s r.loc n sx := by
    rw [readAt, readAt]
    congr 2
    refine List.map_congr_left fun k hk => ?_
    obtain ⟨i, hi, rfl⟩ := List.mem_map.mp hk
    rw [List.mem_range] at hi
    obtain ⟨j, hj, hkey⟩ : ∃ j, j < 2048 ∧ r.loc + i = w.line + j := ⟨r.loc % 2048 + i, by omega, by rw [← hloc, lineOf]; omega⟩
    rw [(unheld_sameHomes _ _).byte, hkey, hbytes j hj]
  have hperform := performAccess_load (s := unheld (s.allocate w r.ctx) r.id) (r := { r with held := false }) hop (by rw [ha]; exact hplain)
    (by rw [ha]; exact hb) (by rw [ha]; exact h.unwaved)
  rw [hread] at hperform
  obtain ⟨hans, l', p', g, he⟩ := h.replies (t := unheld (s.allocate w r.ctx) r.id) (by rw [ha]; rfl) (by rw [ha]; rfl) (by rw [ha]; rfl) (req_unheld hreq)
    h.unanswered rfl rfl rfl { r0 := readAt s r.loc n sx, r1 := readAt s r.loc n sx }
  refine ⟨_, (execL2FillComplete_one hw hheld hu hplain hall).trans (congrArg _ (hserve.trans hperform)), hans, ?_, ?_⟩
  · rw [he]; exact hl2
  · rw [he, ha]; rfl

end

/-- Settles O44: a direct access is performed by the state in which it has begun, a miss waits for its line's fill, whose one held read is then
performed, and the background settlement leaves only shadows of open epochs. -/
theorem homesServeAccesses : Obligations.HomesServeAccesses := by
  unfold Obligations.HomesServeAccesses
  refine ⟨fun s id r hr ha hp hc hreply hwave => ?_, fun s line hw => ⟨⟨_, exec_settleBackground hw, fun h hm hl => settleBack_shadows hm hl,
    (settleBack_homeOnly s line).tasks, (settleBack_homeOnly s line).reqs⟩, fun h p n hok hline hhbm hm ho hx hs hp => ?_⟩⟩
  · have h : Served s id r := ⟨hr, ha, hp, hc, hreply, hwave⟩
    refine ⟨fun hw hd => ⟨fun n sx hop h1 h8 hb => ?_, fun b hop hok => ⟨fun hn => h.store hd hw hop hok hn,
      fun w hu hwide => h.storePart hd hw hop hok hu hwide⟩⟩, fun w n sx hu hop h1 h8 hall hm ht => ⟨fun hw hf => h.miss hw hu hop hall ht hf, fun hw hheld hloc hspan hline hok hb hv => ?_⟩⟩
    · obtain ⟨t, hexec, hans, hframe⟩ := h.load hd hw hop hb
      obtain ⟨hbytes, hhigh⟩ := readAt_spec s r.loc sx h1 h8
      exact ⟨t, _, hexec, hans, hbytes, hhigh, hframe⟩
    · obtain ⟨t, hexec, hans, hheld', htasks⟩ := h.fill hw hu hop hall hm ht hheld hloc hspan hline hok hb hv
      exact ⟨t, _, hexec, hans, hheld', (readAt_spec s r.loc sx h1 h8).1, htasks⟩
  · have hkey : h.line = line := by
      have := List.find?_some hs
      simp only [Bool.and_eq_true, beq_iff_eq] at this
      exact this.1.1
    subst hkey
    have hsettle := settle_rejecting hm ho hx hs hp
    have hrest : SameHomes (s.restoreLine h) ((s.restoreLine h).setMark h.line 0 h.ctx |>.freeShadow h) :=
      (setMark_sameHomes ..).trans (freeShadow_sameHomes ..)
    refine ⟨_, exec_settleBackground hw, ?_, fun i hi => ?_⟩
    · rw [mark_settleBack, hsettle]
      exact congrArg Prod.fst (mark_setMark_zero _ _ h.ctx)
    · rw [(settleBack_sameHomes s h.line).byte, hsettle, hrest.byte, byte_restoreLine hok hline hhbm hi]

end Sys2Proof.Proofs
end

section
/-! SUPPORT. The host's accesses to HBM, and snoops of the host-line cache (R57, R60, R88, R459, R460). -/

namespace Sys2Proof.Proofs

open Sys2Proof.Machine

/-! Host accesses to HBM. -/

/-- Nothing differs but the replacement state and the lines in host bias. -/
def HostMet (s t : State) : Prop := ∃ p b, t = { s with plru := p, hostBias := b }

theorem hostMeet_met {s : State} (h : s.marks = []) (line : Nat) : HostMet s (s.hostMeet line) := by
  rw [State.hostMeet, Laws.settle_of_no_marks h]
  split
  · split <;> exact ⟨_, _, rfl⟩
  · split <;> exact ⟨_, _, rfl⟩

/-- R57, R460: the lines that a host access meets, none of them marked. -/
theorem foldl_hostMeet_met {s : State} (h : s.marks = []) (lines : List Nat) : HostMet s (lines.foldl State.hostMeet s) := by
  induction lines generalizing s with
  | nil => exact ⟨_, _, rfl⟩
  | cons a r ih =>
    obtain ⟨p, b, he⟩ := hostMeet_met h a
    obtain ⟨p', b', he'⟩ := ih (s := s.hostMeet a) (by rw [he]; exact h)
    exact ⟨p', b', by rw [List.foldl_cons, he', he]⟩

theorem HostMet.sameHomes {s t : State} (h : HostMet s t) : SameHomes s t := by
  obtain ⟨p, b, rfl⟩ := h
  exact .of_eq rfl rfl rfl rfl rfl rfl

/-- The page tables read the same whatever the replacement state and the bias. -/
theorem HostMet.mapsAs {s t : State} (h : HostMet s t) (pa mtype n tbl : Nat) : t.mapsAs pa mtype n tbl = s.mapsAs pa mtype n tbl := by
  have hentries (tbl n : Nat) : t.entriesIn tbl n = s.entriesIn tbl n := by
    obtain ⟨p, b, rfl⟩ := h
    rfl
  induction n generalizing tbl with
  | zero => rfl
  | succ n ih => simp only [State.mapsAs, hentries, ih]

theorem HostMet.structureAt {s t : State} (h : HostMet s t) : t.structureAt = s.structureAt := by
  funext pa
  have hmaps := h.mapsAs
  obtain ⟨p, b, rfl⟩ := h
  simp only [State.structureAt, State.mappedAs, hmaps]

theorem mem_hostLinesOf {key n line : Nat} : line ∈ hostLinesOf key n ↔ ∃ i, i < n ∧ lineOf (key + i) = line := by
  simp [hostLinesOf, keysOf]

/-- R88, R460: what the host reads: a structure page's FULL words and zeros for the others, and other bytes as they stand. -/
def hostByte (s : State) (k : Nat) : Byte := if s.structureAt (lineOf k) = true then s.structByte k else s.byte k

theorem execHostCxlMemRead_eq {s : State} {pa n key : Nat} (hkey : key = s.package * 2 ^ 43 + pa) (hw : s.cur.work = some (.hostCxlMemRead pa n))
    (hr : pa + n ≤ 0x018000000000) (hm : s.marks = []) (hfresh : s.freshStatus key n = s) (hb : s.badIn key n = none) (hf : ∀ line, s.filling line = false) :
    ∃ p b, exec .hostCxlMemRead s = .next { s with
      plru := p, hostBias := b, hostRead := some ((keysOf key n).map (hostByte s)), hostAbort := false } := by
  subst hkey
  have hexec : exec .hostCxlMemRead s = execHostCxlMemRead s := rfl
  have hreach : hostReach pa n = true := decide_eq_true hr
  have hfill : ((hostLinesOf (s.package * 2 ^ 43 + pa) n).any s.filling) = false := List.any_eq_false.mpr fun line _ => by simp [hf line]
  have hmet := foldl_hostMeet_met hm (hostLinesOf (s.package * 2 ^ 43 + pa) n)
  simp only [hexec, execHostCxlMemRead, hw, hreach, hfill, hfresh, Bool.not_true, Bool.false_eq_true, if_false]
  generalize (hostLinesOf (s.package * 2 ^ 43 + pa) n).foldl State.hostMeet s = u at *
  have hbytes : ((keysOf (s.package * 2 ^ 43 + pa) n).map fun k =>
      if lineOf k ∈ (hostLinesOf (s.package * 2 ^ 43 + pa) n).filter u.structureAt then u.structByte k else u.byte k)
      = (keysOf (s.package * 2 ^ 43 + pa) n).map (hostByte s) := by
    refine List.map_congr_left fun k hk => ?_
    have hline : lineOf k ∈ hostLinesOf (s.package * 2 ^ 43 + pa) n := by
      rw [hostLinesOf, List.mem_eraseDups]; exact List.mem_map_of_mem hk
    have hword : u.structByte k = s.structByte k := by obtain ⟨p, b, rfl⟩ := hmet; rfl
    simp only [List.mem_filter, hline, true_and, hostByte, hmet.structureAt, hmet.sameHomes.byte, hword]
  have hbad : u.badIn (s.package * 2 ^ 43 + pa) n = none := by obtain ⟨p, b, rfl⟩ := hmet; exact hb
  simp only [hbad, hbytes]
  obtain ⟨p, b, rfl⟩ := hmet
  exact ⟨p, b, rfl⟩

/-- R88: a host write that touches a structure page ends with an abort, and changes nothing. -/
theorem execHostCxlMemWrite_abort {s : State} {pa : Nat} {b : List Byte} (hw : s.cur.work = some (.hostCxlMemWrite pa b))
    (hr : pa + b.length ≤ 0x018000000000) (hs : ∃ i, i < b.length ∧ s.structureAt (lineOf (s.package * 2 ^ 43 + pa + i)) = true) :
    exec .hostCxlMemWrite s = .next { s with hostAbort := true } := by
  have hexec : exec .hostCxlMemWrite s = execHostCxlMemWrite s := rfl
  have hreach : hostReach pa b.length = true := decide_eq_true hr
  have hany : ((hostLinesOf (s.package * 2 ^ 43 + pa) b.length).any s.structureAt) = true := by
    obtain ⟨i, hi, hat⟩ := hs
    exact List.any_eq_true.mpr ⟨_, mem_hostLinesOf.mpr ⟨i, hi, rfl⟩, hat⟩
  simp only [hexec, execHostCxlMemWrite, hw, hreach, hany, Bool.not_true, Bool.false_eq_true, if_false, if_true]

/-- R57, R460: a host write to other pages is performed at the home. -/
theorem execHostCxlMemWrite_eq {s : State} {pa : Nat} {b : List Byte} (hw : s.cur.work = some (.hostCxlMemWrite pa b))
    (hr : pa + b.length ≤ 0x018000000000) (hm : s.marks = [])
    (hs : ∀ i, i < b.length → s.structureAt (lineOf (s.package * 2 ^ 43 + pa + i)) = false) (hf : ∀ line, s.filling line = false) :
    ∃ t, HostMet { s with hostAbort := false } t
      ∧ exec .hostCxlMemWrite s = .next (t.commitBytes (placeBytes (s.package * 2 ^ 43 + pa) b)) := by
  have hexec : exec .hostCxlMemWrite s = execHostCxlMemWrite s := rfl
  have hreach : hostReach pa b.length = true := decide_eq_true hr
  have hany : ((hostLinesOf (s.package * 2 ^ 43 + pa) b.length).any s.structureAt) = false := List.any_eq_false.mpr fun line hline => by
    obtain ⟨i, hi, rfl⟩ := mem_hostLinesOf.mp hline
    exact Bool.not_eq_true _ ▸ hs i hi
  have hfill : ((hostLinesOf (s.package * 2 ^ 43 + pa) b.length).any s.filling) = false := List.any_eq_false.mpr fun line _ => by simp [hf line]
  refine ⟨_, foldl_hostMeet_met (s := { s with hostAbort := false }) hm (hostLinesOf (s.package * 2 ^ 43 + pa) b.length), ?_⟩
  simp only [hexec, execHostCxlMemWrite, hw, hreach, hany, hfill, Bool.not_true, Bool.false_eq_true, if_false]

/-- R57, R460: each byte of the host's write stands at its key, and no other byte differs. -/
theorem byte_hostWrite {s t : State} (h : HostMet { s with hostAbort := false } t) (hok : Safety.MemoryOk s) (key : Nat) (b : List Byte) (a : Nat) :
    (t.commitBytes (placeBytes key b)).byte a = if key ≤ a ∧ a < key + b.length then b.getD (a - key) 0 else s.byte a := by
  have hsame : SameHomes s t := .trans (.of_eq rfl rfl rfl rfl rfl rfl) h.sameHomes
  rw [byte_commitBytes (hsame.memoryOk hok), lastWrite_placeBytes, hsame.byte]
  split <;> rfl

/-! Snoops. -/

/-- R60: a snoop takes the line from the host-line cache. -/
theorem mem_hostDrop (s : State) (line x : Nat) : x ∈ (s.hostDrop line).hostLines ↔ x ∈ s.hostLines ∧ x ≠ line := by
  rw [State.hostDrop]
  split
  · simp
  · next h => exact ⟨fun hx => ⟨hx, fun he => h (he ▸ hx)⟩, fun hx => hx.1⟩

theorem hostDrop_frame (s : State) (line : Nat) : { s.hostDrop line with mem := s.mem, hostmem := s.hostmem, hostLines := s.hostLines } = s := by
  rw [State.hostDrop]
  split <;> rfl

/-- R60: what is read does not change. -/
theorem byte_hostDrop {s : State} (hok : Safety.MemoryOk s) {line : Nat} (hg : isGl (line * 64) = true) (hh : paIsHost (line * 64) = true) (key : Nat) :
    (s.hostDrop line).byte key = s.byte key := by
  obtain ⟨hm, -, hwh⟩ := hok
  by_cases hin : line ∈ s.hostLines
  · have he : s.hostDrop line = { s with
        mem := (s.mem.drop (line * 64) 64).writeAll (s.hostmem.slice (line * 64) 64), hostmem := s.hostmem.drop (line * 64) 64
        hostLines := s.hostLines.filter fun x => decide (x ≠ line) } := by rw [State.hostDrop, if_pos hin]
    have hheld : (s.hostDrop line).held key = s.held key := by rw [he]; rfl
    have hmem : (s.hostDrop line).mem.read key = if line * 64 ≤ key ∧ key < line * 64 + 64 then s.hostmem.read key else s.mem.read key := by
      rw [he]; exact read_moved_here hwh hm _ _ _
    have hhost : (s.hostDrop line).hostmem.read key = if line * 64 ≤ key ∧ key < line * 64 + 64 then 0 else s.hostmem.read key := by
      rw [he]; exact read_drop hwh _ _ _
    have hin64 : (line * 64 ≤ key ∧ key < line * 64 + 64) ↔ key / 64 = line := by omega
    have hl2 : (s.hostDrop line).l2mem = s.l2mem := by rw [he]
    rw [State.byte, State.byte, hheld, hmem, hhost, hl2, State.hostHeld, State.hostHeld]
    simp only [hin64, mem_hostDrop]
    by_cases hk : key / 64 = line
    · have hgl : isGl key = true := decide_eq_true (by have := of_decide_eq_true hg; simp only [dsKey] at *; omega)
      have hhost : paIsHost key = true := decide_eq_true (by have := of_decide_eq_true hh; simp only [paOffset] at *; omega)
      simp [hk, hin, hgl, hhost]
    · simp [hk]
  · rw [State.hostDrop, if_neg hin]

end Sys2Proof.Proofs
end

section
/-! SUPPORT. The registers, the mailboxes and the security processor (R41, R450, R451, R463, R477, R478), and the host's part as a whole. -/

namespace Sys2Proof.Proofs

open Sys2Proof.Machine

/-! Registers. -/

/-- R450, R451: a write of IDENT that keeps the package's number. -/
theorem execIdentWrite_same {s : State} {v : Word} (hw : s.cur.work = some (.identWrite v)) (hv : field v.toNat 8 0 = s.package) :
    exec .identWrite s = .next { s with
      mgmt := { s.mgmt with ident := (v &&& 0x1FF01FF) ||| 0x8000000000000000 }
      timeBase := if s.mgmt.ident.getLsbD 63 then s.timeBase else s.cycle } := by
  have hexec : exec .identWrite s = execIdentWrite s := rfl
  simp only [hexec, execIdentWrite, hw, hv, State.rename, if_true]
  split <;> rfl

/-- R478: a write below 0x4_0000 is one of a management register. -/
theorem execRegisterWrite_mgmt {s : State} {off : Nat} {v : Word} (hw : s.cur.work = some (.registerWrite off v)) (h : off < 0x40000) :
    exec .registerWrite s = .next { s with mgmt := s.mgmt.write off v } := by
  have hexec : exec .registerWrite s = execRegisterWrite s := rfl
  simp only [hexec, execRegisterWrite, hw, h, if_true]

/-- R41, R463: a write of a doorbell page changes at most its context. -/
theorem execRegisterWrite_page {s : State} {off : Nat} {v : Word} (hw : s.cur.work = some (.registerWrite off v)) (h : 0x40000 ≤ off) (h' : off < 2 ^ 32) :
    ∃ c, exec .registerWrite s = .next { s with ctxs := c } := by
  have hexec : exec .registerWrite s = execRegisterWrite s := rfl
  simp only [hexec, execRegisterWrite, hw, Nat.not_lt.mpr h, Nat.not_le.mpr h', if_false]
  split <;> exact ⟨_, rfl⟩

/-- R477: a write from 2^32 up is one of the capability. -/
theorem execRegisterWrite_doe {s : State} {off : Nat} {v : Word} (hw : s.cur.work = some (.registerWrite off v)) (h : 2 ^ 32 ≤ off) :
    exec .registerWrite s = .next (s.doeWrite (off - 2 ^ 32) v) := by
  have hexec : exec .registerWrite s = execRegisterWrite s := rfl
  have hn : ¬ off < 0x40000 := by omega
  simp only [hexec, execRegisterWrite, hw, hn, h, if_true, if_false]

theorem doeGo_frame (s : State) : ∃ x g, s.doeGo = { s with sec := x, agenda := g } := by
  simp only [State.doeGo]
  split
  · exact ⟨_, _, rfl⟩
  · split <;> exact ⟨_, _, rfl⟩

/-- R477: a write of the capability's registers changes the mailboxes and the work to come. -/
theorem doeWrite_frame (s : State) (off : Nat) (v : Word) : ∃ x g, s.doeWrite off v = { s with sec := x, agenda := g } := by
  rw [State.doeWrite]
  split_ifs
  · exact ⟨_, _, rfl⟩
  · exact doeGo_frame s
  all_goals exact ⟨_, _, rfl⟩

/-- R477: an object of the length that its header gives is taken. -/
theorem doeGo_takes {s : State} {w : Work} (h8 : 8 ≤ s.sec.sent.length) (hmax : s.sec.sent.length ≤ 65536)
    (hlen : 4 * (natOfBytes ((s.sec.sent.drop 4).take 4) % 2 ^ 18) = s.sec.sent.length) (hw : objectWork s.sec.sent = some w) :
    s.doeGo = { s with sec := { s.sec with sent := [] }, agenda := s.agenda ++ [w] } := by
  have hok : objectOk s.sec.sent = true := decide_eq_true hmax
  simp only [State.doeGo, Nat.not_lt.mpr h8, hok, hlen, hw, Bool.not_true, Bool.false_eq_true, ne_eq, not_true, or_self, if_false]
  rfl

theorem doeWrite_abort (s : State) {v : Word} (h : v.getLsbD 0 = true) :
    s.doeWrite 0x808 v = { s with sec := { s.sec with sent := [], answers := [], failed := false } } := by
  simp only [State.doeWrite, doeBase, h, if_true]

theorem doeWrite_go (s : State) {v : Word} (h0 : v.getLsbD 0 = false) (h31 : v.getLsbD 31 = true) : s.doeWrite 0x808 v = s.doeGo := by
  simp only [State.doeWrite, doeBase, h0, h31, Bool.false_eq_true, if_true, if_false]

theorem doeWrite_word (s : State) (v : Word) :
    s.doeWrite 0x810 v = { s with sec := { s.sec with sent := s.sec.sent ++ bytesOfNat 4 (v.toNat % 2 ^ 32) } } := rfl

/-- R477: a word of the oldest answer has been read; the answer is gone with its last word. -/
theorem doeWrite_read {s : State} {a : List Byte} {r : List (List Byte)} (h : s.sec.answers = a :: r) (v : Word) :
    (s.doeWrite 0x814 v).sec = { s.sec with answers := if a.length ≤ 4 then r else a.drop 4 :: r } := by
  have hw : s.doeWrite 0x814 v = { s with sec := { s.sec with answers := match s.sec.answers with
    | a :: r => if a.length ≤ 4 then r else a.drop 4 :: r
    | [] => [] } } := rfl
  rw [hw]
  simp only [h]

/-! The security processor. -/

theorem execSpdmRequest_eq {s : State} {b : List Byte} (hw : s.cur.work = some (.spdmRequest b)) (hb : b.length ≤ 65536) :
    exec .spdmRequest s = .next (s.spdmAnswer b) := by
  have hexec : exec .spdmRequest s = execSpdmRequest s := rfl
  have hok : objectOk b = true := decide_eq_true hb
  simp only [hexec, execSpdmRequest, hw, hok, if_true]

theorem execSpdmSlhDsaRequest_eq {s : State} {b : List Byte} (hw : s.cur.work = some (.spdmSlhDsaRequest b)) (hb : b.length ≤ 65536) :
    exec .spdmSlhDsaRequest s = .next { s with sec := { s.sec with answers := s.sec.answers ++ [Config.slhDsaSignature s.sec.signed b] } } := by
  have hexec : exec .spdmSlhDsaRequest s = execSpdmSlhDsaRequest s := rfl
  have hok : objectOk b = true := decide_eq_true hb
  simp only [hexec, execSpdmSlhDsaRequest, hw, hok, if_true]

/-- R477: discovery answers the object of the index with three words. -/
theorem execDoeDiscovery_eq {s : State} {b : List Byte} (hw : s.cur.work = some (.doeDiscovery b)) (hb : (b.getD 8 0).toNat < 3) :
    ∃ a, exec .doeDiscovery s = .next { s with sec := { s.sec with answers := s.sec.answers ++ [a] } } ∧ a.length = 12 := by
  have hexec : exec .doeDiscovery s = execDoeDiscovery s := rfl
  simp only [hexec, execDoeDiscovery, hw, Nat.not_le.mpr hb, if_false]
  exact ⟨_, rfl, by simp⟩

/-- R478: what a write of a management register keeps of the value. -/
theorem mgmtWrite_spec (m : Mgmt) (v : Word) :
    m.write 0x08 v = { m with ctxbase := v &&& 0x7FFFFFF0000 } ∧ m.write 0x10 v = { m with lrsv := v &&& 0x1F }
      ∧ m.write 0x40 v = { m with fabtmr := v &&& 0xFFFFFFFF } ∧ m.write 0x50 v = { m with imgpol := v &&& 1 }
      ∧ m.write 0x48 v = { m with pwrcap := BitVec.ofNat 64 (max 600 (min 3400 (v.toNat % 4096))) }
      ∧ m.write 0x58 v = { m with dbgctl := v } ∧ m.write 0x70 v = { m with dbgres := v }
      ∧ ∀ off ∈ [0x00, 0x80, 0x90, 0x98, 0xA0], m.write off v = m := by
  have hclamp (n : Nat) : clampTo 600 3400 n = max 600 (min 3400 n) := by
    rw [clampTo]
    split_ifs <;> omega
  have hfield : field v.toNat 11 0 = v.toNat % 4096 := by simp [field]
  refine ⟨rfl, rfl, rfl, rfl, ?_, rfl, rfl, ?_⟩
  · rw [← hclamp, ← hfield]; rfl
  · simp only [List.forall_mem_cons]
    exact ⟨rfl, rfl, rfl, rfl, rfl, fun _ h => absurd h List.not_mem_nil⟩

/-- R478: the registers that a write changes nothing of lie among the management registers. -/
theorem readOnly_lt {off : Nat} (h : off ∈ [0x00, 0x80, 0x90, 0x98, 0xA0]) : off < 0x40000 := by
  simp only [List.mem_cons, List.not_mem_nil, or_false] at h
  omega

/-- Settles O58: a host access meets its lines, which changes nothing that is read; a snoop moves its line back; each register and mailbox write is one
equation of its range of offsets, of which the others' clauses say nothing. -/
theorem hostAccesses : Obligations.HostAccesses := by
  unfold Obligations.HostAccesses
  refine fun s => ⟨fun pa n hw hr hm hfresh hb hf => ?_, fun pa b hw hr hm hok => ⟨execHostCxlMemWrite_abort hw hr, fun hs hf => ?_⟩,
    fun line hw hok hg hh => ?_, fun v hw hv => ⟨_, execIdentWrite_same hw hv, rfl, rfl, rfl⟩, fun off v hw => ?_, fun b hb => ⟨fun hw => ?_, fun hw => ?_⟩,
    fun b hw hb => ?_⟩
  · obtain ⟨p, q, he⟩ := execHostCxlMemRead_eq rfl hw hr hm hfresh hb hf
    refine ⟨_, _, he, rfl, by simp [keysOf], fun i hi => ?_, rfl⟩
    simp [keysOf, hi, hostByte]
  · obtain ⟨t, hmet, he⟩ := execHostCxlMemWrite_eq hw hr hm hs hf
    have hhome := Laws.commitBytes_homeOnly t (placeBytes (s.package * 2 ^ 43 + pa) b)
    refine ⟨_, he, ?_, ?_, byte_hostWrite hmet hok _ _⟩
    · obtain ⟨p, q, rfl⟩ := hmet; exact hhome.tasks
    · obtain ⟨p, q, rfl⟩ := hmet; have := congrArg State.hostAbort hhome; exact this
  · have hexec : exec .hostSnoop s = .next (s.hostDrop line) := by
      have hx : exec .hostSnoop s = execHostSnoop s := rfl
      simp only [hx, execHostSnoop, hw]
    refine ⟨_, hexec, fun hin => ((mem_hostDrop s line line).mp hin).2 rfl, fun x hx => ?_, byte_hostDrop hok hg hh, hostDrop_frame s line⟩
    rw [mem_hostDrop]
    exact and_iff_left hx
  · rcases Nat.lt_or_ge off 0x40000 with hlow | hlow
    · obtain ⟨h08, h10, h40, h50, h48, h58, h70, hro⟩ := mgmtWrite_spec s.mgmt v
      refine ⟨_, execRegisterWrite_mgmt hw hlow, fun h => h ▸ h08, fun h => h ▸ h10, fun h => h ▸ h40, fun h => h ▸ h50, fun h => h ▸ h48, fun h => h ▸ h58,
        fun h => h ▸ h70, fun h => by rw [hro off h], fun _ => rfl, fun h => ?_, fun h => ?_, fun h => ?_, fun h => ?_, fun _ h => ?_, fun _ _ h => ?_⟩
      all_goals omega
    · rcases Nat.lt_or_ge off (2 ^ 32) with hpage | hdoe
      · obtain ⟨c, he⟩ := execRegisterWrite_page hw hlow hpage
        refine ⟨_, he, fun h => ?_, fun h => ?_, fun h => ?_, fun h => ?_, fun h => ?_, fun h => ?_, fun h => ?_,
          fun h => absurd (readOnly_lt h) (Nat.not_lt.mpr hlow), fun h => ?_, fun _ _ => rfl, fun h => ?_, fun h => ?_, fun h => ?_, fun _ h => ?_, fun _ _ h => ?_⟩
        all_goals omega
      · obtain ⟨x, g, hframe⟩ := doeWrite_frame s (off - 2 ^ 32) v
        refine ⟨_, execRegisterWrite_doe hw hdoe, fun h => ?_, fun h => ?_, fun h => ?_, fun h => ?_, fun h => ?_, fun h => ?_, fun h => ?_,
          fun h => absurd (readOnly_lt h) (Nat.not_lt.mpr hlow), fun h => ?_, fun _ h => ?_, fun _ => by rw [hframe], fun h => ?word, fun h h0 => ?abort,
          fun w h h0 h31 h8 hmax hlen hwork => ?go, fun a r h ha => ?read⟩
        case word => subst h; rw [Nat.add_sub_cancel_left, doeWrite_word]; exact ⟨rfl, rfl⟩
        case abort => subst h; rw [Nat.add_sub_cancel_left, doeWrite_abort s h0]; exact ⟨rfl, rfl⟩
        case go => subst h; rw [Nat.add_sub_cancel_left, doeWrite_go s h0 h31, doeGo_takes h8 hmax hlen hwork]; exact ⟨rfl, rfl⟩
        case read => subst h; rw [Nat.add_sub_cancel_left, doeWrite_read ha]
        all_goals omega
  · exact ⟨_, _, execSpdmRequest_eq hw hb, rfl, rfl, rfl, rfl, rfl, rfl⟩
  · exact ⟨_, execSpdmSlhDsaRequest_eq hw hb, rfl, rfl⟩
  · obtain ⟨a, he, hlen⟩ := execDoeDiscovery_eq hw hb
    exact ⟨_, a, he, rfl, hlen, rfl⟩

end Sys2Proof.Proofs
end

section
/-! SUPPORT. The state that reset leaves (R51, R55, R463, R473, R478). -/

namespace Sys2Proof.Proofs

open Sys2Proof.Machine

/-- R51, R55, R60: at reset no byte is listed, and no line lies above its storage. -/
theorem byte_reset (key : Nat) : State.reset.byte key = 0 := by
  have hheld : State.reset.held key = false := by
    rw [← Bool.not_eq_true, held_iff]
    rintro ⟨-, f, hf, -⟩
    exact absurd hf List.not_mem_nil
  have hhost : State.reset.hostHeld key = false := by
    rw [State.hostHeld, show State.reset.hostLines = [] from rfl]
    simp
  simp only [State.byte, hheld, hhost, Bool.false_eq_true, if_false]
  rfl

/-- R455, R471, R472: at reset nothing has failed. -/
theorem health_reset : State.reset.health = 0 := by decide

/-- Settles O5: every storage and table of the reset state is empty, so what is read of it is the default, and the registers hold their reset values. -/
theorem resetState : Obligations.ResetState := by
  unfold Obligations.ResetState
  have hlive (c : Nat) : (State.reset.ctx c).live = false := rfl
  have hphase (t : TaskRef) : (State.reset.task t).phase = .unbound := rfl
  have hok : Safety.MemoryOk State.reset := ⟨rfl, rfl, rfl⟩
  have hids : Safety.IdsFresh State.reset := fun q hq => absurd hq List.not_mem_nil
  have hring : State.reset.ring.length ≤ 4096 := by decide
  exact ⟨byte_reset, rfl, rfl, rfl, hlive, hphase, rfl, rfl, rfl, rfl, rfl, rfl, rfl, rfl, health_reset, rfl, rfl, hok, hids, hring⟩

end Sys2Proof.Proofs
end

section
/-! SUPPORT. Little-endian numbers and their bytes, as the homes read and write them (R57, R164). -/

namespace Sys2Proof.Proofs

open Sys2Proof.Machine

theorem bytes_length (s : State) (key n : Nat) : (s.bytes key n).length = n := by
  induction n generalizing key with
  | zero => rfl
  | succ n ih => rw [State.bytes, List.length_cons, ih]

theorem bytes_getD (s : State) (key : Nat) {n i : Nat} (h : i < n) : (s.bytes key n).getD i 0 = s.byte (key + i) := by
  induction n generalizing key i with
  | zero => omega
  | succ n ih =>
    cases i with
    | zero => rfl
    | succ i => rw [State.bytes, List.getD_cons_succ, ih (key + 1) (by omega), show key + 1 + i = key + (i + 1) by omega]

/-- R164: a number whose bytes stand at the keys is the one that is read there. -/
theorem num_eq_of_bytes {s : State} {key n : Nat} {A : BitVec (8 * n)} (h : ∀ i, i < n → A.extractLsb' (8 * i) 8 = s.byte (key + i)) :
    s.num key n = A.toNat := by
  refine Nat.eq_of_testBit_eq fun k => ?_
  rw [State.num, testBit_natOfBytes]
  by_cases hk : k / 8 < n
  · rw [bytes_getD s key hk, ← h _ hk, BitVec.getLsbD_extractLsb', BitVec.testBit_toNat, show 8 * (k / 8) + k % 8 = k by omega]
    simp [Nat.mod_lt]
  · rw [List.getD_eq_default _ _ (by rw [bytes_length]; omega), BitVec.testBit_toNat, BitVec.getLsbD_of_ge A k (by omega)]
    exact BitVec.getLsbD_zero

/-- R164: the bytes of a number, the lowest first. -/
theorem bytesOfNat_getD {n i : Nat} (v : Nat) (h : i < n) : (bytesOfNat n v).getD i 0 = (BitVec.ofNat (8 * n) v).extractLsb' (8 * i) 8 := by
  induction n generalizing v i with
  | zero => omega
  | succ n ih =>
    refine BitVec.eq_of_getLsbD_eq fun j hj => ?_
    cases i with
    | zero =>
      simp only [bytesOfNat, List.getD_cons_zero, BitVec.getLsbD_ofNat, BitVec.getLsbD_extractLsb', hj, decide_true, Bool.true_and]
      rw [show (256 : Nat) = 2 ^ 8 from rfl, Nat.testBit_mod_two_pow, decide_eq_true hj, decide_eq_true (by omega)]
      simp
    | succ i =>
      rw [bytesOfNat, List.getD_cons_succ, ih _ (by omega)]
      simp only [BitVec.getLsbD_ofNat, BitVec.getLsbD_extractLsb', hj, decide_true, Bool.true_and]
      rw [show (256 : Nat) = 2 ^ 8 from rfl, Nat.testBit_div_two_pow, show 8 * i + j + 8 = 8 * (i + 1) + j by omega,
        decide_eq_true (show 8 * i + j < 8 * n by omega), decide_eq_true (show 8 * (i + 1) + j < 8 * (n + 1) by omega)]

/-- R57, R164: after a number is written its bytes stand at its keys, and no other byte differs. -/
theorem byte_commit_number {s : State} (hok : Safety.MemoryOk s) (key n v k : Nat) :
    (s.commitBytes (placeBytes key (bytesOfNat n v))).byte k =
      if key ≤ k ∧ k < key + n then (BitVec.ofNat (8 * n) v).extractLsb' (8 * (k - key)) 8 else s.byte k := by
  rw [byte_commitBytes hok, lastWrite_placeBytes, bytesOfNat_length]
  split
  · rw [Option.getD_some, bytesOfNat_getD _ (by omega)]
  · rfl

end Sys2Proof.Proofs
end

section
/-! SUPPORT. Atomics and ACASM at their home (R59, R70 to R73). -/

namespace Sys2Proof.Proofs

open Sys2Proof.Machine

/-! A line that leaves the L2. -/

theorem mem_dropLine_frames {s : State} {line : Nat} (hheld : s.held line = true) (f : Frame) :
    f ∈ (s.dropLine line).frames ↔ f ∈ s.frames ∧ ¬(f.die = homeDie line ∧ f.sln = stackLine line) := by
  rw [State.dropLine, if_pos hheld]
  simp [State.writeBack, imp_iff_not_or]

/-- R57: after a line has left the L2, the L2 holds the lines that it held, and not that one. -/
theorem held_dropLine {s : State} {line : Nat} (hheld : s.held line = true) (key : Nat) :
    (s.dropLine line).held key = true ↔ s.held key = true ∧ key / 2048 ≠ line / 2048 := by
  obtain ⟨⟨hgl, -, hpkg⟩, -⟩ := held_iff.mp hheld
  have hp : (s.dropLine line).package = s.package := by rw [State.dropLine, if_pos hheld]; rfl
  rw [held_iff, held_iff, hp]
  have hline (hk : paPackage key = s.package) : (homeDie key = homeDie line ∧ stackLine key = stackLine line) ↔ key / 2048 = line / 2048 := by
    simp only [paPackage, homeDie, stackLine, paOffset] at *
    omega
  constructor
  · rintro ⟨hk, f, hf, hst, hd, hs⟩
    obtain ⟨hf, hne⟩ := (mem_dropLine_frames hheld f).mp hf
    refine ⟨⟨hk, f, hf, hst, hd, hs⟩, fun he => hne ?_⟩
    obtain ⟨-, -, hk⟩ := hk
    rw [hd, hs]
    exact (hline hk).mpr he
  · rintro ⟨⟨hk, f, hf, hst, hd, hs⟩, hne⟩
    refine ⟨hk, f, (mem_dropLine_frames hheld f).mpr ⟨hf, fun he => hne ?_⟩, hst, hd, hs⟩
    obtain ⟨-, -, hk⟩ := hk
    rw [hd, hs] at he
    exact (hline hk).mp he

/-- R57: what is read does not change when a line leaves the L2. -/
theorem byte_dropLine {s : State} (hok : Safety.MemoryOk s) {line : Nat} (hline : line % 2048 = 0) (key : Nat) :
    (s.dropLine line).byte key = s.byte key := by
  by_cases hheld : s.held line = true
  · obtain ⟨hm, hl, -⟩ := hok
    have he : s.dropLine line = { s with
        mem := copyLine s.l2mem s.mem line line, l2mem := s.l2mem.drop line 2048
        frames := s.frames.filter fun x => !(x.die == homeDie line && x.sln == stackLine line) } := by rw [State.dropLine, if_pos hheld]; rfl
    have hmem : (s.dropLine line).mem.read key = if line ≤ key ∧ key < line + 2048 then s.l2mem.read key else s.mem.read key := by
      rw [he, read_copyLine hl hm, show key - line + line = if line ≤ key then key else line by split <;> omega]
      split
      · next h =>
        obtain ⟨hlo, -⟩ := h
        rw [if_pos hlo]
      · rfl
    have hl2 : (s.dropLine line).l2mem.read key = if line ≤ key ∧ key < line + 2048 then 0 else s.l2mem.read key := by rw [he]; exact read_drop hl _ _ _
    have hin : (line ≤ key ∧ key < line + 2048) ↔ key / 2048 = line / 2048 := by omega
    simp only [hin] at hmem hl2
    by_cases hk : key / 2048 = line / 2048
    · have hnot : (s.dropLine line).held key = false := by
        rw [← Bool.not_eq_true, held_dropLine hheld]
        exact fun ⟨_, hne⟩ => hne hk
      obtain ⟨⟨-, hhbm, -⟩, -⟩ := held_iff.mp hheld
      rw [byte_of_hbm_not_held ((line_facts hk).2.1.trans hhbm) hnot, hmem, if_pos hk, byte_of_held ((held_of_line s hk).trans hheld)]
    · have hsame : (s.dropLine line).held key = s.held key := by
        rw [Bool.eq_iff_iff, held_dropLine hheld]
        exact and_iff_left hk
      have hhost : (s.dropLine line).hostHeld key = s.hostHeld key := by rw [he]; rfl
      have hhm : (s.dropLine line).hostmem = s.hostmem := by rw [he]
      rw [State.byte, State.byte, hsame, hhost, hmem, hl2, hhm, if_neg hk, if_neg hk]
  · rw [State.dropLine, if_neg hheld]

theorem dropLine_memoryOk {s : State} (hok : Safety.MemoryOk s) (line : Nat) : Safety.MemoryOk (s.dropLine line) := by
  obtain ⟨hm, hl, -, honly⟩ := dropLine_spec hok line
  obtain ⟨m, l, f, p, he⟩ := honly.exists_eq
  obtain ⟨-, -, hh⟩ := hok
  exact ⟨hm, hl, by rw [he]; exact hh⟩

/-! What the home of a read-modify-write finds and leaves. -/

/-- Nothing that tasks, requests and replies look at differs: at most storage and what describes its lines, the counters of tiles, replacement
state and pending work. -/
def HomeWork (s t : State) : Prop :=
  { t with mem := s.mem, l2mem := s.l2mem, hostmem := s.hostmem, bad := s.bad, frames := s.frames, marks := s.marks, shadows := s.shadows
           ctxs := s.ctxs, agenda := s.agenda, hostBias := s.hostBias, plru := s.plru, tiles := s.tiles } = s

theorem HomeWork.refl (s : State) : HomeWork s s := rfl

theorem HomeWork.of_homeOnly {s t : State} (h : Laws.HomeOnly s t) : HomeWork s t := by
  have := congrArg (fun x : State => ({ x with plru := s.plru, tiles := s.tiles } : State)) h
  exact this

theorem HomeWork.of_l2Only {s t : State} (h : L2Only s t) : HomeWork s t := by
  obtain ⟨m, l, f, p, rfl⟩ := h.exists_eq
  rfl

theorem HomeWork.exists_eq {s t : State} (h : HomeWork s t) : ∃ m l hm b f mk sh c g hb p ti, t = { s with
    mem := m, l2mem := l, hostmem := hm, bad := b, frames := f, marks := mk, shadows := sh, ctxs := c, agenda := g, hostBias := hb, plru := p, tiles := ti } :=
  ⟨t.mem, t.l2mem, t.hostmem, t.bad, t.frames, t.marks, t.shadows, t.ctxs, t.agenda, t.hostBias, t.plru, t.tiles, by conv_rhs => rw [← h]⟩

theorem HomeWork.trans {s t u : State} (h : HomeWork s t) (k : HomeWork t u) : HomeWork s u := by
  obtain ⟨_, _, _, _, _, _, _, _, _, _, _, _, rfl⟩ := h.exists_eq
  obtain ⟨_, _, _, _, _, _, _, _, _, _, _, _, rfl⟩ := k.exists_eq
  rfl

theorem HomeWork.tasks {s t : State} (h : HomeWork s t) : t.tasks = s.tasks := by
  obtain ⟨_, _, _, _, _, _, _, _, _, _, _, _, rfl⟩ := h.exists_eq
  rfl

/-- An operation with a number, unanswered, whose answer goes to nobody else and comes back (R78, R95, R453). -/
structure Pending (s : State) (id : Nat) (r : Req) : Prop where
  req : s.req id = some r
  unanswered : r.answer = none
  alone : ∀ c ∈ s.combines, c.merged ≠ id
  back : s.replyOk r = true

/-- Work at a home leaves an operation pending. -/
theorem Pending.of_homeWork {s t : State} {id : Nat} {r : Req} (h : Pending s id r) (k : HomeWork s t) : Pending t id r := by
  obtain ⟨_, _, _, _, _, _, _, _, _, _, _, _, rfl⟩ := k.exists_eq
  exact ⟨h.req, h.unanswered, h.alone, h.back⟩

/-- R78: a pending operation's answer stands, and nothing else that is read of storage or tasks differs. -/
theorem Pending.reply {s : State} {id : Nat} {r : Req} (h : Pending s id r) (a : Answer) :
    Safety.Answered (s.reply id a) id a ∧ ∃ l p g, s.reply id a = { s with reqs := l, replies := p, agenda := g } :=
  reply_spec h.alone h.req h.unanswered h.back a

/-- R78: after work at its home a pending operation is answered; no task differs, and what is read is what the home has left. -/
theorem Pending.replyAfter {s t : State} {id : Nat} {r : Req} (h : Pending s id r) (k : HomeWork s t) (a : Answer) :
    Safety.Answered (t.reply id a) id a ∧ (t.reply id a).tasks = s.tasks ∧ ∀ key, (t.reply id a).byte key = t.byte key := by
  obtain ⟨hans, l, p, g, he⟩ := (h.of_homeWork k).reply a
  refine ⟨hans, by rw [he]; exact k.tasks, ?_⟩
  rw [he]
  exact SameHomes.byte (.of_eq rfl rfl rfl rfl rfl rfl)

/-! Placing the line, and reading and writing at it. -/

/-- R59: the request's line is settled, of device bias, and the home need not fill it; no snapshot covers it. -/
def Ready (s : State) (r : Req) : Prop :=
  ∀ w, r.use = some w → w.line % 2048 = 0 ∧ (s.mark w.line).1 = 0 ∧ w.mtype < 3 ∧ w.epoch = 0 ∧ s.filling w.line = false ∧ s.allocates w = false

theorem Ready.epoch {s : State} {r : Req} (h : Ready s r) : ∀ w, r.use = some w → w.epoch = 0 := fun w hw => by
  obtain ⟨-, -, -, he, -, -⟩ := h w hw
  exact he

theorem badIn_congr {s t : State} (hb : t.bad = s.bad) (hs : t.spares = s.spares) (hm : t.mgmt = s.mgmt) : t.badIn = s.badIn := by
  have hd : t.degraded = s.degraded := funext fun key => by rw [State.degraded, State.degraded, State.package, State.package, hs, hm]
  funext key n
  rw [State.badIn, State.badIn, hb, hs, hd]

/-- R59: the place of an atomic's line changes nothing that is read. -/
theorem placeAtomic_spec {s : State} {r : Req} (hok : Safety.MemoryOk s) (hr : Ready s r) (agent : Bool) :
    HomeWork s (s.placeAtomic r agent) ∧ Safety.MemoryOk (s.placeAtomic r agent) ∧ (∀ key, (s.placeAtomic r agent).byte key = s.byte key)
      ∧ (s.placeAtomic r agent).badIn = s.badIn := by
  rw [State.placeAtomic]
  cases hu : r.use with
  | none => exact ⟨.refl s, hok, fun _ => rfl, rfl⟩
  | some u =>
    obtain ⟨hline, hmark, ht, -, -, hall⟩ := hr u hu
    simp only [Laws.prepare_of_mark_zero hmark (show u.mtype ≠ 3 by omega)]
    cases agent with
    | true =>
      obtain ⟨-, -, -, honly⟩ := dropLine_spec hok u.line
      simp only [if_true]
      refine ⟨.of_l2Only honly, dropLine_memoryOk hok _, byte_dropLine hok hline, ?_⟩
      obtain ⟨m, l, f, p, he⟩ := honly.exists_eq
      rw [he]
      rfl
    | false =>
      simp only [Bool.false_eq_true, if_false]
      have hmeet (tiles : Table Nat Tile) : ∃ plru, ({ s with tiles := tiles } : State).meet r.ctx u = { s with tiles := tiles, plru := plru } := by
        have hall' : ({ s with tiles := tiles } : State).allocates u = false := hall
        rw [State.meet, hall']
        exact hit_eq { s with tiles := tiles } u
      have hkeeps (tiles : Table Nat Tile) (plru : Table (Nat × Nat × Nat) Nat) : SameHomes s { s with tiles := tiles, plru := plru } :=
        .of_eq rfl rfl rfl rfl rfl rfl
      cases r.tileOf with
      | none =>
        obtain ⟨plru, he⟩ := hmeet s.tiles
        exact he ▸ ⟨rfl, (hkeeps ..).memoryOk hok, (hkeeps ..).byte, rfl⟩
      | some n =>
        obtain ⟨tiles, ht⟩ := countL2_eq s n u
        obtain ⟨plru, he⟩ := hmeet tiles
        simp only [ht, he]
        exact ⟨rfl, (hkeeps ..).memoryOk hok, (hkeeps ..).byte, rfl⟩

/-- R105: a write that no snapshot covers pushes nothing. -/
theorem pushFor_zero (s : State) (r : Req) {u : Option LineUse} (h : ∀ w, u = some w → w.epoch = 0) (va : Nat) (acc : Acc) :
    s.pushFor r u va acc = .ok s := by
  cases u with
  | none => rfl
  | some w => simp [State.pushFor, State.push, h w rfl, openEpoch_zero]

theorem readFault_none {s : State} {r : Req} {n : Nat} (h : s.badIn r.loc n = none) (acc : Acc) : s.readFault r n acc = none := by
  rw [State.readFault, h]

/-- R71: the write of a read-modify-write: left out where it would change nothing, it leaves the new value's bytes all the same. -/
theorem rmw_spec {s : State} (hok : Safety.MemoryOk s) {key n : Nat} {A : BitVec (8 * n)} (hA : ∀ i, i < n → A.extractLsb' (8 * i) 8 = s.byte (key + i))
    {new : Nat} {always : Prop} [Decidable always] {u : State}
    (hu : u = if new ≠ A.toNat ∨ always then s.commitBytes (placeBytes key (bytesOfNat n new)) else s) :
    HomeWork s u ∧ ∀ k, u.byte k = if key ≤ k ∧ k < key + n then (BitVec.ofNat (8 * n) new).extractLsb' (8 * (k - key)) 8 else s.byte k := by
  subst hu
  split
  · exact ⟨.of_homeOnly (Laws.commitBytes_homeOnly ..), byte_commit_number hok key n new⟩
  · next h =>
    obtain ⟨hnew, -⟩ := not_or.mp h
    rw [ne_eq, not_not] at hnew
    refine ⟨.refl s, fun k => ?_⟩
    split
    · next hk => rw [hnew, BitVec.ofNat_toNat, BitVec.setWidth_eq, hA _ (by omega), show key + (k - key) = k by omega]
    · rfl

/-- R70: the value that a single-word operation leaves, from the one in memory, its operand and the one it compares with. -/
def newValue {n : Nat} (f : Nat) (A V C : BitVec n) : BitVec n :=
  match f with
  | 0 => A + V
  | 1 => if V.slt A then V else A
  | 2 => if A.slt V then V else A
  | 3 => if V.ult A then V else A
  | 4 => if A.ult V then V else A
  | 5 => A &&& V
  | 6 => A ||| V
  | 7 => A ^^^ V
  | 8 => V
  | _ => if A = C then V else A

theorem ofNat_mod_self (n x : Nat) : BitVec.ofNat n (x % 2 ^ n) = BitVec.ofNat n x := BitVec.eq_of_toNat_eq (by simp)

/-- R70: the model's table of operations is the rule's, word by word. -/
theorem atomicNew_eq_newValue {size f v cmp : Nat} (hf : f ≤ 9) (hv : v < 2 ^ (8 * size)) (hc : cmp < 2 ^ (8 * size)) (A : BitVec (8 * size)) (ftz : Bool) :
    BitVec.ofNat (8 * size) (atomicNew f size A.toNat v cmp false ftz) = newValue f A (BitVec.ofNat (8 * size) v) (BitVec.ofNat (8 * size) cmp) := by
  have hA := A.isLt
  obtain ⟨V, rfl⟩ : ∃ V : BitVec (8 * size), V.toNat = v := ⟨BitVec.ofNat _ v, by simp [Nat.mod_eq_of_lt hv]⟩
  obtain ⟨C, rfl⟩ : ∃ C : BitVec (8 * size), C.toNat = cmp := ⟨BitVec.ofNat _ cmp, by simp [Nat.mod_eq_of_lt hc]⟩
  simp only [BitVec.ofNat_toNat, BitVec.setWidth_eq]
  have hslt (X Y : BitVec (8 * size)) : (X.toInt < Y.toInt) ↔ X.slt Y = true := by simp [BitVec.slt]
  have hult (X Y : BitVec (8 * size)) : X.ult Y = true ↔ X.toNat < Y.toNat := by simp [BitVec.ult]
  have hite (p : Prop) [Decidable p] (X Y : BitVec (8 * size)) : BitVec.ofNat (8 * size) (if p then X.toNat else Y.toNat) = if p then X else Y := by
    split <;> simp
  by_cases h9 : f = 9
  · subst h9
    simp only [atomicNew, newValue, Bool.false_eq_true, if_false, if_true, hite, BitVec.toNat_inj]
  · have : f = 0 ∨ f = 1 ∨ f = 2 ∨ f = 3 ∨ f = 4 ∨ f = 5 ∨ f = 6 ∨ f = 7 ∨ f = 8 := by omega
    simp only [atomicNew, Bool.false_eq_true, if_false, h9, ofNat_mod_self]
    have hand (X : BitVec (8 * size)) {x : Nat} (h : X.toNat = x) : BitVec.ofNat (8 * size) x = X := by rw [← h]; simp
    have hmin : min A.toNat V.toNat = if V.toNat < A.toNat then V.toNat else A.toNat := by split <;> omega
    have hmax : max A.toNat V.toNat = if A.toNat < V.toNat then V.toNat else A.toNat := by split <;> omega
    rcases this with rfl | rfl | rfl | rfl | rfl | rfl | rfl | rfl | rfl <;>
      simp only [combineSecond, newValue, BitVec.ofNat_toNat, BitVec.setWidth_eq, hslt, hult, hmin, hmax, hite, if_true, if_false, Nat.reduceEqDiff]
    · exact hand _ (BitVec.toNat_add ..)
    · exact hand _ (BitVec.toNat_and ..)
    · exact hand _ (BitVec.toNat_or ..)
    · exact hand _ (BitVec.toNat_xor ..)

/-- R72, R170: the sum of two FP32 numbers: the first NaN quieted, else the exact sum rounded once. -/
theorem fmtAdd_eq (f : Fmt) (rm : Rm) (ftz : Bool) (a b : Nat) :
    f.add rm ftz a b = if f.isNan (f.flush ftz a) then f.quiet (f.flush ftz a) else if f.isNan (f.flush ftz b) then f.quiet (f.flush ftz b)
      else f.round rm ftz ((f.value (f.flush ftz a)).add rm (f.value (f.flush ftz b))) := by
  simp only [Fmt.add, Fmt.op, List.map_cons, List.map_nil, List.find?_cons, List.find?_nil]
  cases f.isNan (f.flush ftz a)
  · cases f.isNan (f.flush ftz b) <;> rfl
  · rfl

/-! The operations at their home. -/

/-- R71: an atomic that its task's order lets be performed, its line in no fill, is performed. -/
theorem exec_homeAtomic {s : State} {id : Nat} {r : Req} (h : Pending s id r) (hw : s.cur.work = some (.homeAtomic id)) (hm : s.mayPerform r = true)
    (hr : Ready s r) : exec .homeAtomic s = .next (s.performAtomic r) := by
  have hexec : exec .homeAtomic s = execHomeAtomic s := rfl
  have hfill : r.use.any (fun u => s.filling u.line) = false := by
    cases hu : r.use with
    | none => rfl
    | some u =>
      obtain ⟨-, -, -, -, hf, -⟩ := hr u hu
      exact hf
  simp only [hexec, execHomeAtomic, hw, h.req, h.unanswered, hm, hfill, Option.isSome_none, Bool.not_true, Bool.false_eq_true, if_false]

/-- R70, R71: a single-word operation answers the value that stood at its place, and leaves the new one there. -/
theorem performAtomic_word {s : State} {id : Nat} {r : Req} (h : Pending s id r) (hok : Safety.MemoryOk s) (hr : Ready s r) {f size v cmp : Nat}
    {comb fp ftz : Bool} (hop : r.op = .atomic f size v cmp comb fp ftz) (hb : s.badIn r.loc size = none) {A : BitVec (8 * size)}
    (hA : ∀ i, i < size → A.extractLsb' (8 * i) 8 = s.byte (r.loc + i)) :
    Safety.Answered (s.performAtomic r) id { r0 := A.setWidth 64, r1 := 0, olds := if size = 16 then [(A >>> 64).setWidth 64] else [] }
      ∧ (s.performAtomic r).tasks = s.tasks
      ∧ ∀ key, (s.performAtomic r).byte key = if r.loc ≤ key ∧ key < r.loc + size then
          (BitVec.ofNat (8 * size) (atomicNew f size A.toNat v cmp fp ftz)).extractLsb' (8 * (key - r.loc)) 8 else s.byte key := by
  have hid := id_of_req h.req
  subst hid
  obtain ⟨hwork, hok', hbyte, hbad⟩ := placeAtomic_spec hok hr (f == 9 || r.link.isSome)
  have hpush := pushFor_zero (s.placeAtomic r (f == 9 || r.link.isSome)) r hr.epoch r.va .atomic
  have hfault := readFault_none (r := r) (hbad ▸ hb) .atomic
  simp only [State.performAtomic, hop, hfault, hpush]
  generalize s.placeAtomic r (f == 9 || r.link.isSome) = t at hwork hok' hbyte
  have hA' (i : Nat) (hi : i < size) : A.extractLsb' (8 * i) 8 = t.byte (r.loc + i) := by rw [hbyte, hA i hi]
  rw [num_eq_of_bytes hA']
  generalize atomicNew f size A.toNat v cmp fp ftz = new
  generalize hu : (if new ≠ A.toNat ∨ f = 8 then t.commitBytes (placeBytes r.loc (bytesOfNat size new)) else t) = u
  obtain ⟨hwork', hbyte'⟩ := rmw_spec hok' hA' hu.symm
  have hlow : BitVec.ofNat 64 A.toNat = A.setWidth 64 := BitVec.ofNat_toNat 64 A
  have hhigh : BitVec.ofNat 64 (A.toNat / 2 ^ 64) = (A >>> 64).setWidth 64 := by
    rw [← Nat.shiftRight_eq_div_pow, ← BitVec.toNat_ushiftRight, BitVec.ofNat_toNat]
  rw [hlow, hhigh]
  split
  all_goals
    obtain ⟨hans, htasks, hread⟩ := h.replyAfter (hwork.trans hwork') _
    exact ⟨hans, htasks, fun key => by rw [hread, hbyte', hbyte]⟩

/-- R71: the words of a block whose bytes stand at the keys. -/
theorem wordsAt_eq {s : State} {key n : Nat} {l : List Word} (hl : l.length = n)
    (h : ∀ i j, i < n → j < 8 → (l.getD i 0).extractLsb' (8 * j) 8 = s.byte (key + 8 * i + j)) : s.wordsAt key n = l := by
  induction n generalizing key l with
  | zero => rw [List.length_eq_zero_iff.mp hl]; rfl
  | succ n ih =>
    obtain ⟨w, r, rfl⟩ := List.exists_cons_of_length_eq_add_one hl
    have hw : s.num key 8 = w.toNat := num_eq_of_bytes (n := 8) fun j hj => h 0 j (by omega) hj
    rw [State.wordsAt, hw, ih (by simpa using hl) fun i j hi hj => ?_]
    · simp
    · rw [← List.getD_cons_succ (x := w), h (i + 1) j (by omega) hj, show key + 8 * (i + 1) + j = key + 8 + 8 * i + j by omega]

theorem wordBytes_length (l : List Word) : (l.flatMap fun w => bytesOfNat 8 w.toNat).length = 8 * l.length := by
  simp [List.length_flatMap, Nat.mul_comm]

/-- R164: the bytes of words one behind the other. -/
theorem wordBytes_getD (l : List Word) {i : Nat} (h : i < 8 * l.length) :
    (l.flatMap fun w => bytesOfNat 8 w.toNat).getD i 0 = (l.getD (i / 8) 0).extractLsb' (8 * (i % 8)) 8 := by
  induction l generalizing i with
  | nil => simp at h
  | cons w r ih =>
    rw [List.length_cons] at h
    rw [List.flatMap_cons]
    by_cases hi : i < 8
    · rw [List.getD_append _ _ _ _ (by simpa using hi), bytesOfNat_getD _ hi, Nat.div_eq_of_lt hi, Nat.mod_eq_of_lt hi]
      simp
    · obtain ⟨j, rfl⟩ : ∃ j, i = j + 8 := ⟨i - 8, by omega⟩
      rw [List.getD_append_right _ _ _ _ (by simp), bytesOfNat_length, Nat.add_sub_cancel, ih (by omega), Nat.add_mod_right, Nat.add_div_right _ (by decide),
        List.getD_cons_succ]

/-- R73: an ACASM answers whether every old word is as it compares, and writes its words in that case only. -/
theorem performAtomic_acasm {s : State} {id : Nat} {r : Req} (h : Pending s id r) (hok : Safety.MemoryOk s) (hr : Ready s r) {n vk : Nat} {cmp new : List Word}
    (hop : r.op = .acasm n vk cmp new) (hnew : new.length = n) (hb : s.badIn r.loc (8 * n) = none) {olds : List Word} (holds : olds.length = n)
    (hA : ∀ i j, i < n → j < 8 → (olds.getD i 0).extractLsb' (8 * j) 8 = s.byte (r.loc + 8 * i + j)) :
    Safety.Answered (s.performAtomic r) id { r0 := if olds = cmp then 1 else 0, olds := olds } ∧ (s.performAtomic r).tasks = s.tasks
      ∧ ∀ key, (s.performAtomic r).byte key = if olds = cmp ∧ r.loc ≤ key ∧ key < r.loc + 8 * n then
          (new.getD ((key - r.loc) / 8) 0).extractLsb' (8 * ((key - r.loc) % 8)) 8 else s.byte key := by
  have hid := id_of_req h.req
  subst hid
  obtain ⟨hwork, hok', hbyte, hbad⟩ := placeAtomic_spec hok hr true
  have hpush := pushFor_zero (s.placeAtomic r true) r hr.epoch r.va .atomic
  have hfault := readFault_none (r := r) (hbad ▸ hb) .atomic
  have hwords : (s.placeAtomic r true).wordsAt r.loc n = olds := wordsAt_eq holds fun i j hi hj => by rw [hA i j hi hj, hbyte]
  simp only [State.performAtomic, hop, hfault, hpush, hwords]
  split
  · next he =>
    have hwork' := hwork.trans (.of_homeOnly (Laws.commitBytes_homeOnly _ (placeBytes r.loc (new.flatMap fun w => bytesOfNat 8 w.toNat))))
    obtain ⟨hans, htasks, hread⟩ := h.replyAfter hwork' { r0 := 1, olds := olds }
    refine ⟨hans, htasks, fun key => ?_⟩
    rw [hread, byte_commitBytes hok', lastWrite_placeBytes, wordBytes_length, hnew, hbyte]
    simp only [he, true_and]
    split
    · exact wordBytes_getD new (by omega)
    · rfl
  · next he =>
    obtain ⟨hans, htasks, hread⟩ := h.replyAfter hwork { r0 := 0, olds := olds }
    exact ⟨hans, htasks, fun key => by rw [hread, hbyte, if_neg fun ⟨heq, _⟩ => he heq]⟩

/-- Settles O45: placing the line changes nothing that is read, so each operation works on what stands at its place, and its write is the one change. -/
theorem atomicsArePerformed : Obligations.AtomicsArePerformed := by
  unfold Obligations.AtomicsArePerformed
  intro s id r hr ha hm hc hreply hw hok hready
  have h : Pending s id r := ⟨hr, ha, hc, hreply⟩
  have hexec := exec_homeAtomic h hw hm hready
  refine ⟨fun f size v cmp comb ftz hop hf hsize hb hv hcmp A hA => ?_, fun v cmp comb ftz hop hb hv A hA => ?_,
    fun n vk cmp new hop h2 h4 hnew hb olds holds hA => ?_⟩
  · obtain ⟨hans, htasks, hbyte⟩ := performAtomic_word h hok hready hop hb hA
    rw [atomicNew_eq_newValue hf hv hcmp] at hbyte
    exact ⟨_, hexec, hans, htasks, hbyte⟩
  · obtain ⟨hans, htasks, hbyte⟩ := performAtomic_word h hok hready hop hb hA
    refine ⟨_, hexec, hans, htasks, fun key => ?_⟩
    rw [hbyte key, show atomicNew 0 4 A.toNat v cmp true ftz = fp32.add .rne ftz A.toNat v from rfl, fmtAdd_eq]
  · obtain ⟨hans, htasks, hbyte⟩ := performAtomic_acasm h hok hready hop hnew hb holds hA
    exact ⟨_, hexec, hans, htasks, hbyte⟩

end Sys2Proof.Proofs
end

section
/-! SUPPORT. The writes of list operations and of WENQs (R74, R91, R105). -/

namespace Sys2Proof.Proofs

open Sys2Proof.Machine

/-! Writes one after another. -/

theorem lastWrite_append (a b : List (Nat × Byte)) (key : Nat) (d : Option Byte) : lastWrite (a ++ b) key d = lastWrite b key (lastWrite a key d) := by
  induction a generalizing d with
  | nil => rfl
  | cons c r ih => rw [List.cons_append, lastWrite, lastWrite, ih]

theorem setBytes_memoryOk {s : State} (h : Safety.MemoryOk s) (cells : List (Nat × Byte)) : Safety.MemoryOk (s.setBytes cells) := by
  induction cells generalizing s with
  | nil => exact h
  | cons c r ih => exact ih (setByte_memoryOk h _ _)

theorem commitBytes_memoryOk {s : State} (h : Safety.MemoryOk s) (cells : List (Nat × Byte)) : Safety.MemoryOk (s.commitBytes cells) :=
  ((madeGood_sameHomes (s.setBytes cells) cells).trans (.of_eq rfl rfl rfl rfl rfl rfl)).memoryOk (setBytes_memoryOk h cells)

/-- The cells of the writes of a list operation or a WENQ, in their order. -/
def legCells (legs : List Leg) : List (Nat × Byte) := legs.flatMap fun l => placeBytes l.key l.bytes

theorem legCells_cons (l : Leg) (r : List Leg) : legCells (l :: r) = placeBytes l.key l.bytes ++ legCells r := List.flatMap_cons

/-- R74, R91: the writes leave, of each byte, the last that is written there. -/
theorem foldl_writeLeg_spec {s : State} (h : Safety.MemoryOk s) (legs : List Leg) :
    Laws.HomeOnly s (legs.foldl State.writeLeg s)
      ∧ ∀ key, (legs.foldl State.writeLeg s).byte key = (lastWrite (legCells legs) key none).getD (s.byte key) := by
  induction legs generalizing s with
  | nil => exact ⟨rfl, fun _ => rfl⟩
  | cons l r ih =>
    obtain ⟨hwork, hbyte⟩ := ih (s := s.writeLeg l) (commitBytes_memoryOk h _)
    refine ⟨(Laws.commitBytes_homeOnly ..).trans hwork, fun key => ?_⟩
    rw [List.foldl_cons, hbyte, State.writeLeg, byte_commitBytes h, legCells_cons, lastWrite_append,
      lastWrite_or (legCells r) key (lastWrite (placeBytes l.key l.bytes) key none)]
    cases lastWrite (legCells r) key none <;> rfl

/-! Pushes before the writes. -/

/-- R113, R460: before a line of epoch 0 is served, at most the host's copy of it is recalled. -/
theorem prepare_mark_zero {s : State} {u : LineUse} (h : (s.mark u.line).1 = 0) : ∃ b, s.prepare u = { s with hostBias := b } := by
  rw [State.prepare]
  simp only [Laws.settle_of_mark_zero h, ite_self]
  split
  · exact ⟨_, rfl⟩
  · exact ⟨_, rfl⟩

/-- R105: where no snapshot covers a line that is written, nothing is pushed. -/
theorem pushLegs_plain {s : State} {legs : List Leg} {drop : Bool} (hd : drop = true → s.frames = [])
    (h : ∀ l ∈ legs, ∀ w, l.use = some w → w.epoch = 0 ∧ (s.mark w.line).1 = 0) (r : Req) (acc : Acc) :
    ∃ b, s.pushLegs r drop acc legs = .ok { s with hostBias := b } := by
  rw [State.pushLegs]
  induction legs generalizing s with
  | nil => exact ⟨s.hostBias, rfl⟩
  | cons l rest ih =>
    have hrest (b : List Nat) := ih (s := { s with hostBias := b }) hd fun x hx => h x (List.mem_cons_of_mem _ hx)
    have hepoch (w : LineUse) (hw : l.use = some w) := (h l List.mem_cons_self w hw).1
    rw [List.foldl_cons]
    simp only [pushFor_zero _ _ hepoch]
    cases hu : l.use with
    | none => exact hrest s.hostBias
    | some w =>
      obtain ⟨-, hmark⟩ := h l List.mem_cons_self w hu
      obtain ⟨b, hb⟩ := prepare_mark_zero hmark
      have hdrop : (if drop = true then ({ s with hostBias := b } : State).dropLine w.line else { s with hostBias := b }) = { s with hostBias := b } := by
        split
        · next ht =>
          have hheld : ({ s with hostBias := b } : State).held w.line = false := by simp [State.held, State.frameOf, hd ht]
          rw [State.dropLine, hheld]
          rfl
        · rfl
      simp only [hb, hdrop]
      exact hrest b

/-- R74, R91: writes within the package of the agent are one step, after which the operation is answered. -/
theorem doLegs_near {s : State} {id : Nat} {r : Req} (h : Pending s id r) (hok : Safety.MemoryOk s) {legs : List Leg}
    (hnear : ∀ l ∈ legs, isGl l.key = true → paPackage l.key = paPackage r.loc) (value : Word) :
    Safety.Answered (s.doLegs r legs value) id { r0 := value } ∧ (s.doLegs r legs value).tasks = s.tasks
      ∧ ∀ key, (s.doLegs r legs value).byte key = (lastWrite (legCells legs) key none).getD (s.byte key) := by
  have hid := id_of_req h.req
  subst hid
  have hany : (legs.any fun l => isGl l.key && paPackage l.key != paPackage r.loc) = false := List.any_eq_false.mpr fun l hl => by
    cases hg : isGl l.key
    · simp
    · simp [hnear l hl hg]
  obtain ⟨hwork, hbyte⟩ := foldl_writeLeg_spec hok legs
  obtain ⟨hans, htasks, hread⟩ := h.replyAfter (.of_homeOnly hwork) { r0 := value }
  simp only [State.doLegs, hany, Bool.false_eq_true, if_false]
  exact ⟨hans, htasks, fun key => (hread key).trans (hbyte key)⟩

/-! What a translation that an agent has made leaves (R19, R42). -/

theorem usePageIn_eq (s : State) (r : Req) (ctx va : Nat) : ∃ k, s.usePageIn r ctx va = { s with tasks := k } := by
  rw [State.usePageIn]
  cases r.task with
  | none => exact ⟨_, rfl⟩
  | some t => exact ⟨_, rfl⟩

/-- What an agent's translation for a write may change: storage, what describes its lines, tasks' pages and translations. -/
def Translates (s t : State) : Prop := ∃ k tc u, t = { u with tasks := k, tc := tc } ∧ Laws.HomeOnly s u

theorem usedPage_translates (s : State) (r : Req) (ctx va : Nat) (die c : Nat) (use : Option LineUse) :
    Translates s ((s.usePageIn r ctx va).markUse die c use) := by
  obtain ⟨k, he⟩ := usePageIn_eq s r ctx va
  have hwork (a b : Nat) : Laws.HomeOnly { s with tasks := k } (({ s with tasks := k } : State).orEntry a b) :=
    ((Laws.settle_homeOnly ..).trans (Laws.dropLine_homeOnly ..)).trans (Laws.commitBytes_homeOnly ..)
  have hback {u : State} (hu : Laws.HomeOnly { s with tasks := k } u) (tc : List TcEntry) : Translates s { u with tc := tc } := by
    refine ⟨u.tasks, tc, { u with tasks := s.tasks }, rfl, ?_⟩
    have := congrArg (fun x : State => ({ x with tasks := s.tasks } : State)) hu
    exact this
  rw [he]
  cases use with
  | none => exact hback (.refl _) s.tc
  | some u =>
    simp only [State.markUse, State.markDirty]
    split
    · split
      · exact hback (.refl _) s.tc
      · exact hback (hwork ..) _
    · exact hback (hwork u.entry (2 ^ 56)) _

/-- An agent's translation leaves an operation pending. -/
theorem Pending.of_translates {s t : State} {id : Nat} {r : Req} (h : Pending s id r) (k : Translates s t) : Pending t id r := by
  obtain ⟨ts, tc, u, rfl, hu⟩ := k
  have hp := h.of_homeWork (.of_homeOnly hu)
  exact ⟨hp.req, hp.unanswered, hp.alone, hp.back⟩

end Sys2Proof.Proofs
end

section
/-! SUPPORT. An AENQ at its home (R74). -/

namespace Sys2Proof.Proofs

open Sys2Proof.Machine

/-- A header's line without a snapshot, of device bias, in no fill (R57, R105, R460). -/
def HeaderReady (s : State) (r : Req) : Prop := ∀ w, r.use = some w → w.mtype ≠ 3 ∧ w.epoch = 0 ∧ s.filling w.line = false

theorem HeaderReady.epoch {s : State} {r : Req} (h : HeaderReady s r) : ∀ w, r.use = some w → w.epoch = 0 := fun w hw => by
  obtain ⟨-, he, -⟩ := h w hw
  exact he

theorem HeaderReady.unfilled {s : State} {r : Req} (h : HeaderReady s r) : ∀ w, r.use = some w → s.filling w.line = false := fun w hw => by
  obtain ⟨-, -, hf⟩ := h w hw
  exact hf

/-- R53: with no line in the L2, the L2 holds none. -/
theorem dropLine_of_no_frames {s : State} (h : s.frames = []) (line : Nat) : s.dropLine line = s := by
  have hheld : s.held line = false := by simp [State.held, State.frameOf, h]
  rw [State.dropLine, hheld]
  rfl

theorem option_any_eq_false {α : Type} {p : α → Bool} {o : Option α} (h : ∀ x, o = some x → p x = false) : o.any p = false := by
  cases o with
  | none => rfl
  | some x => exact h x rfl

/-- R74: an AENQ that may be performed is, by what its header's words say. -/
theorem exec_aenqAtHome {s : State} {id : Nat} {r : Req} (h : Pending s id r) (hm : s.mayPerform r = true) (hw : s.cur.work = some (.aenqAtHome id))
    {hd : Nat} {n pa : Nat} {nUse : Option LineUse} (hop : r.op = .aenq hd n pa nUse) (hr : HeaderReady s r) (hf : s.frames = []) (hk : s.marks = []) :
    exec .aenqAtHome s = .next (s.performAenq r n pa nUse) := by
  have hexec : exec .aenqAtHome s = execAenqAtHome s := rfl
  have hfill : r.use.any (fun u => s.filling u.line) = false := option_any_eq_false hr.unfilled
  have hplace : s.placeAtomic r true = s := by
    rw [State.placeAtomic]
    cases hu : r.use with
    | none => rfl
    | some u =>
      obtain ⟨ht, -⟩ := hr u hu
      simp only [Laws.prepare_of_mark_zero (congrArg Prod.fst (Laws.mark_of_no_marks hk u.line)) ht, dropLine_of_no_frames hf, if_true]
  simp only [hexec, execAenqAtHome, hw, h.req, h.unanswered, hop, hm, hfill, hplace, Option.isSome_none, Bool.not_true, Bool.or_self, Bool.false_eq_true,
    if_false]

/-- R74: the writes of an AENQ: its node's link, the header's tail, and the link of the old tail, or of an empty list the head. -/
def aenqLegs (r : Req) (n pa : Nat) (nUse : Option LineUse) (t : Nat) (last : Nat × Option LineUse) : List Leg :=
  [⟨pa, bytesOfNat 8 0, nUse, r.ctx, n⟩, ⟨r.loc + 8, bytesOfNat 8 n, r.use, r.ctx, r.va + 8⟩,
    ⟨last.1, bytesOfNat 8 n, last.2, r.ctx, if t = 0 then r.va else t⟩]

/-- R74: after an AENQ the node's link ends the list, the header's tail and the old tail's link, or the head, name the node, and the old tail is
answered. -/
def Linked (x t : State) (id : Nat) (r : Req) (n pa tl last : Nat) : Prop :=
  Safety.Answered t id { r0 := BitVec.ofNat 64 tl } ∧ t.tasks = x.tasks
    ∧ ∀ a, t.byte a = (lastWrite (placeBytes pa (bytesOfNat 8 0) ++ placeBytes (r.loc + 8) (bytesOfNat 8 n) ++ placeBytes last (bytesOfNat 8 n)) a
        none).getD (x.byte a)

/-- R74: the writes of an AENQ within one package, and the answer. -/
theorem finishAenq_near {s : State} {id : Nat} {r : Req} (h : Pending s id r) (hok : Safety.MemoryOk s) (hf : s.frames = []) (hk : s.marks = [])
    {n pa t : Nat} {nUse : Option LineUse} {last : Nat × Option LineUse}
    (hlines : ∀ w, r.use = some w ∨ nUse = some w ∨ last.2 = some w → s.filling w.line = false ∧ w.epoch = 0)
    (hnear : ∀ k, k = pa ∨ k = r.loc + 8 ∨ k = last.1 → isGl k = true → paPackage k = paPackage r.loc) :
    Linked s (s.finishAenq r n pa nUse t last) id r n pa t last.1 := by
  have hany : ((r.use.toList ++ nUse.toList ++ last.2.toList).map (·.line)).any s.filling = false := List.any_eq_false.mpr fun l hl => by
    obtain ⟨w, hw, rfl⟩ := List.mem_map.mp hl
    have : r.use = some w ∨ nUse = some w ∨ last.2 = some w := by simpa [or_assoc] using hw
    simp [(hlines w this).1]
  have hmark (w : LineUse) : (s.mark w.line).1 = 0 := congrArg Prod.fst (Laws.mark_of_no_marks hk w.line)
  have hplain : ∀ l ∈ aenqLegs r n pa nUse t last, ∀ w, l.use = some w → w.epoch = 0 ∧ (s.mark w.line).1 = 0 := by
    simp only [aenqLegs, List.forall_mem_cons]
    exact ⟨fun w hw => ⟨(hlines w (.inr (.inl hw))).2, hmark w⟩, fun w hw => ⟨(hlines w (.inl hw)).2, hmark w⟩,
      fun w hw => ⟨(hlines w (.inr (.inr hw))).2, hmark w⟩,
      fun _ hl => absurd hl List.not_mem_nil⟩
  obtain ⟨b, hpush⟩ := pushLegs_plain (fun _ => hf) hplain r .atomic (drop := true)
  have hlegs : ∀ l ∈ aenqLegs r n pa nUse t last, isGl l.key = true → paPackage l.key = paPackage r.loc := by
    simp only [aenqLegs, List.forall_mem_cons]
    exact ⟨hnear _ (.inl rfl), hnear _ (.inr (.inl rfl)), hnear _ (.inr (.inr rfl)), fun _ hl => absurd hl List.not_mem_nil⟩
  have hbias : HomeWork s { s with hostBias := b } := rfl
  obtain ⟨hans, htasks, hbyte⟩ := doLegs_near (h.of_homeWork hbias) hok hlegs (BitVec.ofNat 64 t)
  rw [show legCells (aenqLegs r n pa nUse t last) = placeBytes pa (bytesOfNat 8 0) ++ placeBytes (r.loc + 8) (bytesOfNat 8 n)
    ++ placeBytes last.1 (bytesOfNat 8 n) by simp [aenqLegs, legCells]] at hbyte
  have he : s.finishAenq r n pa nUse t last = ({ s with hostBias := b } : State).doLegs r (aenqLegs r n pa nUse t last) (BitVec.ofNat 64 t) := by
    simp only [aenqLegs] at hpush ⊢
    simp only [State.finishAenq, hany, hpush, Bool.false_eq_true, if_false]
  rw [he]
  exact ⟨hans, htasks, hbyte⟩

/-- R74: an AENQ on an empty list. -/
theorem performAenq_empty {s : State} {r : Req} {n pa : Nat} {nUse : Option LineUse} (hb : s.badIn (r.loc + 8) 8 = none) (ht : s.num (r.loc + 8) 8 = 0) :
    s.performAenq r n pa nUse = s.finishAenq r n pa nUse 0 (r.loc, r.use) := by
  have hfault : s.readFault { r with loc := r.loc + 8 } 8 .atomic = none := readFault_none hb .atomic
  simp only [State.performAenq, hfault, ht, if_true]

/-- R47, R74 (log 46): a tail that is not aligned. -/
theorem performAenq_misaligned {s : State} {r : Req} {n pa : Nat} {nUse : Option LineUse} (hb : s.badIn (r.loc + 8) 8 = none)
    (ht : s.num (r.loc + 8) 8 % 8 ≠ 0) : s.performAenq r n pa nUse = s.reply r.id { r0 := 0, r1 := 3 } := by
  have hfault : s.readFault { r with loc := r.loc + 8 } 8 .atomic = none := readFault_none hb .atomic
  have h0 : s.num (r.loc + 8) 8 ≠ 0 := fun h => ht (by rw [h])
  simp only [State.performAenq, hfault, h0, ht, if_true, if_false, ne_eq, not_false_eq_true]
  rfl

/-- R74: an AENQ behind a tail that its agent has translated. -/
theorem performAenq_behind {s : State} {r : Req} {n pa : Nat} {nUse : Option LineUse} (hb : s.badIn (r.loc + 8) 8 = none) (h0 : s.num (r.loc + 8) 8 ≠ 0)
    (h8 : s.num (r.loc + 8) 8 % 8 = 0) {pt : Nat} {use : Option LineUse}
    (hc : s.checkFor (homeDie r.loc) r.ctx (s.num (r.loc + 8) 8) .write (.op r.id) = (.ok pt use, s)) :
    s.performAenq r n pa nUse = ((s.usePageFor r (s.num (r.loc + 8) 8)).markUse (homeDie r.loc) r.ctx use).finishAenq r n pa nUse (s.num (r.loc + 8) 8)
      (pt, use.map fun u => { u with epoch := s.attachEpoch r.ctx (s.num (r.loc + 8) 8) u.mtype pt }) := by
  have hfault : s.readFault { r with loc := r.loc + 8 } 8 .atomic = none := readFault_none hb .atomic
  simp only [State.performAenq, hfault, h0, h8, hc, if_false, ne_eq, not_true]

theorem ctxs_foldl_soil (l : List Nat) (s : State) : (l.foldl State.soil s).ctxs = s.ctxs := by
  induction l generalizing s with
  | nil => rfl
  | cons a r ih => exact ih _

theorem ctxs_setBytes (cells : List (Nat × Byte)) (s : State) : (s.setBytes cells).ctxs = s.ctxs := by
  induction cells generalizing s with
  | nil => rfl
  | cons c r ih =>
    have hset : (s.setByte c.1 c.2).ctxs = s.ctxs := by
      simp only [State.setByte]
      split
      · rfl
      · split <;> rfl
    exact (ih _).trans hset

/-- R57: a write at the homes changes no context. -/
theorem ctxs_commitBytes (s : State) (cells : List (Nat × Byte)) : (s.commitBytes cells).ctxs = s.ctxs := by
  have hgood : ((s.setBytes cells).madeGood cells).ctxs = (s.setBytes cells).ctxs := by
    rw [State.madeGood, ctxs_foldl_soil]
    split <;> rfl
  exact hgood.trans (ctxs_setBytes cells s)

theorem ctxs_dropLine (s : State) (line : Nat) : (s.dropLine line).ctxs = s.ctxs := by
  rw [State.dropLine]
  split <;> rfl

/-- R19: with no line marked, a translation's marks change no context. -/
theorem ctxs_usedPage {s : State} (hk : s.marks = []) (r : Req) (ctx va die c : Nat) (use : Option LineUse) :
    ((s.usePageIn r ctx va).markUse die c use).ctxs = s.ctxs := by
  obtain ⟨k, he⟩ := usePageIn_eq s r ctx va
  have hentry (a b : Nat) : (({ s with tasks := k } : State).orEntry a b).ctxs = s.ctxs := by
    rw [State.orEntry, ctxs_commitBytes, ctxs_dropLine, Laws.settle_of_no_marks (s := { s with tasks := k }) hk]
  rw [he]
  cases use with
  | none => rfl
  | some u =>
    simp only [State.markUse, State.markDirty]
    split
    · split
      · rfl
      · exact hentry _ _
    · exact hentry _ _

/-- R100: an access that no snapshot's range covers carries no epoch. -/
theorem attachEpoch_of_no_ranges {s : State} {ctx : Nat} (h : (s.ctx ctx).ranges = []) (va mtype pa : Nat) : s.attachEpoch ctx va mtype pa = 0 := by
  rw [State.attachEpoch, h]
  split <;> rfl

end Sys2Proof.Proofs
end

section
/-! SUPPORT. A chase at its homes (R75, R78). -/

namespace Sys2Proof.Proofs

open Sys2Proof.Machine

/-- R164: the bytes of a number that is read are those that stand at its keys. -/
theorem extract_num (s : State) (key : Nat) {n i : Nat} (h : i < n) :
    (BitVec.ofNat (8 * n) (s.num key n)).extractLsb' (8 * i) 8 = s.byte (key + i) := by
  refine BitVec.eq_of_getLsbD_eq fun j hj => ?_
  rw [BitVec.getLsbD_extractLsb', BitVec.getLsbD_ofNat, State.num, testBit_natOfBytes, show (8 * i + j) / 8 = i by omega,
    show (8 * i + j) % 8 = j by omega, bytes_getD s key h, decide_eq_true hj, decide_eq_true (show 8 * i + j < 8 * n by omega), Bool.true_and, Bool.true_and]

theorem natOfBytes_lt (l : List Byte) : natOfBytes l < 2 ^ (8 * l.length) := by
  induction l with
  | nil => decide
  | cons b r ih =>
    have hb := b.isLt
    rw [natOfBytes, List.length_cons, Nat.mul_succ, Nat.pow_add]
    omega

theorem num_lt (s : State) (key n : Nat) : s.num key n < 2 ^ (8 * n) := by
  have := natOfBytes_lt (s.bytes key n)
  rwa [bytes_length] at this

/-- R75: a chase ends with its place and its hops when its count or its list does. -/
theorem exec_achaseHop_end {s : State} {id : Nat} {r : Req} (h : Pending s id r) (hm : s.mayPerform r = true) (hw : s.cur.work = some (.achaseHop id))
    {left off hops : Nat} (hop : r.op = .achase left off hops) (he : left = 0 ∨ r.va = 0) :
    exec .achaseHop s = .next (s.reply id { r0 := BitVec.ofNat 64 r.va, r1 := BitVec.ofNat 64 hops }) := by
  have hexec : exec .achaseHop s = execAchaseHop s := rfl
  simp only [hexec, execAchaseHop, hw, h.req, h.unanswered, hm, hop, he.symm, Option.isSome_none, Bool.not_true, Bool.false_eq_true, if_false, if_true]

/-- R75: the die that translates a hop's address: the task's before the first hop, then that of the node before it. -/
def hopDie (r : Req) (hops : Nat) : Nat :=
  if hops = 0 then (match r.task with
    | some t => dieOf t.tile
    | none => 0)
  else homeDie r.loc

/-- R75: a chase that may take a hop. -/
structure Hopping (s : State) (id : Nat) (r : Req) (left off hops : Nat) : Prop where
  pending : Pending s id r
  may : s.mayPerform r = true
  work : s.cur.work = some (.achaseHop id)
  op : r.op = .achase left off hops
  left : left ≠ 0
  more : r.va ≠ 0

/-- R75: a hop whose line is known is read at the node's home. -/
theorem Hopping.reads {s : State} {id : Nat} {r : Req} {left off hops : Nat} (h : Hopping s id r left off hops) {w : LineUse} (hu : r.use = some w) :
    exec .achaseHop s = .next (s.chaseRead r left off hops (w.line + (r.va + off) % 2 ^ 64 % 2048) (some w)) := by
  have hexec : exec .achaseHop s = execAchaseHop s := rfl
  simp only [hexec, execAchaseHop, h.work, h.pending.req, h.pending.unanswered, h.may, h.op, h.left, h.more, hu, or_self, Option.isSome_none, Bool.not_true,
    Bool.false_eq_true, if_false]

/-- R75, R78: a hop whose translation its agent has: read within the package, or sent over a link. -/
theorem Hopping.translated {s : State} {id : Nat} {r : Req} {left off hops : Nat} (h : Hopping s id r left off hops) (hu : r.use = none)
    (ha : (r.va + off) % 2 ^ 64 < 2 ^ 56) (h8 : (r.va + off) % 2 ^ 64 % 8 = 0) {pa : Nat} {use : Option LineUse}
    (hc : s.checkFor (hopDie r hops) r.ctx ((r.va + off) % 2 ^ 64) .read (.op id) = (.ok pa use, s)) :
    exec .achaseHop s = .next (if paPackage pa = (if hops = 0 then s.package else paPackage r.loc) ∨ use.isNone then
        (s.usePageFor r ((r.va + off) % 2 ^ 64)).chaseRead r left off hops pa use
      else ((s.usePageFor r ((r.va + off) % 2 ^ 64)).modReq id fun q => { q with use := use, loc := pa }).crossLink { r with use := use, loc := pa }) := by
  have hexec : exec .achaseHop s = execAchaseHop s := rfl
  cases ht : r.task
  all_goals
    simp only [hopDie, ht] at hc
    simp only [hexec, execAchaseHop, h.work, h.pending.req, h.pending.unanswered, h.may, h.op, h.left, h.more, hu, ht, hc, Nat.not_le.mpr ha, h8, or_self,
      Option.isSome_none, Bool.not_true, Bool.false_eq_true, if_false, ne_eq, not_true]
    exact (apply_ite Host.Outcome.next _ _ _).symm

/-- R75: what one hop reads and leaves. -/
theorem chaseRead_spec {s : State} {r : Req} (h : s.req r.id = some r) {pa : Nat} {use : Option LineUse}
    (hu : ∀ w, use = some w → (s.mark w.line).1 = 0 ∧ w.mtype ≠ 3 ∧ s.filling w.line = false)
    (hb : ∀ u, r.task = some u → s.behindWrite u r.serial (keysOf pa 8) = false) (hbad : s.badIn pa 8 = none) (left off hops : Nat) :
    ∃ q, (s.chaseRead r left off hops pa use).req r.id = some q ∧ q.op = .achase (left - 1) off (hops + 1) ∧ q.loc = pa ∧ q.use = none
      ∧ q.va = s.num pa 8 ∧ Work.achaseHop r.id ∈ (s.chaseRead r left off hops pa use).agenda
      ∧ ∃ l g, s.chaseRead r left off hops pa use = { s with reqs := l, agenda := g } := by
  have hbehind : (r.task.any fun t => s.behindWrite t r.serial (keysOf pa 8)) = false := option_any_eq_false hb
  have hfill : (use.any fun u => s.filling u.line) = false := option_any_eq_false fun w hw => by
    obtain ⟨-, -, hf⟩ := hu w hw
    exact hf
  have he : s.chaseRead r left off hops pa use = (s.modReq r.id fun q =>
      { q with op := .achase (left - 1) off (hops + 1), va := s.num pa 8, loc := pa, use := none, got := [] }).post (.achaseHop r.id) := by
    cases use with
    | none => simp only [State.chaseRead, hbehind, hfill, hbad, Bool.or_self, Bool.false_eq_true, if_false]
    | some w =>
      obtain ⟨hmark, ht, -⟩ := hu w rfl
      simp only [State.chaseRead, Laws.prepare_of_mark_zero hmark ht, hbehind, hfill, hbad, Bool.or_self, Bool.false_eq_true, if_false]
  rw [he]
  exact ⟨_, req_modReq h fun _ => rfl, rfl, rfl, rfl, rfl, List.mem_append_right _ List.mem_cons_self, _, _, rfl⟩

/-- R78: a request that its agent passes on to another package takes its identifier, and its timers start. -/
theorem crossLink_spec {s : State} {id : Nat} {r : Req} (h : s.req id = some r) (hid : r.id = id) (hl : r.link = none) :
    ∃ k : LinkId, (s.crossLink r).req id = some { r with link := some k, start := s.cycle, sent := s.tick + 1 } ∧ k.package = s.package
      ∧ Work.linkRequestArrive id 0 ∈ (s.crossLink r).agenda ∧ Work.linkRetransmit id ∈ (s.crossLink r).agenda ∧ Work.linkTimeout id ∈ (s.crossLink r).agenda := by
  subst hid
  simp only [State.crossLink, hl, Option.isSome_none, Bool.false_eq_true, if_false]
  exact ⟨_, req_modReq h fun _ => rfl, rfl, by simp [State.postAll], by simp [State.postAll], by simp [State.postAll]⟩

end Sys2Proof.Proofs
end

section
/-! SUPPORT. A WENQ at its ring (R89 to R91). -/

namespace Sys2Proof.Proofs

open Sys2Proof.Machine

/-- R89: the tail and the head are words of the descriptor. -/
theorem wenqTail_lt (d : Nat) : wenqTail d < 2 ^ 64 := Nat.mod_lt _ (by decide)

/-- R91: a WENQ at a descriptor of device bias, settled, whose answer goes to nobody else. -/
structure Enqueues (s : State) (id : Nat) (r : Req) (off : Nat) (payload : List Byte) : Prop where
  pending : Pending s id r
  op : r.op = .wenq off payload none
  good : s.badIn r.loc 32 = none
  plain : ∀ w, r.use = some w → w.epoch = 0 ∧ w.mtype ≠ 3 ∧ (s.mark w.line).1 = 0

section
variable {s : State} {id : Nat} {r : Req} {off : Nat} {payload : List Byte}

/-- R91: a WENQ that its agent may look at, with no other one at work on the descriptor. -/
theorem Enqueues.exec_first (h : Enqueues s id r off payload) (hw : s.cur.work = some (.wenqAtTarget id)) (hm : s.mayPerform r = true)
    (hbusy : ∀ q ∈ s.reqs, q.id ≠ id → q.wenqBusy = true → q.loc ≠ r.loc) (hf : ∀ w, r.use = some w → s.filling w.line = false) :
    exec .wenqAtTarget s = .next (s.performWenq r off payload) := by
  have hexec : exec .wenqAtTarget s = execWenqAtTarget s := rfl
  have hany : (s.reqs.any fun q => q.wenqBusy && q.loc == r.loc && q.id != id) = false := List.any_eq_false.mpr fun q hq => by
    simp only [Bool.and_eq_true, beq_iff_eq, bne_iff_ne, ne_eq, not_and, not_not]
    exact fun ⟨hb, hl⟩ => by_contra fun hne => hbusy q hq hne hb hl
  have hfill : (r.use.any fun u => s.filling u.line) = false := option_any_eq_false hf
  simp only [hexec, execWenqAtTarget, hw, h.pending.req, h.pending.unanswered, h.op, hm, hany, hfill, Option.isSome_none, Bool.not_true, Bool.or_self,
    Bool.false_eq_true, if_false]

/-- R91: a write of the head makes a WENQ that waits, its time not over, look again. -/
theorem Enqueues.exec_again (h : Enqueues s id r off payload) (hw : s.cur.work = some (.wenqHeadWake id)) (hh : r.held = true)
    (ht : s.cycle < r.came + 240000) : exec .wenqHeadWake s = .next (s.performWenq r off payload) := by
  have hexec : exec .wenqHeadWake s = execWenqHeadWake s := rfl
  have htime : ¬ 100 * Config.cyclesPerUs ≤ s.cycle - r.came := by
    rw [show 100 * Config.cyclesPerUs = 240000 from rfl]
    omega
  simp only [hexec, execWenqHeadWake, hw, h.pending.req, h.pending.unanswered, h.op, hh, htime, Option.isSome_none, Bool.not_true, Bool.or_self,
    Bool.false_eq_true, if_false]

/-- R91: a WENQ that has waited 100 µs answers TIMEOUT. -/
theorem Enqueues.exec_timeout (h : Enqueues s id r off payload) (hw : s.cur.work = some (.wenqRingTimeout id)) (hh : r.held = true)
    (ht : r.came + 240000 ≤ s.cycle) : exec .wenqRingTimeout s = .next (s.reply id { r0 := 0, r1 := 4 }) := by
  have hexec : exec .wenqRingTimeout s = execWenqRingTimeout s := rfl
  have htime : ¬ s.cycle - r.came < 100 * Config.cyclesPerUs := by
    rw [show 100 * Config.cyclesPerUs = 240000 from rfl]
    omega
  simp only [hexec, execWenqRingTimeout, hw, h.pending.req, h.pending.unanswered, hh, htime, Option.isSome_none, Bool.not_true, Bool.or_self,
    Bool.false_eq_true, if_false]
  rfl

/-- R89: the descriptor's line is memory-side. -/
def ringMs (r : Req) : Bool := match r.use with
  | some u => u.ms
  | none => false

/-- R91: what a look at the descriptor comes to. -/
theorem Enqueues.look (h : Enqueues s id r off payload) :
    s.performWenq r off payload =
      if !r.held && !wenqOk (s.num r.loc 32) (ringMs r) then s.reply r.id { r0 := 0, r1 := 3 }
      else if 2 ^ wenqLog (s.num r.loc 32) ≤ (wenqTail (s.num r.loc 32) + 2 ^ 64 - wenqHead (s.num r.loc 32)) % 2 ^ 64 then
        if r.held then s else (s.modReq r.id fun q => { q with held := true, came := s.cycle }).post (.wenqRingTimeout r.id)
      else s.slotWenq r off payload (s.num r.loc 32) := by
  have hfault := readFault_none h.good .atomic
  rw [State.performWenq]
  cases hu : r.use with
  | none => simp only [hfault, ringMs, hu]; rfl
  | some u =>
    obtain ⟨-, ht, hmark⟩ := h.plain u hu
    simp only [Laws.prepare_of_mark_zero hmark ht, hfault, ringMs, hu]
    rfl

/-- R91: the writes of a WENQ: its payload at its offset in the slot, and then the tail. -/
def wenqLegs (r : Req) (off : Nat) (payload : List Byte) (d ctx slot pa : Nat) (use : Option LineUse) : List Leg :=
  [⟨pa + off, payload, use, ctx, slot⟩, ⟨r.loc, bytesOfNat 8 (wenqTail d + 1), r.use, r.ctx, r.va⟩]

/-- R91: what the two writes leave. -/
theorem lastWrite_wenqLegs (r : Req) (off : Nat) (payload : List Byte) (d ctx slot pa : Nat) (use : Option LineUse) (key : Nat) (b : Byte) :
    (lastWrite (legCells (wenqLegs r off payload d ctx slot pa use)) key none).getD b =
      if r.loc ≤ key ∧ key < r.loc + 8 then (BitVec.ofNat 64 (d + 1)).extractLsb' (8 * (key - r.loc)) 8
      else if pa + off ≤ key ∧ key < pa + off + payload.length then payload.getD (key - (pa + off)) 0 else b := by
  have htail : BitVec.ofNat (8 * 8) (wenqTail d + 1) = BitVec.ofNat 64 (d + 1) := BitVec.eq_of_toNat_eq (by simp [wenqTail])
  simp only [wenqLegs, legCells_cons, show legCells [] = [] from rfl, List.append_nil, lastWrite_append]
  rw [lastWrite_or, lastWrite_placeBytes, lastWrite_placeBytes, bytesOfNat_length]
  split
  · next hk =>
    rw [Option.some_or, Option.getD_some, bytesOfNat_getD _ (by omega), htail]
  · rw [Option.none_or]
    split <;> rfl

/-- R91: a look at a ring that has room, its slot translated and on a plain line: the payload is written, then the tail, and the old tail is answered. -/
theorem Enqueues.enqueue (h : Enqueues s id r off payload) {pa : Nat} {use : Option LineUse}
    (hok : r.held = true ∨ wenqOk (s.num r.loc 32) (ringMs r) = true)
    (hroom : (wenqTail (s.num r.loc 32) + 2 ^ 64 - wenqHead (s.num r.loc 32)) % 2 ^ 64 < 2 ^ wenqLog (s.num r.loc 32)) {c slot : Nat}
    (hctx : s.num r.loc 32 / 2 ^ 249 % 64 = c)
    (hslot : s.num r.loc 32 / 2 ^ 192 % 2 ^ 48 * 256 + wenqTail (s.num r.loc 32) % 2 ^ wenqLog (s.num r.loc 32) * 256 = slot)
    (hc : s.checkFor (homeDie r.loc) c slot .write (.op id) = (.ok pa use, s)) {x : State}
    (hx : (s.usePageIn r c slot).markUse (homeDie r.loc) c use = x) (hmem : Safety.MemoryOk x)
    (huse : ∀ w, use = some w → s.filling w.line = false ∧ (x.mark w.line).1 = 0 ∧ w.mtype = 0) (hring : ∀ w, r.use = some w → (x.mark w.line).1 = 0)
    (hnear : isGl (pa + off) = true → paPackage (pa + off) = paPackage r.loc) :
    Safety.Answered (s.performWenq r off payload) id { r0 := BitVec.ofNat 64 (s.num r.loc 32), r1 := 0 }
      ∧ (s.performWenq r off payload).tasks = x.tasks
      ∧ ∀ key, (s.performWenq r off payload).byte key =
          if r.loc ≤ key ∧ key < r.loc + 8 then (BitVec.ofNat 64 (s.num r.loc 32 + 1)).extractLsb' (8 * (key - r.loc)) 8
          else if pa + off ≤ key ∧ key < pa + off + payload.length then payload.getD (key - (pa + off)) 0 else x.byte key := by
  have hid := id_of_req h.pending.req
  subst hid
  have hlook := h.look
  generalize hd : s.num r.loc 32 = d at *
  have hvalid : (!r.held && !wenqOk d (ringMs r)) = false := by rcases hok with hok | hok <;> simp [hok]
  simp only [hvalid, Nat.not_le.mpr hroom, Bool.false_eq_true, if_false] at hlook
  have hfill : (use.any fun u => (s.usePageIn r c slot).filling u.line) = false := option_any_eq_false fun w hw => by
    obtain ⟨hf, -, -⟩ := huse w hw
    obtain ⟨k, he⟩ := usePageIn_eq s r c slot
    rw [he]
    exact hf
  let use' := use.map fun u => { u with epoch := if c = r.ctx then x.attachEpoch c slot u.mtype pa else 0 }
  have hslotWenq : s.slotWenq r off payload d = x.finishWenq r off payload d c slot pa use := by
    simp only [State.slotWenq, hctx, hslot, hc, hfill, hx, Bool.false_eq_true, if_false]
  have hpend : Pending x r.id r := h.pending.of_translates (hx ▸ usedPage_translates s r c slot _ _ _)
  have hplain : ∀ l ∈ wenqLegs r off payload d c slot pa use', ∀ w, l.use = some w → w.epoch = 0 ∧ (x.mark w.line).1 = 0 := by
    simp only [wenqLegs, List.forall_mem_cons]
    refine ⟨fun w hw => ?_, fun w hw => ?_, fun _ hl => absurd hl List.not_mem_nil⟩
    · obtain ⟨u, hu, rfl⟩ := Option.map_eq_some_iff.mp hw
      obtain ⟨-, hmark, ht⟩ := huse u hu
      have hepoch : x.attachEpoch c slot u.mtype pa = 0 := by rw [State.attachEpoch, if_pos (.inl (by omega))]
      exact ⟨by simp only [hepoch, ite_self], hmark⟩
    · obtain ⟨he, -, -⟩ := h.plain w hw
      exact ⟨he, hring w hw⟩
  obtain ⟨b, hpush⟩ := pushLegs_plain (drop := false) (fun hf => by simp at hf) hplain r .write
  have hlegs : ∀ l ∈ wenqLegs r off payload d c slot pa use', isGl l.key = true → paPackage l.key = paPackage r.loc := by
    simp only [wenqLegs, List.forall_mem_cons]
    exact ⟨hnear, fun _ => trivial, fun _ hl => absurd hl List.not_mem_nil⟩
  have hbias : HomeWork x { x with hostBias := b } := rfl
  obtain ⟨hans, htasks, hbyte⟩ := doLegs_near (hpend.of_homeWork hbias) hmem hlegs (BitVec.ofNat 64 (wenqTail d))
  have hfinish : x.finishWenq r off payload d c slot pa use
      = ({ x with hostBias := b } : State).doLegs r (wenqLegs r off payload d c slot pa use') (BitVec.ofNat 64 (wenqTail d)) := by
    simp only [wenqLegs, use'] at hpush ⊢
    simp only [State.finishWenq, hpush]
  have hvalue : BitVec.ofNat 64 (wenqTail d) = BitVec.ofNat 64 d := ofNat_mod_self 64 d
  rw [hlook, hslotWenq, hfinish]
  rw [hvalue] at hans hbyte htasks ⊢
  exact ⟨hans, htasks, fun key => (hbyte key).trans (lastWrite_wenqLegs ..)⟩

end

/-! The parts of the statement. -/

/-- R74: an AENQ on an empty list. -/
theorem aenq_empty {s : State} {id : Nat} {r : Req} (h : Pending s id r) (hok : Safety.MemoryOk s) (hr : HeaderReady s r) (hf : s.frames = [])
    (hk : s.marks = []) {n pa : Nat} {nUse : Option LineUse} (hb : s.badIn (r.loc + 8) 8 = none) (h0 : s.num (r.loc + 8) 8 = 0)
    (hn : ∀ w, nUse = some w → s.filling w.line = false ∧ w.epoch = 0)
    (hnear : ∀ k, k = pa ∨ k = r.loc + 8 ∨ k = r.loc → isGl k = true → paPackage k = paPackage r.loc) :
    Linked s (s.performAenq r n pa nUse) id r n pa (s.num (r.loc + 8) 8) r.loc := by
  rw [performAenq_empty hb h0, h0]
  refine finishAenq_near (last := (r.loc, r.use)) h hok hf hk (fun w hu => ?_) hnear
  rcases hu with hu | hu | hu
  exacts [⟨hr.unfilled w hu, hr.epoch w hu⟩, hn w hu, ⟨hr.unfilled w hu, hr.epoch w hu⟩]

/-- R74: an AENQ behind a tail whose translation its agent has. -/
theorem aenq_behind {s : State} {id : Nat} {r : Req} (h : Pending s id r) (hr : HeaderReady s r) (hk : s.marks = []) {n pa pt : Nat}
    {nUse use : Option LineUse} (hb : s.badIn (r.loc + 8) 8 = none) (h0 : s.num (r.loc + 8) 8 ≠ 0) (h8 : s.num (r.loc + 8) 8 % 8 = 0)
    (hc : s.checkFor (homeDie r.loc) r.ctx (s.num (r.loc + 8) 8) .write (.op id) = (.ok pt use, s)) {x : State}
    (hx : (s.usePageFor r (s.num (r.loc + 8) 8)).markUse (homeDie r.loc) r.ctx use = x) (hok : Safety.MemoryOk x) (hf : x.frames = []) (hk' : x.marks = [])
    (hrange : (x.ctx r.ctx).ranges = []) (hn : ∀ w, nUse = some w → w.epoch = 0)
    (hfill : ∀ w, r.use = some w ∨ nUse = some w ∨ use = some w → x.filling w.line = false)
    (hnear : ∀ k, k = pa ∨ k = r.loc + 8 ∨ k = pt → isGl k = true → paPackage k = paPackage r.loc) :
    Linked x (s.performAenq r n pa nUse) id r n pa (s.num (r.loc + 8) 8) pt := by
  have hid := id_of_req h.req
  subst hid
  have hpend := h.of_translates (usedPage_translates s r r.ctx (s.num (r.loc + 8) 8) (homeDie r.loc) r.ctx use)
  have hctxs := ctxs_usedPage hk r r.ctx (s.num (r.loc + 8) 8) (homeDie r.loc) r.ctx use
  rw [← State.usePageFor, hx] at hpend hctxs
  have hranges : (s.ctx r.ctx).ranges = [] := by rw [State.ctx, ← hctxs]; exact hrange
  rw [performAenq_behind hb h0 h8 hc, hx]
  simp only [attachEpoch_of_no_ranges hranges]
  refine finishAenq_near (last := (pt, use.map fun u => ({ u with epoch := 0 } : LineUse))) hpend hok hf hk' (fun w hu => ?_) hnear
  rcases hu with hu | hu | hu
  · exact ⟨hfill w (.inl hu), hr.epoch w hu⟩
  · exact ⟨hfill w (.inr (.inl hu)), hn w hu⟩
  · obtain ⟨u, hu', rfl⟩ := Option.map_eq_some_iff.mp hu
    exact ⟨hfill u (.inr (.inr hu')), rfl⟩

/-- R75, R78: the hop of a chase, read where its node lies or sent there over a link. -/
theorem Hopping.hop {s : State} {id : Nat} {r : Req} {left off hops : Nat} (h : Hopping s id r left off hops) {x : State} {k : Table TaskRef Task}
    (hx : x = { s with tasks := k }) {pa : Nat} {use : Option LineUse} (he : exec .achaseHop s = .next (x.chaseRead r left off hops pa use))
    (hu : ∀ w, use = some w → (s.mark w.line).1 = 0 ∧ w.mtype ≠ 3 ∧ s.filling w.line = false)
    (hb : ∀ u, r.task = some u → s.behindWrite u r.serial (keysOf pa 8) = false) (hbad : s.badIn pa 8 = none) :
    ∃ t q, exec .achaseHop s = .next t ∧ t.req id = some q ∧ q.op = .achase (left - 1) off (hops + 1) ∧ q.loc = pa ∧ q.use = none
      ∧ (∀ i, i < 8 → (BitVec.ofNat 64 q.va).extractLsb' (8 * i) 8 = s.byte (pa + i)) ∧ q.va < 2 ^ 64 ∧ Work.achaseHop id ∈ t.agenda
      ∧ t.tasks = x.tasks ∧ { t with reqs := s.reqs, agenda := s.agenda, tasks := s.tasks } = s := by
  have hid := id_of_req h.pending.req
  subst hid
  have hreq : x.req r.id = some r := by rw [hx]; exact h.pending.req
  obtain ⟨q, hq, hop, hloc, huse, hva, hmem, l, g, hframe⟩ := chaseRead_spec hreq (pa := pa) (use := use) (by rw [hx]; exact hu) (by rw [hx]; exact hb)
    (by rw [hx]; exact hbad) left off hops
  have hbytes : ∀ i, i < 8 → (BitVec.ofNat 64 q.va).extractLsb' (8 * i) 8 = s.byte (pa + i) := fun i hi => by
    rw [hva]
    have := extract_num x pa hi
    rw [hx] at this ⊢
    exact this
  refine ⟨_, q, he, hq, hop, hloc, huse, hbytes, by rw [hva]; exact num_lt x pa 8, hmem, by rw [hframe], ?_⟩
  rw [hframe, hx]

/-- Settles O46: an AENQ is its header's tail and then three writes of one step; a chase's hop is a read at its node's home or a request over a link;
a WENQ is a look at its descriptor, an answer, a wait, or two writes. -/
theorem listsAndRings : Obligations.ListsAndRings := by
  unfold Obligations.ListsAndRings
  refine ⟨fun s id r hreq ha hm hc hreply => ?_, fun s id r off payload hreq ha hc hreply hop hb hplain => ?_⟩
  · have h : Pending s id r := ⟨hreq, ha, hc, hreply⟩
    refine ⟨fun hd n pa nUse hw hop hb _ hr hn hf hk => ?_, fun left off hops hw hop => ⟨fun he => ?_, fun hl hv => ?_⟩⟩
    · have hexec := exec_aenqAtHome h hm hw hop hr hf hk
      refine ⟨fun h0 hok hfill hpa hloc hlast => ⟨_, hexec, aenq_empty h hok hr hf hk hb h0 (fun w hu => ⟨hfill w hu, hn w hu⟩) ?_⟩,
        fun pt use h0 h8 hcheck hok hf' hk' hrange hfill hpa hloc hlast =>
          ⟨_, hexec, aenq_behind h hr hk hb h0 h8 hcheck rfl hok hf' hk' hrange hn hfill ?_⟩, fun h8 => ?_⟩
      · rintro k (rfl | rfl | rfl)
        exacts [hpa, hloc, hlast]
      · rintro k (rfl | rfl | rfl)
        exacts [hpa, hloc, hlast]
      · rw [performAenq_misaligned hb h8, id_of_req hreq] at hexec
        obtain ⟨hans, l, p, g, hframe⟩ := h.reply { r0 := 0, r1 := 3 }
        exact ⟨_, hexec, hans, by rw [hframe], by rw [hframe]⟩
    · obtain ⟨hans, l, p, g, hframe⟩ := h.reply { r0 := BitVec.ofNat 64 r.va, r1 := BitVec.ofNat 64 hops }
      exact ⟨_, exec_achaseHop_end h hm hw hop he, hans, by rw [hframe]⟩
    · have hh : Hopping s id r left off hops := ⟨h, hm, hw, hop, hl, hv⟩
      refine ⟨fun pa use hu ha56 ha8 hcheck => ?_, fun w hu hline hb hbad => hh.hop (x := s) (k := s.tasks) rfl (hh.reads hu) hline hb hbad⟩
      have hexec := hh.translated hu ha56 ha8 hcheck
      obtain ⟨k, hk⟩ := usePageIn_eq s r r.ctx ((r.va + off) % 2 ^ 64)
      refine ⟨fun hnear hline hb hbad => ?_, fun w hfar huse hlink => ?_⟩
      · rw [if_pos (hnear.imp_right fun hn => by rw [hn]; rfl)] at hexec
        exact hh.hop hk hexec hline hb hbad
      · rw [if_neg (by rw [huse]; rintro (hn | hn); exacts [hfar hn, Bool.noConfusion hn])] at hexec
        have hreq' : (s.usePageFor r ((r.va + off) % 2 ^ 64)).req id = some r := by rw [State.usePageFor, hk]; exact hreq
        have hmod := req_modReq hreq' (f := fun q => { q with use := use, loc := pa }) fun _ => rfl
        have hlink' : ({ r with use := use, loc := pa } : Req).link = none := hlink
        obtain ⟨i, hq, hpkg, h1, h2, h3⟩ := crossLink_spec hmod (id_of_req hmod) hlink'
        refine ⟨_, _, i, hexec, hq, rfl, rfl, rfl, rfl, ?_, ?_, h1, h2, h3⟩
        · rw [hpkg, State.usePageFor, hk]; rfl
        · rw [State.usePageFor, hk]; rfl
  · have halone : ∀ c ∈ s.combines, c.merged ≠ id := fun c hmem => by rw [hc] at hmem; exact absurd hmem List.not_mem_nil
    have h : Enqueues s id r off payload := ⟨⟨hreq, ha, halone, hreply⟩, hop, hb, hplain⟩
    have hid := id_of_req hreq
    refine ⟨fun hw hm hheld hbusy hf => ⟨fun hbad => ?_, fun hok pa use hroom hcheck hmem huse hring hnear _ => ?_, fun hok hfull => ?_⟩,
      fun hw hheld ht pa use hroom hcheck hmem huse hring hnear _ => ?_, fun hw hheld ht => ?_⟩
    · obtain ⟨hans, l, p, g, hframe⟩ := h.pending.reply { r0 := 0, r1 := 3 }
      have hexec := h.exec_first hw hm hbusy hf
      rw [h.look, hid] at hexec
      have hbad' : wenqOk (s.num r.loc 32) (ringMs r) = false := hbad
      simp only [hheld, hbad', Bool.not_false, Bool.and_self, if_true] at hexec
      exact ⟨_, hexec, hans, by rw [hframe]⟩
    · obtain ⟨hans, htasks, hbyte⟩ := h.enqueue (.inr hok) hroom rfl rfl hcheck rfl hmem huse hring hnear
      exact ⟨_, h.exec_first hw hm hbusy hf, hans, htasks, hbyte⟩
    · have hexec := h.exec_first hw hm hbusy hf
      rw [h.look, hid] at hexec
      have hok' : wenqOk (s.num r.loc 32) (ringMs r) = true := hok
      have hfull' : 2 ^ wenqLog (s.num r.loc 32) ≤ (wenqTail (s.num r.loc 32) + 2 ^ 64 - wenqHead (s.num r.loc 32)) % 2 ^ 64 := hfull
      simp only [hheld, hok', hfull', Bool.not_true, Bool.and_false, Bool.false_eq_true, if_false, if_true] at hexec
      exact ⟨_, _, hexec, req_modReq hreq fun _ => rfl, rfl, rfl, ha, List.mem_append_right _ List.mem_cons_self, rfl⟩
    · obtain ⟨hans, htasks, hbyte⟩ := h.enqueue (.inl hheld) hroom rfl rfl hcheck rfl hmem huse hring hnear
      exact ⟨_, h.exec_again hw hheld ht, hans, htasks, hbyte⟩
    · obtain ⟨hans, l, p, g, hframe⟩ := h.pending.reply { r0 := 0, r1 := 4 }
      exact ⟨_, h.exec_timeout hw hheld ht, hans, by rw [hframe]⟩

end Sys2Proof.Proofs
end

section
/-! SUPPORT. Structure memory at its agent: readers, fills, clears and cancelled readers (R83 to R87). -/

namespace Sys2Proof.Proofs

open Sys2Proof.Machine

/-! Answers to several operations in turn. -/

theorem req_modReq_ne (s : State) {id x : Nat} (hx : x ≠ id) {f : Req → Req} (hf : ∀ q, (f q).id = q.id) : (s.modReq id f).req x = s.req x := by
  have hfind := find_map_req (g := fun q => if q.id = id then f q else q) (fun q => by split <;> simp [hf]) s.reqs x
  refine hfind.trans ?_
  rw [← State.req]
  cases hr : s.req x with
  | none => rfl
  | some q => rw [Option.map_some, if_neg (by rw [id_of_req hr]; exact hx)]

/-- The operation is answered. -/
def AnswerIs (s : State) (id : Nat) (a : Answer) : Prop := ∃ q, s.req id = some q ∧ q.answer = some a

/-- R78: an answer to one operation leaves the others as they are, and its delivery is the step that comes to be. -/
theorem Pending.reply_one {s : State} {id : Nat} {r : Req} (h : Pending s id r) (a : Answer) :
    AnswerIs (s.reply id a) id a ∧ (∀ x, x ≠ id → (s.reply id a).req x = s.req x) ∧ (s.reply id a).agenda = s.agenda ++ [.longLatencyResult id]
      ∧ ∃ l p g, s.reply id a = { s with reqs := l, replies := p, agenda := g } := by
  have he : s.reply id a = ((s.modReq id fun q => { q with answer := some a, held := false }).entryDone id a).post (.longLatencyResult id) := by
    simp only [State.reply, h.req, h.back, if_true]
    exact finish_eq h.alone h.req h.unanswered a
  rw [he]
  exact ⟨⟨_, req_modReq h.req (f := fun q => { q with answer := some a, held := false }) fun _ => rfl, rfl⟩,
    fun x hx => req_modReq_ne s hx (f := fun q => { q with answer := some a, held := false }) fun _ => rfl, rfl, _, _, _, rfl⟩

/-- An operation pending stays pending where neither it nor what replies look at has changed. -/
theorem Pending.congr {s t : State} {id : Nat} {r : Req} (h : Pending s id r) (hr : t.req id = s.req id) (hc : t.combines = s.combines)
    (hm : t.mgmt = s.mgmt) (hp : t.ports = s.ports) : Pending t id r :=
  ⟨hr.trans h.req, h.unanswered, hc ▸ h.alone, (replyOk_congr hm hp rfl rfl rfl).trans h.back⟩

/-- R84: operations answered in their order. -/
theorem foldl_reply_spec {s : State} {l : List Nat} (hl : l.Nodup) (h : ∀ x ∈ l, ∃ q, Pending s x q) (a : Answer) :
    let t := l.foldl (fun (s : State) id => s.reply id a) s
    (∀ x ∈ l, AnswerIs t x a) ∧ (∀ x, x ∉ l → t.req x = s.req x) ∧ t.agenda = s.agenda ++ l.map Work.longLatencyResult
      ∧ ∃ l p g, t = { s with reqs := l, replies := p, agenda := g } := by
  induction l generalizing s with
  | nil => exact ⟨fun x hx => absurd hx List.not_mem_nil, fun _ _ => rfl, (List.append_nil _).symm, _, _, _, rfl⟩
  | cons y r ih =>
    obtain ⟨hy, hr⟩ := List.nodup_cons.mp hl
    obtain ⟨q, hq⟩ := h y List.mem_cons_self
    obtain ⟨hans, hother, hagenda, l, p, g, he⟩ := hq.reply_one a
    obtain ⟨hall, hothers, hagendas, l', p', g', he'⟩ := ih (s := s.reply y a) hr fun x hx => by
      obtain ⟨q', hq'⟩ := h x (List.mem_cons_of_mem _ hx)
      exact ⟨q', hq'.congr (hother x fun hxy => hy (hxy ▸ hx)) (by rw [he]) (by rw [he]) (by rw [he])⟩
    refine ⟨fun x hx => ?_, fun x hx => ?_, ?_, l', p', g', he'.trans (by rw [he])⟩
    · rcases List.mem_cons.mp hx with rfl | hx
      · obtain ⟨z, hz, hza⟩ := hans
        exact ⟨z, (hothers x hy).trans hz, hza⟩
      · exact hall x hx
    · rw [List.mem_cons, not_or] at hx
      obtain ⟨hxy, hxr⟩ := hx
      exact (hothers x hxr).trans (hother x hxy)
    · rw [List.foldl_cons, hagendas, hagenda, List.map_cons, List.append_assoc, List.singleton_append]

/-! Reads and fills. -/

section
variable {s : State} {id : Nat} {r : Req}

/-- R84: a read that its agent may perform looks at its word. -/
theorem exec_structLds (h : Pending s id r) (hm : s.mayPerform r = true) (hw : s.cur.work = some (.structLdsAtAgent id)) {wait : Bool}
    (hop : r.op = .lds wait) : exec .structLdsAtAgent s = .next (s.performLds r wait) := by
  have hexec : exec .structLdsAtAgent s = execStructLdsAtAgent s := rfl
  simp only [hexec, execStructLdsAtAgent, hw, h.req, h.unanswered, hm, hop, Option.isSome_none, Bool.not_true, Bool.false_eq_true, if_false]

/-- R84: a FULL word is answered. -/
theorem performLds_full (hb : s.badIn r.loc 8 = none) {v : Word} (hv : s.words.find r.loc = some (.full v)) (wait : Bool) :
    s.performLds r wait = s.reply r.id { r0 := v, r1 := 0 } := by
  simp only [State.performLds, readFault_none hb .read, hv]
  rfl

/-- R86: a read that does not wait answers EMPTY of a word that is not FULL. -/
theorem performLds_empty (hb : s.badIn r.loc 8 = none) (hv : ∀ v, s.words.find r.loc ≠ some (.full v)) :
    s.performLds r false = s.reply r.id { r0 := 0, r1 := 1 } := by
  rw [State.performLds, readFault_none hb .read]
  cases hw : s.words.find r.loc with
  | none => rfl
  | some w =>
    cases w with
    | full v => exact absurd hw (hv v)
    | deferred l => rfl

/-- R84: the readers that wait for a word. -/
def readersOf : Option SWord → List Nat
  | some (.deferred l) => l
  | _ => []

/-- R84, R85: a read that waits joins its word's readers. -/
theorem performLds_wait (hb : s.badIn r.loc 8 = none) (hv : ∀ v, s.words.find r.loc ≠ some (.full v)) (hpool : s.poolUsed r.loc < 8192)
    (hid : r.id ∉ readersOf (s.words.find r.loc)) :
    s.performLds r true = { s with words := s.words.put r.loc (.deferred (readersOf (s.words.find r.loc) ++ [r.id])) } := by
  have hp : ¬ 8192 ≤ s.poolUsed r.loc := Nat.not_le.mpr hpool
  rw [State.performLds, readFault_none hb .read]
  cases hw : s.words.find r.loc with
  | none =>
    simp only [hw, readersOf] at hid
    simp only [hid, hp, readersOf, Bool.not_true, Bool.false_eq_true, if_false]
  | some w =>
    cases w with
    | full v => exact absurd hw (hv v)
    | deferred l =>
      simp only [hw, readersOf] at hid
      simp only [hid, hp, readersOf, Bool.not_true, Bool.false_eq_true, if_false]

/-- R84: a fill that its agent may perform looks at its word. -/
theorem exec_structSts (h : Pending s id r) (hm : s.mayPerform r = true) (hw : s.cur.work = some (.structStsAtAgent id)) {v : Word} (hop : r.op = .sts v) :
    exec .structStsAtAgent s = .next (s.performSts r v) := by
  have hexec : exec .structStsAtAgent s = execStructStsAtAgent s := rfl
  simp only [hexec, execStructStsAtAgent, hw, h.req, h.unanswered, hm, hop, Option.isSome_none, Bool.not_true, Bool.false_eq_true, if_false]

/-- R84: a fill of a FULL word faults. -/
theorem performSts_full (hb : s.badIn r.loc 8 = none) {w : Word} (hv : s.words.find r.loc = some (.full w)) (v : Word) :
    s.performSts r v = s.reply r.id { fail := some { code := .structRewrite, addr := r.va, acc := .write } } := by
  simp only [State.performSts, readFault_none hb .write, hv]
  rfl

/-- R84: a fill of another word makes it FULL, answers its readers in their order, and then the fill. -/
theorem performSts_fills (hb : s.badIn r.loc 8 = none) (hv : ∀ v, s.words.find r.loc ≠ some (.full v)) (v : Word) :
    s.performSts r v = ((readersOf (s.words.find r.loc)).foldl (fun (s : State) id => s.reply id { r0 := v, r1 := 0 })
      { s with words := s.words.put r.loc (.full v) }).reply r.id {} := by
  rw [State.performSts, readFault_none hb .write]
  cases hw : s.words.find r.loc with
  | none => rfl
  | some w =>
    cases w with
    | full u => exact absurd hw (hv u)
    | deferred l => rfl

/-- R84: what a fill leaves: its word FULL, its readers and the fill answered, in this order. -/
theorem Pending.fills (h : Pending s id r) (hc : s.combines = []) (hb : s.badIn r.loc 8 = none) (hv : ∀ v, s.words.find r.loc ≠ some (.full v)) {l : List Nat}
    (hl : readersOf (s.words.find r.loc) = l) (hid : id ∉ l) (hnodup : l.Nodup) (hq : ∀ x ∈ l, ∃ q, s.req x = some q ∧ q.answer = none ∧ s.replyOk q = true)
    (v : Word) :
    (s.performSts r v).words = s.words.put r.loc (.full v) ∧ (∀ x ∈ l, Safety.Answered (s.performSts r v) x { r0 := v, r1 := 0 })
      ∧ Safety.Answered (s.performSts r v) id {} ∧ (s.performSts r v).agenda = s.agenda ++ (l ++ [id]).map Work.longLatencyResult := by
  have hrid := id_of_req h.req
  subst hrid hl
  rw [performSts_fills hb hv v]
  let u : State := { s with words := s.words.put r.loc (.full v) }
  obtain ⟨hall, hothers, hagenda, l, p, g, he⟩ := foldl_reply_spec (s := u) hnodup (fun x hx => by
    obtain ⟨q, hq, ha, hr⟩ := hq x hx
    exact ⟨q, hq, ha, fun c hmem => by rw [show u.combines = [] from hc] at hmem; exact absurd hmem List.not_mem_nil, hr⟩) { r0 := v, r1 := 0 }
  generalize (readersOf (s.words.find r.loc)).foldl (fun (s : State) id => s.reply id { r0 := v, r1 := 0 }) { s with words := s.words.put r.loc (.full v) } = t
    at hall hothers hagenda he ⊢
  have hp : Pending t r.id r := h.congr (hothers r.id hid) (by rw [he]) (by rw [he]) (by rw [he])
  obtain ⟨hans, hother, hagenda', l', p', g', he'⟩ := hp.reply_one {}
  have hfull : (t.reply r.id {}).agenda = s.agenda ++ (readersOf (s.words.find r.loc) ++ [r.id]).map Work.longLatencyResult := by
    rw [hagenda', hagenda, List.map_append, List.map_singleton, List.append_assoc]
  have hmem (x : Nat) (hx : x ∈ readersOf (s.words.find r.loc) ++ [r.id]) : Work.longLatencyResult x ∈ (t.reply r.id {}).agenda := by
    rw [hfull]
    exact List.mem_append_right _ (List.mem_map_of_mem hx)
  refine ⟨by rw [he', he], fun x hx => ?_, ⟨hans, hmem r.id (by simp)⟩, hfull⟩
  obtain ⟨q, hq, ha⟩ := hall x hx
  exact ⟨⟨q, (hother x fun hxr => hid (hxr ▸ hx)).trans hq, ha⟩, hmem x (List.mem_append_left _ hx)⟩

/-! Clears. -/

/-- A table whose keys differ, without the entries that a test refuses. -/
theorem find_filter {κ α : Type} [DecidableEq κ] {t : Table κ α} (h : (t.map (·.1)).Nodup) (p : κ × α → Bool) (k : κ) :
    Table.find (t.filter p) k = (t.find k).filter fun v => p (k, v) := by
  induction t with
  | nil => rfl
  | cons e rest ih =>
    obtain ⟨j, v⟩ := e
    rw [List.map_cons, List.nodup_cons] at h
    obtain ⟨hj, hrest⟩ := h
    have hnone (hk : j = k) : Table.find (rest.filter p) k = none := by
      rw [ih hrest, ← hk]
      have : Table.find rest j = none := by
        clear ih hrest
        induction rest with
        | nil => rfl
        | cons x xs ihx =>
          rw [List.map_cons, List.mem_cons, not_or] at hj
          obtain ⟨hx, hxs⟩ := hj
          rw [Table.find, if_neg (Ne.symm hx), ihx hxs]
      rw [this]
      rfl
    rw [List.filter_cons, Table.find]
    by_cases hk : j = k
    · subst hk
      rw [if_pos rfl, Option.filter_some]
      split
      · rw [Table.find, if_pos rfl]
      · exact hnone rfl
    · rw [if_neg hk]
      split
      · rw [Table.find, if_neg hk, ih hrest]
      · exact ih hrest

/-- R84: a clear of n words from a place up keeps a word that is not FULL, or lies outside. -/
def keepsWord (loc n : Nat) (w : Nat × SWord) : Bool := match w.2 with
  | .full _ => !(decide (loc ≤ w.1) && decide (w.1 < loc + 8 * n))
  | .deferred _ => true

/-- R84: a clear that its agent may perform. -/
theorem exec_structStclr (h : Pending s id r) (hm : s.mayPerform r = true) (hw : s.cur.work = some (.structStclrAtAgent id)) {n : Nat}
    (hop : r.op = .stclr n) (hb : s.badIn r.loc (8 * n) = none) :
    exec .structStclrAtAgent s = .next (({ s with words := s.words.filter (keepsWord r.loc n) } : State).reply id {}) := by
  have hid := id_of_req h.req
  subst hid
  have hexec : exec .structStclrAtAgent s = execStructStclrAtAgent s := rfl
  simp only [hexec, execStructStclrAtAgent, hw, h.req, h.unanswered, hm, hop, State.performStclr, readFault_none hb .write, Option.isSome_none,
    Bool.not_true, Bool.false_eq_true, if_false]
  rfl

/-! Cancelled readers. -/

/-- R87: the one word with readers, without one of them: without readers it is EMPTY. -/
def wordsWithout (k : Nat) (l : List Nat) (id : Nat) : Table Nat SWord :=
  if (l.filter fun x => decide (x ≠ id)).isEmpty then [] else [(k, .deferred (l.filter fun x => decide (x ≠ id)))]

theorem cancelReader_one {k : Nat} {l : List Nat} (hs : s.words = [(k, .deferred l)]) (hl : id ∈ l) :
    s.cancelReader id = some { s with words := wordsWithout k l id } := by
  simp only [State.cancelReader, hs, List.find?_cons, hl, decide_true, Table.erase, Table.put, wordsWithout, List.filter_cons, List.filter_nil, if_true,
    ne_eq, not_true, decide_false, Bool.false_eq_true, if_false]

/-- R87: once a reader has left, it is on no list. -/
theorem cancelReader_again {k : Nat} {l : List Nat} (hs : s.words = wordsWithout k l id) : s.cancelReader id = none := by
  rw [State.cancelReader, hs, wordsWithout]
  split_ifs
  · rfl
  · simp

theorem find_wordsWithout (k : Nat) (l : List Nat) (id : Nat) :
    (wordsWithout k l id).find k = if l.filter (· ≠ id) = [] then none else some (.deferred (l.filter (· ≠ id))) := by
  rw [wordsWithout]
  simp only [List.isEmpty_iff]
  split
  · rfl
  · rw [Table.find, if_pos rfl]

/-- R87: a reader that waits and leaves its word's list: in a load that drains its activation is abandoned, and otherwise it ends. -/
theorem exec_readerCancel (hr : s.req id = some r) (hw : s.cur.work = some (.readerCancel id)) {u : TaskRef} (ht : r.task = some u) {k : Nat}
    {l : List Nat} (hs : s.words = [(k, .deferred l)]) (hl : id ∈ l) :
    exec .readerCancel s = .next (if s.draining r.load then ({ s with words := wordsWithout k l id } : State).abandon u
      else ({ s with words := wordsWithout k l id } : State).dropReq id) := by
  have hexec : exec .readerCancel s = execReaderCancel s := rfl
  simp only [hexec, execReaderCancel, hw, hr, ht, cancelReader_one hs hl]
  rfl

/-- R87, R424: the one operation of an abandoned activation, a wait, ends with it. -/
theorem withdraw_only (hreqs : s.reqs = [r]) {wait : Bool} (hop : r.op = .lds wait) (ha : r.answer = none) {u : TaskRef} (ht : r.task = some u)
    (hf : ∀ f ∈ (s.task u).flights, f.serial = r.serial) (hne : (s.task u).flights ≠ []) {k : Nat} {l : List Nat} (hs : s.words = wordsWithout k l r.id) :
    ∃ m tp x, s.withdraw u = { s with reqs := [], misses := m, tports := tp, xfaults := x } := by
  have hgone : r.serial ∈ (s.task u).flights.map (·.serial) := by
    obtain ⟨f, hmem⟩ := List.exists_mem_of_ne_nil _ hne
    exact List.mem_map.mpr ⟨f, hmem, hf f hmem⟩
  have hwaits : r.waitsOnly = true := by rw [Req.waitsOnly, hop, ha]; rfl
  have hmine : (s.reqs.filter fun q => q.task == some u && decide (q.serial ∈ (s.task u).flights.map (·.serial)) && q.waitsOnly) = [r] := by
    rw [hreqs]
    simp only [List.filter_cons, List.filter_nil, ht, hgone, hwaits, decide_true, beq_self_eq_true, Bool.and_self, if_true]
  have hdrop : s.dropReq r.id = { s with reqs := [] } := by
    rw [State.dropReq, hreqs]
    simp
  rw [State.withdraw, hmine]
  simp only [List.foldl_cons, List.foldl_nil, cancelReader_again hs, Option.getD_none, hdrop]
  exact ⟨_, _, _, rfl⟩

end

/-- Settles O47: each look at a word is one case of the word; readers are answered one after another (`foldl_reply_spec`); a cancelled reader is taken
off the one list, and its activation, whose one operation it is, ends. -/
theorem structureMemory : Obligations.StructureMemory := by
  unfold Obligations.StructureMemory
  intro s id r hr ha hc hreply
  have halone : ∀ c ∈ s.combines, c.merged ≠ id := fun c hmem => by rw [hc] at hmem; exact absurd hmem List.not_mem_nil
  have h : Pending s id r := ⟨hr, ha, halone, hreply⟩
  have hid := id_of_req hr
  refine ⟨fun hm hb wait hw hop => ⟨fun v hv => ?_, fun hv => ⟨fun hwait => ?_, fun hwait hpool l hl hnot => ?_⟩⟩,
    fun hm hb v hw hop => ⟨fun w hv => ?_, fun l hl hnot hnodup hq => ?_⟩, fun hm n hw hop hb hnodup => ?_,
    fun u k l hw hop ht hs hl => ⟨fun hd hreqs hf hne => ?_, fun hd => ?_⟩⟩
  · obtain ⟨hans, l, p, g, he⟩ := h.reply { r0 := v, r1 := 0 }
    exact ⟨_, by rw [exec_structLds h hm hw hop, performLds_full hb hv, hid], hans, by rw [he]⟩
  · obtain ⟨hans, l, p, g, he⟩ := h.reply { r0 := 0, r1 := 1 }
    subst hwait
    exact ⟨_, by rw [exec_structLds h hm hw hop, performLds_empty hb hv, hid], hans, by rw [he]⟩
  · subst hwait
    have hl' : readersOf (s.words.find r.loc) = l := hl
    rw [← hl', ← hid] at hnot
    refine ⟨_, (exec_structLds h hm hw hop).trans (congrArg _ (performLds_wait hb hv hpool hnot)), ?_, hr, fun k hk => ?_, rfl⟩
    · rw [hl', hid]; exact find_put_self ..
    · exact find_put_ne _ hk _
  · obtain ⟨hans, l, p, g, he⟩ := h.reply { fail := some { code := .structRewrite, addr := r.va, acc := .write } }
    exact ⟨_, by rw [exec_structSts h hm hw hop, performSts_full hb hv, hid], hans, by rw [he]⟩
  · have hv (v : Word) : s.words.find r.loc ≠ some (.full v) := fun hv => by rw [hv] at hl; simp at hl
    have hl' : readersOf (s.words.find r.loc) = l := by
      cases hw : s.words.find r.loc with
      | none => rw [hw] at hl; exact Option.some.inj hl
      | some w =>
        cases w with
        | full x => exact absurd hw (hv x)
        | deferred m => rw [hw] at hl; exact Option.some.inj hl
    obtain ⟨hwords, hall, hans, hagenda⟩ := h.fills hc hb hv hl' hnot hnodup hq v
    refine ⟨_, exec_structSts h hm hw hop, ?_, fun k hk => ?_, hall, hans, hagenda⟩
    · rw [hwords]; exact find_put_self ..
    · rw [hwords]; exact find_put_ne _ hk _
  · obtain ⟨hans, l, p, g, he⟩ := (h.congr (t := { s with words := s.words.filter (keepsWord r.loc n) }) rfl rfl rfl rfl).reply {}
    refine ⟨_, exec_structStclr h hm hw hop hb, hans, fun k => ?_⟩
    rw [he]
    refine (find_filter hnodup _ k).trans ?_
    cases s.words.find k with
    | none => rfl
    | some w =>
      cases w with
      | full v =>
        rw [Option.filter_some]
        by_cases hin : r.loc ≤ k ∧ k < r.loc + 8 * n
        · simp [keepsWord, hin]
        · simp only [hin, if_false]
          rw [if_pos (by simp [keepsWord]; omega)]
      | deferred m => rfl
  · have hexec := exec_readerCancel hr hw ht hs hl
    rw [if_pos hd] at hexec
    obtain ⟨m, tp, x, he⟩ := withdraw_only (s := { s with words := wordsWithout k l id }) hreqs hop ha ht hf hne (by rw [hid])
    refine ⟨_, hexec, ?_, ?_, ?_⟩
    all_goals rw [State.abandon, he]
    · rfl
    · exact find_wordsWithout k l id
    · exact ⟨by rw [task_modTask], by rw [task_modTask], by rw [task_modTask]; rfl, by rw [task_modTask]; rfl, rfl⟩
  · have hexec := exec_readerCancel hr hw ht hs hl
    rw [if_neg (by rw [hd]; exact Bool.false_ne_true)] at hexec
    exact ⟨_, hexec, req_dropReq _ id, find_wordsWithout k l id, rfl⟩

end Sys2Proof.Proofs
end

section
/-! SUPPORT. Requests over a link at both its ends: setting out, arriving at an agent, retransmission, time-out, and the failure of lanes and
planes (R78 to R82, R453, R455). -/

namespace Sys2Proof.Proofs

open Sys2Proof.Machine

/-! A packet alone on the mesh. -/

/-- R93: a packet with no other beside it merges with none; at most it takes an entry of the wait buffer. -/
theorem tryMerge_alone {s : State} {q : Packet} (hs : s.packets = [q]) (p : Packet) (hid : q.id = p.id) :
    ∃ b, s.tryMerge p = { s with packets := [{ q with buffered := b }] } := by
  have hnone : s.partner p = none := by simp [State.partner, hs, hid]
  simp only [State.tryMerge, hnone]
  split
  · exact ⟨q.buffered, by rw [← hs]⟩
  · exact ⟨true, by simp [hs, hid]⟩

/-- R435: a packet with no other beside it takes its turns on its circuit. -/
theorem takeTurns_alone {s : State} {q : Packet} (hs : s.packets = [q]) (p : Packet) (hid : q.id = p.id) :
    ∃ c d, s.takeTurns p = { s with circuits := c, packets := [{ q with due := d }] } := by
  unfold State.takeTurns
  split
  · exact ⟨s.circuits, q.due, by rw [← hs]⟩
  · simp only [hs, List.map_cons, List.map_nil, if_pos hid]
    exact ⟨_, _, rfl⟩

theorem enterMesh_alone {s : State} {q : Packet} (hs : s.packets = [q]) (p : Packet) (hid : q.id = p.id) :
    ∃ c d b, s.enterMesh p = { s with circuits := c, packets := [{ q with fresh := false, due := d, buffered := b }] } := by
  have hfresh : s.packets.map (fun x => if x.id = p.id then { x with fresh := false } else x) = [{ q with fresh := false }] := by
    rw [hs, List.map_cons, List.map_nil, if_pos hid]
  obtain ⟨c, d, hturns⟩ := takeTurns_alone (s := { s with packets := [{ q with fresh := false }] }) rfl p hid
  obtain ⟨b, hmerge⟩ := tryMerge_alone (s := { s with circuits := c, packets := [{ q with fresh := false, due := d }] }) rfl p hid
  exact ⟨c, d, b, by simp only [State.enterMesh, hfresh, hturns, hmerge]⟩

/-- R433: a packet put on an empty mesh stands at its source, the step that moves it to come. -/
theorem sendPacket_alone {s : State} (hs : s.packets = []) (p : Packet) :
    ∃ q c, s.sendPacket p = { s with
        nextId := s.nextId + 1, circuits := c, packets := [q], agenda := s.agenda ++ [.packetAccept q.id] }
      ∧ q.payload = p.payload ∧ q.at_ = p.at_ ∧ q.dest = p.dest := by
  simp only [State.sendPacket]
  generalize hq : ({ p with id := s.newId.1, src := p.at_, route := (s.newId.2.routeFor p.at_ p.dest).getD (fullRoute true p.at_ p.dest) } : Packet) = q
  have hpackets : s.newId.2.packets ++ [q] = [q] := by simp [State.newId, hs]
  obtain ⟨hid, hpay, hat, hdest⟩ : q.id = s.nextId ∧ q.payload = p.payload ∧ q.at_ = p.at_ ∧ q.dest = p.dest := by rw [← hq]; exact ⟨rfl, rfl, rfl, rfl⟩
  rw [hpackets]
  split
  · obtain ⟨c, d, b, he⟩ := enterMesh_alone (s := { s.newId.2 with packets := [q] }) rfl q rfl
    exact ⟨{ q with fresh := false, due := d, buffered := b }, c, by rw [he, hid]; rfl, hpay, hat, hdest⟩
  · exact ⟨q, s.circuits, by rw [hid]; rfl, hpay, hat, hdest⟩

section
variable {s : State} {id n : Nat} {r : Req}

/-! Setting out. -/

/-- R78, R453: a request that sets out over a link takes its identifier, its timers start, and it is on its way to its plane's switch. -/
theorem sendRemote_spec (h : s.req id = some r) (hp : s.packets = []) :
    let t := s.sendRemote r
    (∃ k : LinkId, t.req id = some { r with link := some k, start := s.cycle, sent := s.tick + 1 } ∧ k.package = s.package ∧ k.seq = id % 2 ^ 32)
      ∧ Work.linkRetransmit id ∈ t.agenda ∧ Work.linkTimeout id ∈ t.agenda ∧ t.tasks = s.tasks ∧ t.mem = s.mem
      ∧ (r.tileOf = none → Work.linkRequestArrive id 0 ∈ t.agenda)
      ∧ ∀ tile, r.tileOf = some tile → ∃ p, t.packets = [p] ∧ p.payload = .request id ∧ p.at_ = routerOf tile ∧ p.dest = s.homeRouter r.loc r.atAgent
        ∧ Work.packetAccept p.id ∈ t.agenda := by
  obtain rfl := id_of_req h
  have hreq := fun k => req_modReq h (f := fun q => { q with link := some k, start := s.cycle, sent := s.tick + 1 }) fun _ => rfl
  simp only [State.sendRemote]
  cases htile : r.tileOf with
  | none =>
    exact ⟨⟨_, hreq _, rfl, rfl⟩, by simp [State.post, State.postAll], by simp [State.post, State.postAll], rfl, rfl,
      fun _ => by simp [State.post], fun tile ht => nomatch ht⟩
  | some tile =>
    simp only
    generalize hu : State.postAll _ _ = u
    have hfree : u.packets = [] := by rw [← hu]; exact hp
    obtain ⟨q, c, he, hpay, hat, hdest⟩ := sendPacket_alone hfree _
    rw [he]
    subst hu
    refine ⟨⟨_, hreq _, rfl, rfl⟩, by simp [State.postAll], by simp [State.postAll], rfl, rfl, fun ht => absurd ht (Option.some_ne_none _), ?_⟩
    rintro tile' ⟨⟩
    exact ⟨q, rfl, hpay, hat, hdest, List.mem_append_right _ List.mem_cons_self⟩

theorem exec_linkRequestArrive_first (h : s.req id = some r) (ha : r.answer = none) (hw : s.cur.work = some (.linkRequestArrive id n)) (hl : r.link = none)
    (hm : s.mayPerform r = true) : exec .linkRequestArrive s = .next (s.sendRemote r) := by
  simp only [exec, execLinkRequestArrive, hw, h, hl, ha, hm, Option.isSome_none, Bool.not_true, Bool.false_eq_true, if_false]

/-! Arriving at the agent. -/

theorem exec_linkRequestArrive_lost (h : s.req id = some r) (hw : s.cur.work = some (.linkRequestArrive id n)) {k : LinkId} (hl : r.link = some k)
    (hd : planeOf r.loc n ∈ s.ports.disabled) : exec .linkRequestArrive s = .next s := by
  simp only [exec, execLinkRequestArrive, hw, h, hl, hd, if_true]

theorem exec_linkRequestArrive_entry (h : s.req id = some r) (hw : s.cur.work = some (.linkRequestArrive id n)) {k : LinkId} (hl : r.link = some k)
    (hd : planeOf r.loc n ∉ s.ports.disabled) (hb : s.arrivesBefore r n = false) (he : r.needsEntry = true) :
    exec .linkRequestArrive s = .next ((s.modReq id fun q => { q with via := n }).takeAtAgent { r with via := n } k n) := by
  rw [exec, execLinkRequestArrive]
  simp only [hw, h]
  split
  · next hnone => rw [hl] at hnone; exact absurd hnone (Option.some_ne_none k)
  · next k' hk =>
    obtain rfl : k' = k := Option.some.inj (hk.symm.trans hl)
    rw [if_neg hd, if_neg (by rw [hb]; exact Bool.false_ne_true)]
    exact if_pos he

/-- R80: a request whose entry holds its result is answered with it. -/
theorem takeAtAgent_done {e : ReplyEntry} {k : LinkId} (hf : (s.replies.find? fun e => e.agent == agentOf r.loc && e.link == k) = some e) {a : Answer}
    (he : e.done = some a) (n : Nat) : s.takeAtAgent r k n = s.reply r.id a := by
  simp only [State.takeAtAgent, hf, he]

/-- R80: a request that its agent is at work on changes nothing there. -/
theorem takeAtAgent_pending {e : ReplyEntry} {k : LinkId} (hf : (s.replies.find? fun e => e.agent == agentOf r.loc && e.link == k) = some e)
    (he : e.done = none) (n : Nat) : s.takeAtAgent r k n = s := by
  simp only [State.takeAtAgent, hf, he]

/-- R80, R82: a request retransmitted too late, whose entry is gone. -/
theorem takeAtAgent_late {k : LinkId} (hf : (s.replies.find? fun e => e.agent == agentOf r.loc && e.link == k) = none) (hn : n ≠ 0)
    (hlate : 2160000 ≤ s.cycle - r.start ∨ s.refusesRetries r = true) : s.takeAtAgent r k n = s.reply r.id { r0 := 0, r1 := 5 } := by
  have hcond : n ≠ 0 ∧ (usCycles 900 ≤ s.cycle - r.start ∨ s.refusesRetries r = true) := ⟨hn, hlate⟩
  simp only [State.takeAtAgent, hf, if_pos hcond, statusUnknown]

/-- R80, R82: a request without an entry takes one and is performed, or waits for one to be free. -/
theorem takeAtAgent_new {k : LinkId} (hf : (s.replies.find? fun e => e.agent == agentOf r.loc && e.link == k) = none)
    (hearly : n = 0 ∨ s.cycle - r.start < 2160000 ∧ s.refusesRetries r = false) :
    s.takeAtAgent r k n = if 4096 ≤ (s.replies.filter fun e => e.agent == agentOf r.loc).length then s.post (.linkRequestArrive r.id n)
      else (({ s with replies := s.replies ++ [{ agent := agentOf r.loc, link := k, req := r.id, first := r.start, born := s.cycle }] } : State).arriveHome r).post
        (.replyEntryAgeOut (agentOf r.loc)) := by
  have hcond : ¬ (n ≠ 0 ∧ (usCycles 900 ≤ s.cycle - r.start ∨ s.refusesRetries r = true)) := by
    rintro ⟨hn, hlate | hlate⟩
    · have : 2160000 ≤ s.cycle - r.start := hlate
      omega
    · rcases hearly with h0 | ⟨-, h0⟩
      · exact hn h0
      · rw [h0] at hlate; exact Bool.noConfusion hlate
  simp only [State.takeAtAgent, hf, if_neg hcond]

/-- R453: a request that has come by a plane in use is pending there: its reply goes back by the same. -/
theorem pending_arrived (h : s.req id = some r) (ha : r.answer = none) (hc : s.combines = []) (hd : planeOf r.loc n ∉ s.ports.disabled) :
    Pending (s.modReq id fun q => { q with via := n }) id { r with via := n } where
  req := req_modReq h (f := fun q => { q with via := n }) fun _ => rfl
  unanswered := ha
  alone := fun c hmem => absurd (show c ∈ s.combines from hmem) (by simp [hc])
  back := by simp [State.replyOk, hd]

/-! Retransmission, time-out and the end of an entry. -/

/-- R78, R456: an unanswered request goes out again on the next plane. -/
theorem exec_linkRetransmit_again (h : s.req id = some r) (ha : r.answer = none) (hc : s.combines = []) (hw : s.cur.work = some (.linkRetransmit id))
    (hr : r.retransmitted = true) (hd : s.deferredAck id = false) (hn : r.retries < 4) (htime : retryAt r.retries ≤ s.cycle - r.start) :
    exec .linkRetransmit s = .next ((s.modReq id fun q => { q with retries := q.retries + 1 }).postAll
      [.linkRequestArrive id (r.retries + 1), .linkRetransmit id]) := by
  have hmerged : s.merged id = false := by simp [State.merged, hc]
  have hstop : (r.answer.isSome || !r.retransmitted || s.deferredAck id || s.merged id || decide (4 ≤ r.retries)) = false := by
    simp [ha, hr, hd, hmerged, hn]
  simp only [exec, execLinkRetransmit, hw, h, hstop, Bool.false_eq_true, if_false, if_neg (Nat.not_lt.mpr htime)]

section
variable (h : s.req id = some r) (ha : r.answer = none) (hc : s.combines = []) (hw : s.cur.work = some (.linkTimeout id))
    (hd : s.deferredAck id = false) (htime : 1200000 ≤ s.cycle - r.start)
include h ha hc hw hd htime

/-- R78, R456: an unanswered request whose time is over: it is given up and answered, a write is lost, and a read fails. -/
theorem exec_linkTimeout_cases :
    (r.timesOut = true → exec .linkTimeout s = .next ((s.giveUp r).2.finish (s.giveUp r).1 { r0 := 0, r1 := 4 }))
      ∧ (∀ b, r.op = .store b → exec .linkTimeout s = .next ((s.giveUp r).2.writeLost { r with id := (s.giveUp r).1 } 24 true))
      ∧ ∀ n sx, r.op = .load n sx → exec .linkTimeout s = .next ((s.modReq id fun q => { q with back := true }).finish id
          (failWith { code := .uncorrectable, link := true, addr := r.loc, auxB := r.va, cause := if r.eng.isSome then 24 else 0 })) := by
  have hmerged : s.merged id = false := by simp [State.merged, hc]
  have hstop : (r.answer.isSome || s.deferredAck id || s.merged id) = false := by simp [ha, hd, hmerged]
  have hlate : ¬ s.cycle - r.start < usCycles 500 := Nat.not_lt.mpr htime
  simp only [exec, execLinkTimeout, hw, h, hstop, Bool.false_eq_true, if_false, if_neg hlate, statusTimeout]
  refine ⟨fun ht => if_pos ht, fun b hop => ?_, fun n sx hop => ?_⟩
  · have ht : r.timesOut = false := by simp [Req.timesOut, Req.needsEntry, hop]
    simp only [ht, Bool.false_eq_true, if_false, hop]
  · have ht : r.timesOut = false := by simp [Req.timesOut, Req.needsEntry, hop]
    simp only [ht, Bool.false_eq_true, if_false, hop]

end

/-- R78, R80: what stands after the sender has given a request up: what is under way answers nobody, and of the tasks only registers of the sender's
are named anew. -/
def GivenUp (s t : State) (r : Req) : Prop :=
  (∀ q, t.req r.id = some q → q.task = none ∧ q.eng = none ∧ q.op = r.op) ∧ t.mem = s.mem
    ∧ (∀ v, r.task ≠ some v → t.task v = s.task v) ∧ ∀ v, { t.task v with regs := (s.task v).regs } = s.task v

theorem GivenUp.after {t u : State} (h : GivenUp s t r) (hreq : u.req r.id = t.req r.id) (hmem : u.mem = t.mem) (htask : ∀ v, u.task v = t.task v) :
    GivenUp s u r := by
  obtain ⟨hstays, hm, hother, hregs⟩ := h
  exact ⟨hreq ▸ hstays, hmem.trans hm, fun v hv => (htask v).trans (hother v hv), fun v => by rw [htask]; exact hregs v⟩

/-- The request as its sender goes on with it. -/
def goesOn (r : Req) (new : Nat) : Req := { r with id := new, link := none, held := false, back := true }

theorem modTask_regs (s : State) (u : TaskRef) (f : Reg → Reg) :
    (∀ v, v ≠ u → (s.modTask u fun k => { k with regs := k.regs.map f }).task v = s.task v)
      ∧ ∀ v, { (s.modTask u fun k => { k with regs := k.regs.map f }).task v with regs := (s.task v).regs } = s.task v := by
  have hne : ∀ v, v ≠ u → (s.modTask u fun k => { k with regs := k.regs.map f }).task v = s.task v := fun v hv => task_modTask_ne s hv _
  refine ⟨hne, fun v => ?_⟩
  by_cases hv : v = u
  · rw [hv, task_modTask]
  · rw [hne v hv]

/-- R78, R80: the sender's side goes on under a number of its own, and the rest is as giving up leaves it. -/
theorem giveUp_spec (h : s.req id = some r) (hc : s.combines = []) (hnew : ∀ q ∈ s.reqs, q.id ≠ s.nextId) :
    (s.giveUp r).1 = s.nextId ∧ ∃ l k, (s.giveUp r).2 = { s with reqs := l, tasks := k, nextId := s.nextId + 1 }
      ∧ (s.giveUp r).2.req s.nextId = some (goesOn r s.nextId) ∧ GivenUp s (s.giveUp r).2 r := by
  obtain rfl := id_of_req h
  have hne : r.id ≠ s.nextId := hnew r (List.mem_of_find?_eq_some h)
  generalize hstays : (if s.newId.2.underWay r then [{ r with task := none, eng := none, load := 0, wait := none }] else [] : List Req) = stays
  have hstay : ∀ q ∈ stays, q.id = r.id ∧ q.task = none ∧ q.eng = none ∧ q.op = r.op := by
    intro q hq
    rw [← hstays] at hq
    split at hq
    · rw [List.mem_singleton.mp hq]; exact ⟨rfl, rfl, rfl, rfl⟩
    · exact absurd hq List.not_mem_nil
  have hfound : ((s.reqs.filter fun q => decide (q.id ≠ r.id)) ++ stays ++ [goesOn r s.nextId]).find? (fun q => q.id == s.nextId)
      = some (goesOn r s.nextId) := by
    rw [List.find?_append, List.find?_eq_none.mpr]
    · simp [goesOn]
    · intro q hq
      rcases List.mem_append.mp hq with hq | hq
      · simpa using hnew q (List.mem_filter.mp hq).1
      · rw [(hstay q hq).1]; simpa using hne
  have hunderway : ∀ q, ((s.reqs.filter fun q => decide (q.id ≠ r.id)) ++ stays ++ [goesOn r s.nextId]).find? (fun q => q.id == r.id) = some q →
      q.task = none ∧ q.eng = none ∧ q.op = r.op := by
    intro q hq
    have hqid : q.id = r.id := by simpa using List.find?_some hq
    rcases List.mem_append.mp (List.mem_of_find?_eq_some hq) with hmem | hmem
    · rcases List.mem_append.mp hmem with hmem | hmem
      · exact absurd hqid (by simpa using (List.mem_filter.mp hmem).2)
      · exact (hstay q hmem).2
    · rw [List.mem_singleton.mp hmem] at hqid
      exact absurd hqid.symm hne
  refine ⟨rfl, ?_⟩
  unfold State.giveUp
  simp only [hstays, newId_combines, hc, List.map_nil]
  split
  · next u ht =>
    obtain ⟨hother, hregs⟩ := modTask_regs s u fun x => match x.due with
      | some (.result q second) => if q = r.id then { x with due := some (.result s.nextId second) } else x
      | _ => x
    exact ⟨_, _, rfl, hfound, hunderway, rfl, fun v hv => hother v fun hvu => hv (by rw [hvu, ht]), hregs⟩
  · exact ⟨_, _, rfl, hfound, hunderway, rfl, fun _ _ => rfl, fun _ => rfl⟩

theorem req_dropReq_ne (s : State) {x y : Nat} (h : x ≠ y) : (s.dropReq y).req x = s.req x := by
  simp only [State.req, State.dropReq, List.find?_filter]
  refine List.find?_congr fun q _ => ?_
  by_cases hq : q.id = x
  · simp [hq, h]
  · simp [hq]

/-- R469: a record that no other of its cycle comes before goes behind all. -/
theorem queueTrap_last {l : List Record} {x : Record} (h : ∀ y ∈ l, y.born ≠ x.born) : queueTrap l x = l ++ [x] := by
  have hnone : (l.reverse.takeWhile fun y => y.born == x.born && decide (x.handle < y.handle)) = [] := by
    rw [List.takeWhile_eq_nil_iff]
    intro hl
    have hborn := h l.reverse[0] (List.mem_reverse.mp (List.getElem_mem hl))
    simp only [List.get_eq_getElem, Bool.and_eq_true, beq_iff_eq, not_and]
    exact fun he => absurd he hborn
  simp [queueTrap, hnone]

/-- R456: a task's lost write, for which no block in flight waits, leaves its record and is forgotten. -/
theorem writeLost_idle {u : TaskRef} (ht : r.task = some u) (hf : (s.task u).flights = []) (hten : (s.ctx r.ctx).ten = true)
    (hroom : (s.ctx r.ctx).traps.length < 64) (cause : Nat) (link : Bool) :
    ∃ p : Record, s.writeLost r cause link = (s.modCtx r.ctx fun c => { c with traps := queueTrap c.traps p }).dropReq r.id
      ∧ p.code = .engineFault ∧ p.cause = cause ∧ p.addr = r.va ∧ p.born = s.cycle := by
  have hcond : ((s.ctx r.ctx).ten && decide ((s.ctx r.ctx).traps.length < 64) && !false) = true := by simp [hten, hroom]
  have htask : ∀ f, ((s.modCtx r.ctx f).task u).flights = [] := fun _ => hf
  have hquiet : ∀ f, ((s.modCtx r.ctx f).dropReq r.id).takeFault u = (s.modCtx r.ctx f).dropReq r.id := fun f => by
    simp only [State.takeFault, show (((s.modCtx r.ctx f).dropReq r.id).task u).flights = [] from hf]
  simp only [State.writeLost, ht, State.sendRecord, hcond, if_true, htask, List.zipIdx_nil, List.filterMap_nil, List.foldl_nil, hquiet]
  exact ⟨_, rfl, rfl, rfl, rfl, rfl⟩

theorem exec_replyEntryAgeOut_old {agent : Nat} {e : ReplyEntry} (hw : s.cur.work = some (.replyEntryAgeOut agent))
    (hf : (s.replies.find? fun e => e.agent == agent) = some e) (htime : 2400000 ≤ s.cycle - e.born) :
    exec .replyEntryAgeOut s = .next { s with replies := s.replies.filter fun x => decide (x ≠ e) } := by
  have hold : ¬ s.cycle - e.born < usCycles 1000 := Nat.not_lt.mpr htime
  simp only [exec, execReplyEntryAgeOut, hw, hf, if_neg hold]

/-! Lanes and planes. -/

/-- R473: an event recorded is the ring's last. -/
theorem event_last (s : State) (kind src ctx addr data : Nat) : (s.event kind src ctx addr data).ring.getLast? = some (s.eventNow kind src ctx addr data) := by
  simp only [State.event, lastEvents]
  split
  · next hlong =>
    have hne : s.ring ≠ [] := by rintro he; simp [he] at hlong
    rw [List.tail_append_of_ne_nil hne, List.getLast?_append]; rfl
  · rw [List.getLast?_append]; rfl

theorem exec_laneFail_spare {port : Nat} (hw : s.cur.work = some (.laneFail port)) (hd : port ∉ s.ports.disabled) (hl : port ∉ s.ports.lanes) :
    exec .laneFail s = .next (({ s with ports := { s.ports with lanes := s.ports.lanes ++ [port] } } : State).event 0x04 13 0 port 0) := by
  simp only [exec, execLaneFail, hw, if_neg hd, if_neg hl]

theorem exec_laneFail_second {port : Nat} (hw : s.cur.work = some (.laneFail port)) (hd : port ∉ s.ports.disabled) (hl : port ∈ s.ports.lanes) :
    exec .laneFail s = .next (s.disablePort port) := by
  simp only [exec, execLaneFail, hw, if_neg hd, if_pos hl]

theorem exec_planeFail_first {plane : Nat} (hw : s.cur.work = some (.planeFail plane)) (hd : plane ∉ s.ports.disabled) :
    exec .planeFail s = .next (s.disablePort plane) := by
  simp only [exec, execPlaneFail, hw, if_neg hd]

/-- R455: what a disabled port leaves. -/
theorem disablePort_spec (s : State) (port : Nat) :
    let t := s.disablePort port
    t.ports = { s.ports with disabled := s.ports.disabled ++ [port] }
      ∧ (∃ e, t.ring.getLast? = some e ∧ e.kind = 0x05 ∧ e.addr = port % 2 ^ 64) ∧ t.mem = s.mem ∧ t.tasks = s.tasks :=
  ⟨rfl, ⟨_, event_last .., rfl, rfl⟩, rfl, rfl⟩

end

/-! The steps of a link. -/

section
variable {s : State} {id n : Nat} {r : Req}

/-- What a request's arrival at its agent finds (R80, R453). -/
structure ComesToAgent (s : State) (id n : Nat) (r : Req) (k : LinkId) : Prop where
  req : s.req id = some r
  unanswered : r.answer = none
  uncombined : s.combines = []
  work : s.cur.work = some (.linkRequestArrive id n)
  link : r.link = some k
  plane : planeOf r.loc n ∉ s.ports.disabled
  first : s.arrivesBefore r n = false
  entry : r.needsEntry = true

variable {k : LinkId}

theorem ComesToAgent.exec (h : ComesToAgent s id n r k) :
    Machine.exec .linkRequestArrive s = .next ((s.modReq id fun q => { q with via := n }).takeAtAgent { r with via := n } k n) :=
  exec_linkRequestArrive_entry h.req h.work h.link h.plane h.first h.entry

/-- R80: a request that its agent answers at once, with nothing else done. -/
theorem ComesToAgent.answered (h : ComesToAgent s id n r k) {a : Answer}
    (ht : (s.modReq id fun q => { q with via := n }).takeAtAgent { r with via := n } k n = (s.modReq id fun q => { q with via := n }).reply r.id a) :
    ∃ t, Machine.exec .linkRequestArrive s = .next t ∧ Safety.Answered t id a ∧ { t with reqs := s.reqs, agenda := s.agenda, replies := s.replies } = s := by
  have hid := id_of_req h.req
  obtain ⟨hans, l, p, g, he⟩ := (pending_arrived h.req h.unanswered h.uncombined h.plane).reply a
  exact ⟨_, h.exec.trans (congrArg Host.Outcome.next (ht.trans (by rw [hid]))), hans, by rw [he]; rfl⟩

/-- R80: a request whose entry holds its result is answered with it. -/
theorem ComesToAgent.replayed (h : ComesToAgent s id n r k) {e : ReplyEntry} {a : Answer}
    (hf : (s.replies.find? fun e => e.agent == agentOf r.loc && e.link == k) = some e) (he : e.done = some a) :
    ∃ t, Machine.exec .linkRequestArrive s = .next t ∧ Safety.Answered t id a ∧ { t with reqs := s.reqs, agenda := s.agenda, replies := s.replies } = s :=
  h.answered (takeAtAgent_done (s := s.modReq id fun q => { q with via := n }) (r := { r with via := n }) hf he n)

/-- R80: a request that its agent is at work on attaches to its entry. -/
theorem ComesToAgent.attached (h : ComesToAgent s id n r k) {e : ReplyEntry}
    (hf : (s.replies.find? fun e => e.agent == agentOf r.loc && e.link == k) = some e) (he : e.done = none) :
    ∃ t, Machine.exec .linkRequestArrive s = .next t ∧ t.req id = some { r with via := n } ∧ { t with reqs := s.reqs } = s :=
  ⟨_, h.exec.trans (congrArg Host.Outcome.next
      (takeAtAgent_pending (s := s.modReq id fun q => { q with via := n }) (r := { r with via := n }) hf he n)),
    req_modReq h.req (f := fun q => { q with via := n }) fun _ => rfl, rfl⟩

/-- R80, R82: a request retransmitted too late is refused. -/
theorem ComesToAgent.refused (h : ComesToAgent s id n r k) (hf : (s.replies.find? fun e => e.agent == agentOf r.loc && e.link == k) = none)
    (hn : n ≠ 0) (hlate : 2160000 ≤ s.cycle - r.start ∨ s.refusesRetries r = true) :
    ∃ t, Machine.exec .linkRequestArrive s = .next t ∧ Safety.Answered t id { r0 := 0, r1 := 5 }
      ∧ { t with reqs := s.reqs, agenda := s.agenda, replies := s.replies } = s :=
  h.answered (takeAtAgent_late (s := s.modReq id fun q => { q with via := n }) (r := { r with via := n }) hf hn hlate)

/-- R80: a request new to its agent takes an entry and is performed. -/
theorem ComesToAgent.taken (h : ComesToAgent s id n r k) (hf : (s.replies.find? fun e => e.agent == agentOf r.loc && e.link == k) = none)
    (hearly : n = 0 ∨ s.cycle - r.start < 2160000 ∧ s.refusesRetries r = false)
    (hroom : (s.replies.filter fun e => e.agent == agentOf r.loc).length < 4096) :
    ∃ t, Machine.exec .linkRequestArrive s = .next t
      ∧ t.replies = s.replies ++ [{ agent := agentOf r.loc, link := k, req := id, first := r.start, born := s.cycle }]
      ∧ (∃ q, t.req id = some q ∧ q.arrived ≠ 0 ∧ { q with via := r.via, arrived := r.arrived } = r)
      ∧ r.homeWork ∈ t.agenda ∧ Work.replyEntryAgeOut (agentOf r.loc) ∈ t.agenda
      ∧ { t with replies := s.replies, agenda := s.agenda, reqs := s.reqs } = s := by
  obtain rfl := id_of_req h.req
  have hreq := req_modReq h.req (f := fun q => { q with via := n }) fun _ => rfl
  have htaken := req_modReq (id := r.id) hreq
    (f := fun q => { q with arrived := if q.arrived = 0 then (s.modReq r.id fun q => { q with via := n }).tick + 1 else q.arrived }) fun _ => rfl
  refine ⟨_, h.exec.trans (congrArg Host.Outcome.next
      ((takeAtAgent_new (s := s.modReq r.id fun q => { q with via := n }) (r := { r with via := n }) hf hearly).trans (if_neg (Nat.not_le.mpr hroom)))),
    rfl, ⟨_, htaken, ?_, rfl⟩, by simp [State.post, State.arriveHome, Req.homeWork], by simp [State.post], rfl⟩
  simp only
  split <;> omega

/-- R80: a request for which its agent has no entry free comes again. -/
theorem ComesToAgent.waits (h : ComesToAgent s id n r k) (hf : (s.replies.find? fun e => e.agent == agentOf r.loc && e.link == k) = none)
    (hearly : n = 0 ∨ s.cycle - r.start < 2160000 ∧ s.refusesRetries r = false)
    (hfull : 4096 ≤ (s.replies.filter fun e => e.agent == agentOf r.loc).length) :
    ∃ t, Machine.exec .linkRequestArrive s = .next t ∧ t.agenda = s.agenda ++ [.linkRequestArrive id n] ∧ t.req id = some { r with via := n }
      ∧ { t with reqs := s.reqs, agenda := s.agenda } = s := by
  obtain rfl := id_of_req h.req
  exact ⟨_, h.exec.trans (congrArg Host.Outcome.next
      ((takeAtAgent_new (s := s.modReq r.id fun q => { q with via := n }) (r := { r with via := n }) hf hearly).trans (if_pos hfull))),
    rfl, req_modReq h.req (f := fun q => { q with via := n }) fun _ => rfl, rfl⟩

section
variable (h : s.req id = some r) (ha : r.answer = none) (hc : s.combines = []) (hw : s.cur.work = some (.linkTimeout id))
    (hd : s.deferredAck id = false) (htime : 1200000 ≤ s.cycle - r.start)
include h ha hc hw hd htime

/-- R78, R456: an unanswered operation with an entry is answered with TIMEOUT, under its sender's new number. -/
theorem linkTimeout_entry (hnew : ∀ q ∈ s.reqs, q.id ≠ s.nextId) (he : r.needsEntry = true) :
    ∃ t q, exec .linkTimeout s = .next t ∧ Safety.Answered t s.nextId { r0 := 0, r1 := 4 } ∧ t.req s.nextId = some q
      ∧ q.task = r.task ∧ q.serial = r.serial ∧ q.idx = r.idx ∧ GivenUp s t r := by
  obtain ⟨hcases, -, -⟩ := exec_linkTimeout_cases h ha hc hw hd htime
  obtain ⟨hnum, l, k, heq, hreq, hgiven⟩ := giveUp_spec h hc hnew
  have hcomb : ∀ c ∈ (s.giveUp r).2.combines, c.merged ≠ s.nextId := by rw [heq]; simp [hc]
  have hne : r.id ≠ s.nextId := hnew r (List.mem_of_find?_eq_some h)
  have hexec := hcases (by simp [Req.timesOut, he])
  rw [hnum, finish_eq hcomb hreq ha] at hexec
  have hdone := req_modReq hreq (f := fun q => { q with answer := some { r0 := 0, r1 := 4 }, held := false }) fun _ => rfl
  exact ⟨_, _, hexec, ⟨⟨_, hdone, rfl⟩, List.mem_append_right _ List.mem_cons_self⟩, hdone, rfl, rfl, rfl,
    hgiven.after (req_modReq_ne _ hne (f := fun q => { q with answer := some { r0 := 0, r1 := 4 }, held := false }) fun _ => rfl) rfl fun _ => rfl⟩

/-- R456: an unanswered read fails. -/
theorem linkTimeout_read {n sx} (hop : r.op = .load n sx) :
    ∃ t, exec .linkTimeout s = .next t
      ∧ Safety.Answered t id (failWith { code := .uncorrectable, link := true, addr := r.loc, auxB := r.va, cause := if r.eng.isSome then 24 else 0 })
      ∧ t.mem = s.mem ∧ t.tasks = s.tasks := by
  obtain ⟨-, -, hcases⟩ := exec_linkTimeout_cases h ha hc hw hd htime
  have hback := req_modReq h (f := fun q => { q with back := true }) fun _ => rfl
  have hcomb : ∀ c ∈ (s.modReq id fun q => { q with back := true }).combines, c.merged ≠ id := fun c hmem =>
    absurd (show c ∈ s.combines from hmem) (by simp [hc])
  have hexec := hcases n sx hop
  rw [finish_eq hcomb hback ha] at hexec
  exact ⟨_, hexec, ⟨⟨_, req_modReq hback (f := fun q => { q with answer := some _, held := false }) fun _ => rfl, rfl⟩,
    List.mem_append_right _ List.mem_cons_self⟩, rfl, rfl⟩

/-- R456: an unanswered write is given up, with a record for the trap operator. -/
theorem linkTimeout_write (hnew : ∀ q ∈ s.reqs, q.id ≠ s.nextId) {b} {u : TaskRef} (hop : r.op = .store b) (ht : r.task = some u)
    (hf : (s.task u).flights = []) (hten : (s.ctx r.ctx).ten = true) (hroom : (s.ctx r.ctx).traps.length < 64)
    (hborn : ∀ x ∈ (s.ctx r.ctx).traps, x.born ≠ s.cycle) :
    ∃ t p, exec .linkTimeout s = .next t ∧ t.req s.nextId = none ∧ (t.ctx r.ctx).traps = (s.ctx r.ctx).traps ++ [p] ∧ p.code = .engineFault
      ∧ p.cause = 24 ∧ p.addr = r.va ∧ GivenUp s t r := by
  obtain ⟨-, hcases, -⟩ := exec_linkTimeout_cases h ha hc hw hd htime
  obtain ⟨hnum, l, k, heq, -, hgiven⟩ := giveUp_spec h hc hnew
  have hne : r.id ≠ s.nextId := hnew r (List.mem_of_find?_eq_some h)
  have ⟨_, _, _, hregs⟩ := hgiven
  have hflights : ((s.giveUp r).2.task u).flights = [] := (congrArg Task.flights (hregs u)).trans hf
  have hctx : (s.giveUp r).2.ctx r.ctx = s.ctx r.ctx := by rw [heq]; rfl
  obtain ⟨p, he, hcode, hcause, haddr, hpborn⟩ := writeLost_idle (s := (s.giveUp r).2) (r := { r with id := (s.giveUp r).1 }) ht hflights
    (by rw [hctx]; exact hten) (by rw [hctx]; exact hroom) 24 true
  have hlast : queueTrap (s.ctx r.ctx).traps p = (s.ctx r.ctx).traps ++ [p] := queueTrap_last fun x hx => by
    rw [hpborn, heq]; exact hborn x hx
  have htraps : ((s.giveUp r).2.modCtx r.ctx fun c => { c with traps := queueTrap c.traps p }).ctx r.ctx
      = { s.ctx r.ctx with traps := (s.ctx r.ctx).traps ++ [p] } := by
    rw [ctx_modCtx, hctx, hlast]
  refine ⟨_, p, (hcases b hop).trans (congrArg Host.Outcome.next he), ?_, congrArg Ctx.traps htraps, hcode, hcause, haddr, ?_⟩
  · rw [hnum]; exact req_dropReq _ _
  · exact hgiven.after (req_dropReq_ne _ (by rw [hnum]; exact hne)) rfl fun _ => rfl

end

end

end Sys2Proof.Proofs
end

section
/-! SUPPORT. One packet in the custody of a router, its links and circuits, and the combined reply (R95, R433 to R438). -/

namespace Sys2Proof.Proofs

open Sys2Proof.Machine

/-! The parts of a router's step, with one packet. -/

section
variable {s : State} {p : Packet}

theorem packetTurn_alone (hs : s.packets = [p]) (q : Packet) (hq : q.id = p.id) : s.packetTurn q = true := by
  simp only [State.packetTurn, hs]
  split
  · next x hx =>
    rw [List.mem_singleton.mp (List.mem_of_find?_eq_some hx), hq]
    exact beq_self_eq_true _
  · rfl

theorem circuitFirst_alone (hs : s.packets = [p]) (hslot : p.slot = none) (q : Packet) : s.circuitFirst q = false := by
  simp [State.circuitFirst, hs, hslot]

/-- R433: of one packet alone, its own input is the next to be served. -/
theorem robinTurn_alone (hs : s.packets = [p]) (q : Packet) (hq : q.inp = p.inp) : s.robinTurn q = true := by
  simp [State.robinTurn, hs, hq]

theorem slotBefore_alone (hs : s.packets = [p]) (q : Packet) (hq : q.due = p.due) : s.slotBefore q = false := by
  simp [State.slotBefore, hs, hq]

theorem depart_unmerged (s : State) (hrecs : p.recs = []) : s.depart p = s := by
  simp [State.depart, hrecs]

/-- A step whose turn it is finds its packet, the only one, free to leave. -/
structure Alone (s : State) (id : Nat) (p : Packet) : Prop where
  work : s.cur.work = some (.packetAccept id)
  only : s.packets = [p]
  number : p.id = id
  free : s.packetFree p = true
  seen : p.fresh = false
  unmerged : p.recs = []

variable {id : Nat}

theorem Alone.found (h : Alone s id p) : s.packet id = some p := by
  simp [State.packet, h.only, h.number]

/-- R433, R438: what the step does with a packet that has its turn, by the route that carries it on. -/
def onward (s : State) (p : Packet) (route : Option (List Nat)) : Host.Outcome State Fault Refusal := match route with
  | none => .next (s.sendNotice p)
  | some [] => .next (s.sendNotice p)
  | some (b :: r) =>
    if s.circuitFirst { p with route := b :: r } || !s.robinTurn { p with route := b :: r } || !s.inputRoom { p with route := b :: r } b then
      .next (s.post (.packetAccept p.id))
    else .next (({ s with served := s.served.put (s.outPort { p with route := b :: r } * 8 + p.net) p.inp } : State).arrivePacket { p with route := b :: r } b)

theorem Alone.exec_free (h : Alone s id p) :
    exec .packetAccept s =
      if p.slot.isSome then .next (if s.cycle < p.due || s.slotBefore p then s.post (.packetAccept id) else s.circuitTurn p)
      else if !s.packetTurn p then .next (s.post (.packetAccept id))
      else if p.at_ = p.dest then
        if s.circuitFirst { p with route := [] } || !s.robinTurn { p with route := [] } then .next (s.post (.packetAccept id))
        else .next (({ s with served := s.served.put (s.outPort { p with route := [] } * 8 + p.net) p.inp } : State).deliverPacket { p with route := [] })
      else onward s p (if s.routeOk p.at_ p.route && !p.route.isEmpty then some p.route else s.routeFor p.at_ p.dest) := by
  simp only [exec, execPacketAccept, h.work, h.found]
  rw [if_neg (by simp [h.free]), if_neg (by simp [h.seen]), ← h.number]
  rfl

/-- R433: the only packet, at its destination, is delivered. -/
theorem Alone.delivered (h : Alone s id p) (hslot : p.slot = none) (hdest : p.at_ = p.dest) :
    exec .packetAccept s = .next (({ s with served := s.served.put (s.outPort { p with route := [] } * 8 + p.net) p.inp } : State).deliverPacket
      { p with route := [] }) := by
  have hturn : (s.circuitFirst { p with route := [] } || !s.robinTurn { p with route := [] }) = false := by
    rw [circuitFirst_alone h.only hslot, robinTurn_alone h.only { p with route := [] } rfl]; rfl
  rw [h.exec_free, if_neg (by simp [hslot]), if_neg (by simp [packetTurn_alone h.only p rfl]), if_pos hdest]
  exact if_neg (by rw [hturn]; exact Bool.false_ne_true)

/-- R432, R433: the only packet, with room at the next router, goes there. -/
theorem Alone.passed (h : Alone s id p) (hslot : p.slot = none) (hdest : p.at_ ≠ p.dest) {b : Nat} {l : List Nat} (hroute : p.route = b :: l)
    (hok : s.routeOk p.at_ p.route = true) (hroom : s.inputRoom p b = true) :
    exec .packetAccept s = .next (({ s with served := s.served.put (s.outPort p * 8 + p.net) p.inp } : State).arrivePacket p b) := by
  have hturn : (s.circuitFirst p || !s.robinTurn p || !s.inputRoom p b) = false := by
    rw [circuitFirst_alone h.only hslot, robinTurn_alone h.only _ rfl, hroom]; rfl
  have hgo : (s.routeOk p.at_ p.route && !p.route.isEmpty) = true := by rw [hok, hroute]; rfl
  have hp : { p with route := b :: l } = p := by rw [← hroute]
  rw [h.exec_free, if_neg (by simp [hslot]), if_neg (by simp [packetTurn_alone h.only p rfl]), if_neg hdest, if_pos hgo, hroute]
  simp only [onward, hp]
  exact if_neg (by rw [hturn]; exact Bool.false_ne_true)

/-- R435: a circuit flit, the only packet, leaves in its turn and waits for it before. -/
theorem Alone.circuit (h : Alone s id p) {n : Nat} (hslot : p.slot = some n) :
    exec .packetAccept s = .next (if s.cycle < p.due then s.post (.packetAccept id) else s.circuitTurn p) := by
  rw [h.exec_free, if_pos (by simp [hslot]), slotBefore_alone h.only p rfl]
  simp only [Bool.or_false, decide_eq_true_eq]

/-- R433, R437: the next router has the packet, and the failed sends on the way there are over. -/
theorem arrivePacket_alone (hs : s.packets = [p]) {q : Packet} (hid : q.id = p.id) (hrecs : q.recs = []) (b : Nat) :
    ∃ x, s.arrivePacket q b = { s with
        packets := [x], agenda := s.agenda ++ [.packetAccept q.id], ports := { s.ports with fails := s.ports.fails.erase (q.at_, portTo q.at_ b) } }
      ∧ x.id = q.id ∧ x.at_ = b ∧ x.route = q.route.drop 1 ∧ x.dest = q.dest ∧ x.payload = q.payload ∧ x.slot = q.slot ∧ x.due = q.due := by
  have hgone : s.packets.filter (fun x => decide (x.id ≠ q.id)) = [] := by simp [hs, hid]
  simp only [State.arrivePacket, depart_unmerged s hrecs, hgone, List.nil_append]
  generalize hx : ({ q with at_ := b, inp := if 1024 ≤ b then s.package else portFrom q.at_ b, route := q.route.drop 1, after := [], recs := [], buffered := false } : Packet) = x
  obtain ⟨c, he⟩ := tryMerge_alone (s := { s with packets := [x], ports := { s.ports with fails := s.ports.fails.erase (q.at_, portTo q.at_ b) } })
    (q := x) rfl x rfl
  rw [he]
  subst hx
  exact ⟨_, rfl, rfl, rfl, rfl, rfl, rfl, rfl, rfl⟩

/-- R433: a packet that the step which takes it is to find stays until then; the others are gone from the mesh as that step comes to be. -/
theorem deliverPacket_alone (hs : s.packets = [p]) {q : Packet} (hid : q.id = p.id) (hrecs : q.recs = []) (hlost : q.lost = none) :
    let stays (w : Work) : State := ({ s with packets := [{ p with out := s.tick + 1 }] } : State).post w
    let gone : State := { s with packets := [] }
    (∀ m, q.payload = .message m → s.deliverPacket q = stays (.messageArrive q.id))
      ∧ (∀ n, q.payload = .note n → s.deliverPacket q = stays (.notificationArrive q.id))
      ∧ (∀ b, q.payload = .batch b → s.deliverPacket q = stays (.batchApply q.id))
      ∧ (∀ g n c x e m z, q.payload = .contribution g n c x e m z → s.deliverPacket q = stays (.reductionNodeArrive q.id))
      ∧ (∀ u n, q.payload = .ack u n → s.deliverPacket q = gone.post (.batchAck u n))
      ∧ (∀ i, q.payload = .reply i → s.deliverPacket q = (gone.modReq i fun r => { r with back := true }).post (.longLatencyResult i))
      ∧ ∀ i r, q.payload = .request i → s.req i = some r →
        s.deliverPacket q = if 1024 ≤ q.at_ then gone.post (.linkRequestArrive i 0) else gone.arriveHome r := by
  have hgone : s.packets.filter (fun x => decide (x.id ≠ q.id)) = [] := by simp [hs, hid]
  have hout : s.packets.map (fun x => if x.id = q.id then { x with out := s.tick + 1 } else x) = [{ p with out := s.tick + 1 }] := by
    rw [hs, List.map_cons, List.map_nil, if_pos hid.symm]
  refine ⟨fun _ hp => ?_, fun _ hp => ?_, fun _ hp => ?_, fun _ _ _ _ _ _ _ hp => ?_, fun _ _ hp => ?_, fun _ hp => ?_, fun i r hp hr => ?_⟩
  all_goals simp only [State.deliverPacket, depart_unmerged s hrecs, hlost, hp, hgone, hout]
  rw [show State.req { s with packets := [{ p with out := s.tick + 1 }] } i = some r from hr]

/-- R434, R435: a circuit flit with one way on goes to the next router, in its slot there. -/
theorem circuitTurn_one {o b : Nat} (hout : s.circuitOuts p = [o]) (hcut : s.cutEnds p = [])
    (hb : neighbour p.at_ o = some b) :
    s.circuitTurn p = s.arrivePacket { p with slot := p.slot.map fun n => (n + slotStep p.at_ b) % 256, due := p.due + slotStep p.at_ b } b := by
  simp only [State.circuitTurn, hout, hcut, List.foldl_nil, List.isEmpty_cons, Bool.false_eq_true, if_false, State.circuitHop, List.isEmpty_nil, if_true, hb]

/-- R435: a circuit flit that no claim carries on leaves its circuit. -/
theorem circuitTurn_none (hs : s.packets = [p]) (hout : s.circuitOuts p = []) (hcut : s.cutEnds p = []) :
    s.circuitTurn p = { s with
      packets := [{ p with slot := none, buffered := false, route := (s.routeFor p.at_ p.dest).getD [] }], agenda := s.agenda ++ [.packetAccept p.id] } := by
  simp [State.circuitTurn, hout, hcut, hs, State.post]

/-- R433: what the step of the only packet, at its destination, leaves. -/
theorem Alone.comes (h : Alone s id p) (hslot : p.slot = none) (hlost : p.lost = none) (hdest : p.at_ = p.dest) :
    let becomes (w : Work) : Prop := ∃ t, exec .packetAccept s = .next t ∧ t.agenda = s.agenda ++ [w] ∧ t.packets = [{ p with out := s.tick + 1 }]
      ∧ { t with agenda := s.agenda, packets := s.packets, served := s.served } = s
    (∀ m, p.payload = .message m → becomes (.messageArrive id))
      ∧ (∀ n, p.payload = .note n → becomes (.notificationArrive id))
      ∧ (∀ b, p.payload = .batch b → becomes (.batchApply id))
      ∧ (∀ g n c x e m z, p.payload = .contribution g n c x e m z → becomes (.reductionNodeArrive id))
      ∧ (∀ u n, p.payload = .ack u n → ∃ t, exec .packetAccept s = .next t ∧ t.agenda = s.agenda ++ [.batchAck u n] ∧ t.packets = []
          ∧ { t with agenda := s.agenda, packets := s.packets, served := s.served } = s)
      ∧ (∀ q r, p.payload = .reply q → s.req q = some r → ∃ t, exec .packetAccept s = .next t ∧ t.agenda = s.agenda ++ [.longLatencyResult q]
          ∧ t.packets = [] ∧ t.req q = some { r with back := true }
          ∧ { t with agenda := s.agenda, packets := s.packets, served := s.served, reqs := s.reqs } = s)
      ∧ (∀ q r, p.payload = .request q → s.req q = some r →
        ∃ t x, exec .packetAccept s = .next t ∧ t.agenda = s.agenda ++ [if 1024 ≤ p.at_ then .linkRequestArrive q 0 else r.homeWork] ∧ t.packets = []
        ∧ t.req q = some x ∧ { x with arrived := r.arrived } = r ∧ (p.at_ < 1024 → x.arrived ≠ 0)
        ∧ { t with agenda := s.agenda, packets := s.packets, served := s.served, reqs := s.reqs } = s) := by
  have hexec := h.delivered hslot hdest
  obtain ⟨hmessage, hnote, hbatch, hcontribution, hack, hreply, hrequest⟩ :=
    deliverPacket_alone (s := { s with served := s.served.put (s.outPort { p with route := [] } * 8 + p.net) p.inp }) (q := { p with route := [] })
      h.only rfl h.unmerged hlost
  obtain rfl := h.number
  refine ⟨fun _ hp => ⟨_, hexec.trans (congrArg _ (hmessage _ hp)), rfl, rfl, rfl⟩, fun _ hp => ⟨_, hexec.trans (congrArg _ (hnote _ hp)), rfl, rfl, rfl⟩,
    fun _ hp => ⟨_, hexec.trans (congrArg _ (hbatch _ hp)), rfl, rfl, rfl⟩,
    fun _ _ _ _ _ _ _ hp => ⟨_, hexec.trans (congrArg _ (hcontribution _ _ _ _ _ _ _ hp)), rfl, rfl, rfl⟩,
    fun _ _ hp => ⟨_, hexec.trans (congrArg _ (hack _ _ hp)), rfl, rfl, rfl⟩,
    fun i r hp hr => ⟨_, hexec.trans (congrArg _ (hreply _ hp)), rfl, rfl, req_modReq hr (f := fun r => { r with back := true }) fun _ => rfl, rfl⟩,
    fun i r hp hr => ?_⟩
  have hgo := hrequest i r hp hr
  by_cases hat : 1024 ≤ p.at_
  · exact ⟨_, r, hexec.trans (congrArg _ (hgo.trans (if_pos hat))), by rw [if_pos hat]; rfl, rfl, hr, rfl, fun hlt => absurd hlt (Nat.not_lt.mpr hat), rfl⟩
  · obtain rfl := id_of_req hr
    refine ⟨_, _, hexec.trans (congrArg _ (hgo.trans (if_neg hat))), by rw [if_neg hat]; rfl, rfl,
      req_modReq hr (f := fun q => { q with arrived := if q.arrived = 0 then s.tick + 1 else q.arrived }) fun _ => rfl, rfl, fun _ => ?_, rfl⟩
    simp only
    split <;> omega

/-- R432, R433, R437: what the step of the only packet leaves where the next router takes it. -/
theorem Alone.goes (h : Alone s id p) (hslot : p.slot = none) (hdest : p.at_ ≠ p.dest) {b : Nat} {l : List Nat} (hroute : p.route = b :: l)
    (hok : s.routeOk p.at_ p.route = true) (hroom : s.inputRoom p b = true) :
    ∃ t q, exec .packetAccept s = .next t ∧ t.packets = [q] ∧ q.id = id ∧ q.at_ = b ∧ q.route = l ∧ q.dest = p.dest ∧ q.payload = p.payload
      ∧ t.agenda = s.agenda ++ [.packetAccept id] ∧ t.ports = { s.ports with fails := s.ports.fails.erase (p.at_, portTo p.at_ b) }
      ∧ { t with agenda := s.agenda, packets := s.packets, served := s.served, ports := s.ports } = s := by
  have hexec := h.passed hslot hdest hroute hok hroom
  obtain ⟨x, he, hid, hat, hxroute, hxdest, hpay, -, -⟩ :=
    arrivePacket_alone (s := { s with served := s.served.put (s.outPort p * 8 + p.net) p.inp }) (q := p) h.only rfl h.unmerged b
  obtain rfl := h.number
  exact ⟨_, x, hexec.trans (congrArg _ he), rfl, hid, hat, by rw [hxroute, hroute]; rfl, hxdest, hpay, rfl, rfl, rfl⟩

/-- R435: what the step of the only packet, a circuit flit, leaves. -/
theorem Alone.circuits (h : Alone s id p) {n : Nat} (hslot : p.slot = some n) :
    (∀ o b, p.due ≤ s.cycle → s.circuitOuts p = [o] → s.cutEnds p = [] → neighbour p.at_ o = some b →
        let step := if p.at_ / 64 = b / 64 then 3 else 8
        ∃ t q, exec .packetAccept s = .next t ∧ t.packets = [q] ∧ q.id = id ∧ q.at_ = b ∧ q.slot = some ((n + step) % 256) ∧ q.due = p.due + step
          ∧ q.payload = p.payload ∧ t.agenda = s.agenda ++ [.packetAccept id] ∧ t.ports = { s.ports with fails := s.ports.fails.erase (p.at_, portTo p.at_ b) }
          ∧ { t with agenda := s.agenda, packets := s.packets, ports := s.ports } = s)
      ∧ (s.cycle < p.due → exec .packetAccept s = .next { s with agenda := s.agenda ++ [.packetAccept id] })
      ∧ (p.due ≤ s.cycle → s.circuitOuts p = [] → s.cutEnds p = [] → ∃ t q, exec .packetAccept s = .next t ∧ t.packets = [q] ∧ q.slot = none ∧ q.at_ = p.at_
        ∧ q.dest = p.dest ∧ q.payload = p.payload ∧ Work.packetAccept id ∈ t.agenda) := by
  have hexec := h.circuit hslot
  have hdue : p.due ≤ s.cycle → exec .packetAccept s = .next (s.circuitTurn p) := fun hd =>
    hexec.trans (congrArg _ (if_neg (Nat.not_lt.mpr hd)))
  obtain rfl := h.number
  refine ⟨fun o b hd hout hcut hb => ?_, fun hd => hexec.trans (congrArg _ (if_pos hd)), fun hd hout hcut => ?_⟩
  · obtain ⟨x, he, hid, hat, -, -, hpay, hxslot, hxdue⟩ := arrivePacket_alone h.only
      (q := { p with slot := p.slot.map fun n => (n + slotStep p.at_ b) % 256, due := p.due + slotStep p.at_ b }) rfl h.unmerged b
    exact ⟨_, x, (hdue hd).trans (congrArg _ ((circuitTurn_one hout hcut hb).trans he)), rfl, hid, hat, hxslot.trans (by rw [hslot]; rfl), hxdue, hpay, rfl, rfl, rfl⟩
  · exact ⟨_, _, (hdue hd).trans (congrArg _ (circuitTurn_none h.only hout hcut)), rfl, rfl, rfl, rfl, rfl, by simp⟩

/-- R437, R438: a flit's failed send counts, and the eighth disables the link. -/
theorem exec_flitResend_counts {router port : Nat} (hw : s.cur.work = some (.flitResend router port)) :
    exec .flitResend s = .next { s with
      ports := { s.ports with fails := s.ports.fails.put (router, port) (s.ports.fails.get (router, port) 0 + 1) }
      agenda := s.agenda ++ if 7 ≤ s.ports.fails.get (router, port) 0 then [.linkDisable router port] else [] } := by
  simp only [exec, execFlitResend, hw]
  by_cases h7 : 7 ≤ s.ports.fails.get (router, port) 0
  · rw [if_pos (by omega), if_pos h7]; rfl
  · rw [if_neg (by omega), if_neg h7, List.append_nil]

/-- The launches of the loads that have a circuit on a link. -/
def launchesOn (s : State) (router port : Nat) : List Nat :=
  (s.loads.filter fun l => l.claims.any fun c => c.router == router && c.out == port).map (·.launch)

/-- R438: a disabled link is out of use and recorded, and the level-2 launches with a circuit on it have lost it. -/
theorem exec_linkDisable_first {router port : Nat} (hw : s.cur.work = some (.linkDisable router port)) (hl : (router, port) ∉ s.ports.links) :
    exec .linkDisable s = .next (({ s with
      ports := { s.ports with links := (router, port) :: s.ports.links }
      launches := s.launches.map fun x => if x.id ∈ launchesOn s router port ∧ x.level = 2 then { x with lost := true } else x } : State).event
        0x05 (router / 64) 0 (router * 8 + port) 8) := by
  simp only [exec, execLinkDisable, hw, if_neg hl]
  rfl

/-- R438: what a disabled link leaves of a launch. -/
theorem linkDisable_launch (router port : Nat) (x : Launch) :
    let y : Launch := if x.id ∈ launchesOn s router port ∧ x.level = 2 then { x with lost := true } else x
    { y with lost := x.lost } = x
      ∧ y.lost = (x.lost || decide (x.level = 2) && s.loads.any fun l => l.launch == x.id && l.claims.any fun c => c.router == router && c.out == port) := by
  have hmem : x.id ∈ launchesOn s router port ↔ (s.loads.any fun l => l.launch == x.id && l.claims.any fun c => c.router == router && c.out == port) = true := by
    simp only [launchesOn, List.mem_map, List.mem_filter, List.any_eq_true, Bool.and_eq_true, beq_iff_eq]
    constructor
    · rintro ⟨l, ⟨hl, hclaim⟩, hid⟩; exact ⟨l, hl, hid, hclaim⟩
    · rintro ⟨l, hl, hid, hclaim⟩; exact ⟨l, ⟨hl, hclaim⟩, hid⟩
  simp only [hmem]
  split
  · next hlost =>
    obtain ⟨hon, hlevel⟩ := hlost
    exact ⟨rfl, by simp [hon, hlevel]⟩
  · next hkept =>
    refine ⟨rfl, ?_⟩
    cases hon : s.loads.any fun l => l.launch == x.id && l.claims.any fun c => c.router == router && c.out == port with
    | false => simp
    | true => simp [show x.level ≠ 2 from fun hlevel => hkept ⟨hon, hlevel⟩]

/-! The reply of a combined request. -/

/-- R95: the reply of a request that is merged with no other stands, and its delivery comes to be. -/
theorem answer_single {s : State} (hc : s.combines = []) {id : Nat} {q : Req} (hq : s.req id = some q) (ha : q.answer = none) (a : Answer) :
    s.answer id a 1 = ((s.modReq id fun q => { q with answer := some a, held := false }).entryDone id a).post (.longLatencyResult id) := by
  have he := finish_eq (by simp [hc]) hq ha a
  rwa [State.finish, hc] at he

/-- R95: what the second member of a combined AADD receives. -/
theorem combined_second {c : Combine} {r : Req} {size : Nat} {v k fp ftz} (hop : r.op = .atomic 0 size v k true fp ftz) (hsize : size ≤ 8) {x : Nat}
    (hx : x < 2 ^ (8 * size)) (hr : s.req c.merged = some r) (hc : s.combines = [c]) (hok : s.replyOk r = true) :
    s.reply c.merged { r0 := BitVec.ofNat 64 x, r1 := 0 } =
      ((({ s.dropReq c.merged with combines := [] } : State).entryDone c.merged { r0 := BitVec.ofNat 64 x, r1 := 0 }).answer c.first { r0 := BitVec.ofNat 64 x, r1 := 0 } 1).answer
        c.second { r0 := BitVec.ofNat 64 ((x + c.v) % 2 ^ (8 * size)), r1 := 0 } 1 := by
  have h64 : x < 2 ^ 64 := lt_of_lt_of_le hx (Nat.pow_le_pow_right (by decide) (by omega))
  have hx' : (BitVec.ofNat 64 x).toNat = x := by rw [BitVec.toNat_ofNat, Nat.mod_eq_of_lt h64]
  have hne : size ≠ 16 := by omega
  simp only [State.reply, hr, hok, if_true, State.finish, hc, List.length_singleton]
  rw [State.answer]
  simp only [hc, hr, hop, List.find?_cons, beq_self_eq_true, hx', Nat.add_zero, ne_eq, not_true_eq_false, Option.isSome_none, Bool.false_eq_true, or_self,
    if_false, hne, combineSecond, if_true, List.filter_cons, List.filter_nil, decide_false]
  rfl

/-- R95: the reply splits at its record: each member is answered, and the merged request and its record are no more. -/
theorem reply_combined {c : Combine} {r a b : Req} {size : Nat} {v k fp ftz} (hop : r.op = .atomic 0 size v k true fp ftz) (hsize : size ≤ 8) {x : Nat}
    (hx : x < 2 ^ (8 * size)) (hr : s.req c.merged = some r) (hc : s.combines = [c]) (hok : s.replyOk r = true)
    (hmf : c.merged ≠ c.first) (hms : c.merged ≠ c.second) (hfs : c.first ≠ c.second)
    (ha : s.req c.first = some a) (haa : a.answer = none) (hb : s.req c.second = some b) (hba : b.answer = none) :
    let t := s.reply c.merged { r0 := BitVec.ofNat 64 x, r1 := 0 }
    Safety.Answered t c.first { r0 := BitVec.ofNat 64 x, r1 := 0 }
      ∧ Safety.Answered t c.second { r0 := BitVec.ofNat 64 ((x + c.v) % 2 ^ (8 * size)), r1 := 0 } ∧ t.req c.merged = none ∧ t.combines = [] := by
  simp only [combined_second hop hsize hx hr hc hok]
  generalize ({ r0 := BitVec.ofNat 64 x, r1 := 0 } : Answer) = one
  generalize ({ r0 := BitVec.ofNat 64 ((x + c.v) % 2 ^ (8 * size)), r1 := 0 } : Answer) = two
  generalize hu : ({ s.dropReq c.merged with combines := [] } : State).entryDone c.merged one = u
  have hcomb : u.combines = [] := by rw [← hu]; rfl
  have hreq : ∀ y, u.req y = (s.dropReq c.merged).req y := fun y => by rw [← hu]; rfl
  have hfirst : u.req c.first = some a := by rw [hreq, req_dropReq_ne _ hmf.symm, ha]
  have hsecond : u.req c.second = some b := by rw [hreq, req_dropReq_ne _ hms.symm, hb]
  have hmerged : u.req c.merged = none := by rw [hreq, req_dropReq]
  have hid : ∀ (w : Answer) (q : Req), ({ q with answer := some w, held := false } : Req).id = q.id := fun _ _ => rfl
  have hsecond' : (((u.modReq c.first fun q => { q with answer := some one, held := false }).entryDone c.first one).post (.longLatencyResult c.first)).req c.second
      = some b := (req_modReq_ne u hfs.symm (hid one)).trans hsecond
  rw [answer_single hcomb hfirst haa, answer_single (by exact hcomb) hsecond' hba]
  refine ⟨⟨⟨_, (req_modReq_ne _ hfs (hid two)).trans (req_modReq hfirst (hid one)), rfl⟩, by simp [State.post, State.entryDone]⟩,
    ⟨⟨_, req_modReq hsecond' (hid two), rfl⟩, by simp [State.post, State.entryDone]⟩, ?_, hcomb⟩
  exact (req_modReq_ne _ hms (hid two)).trans ((req_modReq_ne _ hmf (hid one)).trans hmerged)

end

/-! The statement. -/

/-- Settles O48, each clause by what its step does with the one request, entry, port or packet that it names. -/
theorem linksAndPacketsRun : Obligations.LinksAndPacketsRun := by
  refine ⟨fun s id r h ha hc => ⟨fun n hw => ⟨fun hl hm hp => ?_, fun k hl hd => exec_linkRequestArrive_lost h hw hl hd, fun k hl hd hb he => ?_⟩,
    fun hw hr hd hn htime => ?_, fun hw hd htime hnew => ⟨fun he => ?_, fun n sx hop => ?_, fun b u hop ht hf hten hroom hborn => ?_⟩,
    fun agent e hw hf htime => ?_, fun port hw hd => ⟨fun hl => ?_, fun hl => ?_⟩, fun plane hw hd => ?_⟩,
    fun s id p => ⟨fun hw hs hid hfree hfresh hrecs => ?_, fun router port hw => ?_, fun router port hw hl => ?_,
      fun c r size v k fp ftz a b x hc hmf hms hfs hr hop hsize hok ha haa hb hba hx => ?_⟩⟩
  · obtain ⟨⟨k, hreq, hk, hseq⟩, hagain, hover, htasks, hmem, hnone, hsome⟩ := sendRemote_spec h hp
    refine ⟨_, _, k, exec_linkRequestArrive_first h ha hw hl hm, hreq, rfl, hk, hseq, rfl, rfl, hagain, hover, htasks, hmem, ?_⟩
    split
    · next ht => exact hnone ht
    · next tile ht => exact hsome tile ht
  · have hcomes : ComesToAgent s id n r k := ⟨h, ha, hc, hw, hl, hd, hb, he⟩
    exact ⟨fun e a hf hdone => hcomes.replayed hf hdone, fun e hf hdone => hcomes.attached hf hdone,
      fun hf => ⟨fun hn hlate => hcomes.refused hf hn hlate, fun hearly => ⟨fun hroom => hcomes.taken hf hearly hroom, fun hfull => hcomes.waits hf hearly hfull⟩⟩⟩
  · have htime' : retryAt r.retries ≤ s.cycle - r.start := by
      refine le_trans (le_of_eq ?_) htime
      match r.retries with
      | 0 | 1 | 2 | _ + 3 => rfl
    exact ⟨_, exec_linkRetransmit_again h ha hc hw hr hd hn htime', req_modReq h (f := fun q => { q with retries := q.retries + 1 }) fun _ => rfl,
      by simp [State.postAll], by simp [State.postAll], rfl⟩
  · obtain rfl := id_of_req h
    exact linkTimeout_entry h ha hc hw hd htime hnew he
  · exact linkTimeout_read h ha hc hw hd htime hop
  · obtain rfl := id_of_req h
    exact linkTimeout_write h ha hc hw hd htime hnew hop ht hf hten hroom hborn
  · exact ⟨_, exec_replyEntryAgeOut_old hw hf htime, by simp, fun x hx => by simp [hx], rfl⟩
  · exact ⟨_, _, exec_laneFail_spare hw hd hl, rfl, event_last .., rfl, rfl, rfl⟩
  · obtain ⟨hports, ⟨e, hlast, hkind, haddr⟩, hmem, htasks⟩ := disablePort_spec s port
    exact ⟨_, e, exec_laneFail_second hw hd hl, hports, hlast, hkind, haddr, hmem, htasks⟩
  · obtain ⟨hports, ⟨e, hlast, hkind, haddr⟩, hmem, htasks⟩ := disablePort_spec s plane
    exact ⟨_, e, exec_planeFail_first hw hd, hports, hlast, hkind, haddr, hmem, htasks⟩
  · have halone : Alone s id p := ⟨hw, hs, hid, hfree, hfresh, hrecs⟩
    exact ⟨fun hslot hlost hdest => halone.comes hslot hlost hdest, fun b l hslot hdest hroute hok hroom => halone.goes hslot hdest hroute hok hroom,
      fun n hslot => halone.circuits hslot⟩
  · refine ⟨_, exec_flitResend_counts hw, get_put_self .., ?_, rfl⟩
    by_cases h7 : 7 ≤ s.ports.fails.get (router, port) 0 <;> simp [h7]
  · refine ⟨_, _, exec_linkDisable_first hw hl, rfl, event_last .., rfl, fun i x hx => ?_, rfl⟩
    obtain ⟨hsame, hlost⟩ := linkDisable_launch (s := s) router port x
    exact ⟨_, by simp [State.event, hx], hsame, hlost⟩
  · exact reply_combined hop hsize hx hr hc hok hmf hms hfs ha haa hb hba

end Sys2Proof.Proofs
end

section
/-! SUPPORT. The numbers of operations (R78, R301): what gives an operation its number, what forgets operations, and what changes them and keeps
their numbers. -/

namespace Sys2Proof.Safety

open Sys2Proof.Machine

/-- The number of the next operation is new in every state that comes next. -/
def NextFresh : Host.Outcome State Fault Refusal → Prop
  | .next t => IdsFresh t
  | .fault _ | .refused _ => True

theorem NextFresh.next {t : State} (h : IdsFresh t) : NextFresh (.next t) := h

theorem NextFresh.ite {c : Prop} [Decidable c] {a b : Host.Outcome State Fault Refusal} (ha : NextFresh a) (hb : NextFresh b) :
    NextFresh (if c then a else b) := by
  split
  · exact ha
  · exact hb

theorem IdsFresh.ite {c : Prop} [Decidable c] {s t : State} (hs : IdsFresh s) (ht : IdsFresh t) : IdsFresh (if c then s else t) := by
  split
  · exact hs
  · exact ht

theorem IdsFresh.foldl {α : Type} {f : State → α → State} {s : State} {l : List α} (hf : ∀ {t x}, IdsFresh t → IdsFresh (f t x)) (h : IdsFresh s) :
    IdsFresh (l.foldl f s) := by
  induction l generalizing s with
  | nil => exact h
  | cons x r ih => exact ih (hf h)

/-! What an access gives carries on a state in some of its outcomes. -/

/-- Of an option. -/
def SomeFresh : Option State → Prop
  | some t => IdsFresh t
  | none => True

theorem SomeFresh.some {o : Option State} (h : SomeFresh o) {t : State} (e : o = some t) : IdsFresh t := by subst e; exact h

/-- Of one that may fail. -/
def OkFresh : Except Record State → Prop
  | .ok t => IdsFresh t
  | .error _ => True

theorem OkFresh.ok {o : Except Record State} (h : OkFresh o) {t : State} (e : o = .ok t) : IdsFresh t := by subst e; exact h

/-- Of a table's word that is read. -/
def TableFresh : TableRead → Prop
  | .value _ t | .sent t => IdsFresh t
  | .miss _ | .filling | .bad _ => True

theorem TableFresh.value {o : TableRead} (h : TableFresh o) {v : Word} {t : State} (e : o = .value v t) : IdsFresh t := by subst e; exact h
theorem TableFresh.sent {o : TableRead} (h : TableFresh o) {t : State} (e : o = .sent t) : IdsFresh t := by subst e; exact h

/-- Of the elements that a vector instruction reads. -/
def VGotFresh : VGot → Prop
  | .wait t => IdsFresh t
  | .bad _ | .values _ => True

theorem VGotFresh.wait {o : VGot} (h : VGotFresh o) {t : State} (e : o = .wait t) : IdsFresh t := by subst e; exact h

/-- Of the operands of a vector instruction. -/
def VReadFresh : VRead → Prop
  | .miss _ _ t | .wait t | .ok _ _ _ _ t _ => IdsFresh t
  | .fault _ => True

theorem VReadFresh.miss {o : VRead} (h : VReadFresh o) {va : Nat} {u : Use} {t : State} (e : o = .miss va u t) : IdsFresh t := by subst e; exact h
theorem VReadFresh.wait {o : VRead} (h : VReadFresh o) {t : State} (e : o = .wait t) : IdsFresh t := by subst e; exact h
theorem VReadFresh.ok {o : VRead} (h : VReadFresh o) {a b c : List Nat} {d : List ELoc} {t : State} {w : Bool} (e : o = .ok a b c d t w) : IdsFresh t := by
  subst e; exact h

/-- Of an engine's access. -/
def GotFresh {α : Type} : EngGot α → Prop
  | .wait t | .bad _ t | .got _ t => IdsFresh t

section
variable {α : Type} {o : EngGot α} {t : State}

theorem GotFresh.wait (h : GotFresh o) (e : o = .wait t) : IdsFresh t := by subst e; exact h
theorem GotFresh.bad (h : GotFresh o) {r : Record} (e : o = .bad r t) : IdsFresh t := by subst e; exact h
theorem GotFresh.got (h : GotFresh o) {x : α} (e : o = .got x t) : IdsFresh t := by subst e; exact h

end

/-- Of the fetch of a block. -/
def FetchedFresh : Fetched → Prop
  | .ready t | .failed _ t => IdsFresh t
  | .wait => True

theorem FetchedFresh.ready {o : Fetched} (h : FetchedFresh o) {t : State} (e : o = .ready t) : IdsFresh t := by subst e; exact h
theorem FetchedFresh.failed {o : Fetched} (h : FetchedFresh o) {c : FCode} {t : State} (e : o = .failed c t) : IdsFresh t := by subst e; exact h

theorem IdsFresh.snd {α : Type} {p : α × State} (h : IdsFresh p.2) {x : α} {t : State} (e : p = (x, t)) : IdsFresh t := by subst e; exact h
theorem IdsFresh.fst {α : Type} {p : State × α} (h : IdsFresh p.1) {x : α} {t : State} (e : p = (t, x)) : IdsFresh t := by subst e; exact h

section
variable {s t : State}

/-- Operations of which each bears the number of one before. -/
theorem IdsFresh.of_ids (h : IdsFresh s) (hn : s.nextId ≤ t.nextId) (hr : ∀ q ∈ t.reqs, ∃ p ∈ s.reqs, p.id = q.id) : IdsFresh t := fun q hq => by
  obtain ⟨p, hp, hid⟩ := hr q hq
  exact hid ▸ lt_of_lt_of_le (h p hp) hn

theorem IdsFresh.of_eq (h : IdsFresh s) (hr : t.reqs = s.reqs) (hn : t.nextId = s.nextId) : IdsFresh t := by
  rw [IdsFresh, hr, hn]
  exact h

/-- Some operations are forgotten. -/
theorem IdsFresh.filter (h : IdsFresh s) (p : Req → Bool) (hr : t.reqs = s.reqs.filter p) (hn : t.nextId = s.nextId) : IdsFresh t :=
  h.of_ids hn.ge fun q hq => ⟨q, (List.mem_filter.mp (hr ▸ hq)).1, rfl⟩

/-- Operations change and keep their numbers. -/
theorem IdsFresh.map (h : IdsFresh s) (f : Req → Req) (hf : ∀ q, (f q).id = q.id) (hr : t.reqs = s.reqs.map f) (hn : t.nextId = s.nextId) :
    IdsFresh t := h.of_ids hn.ge fun q hq => by
  obtain ⟨p, hp, rfl⟩ := List.mem_map.mp (hr ▸ hq)
  exact ⟨p, hp, (hf p).symm⟩

/-- An operation is added under a number that has been given. -/
theorem IdsFresh.append (h : IdsFresh s) (r : Req) (hid : r.id < s.nextId) (hr : t.reqs = s.reqs ++ [r]) (hn : t.nextId = s.nextId) : IdsFresh t :=
  fun q hq => by
    rw [hr, List.mem_append, List.mem_singleton] at hq
    rw [hn]
    rcases hq with hq | rfl
    · exact h q hq
    · exact hid

theorem IdsFresh.newId (h : IdsFresh s) : IdsFresh s.newId.2 := h.of_ids (Nat.le_succ _) fun q hq => ⟨q, hq, rfl⟩

theorem IdsFresh.modReq {id f} (h : IdsFresh s) (hf : ∀ q, (f q).id = q.id) : IdsFresh (s.modReq id f) :=
  h.map _ (fun q => by split <;> simp [hf]) rfl rfl

theorem IdsFresh.dropReq {id} (h : IdsFresh s) : IdsFresh (s.dropReq id) := h.filter _ rfl rfl

end

end Sys2Proof.Safety
end

section
/-! SUPPORT. The numbers of operations through the operations on the state: its bytes, lines, faults, translation, and what a firing leaves. -/

namespace Sys2Proof.Safety

open Sys2Proof.Machine

variable {s : State}

/-! Bytes, posted work and the records of the state. -/

theorem IdsFresh.setByte {key b} (h : IdsFresh s) : IdsFresh (s.setByte key b) := .ite h (.ite h h)

theorem IdsFresh.setBytes {cells} (h : IdsFresh s) : IdsFresh (s.setBytes cells) := by
  induction cells generalizing s with
  | nil => exact h
  | cons c r ih => exact ih h.setByte

theorem IdsFresh.post {i} (h : IdsFresh s) : IdsFresh (s.post i) := h
theorem IdsFresh.postAll {l} (h : IdsFresh s) : IdsFresh (s.postAll l) := h
theorem IdsFresh.event {kind src ctx addr data} (h : IdsFresh s) : IdsFresh (s.event kind src ctx addr data) := h
theorem IdsFresh.setTask {t x} (h : IdsFresh s) : IdsFresh (s.setTask t x) := h
theorem IdsFresh.modTask {t f} (h : IdsFresh s) : IdsFresh (s.modTask t f) := h.setTask
theorem IdsFresh.modElem {e f} (h : IdsFresh s) : IdsFresh (s.modElem e f) := h
theorem IdsFresh.modTile {n f} (h : IdsFresh s) : IdsFresh (s.modTile n f) := h
theorem IdsFresh.modCtx {n f} (h : IdsFresh s) : IdsFresh (s.modCtx n f) := h
theorem IdsFresh.modStage {bed q f} (h : IdsFresh s) : IdsFresh (s.modStage bed q f) := h
theorem IdsFresh.modLoad {id f} (h : IdsFresh s) : IdsFresh (s.modLoad id f) := h
theorem IdsFresh.modFlight {t which f} (h : IdsFresh s) : IdsFresh (s.modFlight t which f) := h.modTask

/-! Lines: their marks, shadows and frames. -/

theorem IdsFresh.setMark {line epoch ctx} (h : IdsFresh s) : IdsFresh (s.setMark line epoch ctx) := by
  unfold State.setMark
  extract_lets s1
  have h1 : IdsFresh s1 := .ite h h
  exact h1

theorem IdsFresh.writeBack {line} (h : IdsFresh s) : IdsFresh (s.writeBack line) := h
theorem IdsFresh.modFrame {line f} (h : IdsFresh s) : IdsFresh (s.modFrame line f) := h
theorem IdsFresh.dropLine {line} (h : IdsFresh s) : IdsFresh (s.dropLine line) := .ite (.of_eq (h.writeBack (line := line)) rfl rfl) h
theorem IdsFresh.soil {line} (h : IdsFresh s) : IdsFresh (s.soil line) := h.modFrame

theorem IdsFresh.freeShadow {hd} (h : IdsFresh s) : IdsFresh (s.freeShadow hd) := by
  unfold State.freeShadow
  extract_lets s1
  have h1 : IdsFresh s1 := h.of_eq rfl rfl
  clear_value s1
  exact h1.modCtx

theorem IdsFresh.restoreLine {hd} (h : IdsFresh s) : IdsFresh (s.restoreLine hd) := by
  unfold State.restoreLine
  extract_lets _ s1
  have h1 : IdsFresh s1 := .ite h h
  exact .soil h1

theorem IdsFresh.settleOnce {line ctx e} (h : IdsFresh s) : IdsFresh (s.settleOnce line ctx e) := by
  unfold State.settleOnce
  extract_lets
  split
  · repeat' split
    exacts [h.setMark.freeShadow, .setMark (.modCtx h), h.restoreLine.setMark.freeShadow, h.setMark.freeShadow]
  · exact h.setMark
  · exact h.setMark

theorem IdsFresh.settleLoop {line n} (h : IdsFresh s) : IdsFresh (s.settleLoop line n) := by
  induction n generalizing s with
  | zero => exact h
  | succ n ih => exact .ite h (ih h.settleOnce)

theorem IdsFresh.settle {line} (h : IdsFresh s) : IdsFresh (s.settle line) := h.settleLoop
theorem IdsFresh.settleBack {line} (h : IdsFresh s) : IdsFresh (s.settleBack line) := .foldl (fun h => h.freeShadow) h.settle

theorem IdsFresh.push {line ctx epoch} (h : IdsFresh s) : SomeFresh (s.push line ctx epoch) := by
  unfold State.push
  extract_lets
  split
  · exact h
  · split
    · exact h
    · split
      · trivial
      · extract_lets _ s1
        have h1 : IdsFresh s1 := .of_eq h.dropLine rfl rfl
        exact h1.modCtx.setMark

theorem IdsFresh.touch {die slice set way mru} (h : IdsFresh s) : IdsFresh (s.touch die slice set way mru) := h

theorem IdsFresh.allocate {u ctx} (h : IdsFresh s) : IdsFresh (s.allocate u ctx) := by
  unfold State.allocate
  extract_lets
  split
  · exact h
  · extract_lets s1
    have h1 : IdsFresh s1 := by
      unfold s1
      repeat' split
      exacts [h.dropLine, h]
    exact .touch h1

theorem IdsFresh.hit {u} (h : IdsFresh s) : IdsFresh (s.hit u) := by
  unfold State.hit
  repeat' split
  exacts [h.touch, h]

theorem IdsFresh.countL2 {tile u} (h : IdsFresh s) : IdsFresh (s.countL2 tile u) := .ite h (.ite h.modTile h.modTile)

theorem IdsFresh.hostFill {pa} (h : IdsFresh s) : IdsFresh (s.hostFill pa) := by
  unfold State.hostFill
  extract_lets _ s1
  have h1 : IdsFresh s1 := by
    unfold s1
    repeat' split
    all_goals exact h
  exact .ite h h1

theorem IdsFresh.hostDrop {l} (h : IdsFresh s) : IdsFresh (s.hostDrop l) := .ite h h

theorem IdsFresh.prepare {u} (h : IdsFresh s) : IdsFresh (s.prepare u) := by
  unfold State.prepare
  extract_lets s1
  have h1 : IdsFresh s1 := .ite h.settle h
  exact .ite h1 h1

theorem IdsFresh.meet {ctx u} (h : IdsFresh s) : IdsFresh (s.meet ctx u) := .ite h.allocate h.hit

theorem IdsFresh.meetLine {tile ctx u keys} (h : IdsFresh s) : IdsFresh (s.meetLine tile ctx u keys) :=
  .ite (.foldl (fun h => h.hostFill) h.prepare.countL2.meet) h.prepare.countL2.meet

theorem IdsFresh.madeGood {cells} (h : IdsFresh s) : IdsFresh (s.madeGood cells) := .foldl (fun h => h.soil) (.ite h h)
theorem IdsFresh.commitBytes {cells} (h : IdsFresh s) : IdsFresh (s.commitBytes cells) := h.setBytes.madeGood.postAll

theorem IdsFresh.deviceMeet {lines} (h : IdsFresh s) : IdsFresh (s.deviceMeet lines) := by
  unfold State.deviceMeet
  extract_lets s1
  have h1 : IdsFresh s1 := .foldl (fun h => h.settle) h
  exact h1

theorem IdsFresh.deviceWrite {cells} (h : IdsFresh s) : IdsFresh (s.deviceWrite cells) := h.deviceMeet.commitBytes

/-! Faults: records, parking and their trap. -/

theorem IdsFresh.raise {t which r} (h : IdsFresh s) : IdsFresh (s.raise t which r) := .modFlight (.ite h.event h)
theorem IdsFresh.closeStages {t} (h : IdsFresh s) : IdsFresh (s.closeStages t) := h
theorem IdsFresh.sendRecord {r ownTrap} (h : IdsFresh s) : IdsFresh (s.sendRecord r ownTrap) := .ite h.modCtx h.event
theorem IdsFresh.setMgmt {m} (h : IdsFresh s) : IdsFresh { s with mgmt := m } := h
theorem IdsFresh.debugRecord {r} (h : IdsFresh s) : IdsFresh (s.debugRecord r) := .setMgmt h.deviceWrite

theorem IdsFresh.cancelDrain {id} (h : IdsFresh s) : IdsFresh (s.cancelDrain id) := by
  unfold State.cancelDrain
  repeat' split
  all_goals exact h

theorem IdsFresh.forgetBlocks {t serials} (h : IdsFresh s) : IdsFresh (s.forgetBlocks t serials) := h.filter _ rfl rfl

theorem IdsFresh.park {t f r b} (h : IdsFresh s) : IdsFresh (s.park t f r b) := by
  unfold State.park
  extract_lets k gone own s1 s2 s3
  have h2 : IdsFresh s2 := IdsFresh.forgetBlocks (h.filter (fun q => !(q.task == some t && decide (q.serial ∈ gone))) rfl rfl)
  have h3 : IdsFresh s3 := .of_eq h2.cancelDrain rfl rfl
  exact .ite h3.debugRecord (.ite h3 h3)

theorem IdsFresh.takeFault {t} (h : IdsFresh s) : IdsFresh (s.takeFault t) := by
  unfold State.takeFault
  repeat' split
  exacts [h, h, h, h.park]

theorem IdsFresh.faultHere {r} (h : IdsFresh s) : IdsFresh (s.faultHere r) := h.raise.takeFault
theorem IdsFresh.refire {t suppress} (h : IdsFresh s) : IdsFresh (s.refire t suppress) := h.modTask

/-! Page walks and the checks of an address. -/

theorem IdsFresh.orEntry {entry bits} (h : IdsFresh s) : IdsFresh (s.orEntry entry bits) := h.settle.dropLine.commitBytes
theorem IdsFresh.walkerMeets {ctx a} (h : IdsFresh s) : IdsFresh (s.walkerMeets ctx a) := h.deviceMeet.prepare.meet

theorem IdsFresh.walkFrom {die ctx va u lvl tbl seen} (h : IdsFresh s) : IdsFresh (s.walkFrom die ctx va u lvl tbl seen).2 := by
  induction lvl generalizing s tbl seen with
  | zero => exact h
  | succ lvl ih =>
    unfold State.walkFrom
    extract_lets a s1 e l s2
    have h1 : IdsFresh s1 := h.walkerMeets
    have h2 : IdsFresh s2 := .ite h1 h1.deviceMeet
    split
    · exact h1
    · split
      · split
        exacts [ih h1, h1]
      · split
        · split
          · split
            exacts [h2, h2, .ite h2.orEntry h2]
          · exact h1
        · exact h1

theorem IdsFresh.walk {die ctx va u} (h : IdsFresh s) : IdsFresh (s.walk die ctx va u).2 := by
  unfold State.walk
  extract_lets
  repeat' split
  exacts [h, h.walkFrom, h.walkFrom, h.walkFrom, h.walkFrom]

theorem IdsFresh.fillTc {die ctx va l ptrs} (h : IdsFresh s) : IdsFresh (s.fillTc die ctx va l ptrs) := h

theorem IdsFresh.holdAtPort {w} (h : IdsFresh s) : IdsFresh (s.holdAtPort w) := by
  unfold State.holdAtPort
  repeat' split
  all_goals exact h

theorem IdsFresh.queueMiss {die ctx w} (h : IdsFresh s) : IdsFresh (s.queueMiss die ctx w) :=
  .ite h.holdAtPort (.ite h (.ite (.post (.of_eq h.newId rfl rfl)) h.holdAtPort))

theorem IdsFresh.markDirty {die ctx u} (h : IdsFresh s) : IdsFresh (s.markDirty die ctx u) := by
  unfold State.markDirty
  extract_lets
  repeat' split
  exacts [h, .of_eq h.orEntry rfl rfl, h.orEntry]

theorem IdsFresh.marked {s : State} (h : IdsFresh s) (die ctx : Nat) (u : Use) (c : Chk) :
    IdsFresh (match c with
      | .ok k (some x) => (Chk.ok k (some x), if u.writes then s.markDirty die ctx x else s)
      | c => (c, s)).2 := by
  split
  exacts [.ite h.markDirty h, h]

theorem IdsFresh.checkNow {die ctx va u} (h : IdsFresh s) : IdsFresh (s.checkNow die ctx va u).2 := by
  unfold State.checkNow
  extract_lets mark
  split
  · exact h
  · split
    · exact h.marked die ctx u _
    · split
      · next heq => exact h.walk.snd heq
      · next heq => exact (IdsFresh.fillTc (h.walk.snd heq)).marked die ctx u _

theorem IdsFresh.checkFor {die ctx va u w} (h : IdsFresh s) : IdsFresh (s.checkFor die ctx va u w).2 := by
  unfold State.checkFor
  repeat' split
  exacts [h, h, h, h.holdAtPort, h, h.queueMiss]

/-! Firing, and the requests that a firing sends. -/

theorem IdsFresh.fixFault {t which} (h : IdsFresh s) : IdsFresh (s.fixFault t which) := h.modFlight

theorem IdsFresh.afterDelivery (h : IdsFresh s) : IdsFresh s.afterDelivery := by
  unfold State.afterDelivery
  repeat' split
  exacts [h.fixFault.takeFault, h, h]

theorem IdsFresh.fire {hd v0 v1} (h : IdsFresh s) : IdsFresh (s.fire hd v0 v1) := h.modFlight.modElem.afterDelivery
theorem IdsFresh.fire1 {hd v} (h : IdsFresh s) : IdsFresh (s.fire1 hd v) := h.fire
theorem IdsFresh.fire0 (h : IdsFresh s) : IdsFresh s.fire0 := h.modFlight.modElem
theorem IdsFresh.fireFault {r} (h : IdsFresh s) : IdsFresh (s.fireFault r) := h.fire0.faultHere
theorem IdsFresh.atCommit {d} (h : IdsFresh s) : IdsFresh (s.atCommit d) := h.modFlight
theorem IdsFresh.begun (h : IdsFresh s) : IdsFresh s.begun := h.modFlight
theorem IdsFresh.waitWalk {va u} (h : IdsFresh s) : IdsFresh (s.waitWalk va u) := h.queueMiss.begun
theorem IdsFresh.keepReplay {t r} (h : IdsFresh s) : IdsFresh (s.keepReplay t r) := h.modTask
theorem IdsFresh.usePage {va} (h : IdsFresh s) : IdsFresh (s.usePage va) := h.modFlight

theorem IdsFresh.queueReq {op key va use} (h : IdsFresh s) : IdsFresh (s.queueReq op key va use).2 := by
  unfold State.queueReq
  split
  · exact h
  · extract_lets c k
    split
    next id s1 heq =>
    cases heq
    extract_lets s2 r
    have h2 : s2.reqs = s.reqs ∧ s2.nextId = s.nextId + 1 := by
      unfold s2
      split <;> exact ⟨rfl, rfl⟩
    have h3 : IdsFresh s2 := h.newId.of_eq h2.1 h2.2
    exact h3.append r (by rw [h2.2]; exact Nat.lt_succ_self _) rfl rfl

theorem IdsFresh.sendReq {op key va use} (h : IdsFresh s) : IdsFresh (s.sendReq op key va use).2 := .ite h.queueReq.fire0 h.queueReq

end Sys2Proof.Safety
end

section
/-! SUPPORT. The numbers of operations through the control of a block, snapshots, and the agents at a home. -/

namespace Sys2Proof.Safety

open Sys2Proof.Machine

variable {s : State}

/-! Tests. -/

theorem IdsFresh.fireTest {hd pd v} (h : IdsFresh s) : IdsFresh (s.fireTest hd pd v) := h.modFlight.fire1

/-! Reads, writes, branches, and the sends of a block. -/

theorem IdsFresh.produce {n p} (h : IdsFresh s) : IdsFresh (s.produce n p) := by
  unfold State.produce
  repeat' split
  exacts [h, h.fireFault, h.modFlight.fire0]

theorem IdsFresh.execRead {hd r te} (h : IdsFresh s) : NextFresh (execRead hd r te s) := by
  unfold Machine.execRead
  extract_lets
  split
  · extract_lets s1
    have h1 : IdsFresh s1 := by
      unfold s1
      repeat' split
      exacts [h.fire1, h.fireFault, h, h.fire1, h.fireFault, h, h]
    repeat' split
    exacts [h1, h.fire1, h, h1, h, h1, h1]
  · exact h

theorem IdsFresh.execWrite {hd r} (h : IdsFresh s) : NextFresh (execWrite hd r s) := by
  unfold Machine.execWrite
  repeat' split
  exacts [h.produce, h]

theorem IdsFresh.execNul {hd store n} (h : IdsFresh s) : NextFresh (execNul hd store n s) := by
  unfold Machine.execNul
  repeat' split
  exacts [h.produce, h, h.fire0, h.fireFault, h.modFlight.fire0, h]

theorem IdsFresh.branch {n} (h : IdsFresh s) : IdsFresh (s.branch n) := by
  unfold State.branch
  split
  · exact h
  · split
    · exact h.fireFault
    · extract_lets s1 s2
      have h1 : IdsFresh s1 := h.modFlight
      have h2 : IdsFresh s2 := by
        unfold s2
        split
        exacts [h1.modTask, h1]
      exact h2.fire0

theorem IdsFresh.branchTo {t} (h : IdsFresh s) : IdsFresh (s.branchTo t) := by
  unfold State.branchTo
  repeat' split
  exacts [h.fireFault, h.branch]

theorem IdsFresh.execBr {hd off} (h : IdsFresh s) : NextFresh (execBr hd off s) := by
  unfold Machine.execBr
  repeat' split
  exacts [h.branchTo, h]

theorem IdsFresh.execBrx {hd} (h : IdsFresh s) : NextFresh (execBrx hd s) := by
  unfold Machine.execBrx
  repeat' split
  exacts [h.branchTo, h]

theorem IdsFresh.execRet {hd} (h : IdsFresh s) : NextFresh (execRet hd s) := by
  unfold Machine.execRet
  repeat' split
  exacts [h.branchTo, h]

theorem IdsFresh.execCall {hd off} (h : IdsFresh s) : NextFresh (execCall hd off s) := by
  unfold Machine.execCall
  repeat' split
  exacts [h.fireFault, h.fireFault, h.modFlight.modTask.fire1, h]

theorem IdsFresh.execExit {hd} (h : IdsFresh s) : NextFresh (execExit hd s) := by
  unfold Machine.execExit
  repeat' split
  exacts [h.branch, h]

theorem IdsFresh.execYield {hd} (h : IdsFresh s) : NextFresh (execYield hd s) := by
  unfold Machine.execYield
  repeat' split
  exacts [h.branch, h]

theorem IdsFresh.execFan {hd t2 t3} (h : IdsFresh s) : NextFresh (execFan hd t2 t3 s) := by
  unfold Machine.execFan
  repeat' split
  exacts [h.modFlight.fire, h]

theorem IdsFresh.execStamp {hd k} (h : IdsFresh s) : NextFresh (execStamp hd k s) := by
  unfold Machine.execStamp
  repeat' split
  exacts [h.fire1, h]

theorem IdsFresh.execStampOp {hd op} (h : IdsFresh s) : NextFresh (execStampOp hd op s) := by
  unfold Machine.execStampOp
  repeat' split
  exacts [h.atCommit.fire0, h]

theorem IdsFresh.sendOut {port payload} (h : IdsFresh s) : IdsFresh (s.sendOut port payload) := by
  unfold State.sendOut
  repeat' split
  exacts [h.fireFault, h.fireFault, h.atCommit.fire0]

theorem IdsFresh.execSend {hd port} (h : IdsFresh s) : NextFresh (execSend hd port s) := by
  unfold Machine.execSend
  repeat' split
  exacts [h.sendOut, h]

theorem IdsFresh.execMsg {hd port} (h : IdsFresh s) : NextFresh (execMsg hd port s) := by
  unfold Machine.execMsg
  repeat' split
  exacts [h.sendOut, h]

theorem IdsFresh.execSends {hd port} (h : IdsFresh s) : NextFresh (execSends hd port s) := by
  unfold Machine.execSends
  split
  · exact h
  · extract_lets
    repeat' split
    exacts [h.fireFault, h.fireFault, h, h.fireFault, h.atCommit.fire0, h.fireFault, h]

theorem IdsFresh.execNotify {hd vc} (h : IdsFresh s) : NextFresh (execNotify hd vc s) := by
  unfold Machine.execNotify
  repeat' split
  exacts [h, NextFresh.ite h.atCommit.fire0 h.fireFault, NextFresh.ite h.atCommit.fire0 h.fireFault]

theorem IdsFresh.execRnext {hd} (h : IdsFresh s) : NextFresh (execRnext hd s) := by
  unfold Machine.execRnext
  split
  · exact h
  · split
    exacts [h.fireFault, h.sendReq.post]

theorem IdsFresh.execRsplit {hd} (h : IdsFresh s) : NextFresh (execRsplit hd s) := by
  unfold Machine.execRsplit
  repeat' split
  exacts [h, h.fireFault, h.atCommit.fire0]

/-! Snapshots. -/

theorem IdsFresh.settleSoon {ctx} (h : IdsFresh s) : IdsFresh (s.settleSoon ctx) := h.postAll
theorem IdsFresh.answerReplay {hd r store} (h : IdsFresh s) : IdsFresh (s.answerReplay hd r store) := h.fire
theorem IdsFresh.completeReplay {hd r0 r1} (h : IdsFresh s) : IdsFresh (s.completeReplay hd r0 r1) := h.keepReplay.fire1

theorem IdsFresh.execSnap {hd} (h : IdsFresh s) : NextFresh (execSnap hd s) := by
  unfold Machine.execSnap
  split
  · exact h
  · split
    · exact h.atCommit.answerReplay
    · extract_lets
      repeat' split
      exacts [h.fireFault, h, h.modCtx.atCommit.completeReplay]

theorem IdsFresh.execSnacc {hd} (h : IdsFresh s) : NextFresh (execSnacc hd s) := by
  unfold Machine.execSnacc
  split
  · exact h
  · split
    · exact h.answerReplay
    · extract_lets
      repeat' split
      exacts [h.fireFault, h.fireFault, h.modCtx.settleSoon.completeReplay, h.fireFault]

theorem IdsFresh.execSnrej {hd} (h : IdsFresh s) : NextFresh (execSnrej hd s) := by
  unfold Machine.execSnrej
  split
  · exact h
  · split
    · exact h.answerReplay
    · extract_lets
      repeat' split
      exacts [h.fireFault, h.modCtx.settleSoon.completeReplay, h.fireFault]

theorem IdsFresh.execSnqry {hd} (h : IdsFresh s) : NextFresh (execSnqry hd s) := by
  unfold Machine.execSnqry
  repeat' split
  exacts [h.fire1, h]

theorem IdsFresh.execSettleBackground (h : IdsFresh s) : NextFresh (execSettleBackground s) := by
  unfold Machine.execSettleBackground
  repeat' split
  exacts [h.settleBack, h]

/-! The agents at a home: accesses, atomics, lists, structure memory and rings. -/

theorem IdsFresh.entryDone {id a} (h : IdsFresh s) : IdsFresh (s.entryDone id a) := h

theorem IdsFresh.answer {id a n} (h : IdsFresh s) : IdsFresh (s.answer id a n) := by
  induction n generalizing s id a with
  | zero => exact h
  | succ n ih =>
    unfold State.answer
    split
    · next r _ _ => exact ih (ih (h.filter _ rfl rfl))
    · exact .ite h (h.map (fun q => if q.id = id then { q with answer := some a, held := false } else q) (fun q => by split <;> rfl) rfl rfl)
    · exact h

theorem IdsFresh.finish {id a} (h : IdsFresh s) : IdsFresh (s.finish id a) := h.answer

theorem IdsFresh.reply {id a} (h : IdsFresh s) : IdsFresh (s.reply id a) := by
  unfold State.reply
  repeat' split
  exacts [h.finish, h.entryDone, h.finish]

theorem IdsFresh.passSiblings {r keys} (h : IdsFresh s) : IdsFresh (s.passSiblings r keys) := by
  unfold State.passSiblings
  extract_lets behind later
  exact h.map _ (fun q => by split <;> [split <;> rfl; rfl]) rfl rfl

theorem IdsFresh.pushedFor {r} (h : IdsFresh s) : SomeFresh (s.pushedFor r) := by
  unfold State.pushedFor
  repeat' split
  exacts [h.prepare.push, h]

theorem IdsFresh.storeBytes {r bytes} (h : IdsFresh s) : IdsFresh (s.storeBytes r bytes) := h.passSiblings.commitBytes.madeGood
theorem IdsFresh.stored {r} (h : IdsFresh s) : IdsFresh (s.stored r) := .ite h.reply h.dropReq

theorem IdsFresh.performStore {r bytes} (h : IdsFresh s) : IdsFresh (s.performStore r bytes) := by
  unfold State.performStore
  split
  · exact .ite h.finish h.post
  · exact h
  · next heq _ => exact (h.pushedFor.some heq).storeBytes.dropReq
  · next heq _ =>
      have ht := h.pushedFor.some heq
      exact .ite ht.storeBytes.stored (.post (ht.storeBytes.modReq fun _ => rfl))

theorem IdsFresh.readPart {r keys done} (h : IdsFresh s) : IdsFresh (s.readPart r keys done) :=
  .ite (.reply (h.modReq fun _ => rfl)) (.post (h.modReq fun _ => rfl))

theorem IdsFresh.putChan {t l} (h : IdsFresh s) : IdsFresh (s.putChan t l) := h.modTask

theorem IdsFresh.writeChan {r l} (h : IdsFresh s) : IdsFresh (s.writeChan r l) := by
  unfold State.writeChan
  repeat' split
  exacts [h.putChan, h, h]

theorem IdsFresh.performAccess {r} (h : IdsFresh s) : IdsFresh (s.performAccess r) := by
  unfold State.performAccess
  extract_lets s1 s2 s3 _ s4
  have h1 : IdsFresh s1 := by
    unfold s1
    repeat' split
    exacts [h.prepare, h]
  have h2 : IdsFresh s2 := .ite h1.writeBack.modFrame h1
  have h3 : IdsFresh s3 := .foldl (fun h => .ite h h) h2
  have h4 : IdsFresh s4 := .foldl (fun h => h.hostDrop) h1.dropLine
  split
  · repeat' split
    all_goals exact h1.reply
  · repeat' split
    exacts [h1.reply, h1.readPart]
  · repeat' split
    exacts [h1.readPart, h1.reply]
  · exact h1.writeChan.dropReq
  · exact h1.performStore
  · exact h3.reply
  · exact h4.reply
  · exact h1

theorem IdsFresh.hostFillFor {r} (h : IdsFresh s) : IdsFresh (s.hostFillFor r) := .foldl (fun h => h.hostFill) h

theorem IdsFresh.execL2Access (h : IdsFresh s) : NextFresh (execL2Access s) := by
  unfold Machine.execL2Access
  split
  · split
    · exact h
    · split
      · exact h
      · split
        · exact h.post
        · split
          · exact h.performAccess
          · extract_lets s1
            have h1 : IdsFresh s1 := by
              unfold s1
              split
              · refine IdsFresh.modReq ?_ fun _ => rfl
                split
                exacts [h.countL2, h]
              · exact h
            split
            · exact h1.modReq fun _ => rfl
            · split
              · repeat' split
                exacts [IdsFresh.post (h1.modReq fun _ => rfl), h1.prepare.allocate.performAccess]
              · repeat' split
                exacts [h1.hostFillFor.performAccess, h1.hit.performAccess, h1.performAccess]
  · exact h

theorem IdsFresh.placeAtomic {r agent} (h : IdsFresh s) : IdsFresh (s.placeAtomic r agent) := by
  unfold State.placeAtomic
  split
  · exact h
  · extract_lets _ s1
    have h1 : IdsFresh s1 := by
      unfold s1
      repeat' split
      exacts [h.prepare.countL2, h.prepare]
    exact .ite h.prepare.dropLine h1.meet

theorem IdsFresh.pushFor {r u va acc} (h : IdsFresh s) : OkFresh (s.pushFor r u va acc) := by
  unfold State.pushFor
  split
  · exact h
  · split
    · next heq => exact h.push.some heq
    · trivial

theorem IdsFresh.performAtomic {r} (h : IdsFresh s) : IdsFresh (s.performAtomic r) := by
  unfold State.performAtomic
  split
  · extract_lets
    split
    · exact h.placeAtomic.reply
    · split
      · exact h.placeAtomic.reply
      · next heq =>
          have ht := h.placeAtomic.pushFor.ok heq
          exact .ite (.reply (.ite ht.commitBytes ht)) (.reply (.ite ht.commitBytes ht))
  · extract_lets
    split
    · exact h.placeAtomic.reply
    · split
      · exact h.placeAtomic.reply
      · next heq =>
          have ht := h.placeAtomic.pushFor.ok heq
          exact .ite ht.commitBytes.reply ht.reply
  · exact h

theorem IdsFresh.execHomeAtomic (h : IdsFresh s) : NextFresh (execHomeAtomic s) := by
  unfold Machine.execHomeAtomic
  repeat' split
  exacts [h, h, h.post, h.modReq fun _ => rfl, h.performAtomic, h]

theorem IdsFresh.performHeld {r} (h : IdsFresh s) : IdsFresh (s.performHeld r) := by
  unfold State.performHeld
  repeat' split
  exacts [h.performAtomic, h.performAtomic, h.performAccess]

theorem IdsFresh.serveHeld {line first n} (h : IdsFresh s) : IdsFresh (s.serveHeld line first n) := by
  induction n generalizing s first with
  | zero => exact h
  | succ n ih =>
    unfold State.serveHeld
    split
    · exact h
    · next r _ =>
      have hr : IdsFresh (s.modReq r.id fun q => { q with held := false }) := h.modReq fun _ => rfl
      extract_lets s1 s2
      have h2 : IdsFresh s2 := by
        unfold s2
        split
        exacts [.ite hr hr.hit, hr]
      exact ih (.ite h2.performHeld h2)

theorem IdsFresh.execL2FillComplete (h : IdsFresh s) : NextFresh (execL2FillComplete s) := by
  unfold Machine.execL2FillComplete
  split
  · extract_lets
    repeat' split
    exacts [h, h, IdsFresh.serveHeld (.ite h.prepare.allocate h.prepare)]
  · exact h

theorem OkFresh.foldl {α : Type} {f : Except Record State → α → Except Record State} (hf : ∀ {o x}, OkFresh o → OkFresh (f o x))
    {o : Except Record State} (h : OkFresh o) (l : List α) : OkFresh (l.foldl f o) := by
  induction l generalizing o with
  | nil => exact h
  | cons x r ih => exact ih (hf h)

theorem IdsFresh.pushLegs {r drop acc legs} (h : IdsFresh s) : OkFresh (s.pushLegs r drop acc legs) := by
  refine OkFresh.foldl (fun {o x} ho => ?_) (show OkFresh (.ok s) from h) legs
  split
  · trivial
  · extract_lets s1
    have h1 : IdsFresh s1 := by
      unfold s1
      split
      exacts [.ite (IdsFresh.prepare ho).dropLine (IdsFresh.prepare ho), ho]
    exact h1.pushFor

theorem IdsFresh.writeLeg {l} (h : IdsFresh s) : IdsFresh (s.writeLeg l) := h.commitBytes

theorem IdsFresh.usePageIn {r ctx va} (h : IdsFresh s) : IdsFresh (s.usePageIn r ctx va) := by
  unfold State.usePageIn
  extract_lets
  repeat' split
  exacts [h, h.modTask]

theorem IdsFresh.usePageFor {r va} (h : IdsFresh s) : IdsFresh (s.usePageFor r va) := h.usePageIn

theorem IdsFresh.markUse {die ctx use} (h : IdsFresh s) : IdsFresh (s.markUse die ctx use) := by
  unfold State.markUse
  repeat' split
  exacts [h.markDirty, h]

theorem IdsFresh.doLegs {r legs value} (h : IdsFresh s) : IdsFresh (s.doLegs r legs value) :=
  .ite (.post (h.modReq fun _ => rfl)) (.reply (.foldl (fun h => h.writeLeg) h))

theorem IdsFresh.finishAenq {r n nPa nUse t last} (h : IdsFresh s) : IdsFresh (s.finishAenq r n nPa nUse t last) := by
  unfold State.finishAenq
  extract_lets
  split
  · exact h.post
  · split
    · exact h.reply
    · next heq => exact (h.pushLegs.ok heq).doLegs

theorem IdsFresh.performAenq {r n nPa nUse} (h : IdsFresh s) : IdsFresh (s.performAenq r n nPa nUse) := by
  unfold State.performAenq
  split
  · exact h.reply
  · extract_lets
    split
    · exact h.finishAenq
    · split
      · exact h.reply
      · split
        · next heq => exact (h.checkFor.snd heq).usePageFor.markUse.finishAenq
        · next heq => exact (h.checkFor.snd heq).post
        · next heq => exact (h.checkFor.snd heq).reply

theorem IdsFresh.crossLink {r} (h : IdsFresh s) : IdsFresh (s.crossLink r) := .ite h.post (.postAll (h.modReq fun _ => rfl))

theorem IdsFresh.stepLegs {r home value x3} (h : IdsFresh s) : IdsFresh (s.stepLegs r home value x3) := by
  unfold State.stepLegs
  split
  · exact h.reply
  · split
    · exact .crossLink (h.modReq fun _ => rfl)
    · split
      · exact h.post
      · extract_lets s1 s2
        have h1 : IdsFresh s1 := by
          unfold s1
          repeat' split
          exacts [h.prepare, h]
        have h2 : IdsFresh s2 := h1.writeLeg.modReq fun _ => rfl
        exact .ite h2.reply h2.post

theorem IdsFresh.execAenqAtHome (h : IdsFresh s) : NextFresh (execAenqAtHome s) := by
  unfold Machine.execAenqAtHome
  repeat' split
  exacts [h, h, h.stepLegs, h.post, h.placeAtomic.performAenq, h, h]

theorem IdsFresh.chaseRead {r left off hops pa use} (h : IdsFresh s) : IdsFresh (s.chaseRead r left off hops pa use) := by
  unfold State.chaseRead
  extract_lets s1
  have h1 : IdsFresh s1 := by
    unfold s1
    repeat' split
    exacts [h.prepare, h]
  repeat' split
  exacts [h1.post, h1.reply, .post (h1.modReq fun _ => rfl)]

theorem IdsFresh.execAchaseHop (h : IdsFresh s) : NextFresh (execAchaseHop s) := by
  unfold Machine.execAchaseHop
  split
  · split
    · exact h
    · split
      · exact h
      · split
        · exact h.post
        · split
          · split
            · exact h.reply
            · extract_lets
              split
              · exact h.chaseRead
              · split
                · exact h.reply
                · split
                  · exact h.reply
                  · split
                    · next heq =>
                        have ht := h.checkFor.snd heq
                        exact NextFresh.ite ht.usePageFor.chaseRead (IdsFresh.crossLink (ht.usePageFor.modReq fun _ => rfl))
                    · next heq => exact (h.checkFor.snd heq).reply
                    · next heq => exact (h.checkFor.snd heq).post
          · exact h
  · exact h

theorem IdsFresh.performLds {r wait} (h : IdsFresh s) : IdsFresh (s.performLds r wait) := by
  unfold State.performLds
  repeat' split
  exacts [h.reply, h.reply, h.reply, .ite h h.post, .ite h h, .ite h h.post, .ite h h]

theorem IdsFresh.execStructLdsAtAgent (h : IdsFresh s) : NextFresh (execStructLdsAtAgent s) := by
  unfold Machine.execStructLdsAtAgent
  repeat' split
  exacts [h, h, h.post, h.performLds, h, h]

theorem IdsFresh.performSts {r v} (h : IdsFresh s) : IdsFresh (s.performSts r v) := by
  unfold State.performSts
  repeat' split
  exacts [h.reply, h.reply, .reply (.foldl (fun h => h.reply) h), .reply (.foldl (fun h => h.reply) h)]

theorem IdsFresh.execStructStsAtAgent (h : IdsFresh s) : NextFresh (execStructStsAtAgent s) := by
  unfold Machine.execStructStsAtAgent
  repeat' split
  exacts [h, h, h.post, h.performSts, h, h]

theorem IdsFresh.performStclr {r n} (h : IdsFresh s) : IdsFresh (s.performStclr r n) := by
  unfold State.performStclr
  repeat' split
  exacts [h.reply, .reply h]

theorem IdsFresh.execStructStclrAtAgent (h : IdsFresh s) : NextFresh (execStructStclrAtAgent s) := by
  unfold Machine.execStructStclrAtAgent
  repeat' split
  exacts [h, h, h.post, h.performStclr, h, h]

theorem IdsFresh.cancelReader {id} (h : IdsFresh s) : SomeFresh (s.cancelReader id) := by
  unfold State.cancelReader
  split
  · extract_lets
    exact h
  · trivial

theorem IdsFresh.finishWenq {r off payload d ctx slot pa use} (h : IdsFresh s) : IdsFresh (s.finishWenq r off payload d ctx slot pa use) := by
  unfold State.finishWenq
  extract_lets
  split
  · exact h.reply
  · next heq => exact (h.pushLegs.ok heq).doLegs

theorem IdsFresh.slotWenq {r off payload d} (h : IdsFresh s) : IdsFresh (s.slotWenq r off payload d) := by
  unfold State.slotWenq
  extract_lets
  split
  · next heq =>
      have ht := h.checkFor.snd heq
      exact .ite (.post (ht.usePageIn.modReq fun _ => rfl)) ht.usePageIn.markUse.finishWenq
  · next heq => exact .post ((h.checkFor.snd heq).modReq fun _ => rfl)
  · next heq => exact (h.checkFor.snd heq).reply

theorem IdsFresh.performWenq {r off payload} (h : IdsFresh s) : IdsFresh (s.performWenq r off payload) := by
  unfold State.performWenq
  extract_lets s1
  have h1 : IdsFresh s1 := by
    unfold s1
    repeat' split
    exacts [h.prepare, h]
  repeat' split
  exacts [h1.reply, h1.reply, h1, .post (h1.modReq fun _ => rfl), h1.slotWenq]

theorem IdsFresh.execWenqAtTarget (h : IdsFresh s) : NextFresh (execWenqAtTarget s) := by
  unfold Machine.execWenqAtTarget
  repeat' split
  exacts [h, h, h.post, h.slotWenq, h.performWenq, h, h]

theorem IdsFresh.execWenqHeadWake (h : IdsFresh s) : NextFresh (execWenqHeadWake s) := by
  unfold Machine.execWenqHeadWake
  repeat' split
  exacts [h, h.reply, h.performWenq, h, h, h]

theorem IdsFresh.execWenqRingTimeout (h : IdsFresh s) : NextFresh (execWenqRingTimeout s) := by
  unfold Machine.execWenqRingTimeout
  repeat' split
  exacts [h, h.post, h.reply, h, h]

end Sys2Proof.Safety
end

section
/-! SUPPORT. The numbers of operations through the mesh. -/

namespace Sys2Proof.Safety

open Sys2Proof.Machine

variable {s : State}

/-! The mesh: packets, queues, reductions and notices. -/

theorem IdsFresh.arriveHome {r} (h : IdsFresh s) : IdsFresh (s.arriveHome r) := .post (h.modReq fun _ => rfl)

theorem IdsFresh.takeTurns {p} (h : IdsFresh s) : IdsFresh (s.takeTurns p) := by
  unfold State.takeTurns
  repeat' split
  all_goals exact h

theorem IdsFresh.mergeReqs {first second port circuit} (h : IdsFresh s) : IdsFresh (s.mergeReqs first second port circuit).2 := by
  unfold State.mergeReqs
  split
  · split
    next id t ht =>
    cases ht
    extract_lets far r s2
    have h2 : IdsFresh s2 := h.newId.append r (Nat.lt_succ_self _) rfl rfl
    exact .ite h2.postAll h2
  · exact h

theorem IdsFresh.mergeInto {p q payload recId} (h : IdsFresh s) : IdsFresh (s.mergeInto p q payload recId) := h

theorem IdsFresh.tryMerge {p} (h : IdsFresh s) : IdsFresh (s.tryMerge p) := by
  unfold State.tryMerge
  extract_lets port circuit
  split
  · exact h
  · split
    · exact h
    · split
      · split
        next heq =>
        have ht := h.newId.snd heq
        exact IdsFresh.mergeInto (ht.of_eq rfl rfl)
      · split
        · split
          next heq =>
          refine IdsFresh.mergeInto ?_
          split at heq
          exacts [h.mergeReqs.snd heq, h.mergeReqs.snd heq]
        · exact h
      · exact h

theorem IdsFresh.depart {p} (h : IdsFresh s) : IdsFresh (s.depart p) := .ite h h
theorem IdsFresh.enterMesh {p} (h : IdsFresh s) : IdsFresh (s.enterMesh p) := .tryMerge (.takeTurns h)

theorem IdsFresh.sendPacket {p} (h : IdsFresh s) : IdsFresh (s.sendPacket p) :=
  .post (.ite (.enterMesh (.of_eq h.newId rfl rfl)) (.of_eq h.newId rfl rfl))

theorem IdsFresh.inject {net load src dest payload after} (h : IdsFresh s) : IdsFresh (s.inject net load src dest payload after) := h.sendPacket

theorem IdsFresh.route {id} (h : IdsFresh s) : IdsFresh (s.route id) := by
  unfold State.route
  repeat' split
  exacts [h, h.post, h.post, h.post, h.sendPacket, h.sendPacket]

theorem IdsFresh.sendAck {load src x2} (h : IdsFresh s) : IdsFresh (s.sendAck load src x2) := by
  unfold State.sendAck
  repeat' split
  exacts [h, h.inject, h.inject, h]

theorem IdsFresh.splitAck {load at_ batch} (h : IdsFresh s) : IdsFresh (s.splitAck load at_ batch) := by
  unfold State.splitAck
  repeat' split
  exacts [h, .sendAck (.sendAck h)]

theorem IdsFresh.deadLetter {ctx t vc kind payload handle} (h : IdsFresh s) : IdsFresh (s.deadLetter ctx t vc kind payload handle) := by
  unfold State.deadLetter
  extract_lets c base s1 tail slot s2 lost s3
  have h1 : IdsFresh s1 := h.deviceMeet
  have h2 : IdsFresh s2 := h1.deviceMeet
  have h3 : IdsFresh s3 := h2.event
  exact .ite h3 (.ite h3.deviceWrite h3.deviceWrite.deviceWrite)

theorem IdsFresh.sendDelta {l src k d} (h : IdsFresh s) : IdsFresh (s.sendDelta l src k d) := h.inject

theorem IdsFresh.deadMessage {m e t kind} (h : IdsFresh s) : IdsFresh (s.deadMessage m e t kind) := by
  -- The function is unfolded before it is applied: of the applied one the kernel would run the dead letter.
  generalize hf : @State.deadMessage = f
  delta State.deadMessage at hf
  subst hf
  beta_reduce
  extract_lets s1
  have h1 : IdsFresh s1 := h.deadLetter
  clear_value s1
  split
  exacts [h1.sendDelta, h1]

theorem IdsFresh.deadBefore {m p} (h : IdsFresh s) : IdsFresh (s.deadBefore m p) := by
  unfold State.deadBefore
  repeat' split
  exacts [h.modLoad, h, h]

theorem IdsFresh.deadUntaken {m e t kind} (h : IdsFresh s) : IdsFresh (s.deadUntaken m e t kind) := by
  unfold State.deadUntaken
  repeat' split
  exacts [h.deadBefore.deadMessage, h.deadMessage]

theorem IdsFresh.deadNote {n} (h : IdsFresh s) : IdsFresh (s.deadNote n) := by
  unfold State.deadNote
  repeat' split
  exacts [h.deadLetter.sendDelta, h]

theorem IdsFresh.pend {t a} (h : IdsFresh s) : IdsFresh (s.pend t a) := h.modTask
theorem IdsFresh.activate {e t st} (h : IdsFresh s) : IdsFresh (s.activate e t st) := h.pend

theorem IdsFresh.matchOne {e t st vc} (h : IdsFresh s) : IdsFresh (s.matchOne e t st vc).1 := by
  unfold State.matchOne
  split
  · exact h.activate
  · extract_lets
    repeat' split
    exacts [h, h.modElem.activate, h.modElem, h.modElem, h]

theorem IdsFresh.retryList {e l} (h : IdsFresh s) : IdsFresh (s.retryList e l) := by
  induction l generalizing s with
  | nil => exact h
  | cons x r ih =>
    unfold State.retryList
    extract_lets t
    split
    · split
      · next heq => exact ih (h.matchOne.fst heq)
      · next heq => exact ih (IdsFresh.modElem (h.matchOne.fst heq))
    · exact ih h.modElem

theorem IdsFresh.retryTimes {e n} (h : IdsFresh s) : IdsFresh (s.retryTimes e n) := by
  induction n generalizing s with
  | zero => exact h
  | succ n ih => exact ih (IdsFresh.retryList h)

theorem IdsFresh.retry {e} (h : IdsFresh s) : IdsFresh (s.retry e) := h.retryTimes
theorem IdsFresh.enterQueue {e t m} (h : IdsFresh s) : IdsFresh (s.enterQueue e t m) := .ite h.modElem.retry h.modElem.post
theorem IdsFresh.modVc {e n f} (h : IdsFresh s) : IdsFresh (s.modVc e n f) := h.modElem

theorem IdsFresh.spillOne {e t m} (h : IdsFresh s) : IdsFresh (s.spillOne e t m) := by
  unfold State.spillOne
  extract_lets
  repeat' split
  exacts [h.modElem.deadMessage, .ite h.modElem.deviceMeet.deadMessage h.modElem.deviceMeet.deviceWrite.modVc]

theorem IdsFresh.refill {e t n k} (h : IdsFresh s) : IdsFresh (s.refill e t n k) := by
  induction k generalizing s with
  | zero => exact h
  | succ k ih =>
    have hmod {f} : IdsFresh (s.modVc e n f) := h
    unfold State.refill
    extract_lets v
    split
    · split
      · exact h
      · split
        · exact ih hmod.enterQueue
        · split
          · exact .ite (ih hmod.spillOne) h
          · exact h
    · extract_lets m
      exact .ite (ih hmod.enterQueue) (.ite (ih hmod.spillOne) h)
    · exact hmod

theorem IdsFresh.arriveAt {e t m port} (h : IdsFresh s) : IdsFresh (s.arriveAt e t m port) :=
  .ite h.modVc.post (.ite (.ite h.spillOne h.modVc.post) (.ite h.enterQueue h.modVc.post))

theorem IdsFresh.execSpillTimeout (h : IdsFresh s) : NextFresh (execSpillTimeout s) := by
  unfold Machine.execSpillTimeout
  split
  · extract_lets
    split
    · repeat' split
      exacts [h, h, h.refill, h.refill]
    · repeat' split
      exacts [h, h.refill, h.modVc.spillOne.refill, h.post, h.refill, h.modVc.spillOne.refill, h.post]
  · exact h

theorem IdsFresh.takeMessage {e m port} (h : IdsFresh s) : IdsFresh (s.takeMessage e m port) := by
  unfold State.takeMessage
  split
  · exact h
  · extract_lets
    split
    · extract_lets
      split
      · exact h.modLoad
      · split
        exacts [.ite (.ite h.modLoad.deadMessage h.deadUntaken) (.ite h.modLoad.arriveAt h.modLoad.post), .ite h.deadMessage h.arriveAt]
    · exact h

theorem IdsFresh.execLoopAdmit (h : IdsFresh s) : NextFresh (execLoopAdmit s) := by
  unfold Machine.execLoopAdmit
  repeat' split
  exacts [h, h, IdsFresh.foldl (fun h => h.arriveAt) (.ite h.modLoad h.modLoad.post), h, h]

theorem IdsFresh.execMessageArrive (h : IdsFresh s) : NextFresh (execMessageArrive s) := by
  unfold Machine.execMessageArrive
  repeat' split
  exacts [h, h.post, IdsFresh.takeMessage h, IdsFresh.takeMessage h, h, h]

theorem IdsFresh.forwardReduced {l gi g next t elems mask ftz} (h : IdsFresh s) : IdsFresh (s.forwardReduced l gi g next t elems mask ftz) := by
  unfold State.forwardReduced
  extract_lets
  repeat' split
  all_goals exact h.inject

theorem IdsFresh.lateReduced {l g t elems mask kind} (h : IdsFresh s) : IdsFresh (s.lateReduced l g t elems mask kind) := h.deadUntaken

theorem IdsFresh.forwardLone {l gi g x} (h : IdsFresh s) : IdsFresh (s.forwardLone l gi g x) := by
  unfold State.forwardLone
  repeat' split
  exacts [h.modLoad.forwardReduced, h]

theorem IdsFresh.nodeArrive {l gi node child t elems mask ftz} (h : IdsFresh s) : IdsFresh (s.nodeArrive l gi node child t elems mask ftz) := by
  unfold State.nodeArrive
  split
  · exact h
  · extract_lets
    split
    · repeat' split
      exacts [h.lateReduced, h.forwardLone.lateReduced, h.modLoad.forwardReduced, h.modLoad, h.modLoad.post]
    · repeat' split
      exacts [h.lateReduced, h.forwardLone.lateReduced, h.modLoad.forwardReduced, h.modLoad, h.modLoad.post]

theorem IdsFresh.execReductionNodeArrive (h : IdsFresh s) : NextFresh (execReductionNodeArrive s) := by
  unfold Machine.execReductionNodeArrive
  split
  · split
    · exact h
    · extract_lets s1
      have h1 : IdsFresh s1 := h
      repeat' split
      exacts [h1.nodeArrive, h1]
  · exact h

theorem IdsFresh.execReductionTimeout (h : IdsFresh s) : NextFresh (execReductionTimeout s) := by
  unfold Machine.execReductionTimeout
  repeat' split
  exacts [h, h, h.post, h.forwardLone, h, h]

theorem IdsFresh.engineRecord {ctx tile unit code cause addr auxA auxB} (h : IdsFresh s) :
    IdsFresh (s.engineRecord ctx tile unit code cause addr auxA auxB) := h.sendRecord

theorem IdsFresh.writeLost {r cause link} (h : IdsFresh s) : IdsFresh (s.writeLost r cause link) := by
  unfold State.writeLost
  repeat' split
  exacts [h.finish, h.dropReq, .takeFault (.dropReq (.foldl (fun h => h.raise) h.sendRecord))]

theorem IdsFresh.addPacket {p} (h : IdsFresh s) : IdsFresh { s with packets := s.packets ++ [p] } := h.of_eq rfl rfl

theorem IdsFresh.errorNotice {p} (h : IdsFresh s) : IdsFresh (s.errorNotice p) := by
  unfold State.errorNotice
  extract_lets s1
  have h1 : IdsFresh s1 := h.of_eq rfl rfl
  clear_value s1
  split
  · repeat' split
    exacts [h1.writeLost, .finish (h1.modReq fun _ => rfl), h1]
  · exact .post (h1.modReq fun _ => rfl)
  · exact h1.deadUntaken.engineRecord
  · exact h1.deadNote.engineRecord
  · repeat' split
    exacts [h1.lateReduced.engineRecord, h1]
  · exact .post (.addPacket h1.deadLetter.engineRecord)
  · exact h1.post
  · exact h1.splitAck
  · exact h1

theorem IdsFresh.sendNotice {p} (h : IdsFresh s) : IdsFresh (s.sendNotice p) := by
  unfold State.sendNotice
  extract_lets
  repeat' split
  exacts [h.depart.errorNotice, .post (.of_eq h.depart rfl rfl)]

theorem IdsFresh.deliverPacket {p} (h : IdsFresh s) : IdsFresh (s.deliverPacket p) := by
  unfold State.deliverPacket
  extract_lets _ s1 s2
  have h1 : IdsFresh s1 := .of_eq h.depart rfl rfl
  have h2 : IdsFresh s2 := .of_eq h.depart rfl rfl
  split
  · exact h1.errorNotice
  · split
    · exact .post (h1.modReq fun _ => rfl)
    · exact h2.post
    · exact h2.post
    · exact h2.post
    · exact h1.post
    · exact h1.splitAck
    · exact h2.post
    · repeat' split
      exacts [h1.post, h1.arriveHome, h1]

theorem IdsFresh.arrivePacket {p b} (h : IdsFresh s) : IdsFresh (s.arrivePacket p b) := .post (.tryMerge (.of_eq h.depart rfl rfl))

theorem IdsFresh.circuitHop {p l} (h : IdsFresh s) : IdsFresh (s.circuitHop p l) := by
  induction l generalizing s with
  | nil => exact h
  | cons o r ih =>
    unfold State.circuitHop
    split
    next q t heq =>
    have ht : IdsFresh t := by
      split at heq
      · cases heq; exact h
      · cases heq; exact h.newId
    extract_lets t1
    have h1 : IdsFresh t1 := ih ht
    split
    · exact h1.arrivePacket
    · split
      · exact h1
      · exact IdsFresh.deliverPacket h1

theorem IdsFresh.sendCopy {p dest} (h : IdsFresh s) : IdsFresh (s.sendCopy p dest) := .post (.of_eq h.newId rfl rfl)

theorem IdsFresh.circuitTurn {p} (h : IdsFresh s) : IdsFresh (s.circuitTurn p) := by
  unfold State.circuitTurn
  extract_lets _ _ s1
  have h1 : IdsFresh s1 := .foldl (fun h => h.sendCopy) h
  exact .ite (.post h1) (.circuitHop (.foldl (fun h => h.sendCopy) h))

theorem IdsFresh.onward (h : IdsFresh s) (p : Packet) (route : Option (List Nat)) : NextFresh (Proofs.onward s p route) := by
  unfold Proofs.onward
  split
  exacts [h.sendNotice, h.sendNotice, .ite h (IdsFresh.arrivePacket h)]

theorem IdsFresh.execPacketAccept (h : IdsFresh s) : NextFresh (execPacketAccept s) := by
  unfold Machine.execPacketAccept
  split
  · split
    · exact h
    · next id _ _ p hp =>
      obtain rfl : p.id = id := by simpa using List.find?_some hp
      have henter : IdsFresh (if s.mayEnter p then (s.enterMesh p).post (.packetAccept p.id) else s.post (.packetAccept p.id)) := .ite h.enterMesh h
      have hturn : IdsFresh (if s.cycle < p.due || s.slotBefore p then s.post (.packetAccept p.id) else s.circuitTurn p) := .ite h h.circuitTurn
      exact .ite h (.ite henter (.ite hturn (.ite h (.ite (.ite h (IdsFresh.deliverPacket h)) (h.onward p _)))))
  · exact h

theorem IdsFresh.execFlitResend (h : IdsFresh s) : NextFresh (execFlitResend s) := by
  unfold Machine.execFlitResend
  repeat' split
  exacts [IdsFresh.ite (.post h) h, h]

theorem IdsFresh.execLinkDisable (h : IdsFresh s) : NextFresh (execLinkDisable s) := by
  unfold Machine.execLinkDisable
  repeat' split
  exacts [h, IdsFresh.event h, h]

end Sys2Proof.Safety
end

section
/-! SUPPORT. The numbers of operations through the instructions of memory. -/

namespace Sys2Proof.Safety

open Sys2Proof.Machine

variable {s : State}

/-! The instructions of memory. -/

theorem IdsFresh.issue {op key va use} (h : IdsFresh s) : IdsFresh (s.issue op key va use) := h.sendReq.route

theorem IdsFresh.forWrite {ctx tile va key use} (h : IdsFresh s) : IdsFresh (s.forWrite ctx tile va key use).2 := by
  unfold State.forWrite
  repeat' split
  exacts [h, h.markDirty]

theorem IdsFresh.dropVloads (h : IdsFresh s) : IdsFresh s.dropVloads :=
  IdsFresh.modFlight (h.filter (t := { s with reqs := s.reqs.filter fun r => decide (r.id ∉ s.vloads.map (·.id)) }) _ rfl rfl)

theorem IdsFresh.readFar {a key u} (h : IdsFresh s) : TableFresh (s.readFar a key u) := by
  unfold State.readFar
  split
  · extract_lets
    exact IdsFresh.begun (.route (h.queueReq.modReq fun _ => rfl))
  · repeat' split
    exacts [h, trivial, h]

theorem IdsFresh.readTable {t a} (h : IdsFresh s) : TableFresh (s.readTable t a) := by
  unfold State.readTable
  split
  · trivial
  · split
    · trivial
    · trivial
    · split
      · exact h.readFar
      · split
        · trivial
        · extract_lets
          repeat' split
          exacts [trivial, h.meetLine.usePage]
    · trivial

theorem IdsFresh.execJtab {hd off} (h : IdsFresh s) : NextFresh (execJtab hd off s) := by
  unfold Machine.execJtab
  split
  · split
    · exact h.waitWalk
    · exact h
    · next heq => exact h.readTable.sent heq
    · exact h.dropVloads.fireFault
    · next heq =>
        have ht := h.readTable.value heq
        split
        · exact ht.dropVloads.branchTo
        · split
          · exact ht.waitWalk
          · exact ht
          · next heq1 => exact ht.readTable.sent heq1
          · exact ht.dropVloads.fireFault
          · next heq1 => exact (ht.readTable.value heq1).dropVloads.branchTo
  · exact h

theorem IdsFresh.loadHere {hd sp n op give addr} (h : IdsFresh s) : IdsFresh (s.loadHere hd sp n op give addr) := by
  unfold State.loadHere
  extract_lets
  split
  · exact h
  · repeat' split
    exacts [h.waitWalk, h.fireFault, h, h.fireFault, h.fire, h, h.issue, h.fireFault, h.fire]

theorem IdsFresh.execLd {hd sp sz sx} (h : IdsFresh s) : NextFresh (execLd hd sp sz sx s) := by
  unfold Machine.execLd
  repeat' split
  exacts [h.loadHere, h]

theorem IdsFresh.execLdp {hd sp} (h : IdsFresh s) : NextFresh (execLdp hd sp s) := by
  unfold Machine.execLdp
  repeat' split
  exacts [h.loadHere, h]

theorem IdsFresh.produceStore {hd r} (h : IdsFresh s) : IdsFresh (s.produceStore hd r) := by
  unfold State.produceStore
  repeat' split
  exacts [h, h.fireFault, h.modFlight.fire0.afterDelivery]

theorem IdsFresh.storeHere {hd sp sid addr data p} (h : IdsFresh s) : IdsFresh (s.storeHere hd sp sid addr data p) := by
  unfold State.storeHere
  extract_lets
  repeat' split
  exacts [h.waitWalk, h.fireFault, h.produceStore, h.produceStore]

theorem IdsFresh.execSt {hd sp sz sid} (h : IdsFresh s) : NextFresh (execSt hd sp sz sid s) := by
  unfold Machine.execSt
  repeat' split
  exacts [h.storeHere, h]

theorem IdsFresh.execStp {hd sp sid} (h : IdsFresh s) : NextFresh (execStp hd sp sid s) := by
  unfold Machine.execStp
  repeat' split
  exacts [h.storeHere, h]

theorem IdsFresh.prefetch {ctx u} (h : IdsFresh s) : IdsFresh (s.prefetch ctx u) := by
  unfold State.prefetch
  split
  · extract_lets
    repeat' split
    exacts [h.prepare.allocate.event, h.prepare.allocate]
  · exact h

theorem IdsFresh.execPref {hd sp} (h : IdsFresh s) : NextFresh (execPref hd sp s) := by
  unfold Machine.execPref
  split
  · exact h
  · split
    · extract_lets
      split
      · next heq => exact (h.checkFor.snd heq).prefetch.fire
      · exact h.waitWalk
      · next heq => exact (h.checkFor.snd heq).fire
    · exact h.fire

theorem IdsFresh.cacheOp {hd sp op addr} (h : IdsFresh s) : IdsFresh (s.cacheOp hd sp op addr) := by
  unfold State.cacheOp
  repeat' split
  exacts [h.waitWalk, h.fireFault, h.fire1, .ite h.fire1 h.issue]

theorem IdsFresh.execFlush {hd sp} (h : IdsFresh s) : NextFresh (execFlush hd sp s) := by
  unfold Machine.execFlush
  repeat' split
  exacts [h.cacheOp, h]

theorem IdsFresh.execInval {hd sp} (h : IdsFresh s) : NextFresh (execInval hd sp s) := by
  unfold Machine.execInval
  repeat' split
  exacts [h.cacheOp, h]

theorem IdsFresh.execLds {hd sp wait} (h : IdsFresh s) : NextFresh (execLds hd sp wait s) := by
  unfold Machine.execLds
  repeat' split
  exacts [h, h.waitWalk, h.fireFault, h.issue, h, h]

theorem IdsFresh.execSts {hd sp} (h : IdsFresh s) : NextFresh (execSts hd sp s) := by
  unfold Machine.execSts
  split
  · split
    · exact h.answerReplay
    · split
      · exact h
      · split
        exacts [h.waitWalk, h.fireFault, h.forWrite.issue]
  · exact h

theorem IdsFresh.execStclr {hd sp} (h : IdsFresh s) : NextFresh (execStclr hd sp s) := by
  unfold Machine.execStclr
  split
  · split
    · exact h.answerReplay
    · extract_lets
      split
      · exact h.fireFault
      · split
        · exact h
        · split
          · exact h.fireFault
          · split
            exacts [h.waitWalk, h.fireFault, h.forWrite.issue]
  · exact h

theorem IdsFresh.atomicHere {hd sp addr n align f v cmp comb fp} (h : IdsFresh s) : IdsFresh (s.atomicHere hd sp addr n align f v cmp comb fp) := by
  unfold State.atomicHere
  extract_lets
  split
  · exact h
  · split
    exacts [h.waitWalk, h.fireFault, h.forWrite.issue]

theorem IdsFresh.execAtomicWord {f fp hd sp sz m} (h : IdsFresh s) : NextFresh (execAtomicWord f fp hd sp sz m s) := by
  unfold Machine.execAtomicWord
  repeat' split
  exacts [h.answerReplay, h.atomicHere, h]

theorem IdsFresh.execAcas {hd sp sz sc} (h : IdsFresh s) : NextFresh (execAcas hd sp sz sc s) := by
  unfold Machine.execAcas
  repeat' split
  exacts [h.answerReplay, h.atomicHere, h]

theorem IdsFresh.execAbxa {hd sp m} (h : IdsFresh s) : NextFresh (execAbxa hd sp m s) := by
  unfold Machine.execAbxa
  repeat' split
  exacts [h.answerReplay, h.atomicHere, h]

theorem IdsFresh.execAcasm {hd sp n vk sc} (h : IdsFresh s) : NextFresh (execAcasm hd sp n vk sc s) := by
  unfold Machine.execAcasm
  split
  · split
    · exact h.modFlight.answerReplay
    · extract_lets
      split
      · exact h
      · split
        · exact h.fireFault
        · split
          exacts [h.waitWalk, h.fireFault, h.forWrite.issue]
  · exact h

theorem IdsFresh.execAenq {hd sp sc} (h : IdsFresh s) : NextFresh (execAenq hd sp sc s) := by
  unfold Machine.execAenq
  split
  · split
    · exact h.answerReplay
    · extract_lets
      split
      · exact h
      · split
        · exact h.waitWalk
        · exact h.fireFault
        · split
          exacts [h.waitWalk, h.fireFault, h.forWrite.forWrite.usePage.issue]
  · exact h

theorem IdsFresh.execAchase {hd sp} (h : IdsFresh s) : NextFresh (execAchase hd sp s) := by
  unfold Machine.execAchase
  split
  · extract_lets
    split
    · repeat' split
      all_goals exact h.fireFault
    · split
      · exact h
      · split
        exacts [h.fireFault, h.sendReq.post]
  · exact h

theorem IdsFresh.execWenq {hd} (h : IdsFresh s) : NextFresh (execWenq hd s) := by
  unfold Machine.execWenq
  split
  · split
    · exact h.answerReplay
    · extract_lets
      split
      · exact h
      · split
        · exact h.fireFault
        · exact h
        · split
          · exact h.fireFault
          · split
            · exact h.fireFault
            · split
              · exact h.waitWalk
              · exact h.fireFault
              · split
                · exact h
                · split
                  exacts [h.fireFault, h.forWrite.issue]
  · exact h

theorem IdsFresh.execOtok {hd sc} (h : IdsFresh s) : NextFresh (execOtok hd sc s) := by
  unfold Machine.execOtok
  repeat' split
  exacts [h.fire, h]

theorem IdsFresh.execOjoin {hd} (h : IdsFresh s) : NextFresh (execOjoin hd s) := by
  unfold Machine.execOjoin
  repeat' split
  exacts [h.fire, h]

theorem IdsFresh.execFence {hd sc} (h : IdsFresh s) : NextFresh (execFence hd sc s) := by
  unfold Machine.execFence
  repeat' split
  exacts [h.fire, h]

theorem IdsFresh.timelineDone {ctx tl n} (h : IdsFresh s) : IdsFresh (s.timelineDone ctx tl n) := .foldl (fun h => h.reply) h.modCtx

theorem IdsFresh.execTlwait {hd tl} (h : IdsFresh s) : NextFresh (execTlwait hd tl s) := by
  unfold Machine.execTlwait
  split
  exacts [NextFresh.ite h.fire (IdsFresh.ite h.sendReq h.sendReq.post), h]

theorem IdsFresh.execTlwaitTimeout (h : IdsFresh s) : NextFresh (execTlwaitTimeout s) := by
  unfold Machine.execTlwaitTimeout
  repeat' split
  exacts [h, h.post, h.reply, h, h, h]

theorem IdsFresh.execTlread {hd tl} (h : IdsFresh s) : NextFresh (execTlread hd tl s) := by
  unfold Machine.execTlread
  repeat' split
  exacts [h.fire1, h]

theorem IdsFresh.execTlbump {hd tl} (h : IdsFresh s) : NextFresh (execTlbump hd tl s) := by
  unfold Machine.execTlbump
  repeat' split
  exacts [h.atCommit.fire0, h]

theorem IdsFresh.execTlbumpComplete (h : IdsFresh s) : NextFresh (execTlbumpComplete s) := by
  unfold Machine.execTlbumpComplete
  repeat' split
  exacts [h.dropReq.timelineDone, h.post, h, h]

end Sys2Proof.Safety
end

section
/-! SUPPORT. The numbers of operations through the vector instructions. -/

namespace Sys2Proof.Safety

open Sys2Proof.Machine

variable {s : State}

/-! The vector instructions. -/

theorem IdsFresh.execShdef {hd sh num} (h : IdsFresh s) : NextFresh (execShdef hd sh num s) := by
  unfold Machine.execShdef
  repeat' split
  exacts [h.fireFault, h.atCommit.fire0, h]

theorem IdsFresh.execShset {hd sh f} (h : IdsFresh s) : NextFresh (execShset hd sh f s) := by
  unfold Machine.execShset
  repeat' split
  exacts [h.atCommit.fire0, h]

theorem IdsFresh.execShget {hd sh f} (h : IdsFresh s) : NextFresh (execShget hd sh f s) := by
  unfold Machine.execShget
  repeat' split
  exacts [h.fire1, h]

theorem IdsFresh.execShadv {hd sh d} (h : IdsFresh s) : NextFresh (execShadv hd sh d s) := by
  unfold Machine.execShadv
  repeat' split
  exacts [h.atCommit.fire0, h]

theorem IdsFresh.keepVwork {w} (h : IdsFresh s) : IdsFresh (s.keepVwork w) := .modFlight (.foldl (fun h => h.usePage) h)
theorem IdsFresh.sendVloads {hd l keys} (h : IdsFresh s) : IdsFresh (s.sendVloads hd l keys) := .begun (.foldl (fun h => h.queueReq.route) h)

theorem IdsFresh.vecReadAll {hd p ops} (h : IdsFresh s) : VGotFresh (s.vecReadAll hd p ops) := by
  unfold State.vecReadAll
  extract_lets
  repeat' split
  exacts [h, h, h.sendVloads, h, trivial, trivial]

theorem IdsFresh.produceVec {hd r v} (h : IdsFresh s) : IdsFresh (s.produceVec hd r v) := by
  unfold State.produceVec
  repeat' split
  exacts [h, h.fireFault, h.fireFault, h.modFlight.fire]

theorem IdsFresh.writeVec {hd d locs res v touched p} (h : IdsFresh s) : IdsFresh (s.writeVec hd d locs res v touched p) := by
  unfold State.writeVec
  repeat' split
  exacts [h.fire, h.fire, .ite h.modFlight.fire h.produceVec, .ite h.modFlight.fire h.produceVec]

theorem IdsFresh.vecIndex {hd v p w b} (h : IdsFresh s) : VGotFresh (s.vecIndex hd v p w b) := by
  unfold State.vecIndex
  extract_lets
  repeat' split
  exacts [trivial, trivial, h.vecReadAll]

theorem IdsFresh.vecElems {hd v p w cb idx} (h : IdsFresh s) : VReadFresh (s.vecElems hd v p w cb idx) := by
  unfold State.vecElems
  extract_lets k
  iterate 4 split
  extract_lets ca cc cd order
  split
  extract_lets s1
  have h1 : IdsFresh s1 := h.keepVwork
  split
  · trivial
  · exact h1
  · split
    · next heq => exact h1.vecReadAll.wait heq
    · trivial
    · split <;> exact h1.dropVloads

theorem IdsFresh.vecRead {hd v p} (h : IdsFresh s) : VReadFresh (s.vecRead hd v p) := by
  unfold State.vecRead
  extract_lets k w
  split
  · trivial
  · split
    extract_lets cb
    split
    · next heq => exact (h.vecIndex.wait heq).keepVwork
    · trivial
    · exact h.vecElems

theorem IdsFresh.vector {hd v f p} (h : IdsFresh s) : IdsFresh (s.vector hd v f p) := by
  unfold State.vector
  split
  · exact h.dropVloads.fireFault
  · next heq => exact (h.vecRead.miss heq).waitWalk
  · next heq => exact h.vecRead.wait heq
  · next heq => exact (h.vecRead.ok heq).writeVec

theorem IdsFresh.vec1 {hd d a dty aty f} (h : IdsFresh s) : NextFresh (s.vec1 hd d a dty aty f) := by
  unfold State.vec1
  repeat' split
  exacts [h.vector, h]

theorem IdsFresh.vec2 {hd d a b ty f} (h : IdsFresh s) : NextFresh (s.vec2 hd d a b ty f) := by
  unfold State.vec2
  repeat' split
  exacts [h.vector, h]

theorem IdsFresh.vec3 {hd v f} (h : IdsFresh s) : NextFresh (s.vec3 hd v f) := by
  unfold State.vec3
  repeat' split
  exacts [h.vector, h]

theorem IdsFresh.execVcvt {hd d a dty sty rm} (h : IdsFresh s) : NextFresh (execVcvt hd d a dty sty rm s) := by
  unfold Machine.execVcvt
  extract_lets
  repeat' split
  exacts [h.vector, h]

theorem IdsFresh.execVscale {hd d a by_ ty rm} (h : IdsFresh s) : NextFresh (execVscale hd d a by_ ty rm s) := by
  unfold Machine.execVscale
  repeat' split
  exacts [h.vector, h, h.vector, h]

theorem IdsFresh.execVqnt {hd d a pass ty sty rm} (h : IdsFresh s) : NextFresh (execVqnt hd d a pass ty sty rm s) := by
  unfold Machine.execVqnt
  split
  · exact h
  · extract_lets
    repeat' split
    all_goals exact h.vector

theorem IdsFresh.execVcmp {hd d a b ty cond} (h : IdsFresh s) : NextFresh (execVcmp hd d a b ty cond s) := by
  unfold Machine.execVcmp
  repeat' split
  exacts [h, h.vector]

theorem IdsFresh.execVclamp {hd d a ty} (h : IdsFresh s) : NextFresh (execVclamp hd d a ty s) := by
  unfold Machine.execVclamp
  repeat' split
  exacts [h.vector, h]

theorem IdsFresh.vecReduce {hd a b ty f} (h : IdsFresh s) : NextFresh (s.vecReduce hd a b ty f) := by
  unfold State.vecReduce
  repeat' split
  exacts [h.vector, h]

theorem IdsFresh.execVperm {hd d a b ty} (h : IdsFresh s) : NextFresh (execVperm hd d a b ty s) := by
  unfold Machine.execVperm
  repeat' split
  exacts [h.vector, h]

theorem IdsFresh.execVgath {hd d a b ty} (h : IdsFresh s) : NextFresh (execVgath hd d a b ty s) := by
  unfold Machine.execVgath
  repeat' split
  exacts [h.vector, h]

theorem IdsFresh.execVscat {hd d a b ty} (h : IdsFresh s) : NextFresh (execVscat hd d a b ty s) := by
  unfold Machine.execVscat
  repeat' split
  exacts [h.vector, h]

theorem IdsFresh.execVjoin {hd d a b outer} (h : IdsFresh s) : NextFresh (execVjoin hd d a b outer s) := by
  unfold Machine.execVjoin
  repeat' split
  exacts [h.vector, h]

theorem IdsFresh.execViota {hd d ty rm} (h : IdsFresh s) : NextFresh (execViota hd d ty rm s) := by
  unfold Machine.execViota
  repeat' split
  exacts [h.vector, h]

theorem IdsFresh.execVfill {hd d ty} (h : IdsFresh s) : NextFresh (execVfill hd d ty s) := by
  unfold Machine.execVfill
  repeat' split
  exacts [h.vector, h]

end Sys2Proof.Safety
end

section
/-! SUPPORT. The numbers of operations through the engines. -/

namespace Sys2Proof.Safety

open Sys2Proof.Machine

variable {s : State}

/-! Commands of the engines, and copies. -/

theorem IdsFresh.modCmd {tile unit id f} (h : IdsFresh s) : IdsFresh (s.modCmd tile unit id f) := h.modTile

theorem IdsFresh.stopCmd {tile unit id} (h : IdsFresh s) : IdsFresh (s.stopCmd tile unit id) := by
  unfold State.stopCmd
  extract_lets mine s1
  exact (h.filter (t := { s with reqs := s.reqs.filter fun r => !(mine r && (!r.isStore || r.answer.isSome)) }) _ rfl rfl).map _
    (fun q => by split <;> rfl) rfl rfl

theorem IdsFresh.dropCmd {tile unit id} (h : IdsFresh s) : IdsFresh (s.dropCmd tile unit id) := h.stopCmd.modTile
theorem IdsFresh.fireEngine {hd unit op tl p} (h : IdsFresh s) : IdsFresh (s.fireEngine hd unit op tl p) := h.atCommit.fire0

theorem IdsFresh.copyHere {form hd tl cx ty start follow mask} (h : IdsFresh s) : IdsFresh (s.copyHere form hd tl cx ty start follow mask) := by
  unfold State.copyHere
  split
  · exact h
  · extract_lets
    repeat' split
    exacts [h, h.fireFault, h.fireEngine, h.fireEngine]

theorem IdsFresh.execCpysus {hd cx} (h : IdsFresh s) : NextFresh (execCpysus hd cx s) := by
  unfold Machine.execCpysus
  repeat' split
  exacts [h.atCommit.fire0, h]

theorem IdsFresh.execCpyres {hd cx} (h : IdsFresh s) : NextFresh (execCpyres hd cx s) := by
  unfold Machine.execCpyres
  repeat' split
  exacts [h, NextFresh.ite h.fireFault (NextFresh.ite h.fireFault (NextFresh.ite h.fireFault h.atCommit.fire0))]

theorem IdsFresh.markLive {tile op} (h : IdsFresh s) : IdsFresh (s.markLive tile op) := by
  unfold State.markLive
  repeat' split
  exacts [h.modTile, h]

theorem IdsFresh.issueCommand {tile unit c} (h : IdsFresh s) : IdsFresh (s.issueCommand tile unit c) := by
  unfold State.issueCommand
  split
  next n t heq =>
  have ht : IdsFresh t := by
    split at heq
    · cases heq; exact h
    · cases heq; exact h
  split
  next id t1 hid =>
  have h1 := ht.newId.snd hid
  extract_lets c1 s2
  have h2 : IdsFresh s2 := IdsFresh.markLive h1.modTile
  split
  · extract_lets s3
    have h3 : IdsFresh s3 := by
      unfold s3
      split
      · split
        next fid t2 hid2 =>
        have ht2 := h2.newId.snd hid2
        extract_lets m
        exact IdsFresh.markLive ht2.modTile
      · exact h2
    exact .ite h3.post h3
  · exact .ite h2.post h2
  · exact .ite h2.post h2
  · exact h2.post

theorem IdsFresh.engineFail {tile unit c r} (h : IdsFresh s) : IdsFresh (s.engineFail tile unit c r) :=
  .sendRecord (.ite h.stopCmd.modCmd.event h.stopCmd.modCmd)

theorem IdsFresh.dropEngReads {tile unit c} (h : IdsFresh s) : IdsFresh (s.dropEngReads tile unit c) := h.filter _ rfl rfl

theorem IdsFresh.engSend {tile unit c op key u} (h : IdsFresh s) : IdsFresh (s.engSend tile unit c op key u) :=
  IdsFresh.route (h.newId.append _ (Nat.lt_succ_self s.nextId) rfl rfl)

theorem IdsFresh.engPlaces {tile unit c sp n u l} (h : IdsFresh s) : GotFresh (s.engPlaces tile unit c sp n u l) := by
  induction l generalizing s with
  | nil => exact h
  | cons a r ih =>
    cases a with
    | none =>
      unfold State.engPlaces
      split
      · next heq => exact (ih h).got heq
      · exact ih h
    | some a =>
      unfold State.engPlaces
      extract_lets x
      have hx : IdsFresh x.2 := by
        unfold x
        split
        exacts [h.checkFor, h]
      clear_value x
      obtain ⟨k, t⟩ := x
      cases k with
      | miss => exact hx
      | bad => exact hx
      | ok key use =>
        dsimp only
        split
        · next heq => exact (ih hx).got heq
        · exact ih hx

theorem IdsFresh.engBefore {tile unit c sp n l} (h : IdsFresh s) : GotFresh (s.engBefore tile unit c sp n l) := by
  unfold State.engBefore
  split
  · next heq => exact h.engPlaces.wait heq
  · next heq => exact h.engPlaces.got heq
  · next heq =>
      have ht := h.engPlaces.bad heq
      split
      · exact ht
      · split
        · exact ht
        · next heq1 => exact h.engPlaces.wait heq1
        · exact ht

theorem IdsFresh.engFetch {tile unit c n l} (h : IdsFresh s) : GotFresh (s.engFetch tile unit c n l) := by
  unfold State.engFetch
  extract_lets
  repeat' split
  exacts [IdsFresh.foldl (fun h => h.engSend) h, h, h, h]

theorem IdsFresh.engRead {tile unit c sp n l} (h : IdsFresh s) : GotFresh (s.engRead tile unit c sp n l) := by
  unfold State.engRead
  split
  · next heq => exact (h.engPlaces.got heq).engFetch
  · next heq => exact h.engPlaces.wait heq
  · next heq => exact h.engPlaces.bad heq

theorem IdsFresh.engPush {ctx l} (h : IdsFresh s) : IdsFresh (s.engPush ctx l).2.2 := by
  induction l generalizing s with
  | nil => exact h
  | cons u r ih =>
    unfold State.engPush
    extract_lets s1
    have h1 : IdsFresh s1 := .ite h.prepare h
    split
    · next heq => exact ih (h1.push.some heq)
    · exact h1

theorem IdsFresh.engWritten {tile unit c} (h : IdsFresh s) : GotFresh (s.engWritten tile unit c) := by
  unfold State.engWritten
  extract_lets
  repeat' split
  exacts [h, h, h.modCmd]

theorem IdsFresh.engSendLines {tile unit c mask cells lines fail} (h : IdsFresh s) : GotFresh (s.engSendLines tile unit c mask cells lines fail) := by
  unfold State.engSendLines
  extract_lets
  repeat' split
  exacts [h.commitBytes, h.commitBytes, IdsFresh.modCmd (.foldl (fun h => h.markDirty.engSend) h.commitBytes)]

theorem IdsFresh.snd_snd {α β : Type} {p : α × β × State} (h : IdsFresh p.2.2) {x : α} {y : β} {t : State} (e : p = (x, y, t)) : IdsFresh t := by
  subst e; exact h

theorem IdsFresh.engWrite {tile unit c mask l} (h : IdsFresh s) : GotFresh (s.engWrite tile unit c mask l) := by
  unfold State.engWrite
  split
  · exact h.engWritten
  · split
    · next heq => exact h.engPush.snd_snd heq
    · next heq => exact (h.engPush.snd_snd heq).engSendLines

theorem IdsFresh.engStore {tile unit c sp l} (h : IdsFresh s) : GotFresh (s.engStore tile unit c sp l) := by
  unfold State.engStore
  split
  · exact h.engWritten
  · split
    · next heq => exact h.engBefore.wait heq
    · next heq => exact h.engBefore.bad heq
    · next heq => exact (h.engBefore.got heq).engPush.engSendLines

theorem IdsFresh.execCopyStart (h : IdsFresh s) : NextFresh (execCopyStart s) := by
  unfold Machine.execCopyStart
  repeat' split
  exacts [h, h.post, h.engineFail, h.modCmd.post, h, h, h]

/-- Of a read that is left out in a case. -/
theorem IdsFresh.engReadUnless {q : Prop} [Decidable q] {tile unit c sp n l} (h : IdsFresh s) :
    GotFresh (if q then EngGot.got [] s else s.engRead tile unit c sp n l) := by
  split
  · exact h
  · exact h.engRead

/-- What the end of a step's writes leaves. -/
theorem IdsFresh.copyEnd {g : EngGot Unit} (hg : GotFresh g) (tile cx len moved : Nat) (c : Cmd) :
    GotFresh (match g with
      | .wait s => EngGot.wait (s.modTile tile fun y => { y with copied := y.copied + BitVec.ofNat 64 moved })
      | .bad r s => .bad r s
      | .got _ s => .got len ((s.dropEngReads tile cx c).modTile tile fun y => { y with copied := y.copied + BitVec.ofNat 64 moved })) := by
  split
  exacts [hg, hg, IdsFresh.dropEngReads hg]

theorem IdsFresh.copyStep {tile cx c form d a x mask} (h : IdsFresh s) : GotFresh (s.copyStep tile cx c form d a x mask) := by
  unfold State.copyStep
  extract_lets n at_ len js finish
  split
  · exact IdsFresh.copyEnd h.engWrite ..
  · split
    · next heq => exact h.engReadUnless.wait heq
    · next heq => exact h.engReadUnless.bad heq
    · next heq =>
      have h1 := h.engReadUnless.got heq
      extract_lets src dst
      split
      · next heq => exact h1.engPlaces.wait heq
      · next heq => exact h1.engPlaces.bad heq
      · next heq =>
        have h2 := h1.engPlaces.got heq
        split
        · next heq => exact h2.engPlaces.wait heq
        · next heq => exact h2.engPlaces.bad heq
        · next heq =>
          have h3 := h2.engPlaces.got heq
          split
          · next heq => exact h3.engFetch.wait heq
          · next heq => exact h3.engFetch.bad heq
          · next heq => exact IdsFresh.copyEnd (h3.engFetch.got heq).engWrite ..

theorem IdsFresh.copyNext {tile cx} (h : IdsFresh s) : IdsFresh (s.copyNext tile cx) := .ite h h.post

theorem IdsFresh.copyDone {tile cx c} (h : IdsFresh s) : IdsFresh (s.copyDone tile cx c) := by
  unfold State.copyDone
  extract_lets
  repeat' split
  exacts [h.dropCmd.copyNext.post, h.dropCmd.copyNext.timelineDone]

theorem IdsFresh.execCopyStep (h : IdsFresh s) : NextFresh (execCopyStep s) := by
  unfold Machine.execCopyStep
  split
  · split
    · split
      · split
        · exact h
        · split
          · exact h.post
          · split
            · next heq => exact (h.copyStep.bad heq).engineFail
            · next heq => exact (h.copyStep.wait heq).modTile.post
            · next heq =>
                have ht := h.copyStep.got heq
                exact NextFresh.ite ht.modTile.modCmd.copyDone (NextFresh.ite ht.modTile.modCmd.modCmd ht.modTile.modCmd.post)
      · exact h
    · exact h
  · exact h

theorem IdsFresh.execFollowOnStart (h : IdsFresh s) : NextFresh (execFollowOnStart s) := by
  unfold Machine.execFollowOnStart
  repeat' split
  exacts [h.modCmd.post, h, h]

theorem IdsFresh.copySuspend {tile cx} (h : IdsFresh s) : IdsFresh (s.copySuspend tile cx) := by
  unfold State.copySuspend
  repeat' split
  exacts [h, h.modCmd, h.modCmd, h]

/-! The matrix unit. -/

theorem IdsFresh.execMldb {hd tl m ty} (h : IdsFresh s) : NextFresh (execMldb hd tl m ty s) := by
  unfold Machine.execMldb
  split
  · exact h
  · split
    · exact h
    · extract_lets
      repeat' split
      exacts [h.fireFault, h.fireEngine]

theorem IdsFresh.execMscl {hd tl} (h : IdsFresh s) : NextFresh (execMscl hd tl s) := by
  unfold Machine.execMscl
  split
  · exact h
  · split
    · exact h
    · extract_lets
      repeat' split
      exacts [h.fireFault, h.fireEngine]

theorem IdsFresh.execMma {hd tl acc m ty} (h : IdsFresh s) : NextFresh (execMma hd tl acc m ty s) := by
  unfold Machine.execMma
  split
  · exact h
  · split
    · exact h
    · extract_lets
      repeat' split
      exacts [h.fireFault, h.fireEngine]

theorem IdsFresh.execMacst {hd tl acc} (h : IdsFresh s) : NextFresh (execMacst hd tl acc s) := by
  unfold Machine.execMacst
  split
  · exact h
  · split
    · exact h
    · extract_lets
      repeat' split
      exacts [h.fireFault, h.fireEngine]

theorem IdsFresh.execMacclr {hd acc} (h : IdsFresh s) : NextFresh (execMacclr hd acc s) := by
  unfold Machine.execMacclr
  repeat' split
  exacts [h, h.fireFault, h.fireEngine]

theorem IdsFresh.execMacrd {hd acc} (h : IdsFresh s) : NextFresh (execMacrd hd acc s) := by
  unfold Machine.execMacrd
  repeat' split
  exacts [h, NextFresh.ite h.fireFault (NextFresh.ite h.fire1 h.sendReq)]

theorem IdsFresh.execMacpk {hd acc} (h : IdsFresh s) : NextFresh (execMacpk hd acc s) := by
  unfold Machine.execMacpk
  repeat' split
  exacts [h, h.fireFault, h.fire1]

theorem IdsFresh.serveMacrd {tile} (h : IdsFresh s) : IdsFresh (s.serveMacrd tile) := by
  unfold State.serveMacrd
  refine .foldl (fun h => ?_) h
  repeat' split
  exacts [h, h.reply, h]

theorem IdsFresh.matrixDone {tile c} (h : IdsFresh s) : IdsFresh (s.matrixDone tile c) := .serveMacrd (.ite h.dropCmd h.dropCmd.timelineDone)
theorem IdsFresh.cmdRuns {tile unit id} (h : IdsFresh s) : IdsFresh (s.cmdRuns tile unit id) := h.modCmd
theorem IdsFresh.modMacro {tile m f} (h : IdsFresh s) : IdsFresh (s.modMacro tile m f) := h.modTile

theorem IdsFresh.performMldb {tile c m ty b scale} (h : IdsFresh s) : GotFresh (s.performMldb tile c m ty b scale) := by
  unfold State.performMldb
  extract_lets s1
  have h1 : IdsFresh s1 := h.modMacro
  split
  · exact h1
  · split
    · next heq => exact h1.engRead.wait heq
    · next heq => exact h1.engRead.bad heq
    · next heq =>
      have h2 := h1.engRead.got heq
      split
      · next heq => exact h2.engReadUnless.wait heq
      · next heq => exact h2.engReadUnless.bad heq
      · next heq => exact IdsFresh.modMacro (h2.engReadUnless.got heq)

theorem IdsFresh.execMacroLoad (h : IdsFresh s) : NextFresh (execMacroLoad s) := by
  unfold Machine.execMacroLoad
  split
  · split
    · exact h
    · split
      · split
        · exact h
        · split
          · exact h.post
          · split
            · next heq => exact (h.cmdRuns.performMldb.wait heq).post
            · next heq => exact (h.cmdRuns.performMldb.bad heq).engineFail
            · next heq => exact (h.cmdRuns.performMldb.got heq).matrixDone
      · exact h
  · exact h

theorem IdsFresh.execScaleTokenAccept (h : IdsFresh s) : NextFresh (execScaleTokenAccept s) := by
  unfold Machine.execScaleTokenAccept
  split
  · split
    · exact h
    · split
      · extract_lets
        split
        · exact h
        · split
          · exact h.modCmd.post
          · split
            · next heq => exact (h.cmdRuns.engRead.wait heq).post
            · next heq => exact (h.cmdRuns.engRead.bad heq).engineFail
            · next heq => exact (h.cmdRuns.engRead.got heq).modTile.matrixDone
      · exact h
  · exact h

theorem IdsFresh.mmaRead {tile c a} (h : IdsFresh s) : GotFresh (s.mmaRead tile c a) := by
  unfold State.mmaRead
  extract_lets
  split
  · next heq => exact h.engRead.wait heq
  · next heq => exact h.engRead.bad heq
  · next heq => exact (h.engRead.got heq).modCmd

theorem IdsFresh.mmaFeed {tile c acc m ty a a4 row0 tok bytes} (h : IdsFresh s) : IdsFresh (s.mmaFeed tile c acc m ty a a4 row0 tok bytes) :=
  .ite h.modTile.modCmd.post (.ite h.modTile.modCmd.modTile.post h.modTile.modCmd.modTile.post)

theorem IdsFresh.mmaStep {tile c acc m ty a a4 row0 tok} (h : IdsFresh s) : IdsFresh (s.mmaStep tile c acc m ty a a4 row0 tok) := by
  unfold State.mmaStep
  split
  · split
    · next heq => exact (h.mmaRead.wait heq).post
    · next heq => exact (h.mmaRead.bad heq).engineFail
    · next heq => exact (h.mmaRead.got heq).post
  · split
    · split
      · next heq => exact (h.mmaRead.wait heq).post
      · exact h.mmaFeed
      · next heq => exact (h.mmaRead.got heq).post
    · exact h.mmaFeed

theorem IdsFresh.execMmaStart (h : IdsFresh s) : NextFresh (execMmaStart s) := by
  unfold Machine.execMmaStart
  split
  · split
    · exact h
    · split
      · refine .ite h (.ite h ?_)
        split
        · split
          exacts [h.mmaStep, h]
        · extract_lets found
          clear_value found
          split
          · exact h
          · extract_lets s1
            split
            exacts [IdsFresh.engineFail h, h]
      · exact h
  · exact h

theorem IdsFresh.execMmaComplete (h : IdsFresh s) : NextFresh (execMmaComplete s) := by
  unfold Machine.execMmaComplete
  repeat' split
  exacts [h.matrixDone, h, h]

theorem IdsFresh.execMacclrPerform (h : IdsFresh s) : NextFresh (execMacclrPerform s) := by
  unfold Machine.execMacclrPerform
  repeat' split
  exacts [h, h.post, h.modTile.matrixDone, h, h]

theorem IdsFresh.execMacstPerform (h : IdsFresh s) : NextFresh (execMacstPerform s) := by
  unfold Machine.execMacstPerform
  split
  · split
    · exact h
    · split
      · split
        · exact h
        · split
          · exact h.post
          · extract_lets
            split
            · exact h.engineFail
            · split
              · next heq => exact (h.engStore.wait heq).modCmd.post
              · next heq => exact (h.engStore.bad heq).engineFail
              · next heq =>
                  have ht := h.engStore.got heq
                  exact NextFresh.ite ht.modCmd.matrixDone ht.modCmd.post
      · exact h
  · exact h

theorem IdsFresh.dropFollow {tile id} (h : IdsFresh s) : IdsFresh (s.dropFollow tile id) := h.modTile.serveMacrd

theorem IdsFresh.canopyNext {tile} (h : IdsFresh s) : IdsFresh (s.canopyNext tile) := by
  unfold State.canopyNext
  repeat' split
  exacts [h, h.post, h.post]

theorem IdsFresh.resumeCmd {tile unit c} (h : IdsFresh s) : IdsFresh (s.resumeCmd tile unit c) :=
  .ite h.modCmd.canopyNext (.ite h.modCmd.post h.modCmd.post)

theorem IdsFresh.discardCmd {tile unit c} (h : IdsFresh s) : IdsFresh (s.discardCmd tile unit c) :=
  .ite h.dropCmd.timelineDone.canopyNext (.ite h.matrixDone h.dropCmd.dropFollow.timelineDone.copyNext)

theorem IdsFresh.engineResume {unit cx tile discard} (h : IdsFresh s) : IdsFresh (s.engineResume unit cx tile discard) := by
  unfold State.engineResume
  extract_lets
  repeat' split
  exacts [h, h.discardCmd, h.resumeCmd, h]

/-! The Canopy unit. -/

theorem IdsFresh.cnTake {e} (h : IdsFresh s) : IdsFresh (s.cnTake e) := by
  unfold State.cnTake
  repeat' split
  exacts [h, h, h.modFlight]

theorem IdsFresh.cnPut {e x} (h : IdsFresh s) : IdsFresh (s.cnPut e x) := h.modFlight
theorem IdsFresh.cnCount {tile} (h : IdsFresh s) : IdsFresh (s.cnCount tile) := h.modTile

theorem IdsFresh.cnWrite {e r} (h : IdsFresh s) : IdsFresh (s.cnWrite e r) := by
  unfold State.cnWrite
  repeat' split
  exacts [h.cnPut.cnCount.fire0, h.fireFault]

theorem IdsFresh.execCnclr {hd e} (h : IdsFresh s) : NextFresh (execCnclr hd e s) := by
  unfold Machine.execCnclr
  repeat' split
  exacts [h.cnTake.cnWrite, h]

theorem IdsFresh.execCnfeed {hd e} (h : IdsFresh s) : NextFresh (execCnfeed hd e s) := by
  unfold Machine.execCnfeed
  repeat' split
  exacts [NextFresh.ite h.cnTake.fireFault h.cnTake.cnWrite, h]

theorem IdsFresh.cnTwo {hd e m f} (h : IdsFresh s) : IdsFresh (s.cnTwo hd e m f) := by
  unfold State.cnTwo
  repeat' split
  exacts [.ite h.cnTake.cnTake.fireFault h.cnTake.cnTake.cnWrite, h]

theorem IdsFresh.cnOne {hd e f} (h : IdsFresh s) : IdsFresh (s.cnOne hd e f) := by
  unfold State.cnOne
  repeat' split
  exacts [.ite h.cnTake.fireFault h.cnTake.cnWrite, h]

theorem IdsFresh.cnRead {hd e v} (h : IdsFresh s) : IdsFresh (s.cnRead hd e v) := by
  unfold State.cnRead
  extract_lets
  repeat' split
  exacts [h.cnTake.fireFault, h.cnTake.cnCount.fire1, h.cnTake.fireFault]

theorem IdsFresh.execCneval {hd e} (h : IdsFresh s) : NextFresh (execCneval hd e s) := by
  unfold Machine.execCneval
  repeat' split
  exacts [h.cnRead, h]

theorem IdsFresh.execCnmin {hd e} (h : IdsFresh s) : NextFresh (execCnmin hd e s) := by
  unfold Machine.execCnmin
  repeat' split
  exacts [h.cnRead, h]

theorem IdsFresh.execCninfo {hd e} (h : IdsFresh s) : NextFresh (execCninfo hd e s) := by
  unfold Machine.execCninfo
  repeat' split
  exacts [h.cnRead, h]

theorem IdsFresh.commitCanopy {t f} (h : IdsFresh s) : IdsFresh (s.commitCanopy t f) := .foldl (fun h => .ite h.modTile h) h

theorem IdsFresh.cnMemory {hd tl op} (h : IdsFresh s) : IdsFresh (s.cnMemory hd tl op) := by
  unfold State.cnMemory
  split
  · exact h
  · split
    · exact h
    · extract_lets
      repeat' split
      exacts [h.fireFault, h.fireEngine]

theorem IdsFresh.canopyDone {tile c} (h : IdsFresh s) : IdsFresh (s.canopyDone tile c) := h.dropCmd.timelineDone.cnCount.canopyNext

theorem IdsFresh.readEnv {tile c r} (h : IdsFresh s) : GotFresh (s.readEnv tile c r) := by
  unfold State.readEnv
  split
  · next heq => exact h.engRead.wait heq
  · next heq => exact h.engRead.bad heq
  · next heq =>
      have ht := h.engRead.got heq
      extract_lets
      split
      · exact ht
      · split
        · exact ht
        · split
          · next heq1 => exact ht.engRead.wait heq1
          · next heq1 => exact ht.engRead.bad heq1
          · next heq1 =>
              have ht1 := ht.engRead.got heq1
              extract_lets
              repeat' split
              all_goals exact ht1

theorem IdsFresh.execCanopyLoad (h : IdsFresh s) : NextFresh (execCanopyLoad s) := by
  unfold Machine.execCanopyLoad
  split
  · split
    · exact h
    · split
      · split
        · exact h.post
        · split
          · next heq => exact (h.cmdRuns.readEnv.wait heq).post
          · next heq => exact (h.cmdRuns.readEnv.bad heq).engineFail
          · next heq => exact (h.cmdRuns.readEnv.got heq).modTile.canopyDone
      · exact h
  · exact h

theorem IdsFresh.execCanopyStore (h : IdsFresh s) : NextFresh (execCanopyStore s) := by
  unfold Machine.execCanopyStore
  split
  · split
    · exact h
    · split
      · extract_lets
        split
        · exact h.post
        · split
          · repeat' split
            exacts [h.engineFail, h.engineFail, h.modCmd.post]
          · split
            · next heq => exact (h.engStore.wait heq).post
            · next heq => exact (h.engStore.bad heq).engineFail
            · next heq => exact (h.engStore.got heq).canopyDone
      · exact h
  · exact h

end Sys2Proof.Safety
end

section
/-! SUPPORT. The numbers of operations through the special registers, the frontier, stage queues, and the steps of a block. -/

namespace Sys2Proof.Safety

open Sys2Proof.Machine

variable {s : State}

/-! Special registers and counters. -/

theorem IdsFresh.deadAll {t own} (h : IdsFresh s) : IdsFresh (s.deadAll t own) := by
  unfold State.deadAll
  extract_lets _ _ _ _ _ s1 _ _ s2 s3 s4
  have h1 : IdsFresh s1 := by
    unfold s1
    repeat' split
    exacts [h.modLoad, h]
  have h2 : IdsFresh s2 := .foldl (fun h => .foldl (fun h => h.deadMessage) h.modVc) h1.modElem.modTask
  have h3 : IdsFresh s3 := .foldl (fun h => h.deadUntaken) h2
  have h4 : IdsFresh s4 := .foldl (fun h => h.deadNote) h3
  exact h4.retry

theorem IdsFresh.dropWaits {t} (h : IdsFresh s) : IdsFresh (s.dropWaits t) := h.filter _ rfl rfl

theorem IdsFresh.withdraw {t} (h : IdsFresh s) : IdsFresh (s.withdraw t) := by
  refine IdsFresh.forgetBlocks (IdsFresh.dropWaits (.foldl (fun {u r} hu => IdsFresh.dropReq ?_) h))
  cases hc : u.cancelReader r.id with
  | none => exact hu
  | some v => exact hu.cancelReader.some hc

theorem IdsFresh.cutRange {t a} (h : IdsFresh s) : IdsFresh (s.cutRange t a) := by
  unfold State.cutRange
  repeat' split
  exacts [h.modLoad.modTask, h, h]

theorem IdsFresh.openRange {t} (h : IdsFresh s) : IdsFresh (s.openRange t) := by
  unfold State.openRange
  split
  · exact h
  · extract_lets
    repeat' split
    exacts [h.modTask, h.modTask.modLoad, h.modTask]

theorem IdsFresh.killTask {t} (h : IdsFresh s) : IdsFresh (s.killTask t) := .ite h h.withdraw.modCtx.closeStages.openRange.modTask.deadAll
theorem IdsFresh.copyModes {e ctx} (h : IdsFresh s) : IdsFresh (s.copyModes e ctx) := h.modElem
theorem IdsFresh.sampleModes {t} (h : IdsFresh s) : IdsFresh (s.sampleModes t).2 := h.modElem

theorem IdsFresh.execCsrrd {hd csr} (h : IdsFresh s) : NextFresh (execCsrrd hd csr s) := by
  unfold Machine.execCsrrd
  repeat' split
  exacts [h.fire1, h]

theorem IdsFresh.execCsrwr {hd csr} (h : IdsFresh s) : NextFresh (execCsrwr hd csr s) := by
  unfold Machine.execCsrwr
  repeat' split
  exacts [h.atCommit.fire0, h]

theorem IdsFresh.execTrap {hd code} (h : IdsFresh s) : NextFresh (execTrap hd code s) := by
  unfold Machine.execTrap
  repeat' split
  exacts [h, h.fire1, h.fireFault]

theorem IdsFresh.execBkpt {hd code} (h : IdsFresh s) : NextFresh (execBkpt hd code s) := by
  unfold Machine.execBkpt
  repeat' split
  exacts [h, h.fire1, h.fireFault]

theorem IdsFresh.execEret {hd} (h : IdsFresh s) : NextFresh (execEret hd s) := by
  unfold Machine.execEret
  repeat' split
  exacts [h, h.fireFault, h.fireFault, h.atCommit.fire0]

theorem IdsFresh.eret {ctx handle action value} (h : IdsFresh s) : IdsFresh (s.eret ctx handle action value) := by
  unfold State.eret
  repeat' split
  exacts [h.killTask, h.refire, h.refire, h.event]

theorem IdsFresh.execSleep {hd} (h : IdsFresh s) : NextFresh (execSleep hd s) := by
  unfold Machine.execSleep
  split
  · exact h
  · split
    exacts [h.fire1, h.sendReq.post]

theorem IdsFresh.execSleepExpire (h : IdsFresh s) : NextFresh (execSleepExpire s) := by
  unfold Machine.execSleepExpire
  repeat' split
  exacts [h, NextFresh.ite h.reply h.reply, NextFresh.ite h.reply h.post, h, h, h]

theorem IdsFresh.execPerf {hd n} (h : IdsFresh s) : NextFresh (execPerf hd n s) := by
  unfold Machine.execPerf
  repeat' split
  exacts [h.fire1, h]

/-! The frontier of a graph. -/

theorem IdsFresh.deliverEntry {id x} (h : IdsFresh s) : IdsFresh (s.deliverEntry id x) := by
  unfold State.deliverEntry
  repeat' split
  exacts [h, .foldl (fun h => h.inject) h.modLoad]

theorem IdsFresh.deliverAll {id} (h : IdsFresh s) : IdsFresh (s.deliverAll id) := by
  unfold State.deliverAll
  repeat' split
  exacts [h, .foldl (fun h => h.deliverEntry) h]

theorem IdsFresh.sweepLoops {id} (h : IdsFresh s) : IdsFresh (s.sweepLoops id) := by
  unfold State.sweepLoops
  repeat' split
  exacts [h, h.modLoad.postAll]

theorem IdsFresh.applyBatch {id b} (h : IdsFresh s) : IdsFresh (s.applyBatch id b) := by
  unfold State.applyBatch
  repeat' split
  exacts [h, h.modLoad.sendAck.deliverAll.sweepLoops]

theorem IdsFresh.holdBatch {l b cause} (h : IdsFresh s) : IdsFresh (s.holdBatch l b cause) := h.modLoad.sendRecord.post

theorem IdsFresh.execBatchApply (h : IdsFresh s) : NextFresh (execBatchApply s) := by
  unfold Machine.execBatchApply
  split
  · split
    · exact h
    · extract_lets s1
      have h1 : IdsFresh s1 := h
      repeat' split
      exacts [h1, h1.holdBatch, h1.applyBatch, h1]
  · exact h

theorem IdsFresh.execFrontierResume (h : IdsFresh s) : NextFresh (execFrontierResume s) := by
  unfold Machine.execFrontierResume
  repeat' split
  exacts [h, h.post, h.modLoad.applyBatch, h]

theorem IdsFresh.execNotificationArrive (h : IdsFresh s) : NextFresh (execNotificationArrive s) := by
  unfold Machine.execNotificationArrive
  split
  · split
    · exact h
    · extract_lets s1
      have h1 : IdsFresh s1 := h
      repeat' split
      exacts [h1.deadNote, IdsFresh.ite h1.pend h1.pend.post, h1]
  · exact h

theorem IdsFresh.sendEnded {t} (h : IdsFresh s) : IdsFresh (s.sendEnded t) := by
  unfold State.sendEnded
  extract_lets
  repeat' split
  exacts [h.modTask, .foldl (fun h => .foldl (fun h => h.inject) h) h.modTask]

theorem IdsFresh.execBatchAck (h : IdsFresh s) : NextFresh (execBatchAck s) := by
  unfold Machine.execBatchAck
  repeat' split
  exacts [h.modTask.sendEnded, h]

/-! Stage queues. -/

theorem IdsFresh.execStgput {hd q} (h : IdsFresh s) : NextFresh (execStgput hd q s) := by
  unfold Machine.execStgput
  repeat' split
  exacts [h, NextFresh.ite h.fireFault (NextFresh.ite h h.sendReq.atCommit)]

theorem IdsFresh.execStgwait {hd q} (h : IdsFresh s) : NextFresh (execStgwait hd q s) := by
  unfold Machine.execStgwait
  repeat' split
  exacts [h, h.answerReplay, h.sendReq.modStage.post]

theorem IdsFresh.execStgclose {hd q} (h : IdsFresh s) : NextFresh (execStgclose hd q s) := by
  unfold Machine.execStgclose
  repeat' split
  exacts [h, h.fireFault, h.atCommit.fire1]

theorem IdsFresh.commitPut {t q v id writes} (h : IdsFresh s) : IdsFresh (s.commitPut t q v id writes) := .ite h.reply h.modStage.reply.post
theorem IdsFresh.commitClose {t q writes} (h : IdsFresh s) : IdsFresh (s.commitClose t q writes) := h.modStage.post

theorem IdsFresh.execStageWaiterServe (h : IdsFresh s) : NextFresh (execStageWaiterServe s) := by
  unfold Machine.execStageWaiterServe
  split
  · extract_lets
    split
    · repeat' split
      exacts [h.modStage.reply, h.modStage.reply.post, h.post]
    · repeat' split
      exacts [h.post, h.modStage.reply, h.modStage.reply.post, h.modStage]
    · exact h.modStage
  · exact h

/-! The fetch, the commit and the faults of a block. -/

theorem IdsFresh.execBlockQuiescentFault (h : IdsFresh s) : NextFresh (execBlockQuiescentFault s) := by
  unfold Machine.execBlockQuiescentFault
  repeat' split
  exacts [h.raise.takeFault, h, h]

theorem IdsFresh.pushStores {ctx l} (h : IdsFresh s) : IdsFresh (s.pushStores ctx l).2 := by
  induction l generalizing s with
  | nil => exact h
  | cons x r ih =>
    unfold State.pushStores
    extract_lets s1 e
    have h1 : IdsFresh s1 := .ite h.prepare h
    split
    · next heq => exact ih (h1.push.some heq)
    · exact h1

theorem IdsFresh.commitRegs {t f} (h : IdsFresh s) : IdsFresh (s.commitRegs t f) := h.modTask
theorem IdsFresh.commitVt {t f} (h : IdsFresh s) : IdsFresh (s.commitVt t f) := h.modTask
theorem IdsFresh.commitChan {t f} (h : IdsFresh s) : IdsFresh (s.commitChan t f) := h.putChan

theorem IdsFresh.addReqs {l} (h : IdsFresh s) : IdsFresh (s.addReqs l).2 := by
  induction l generalizing s with
  | nil => exact h
  | cons r l ih => exact ih (h.newId.append { r with id := s.nextId } (Nat.lt_succ_self _) rfl rfl)

theorem IdsFresh.startStore {id} (h : IdsFresh s) : IdsFresh (s.startStore id) := by
  unfold State.startStore
  split
  · exact h
  · split
    · exact .ite h.performStore h.post
    · exact h.post
    · extract_lets s1
      have h1 : IdsFresh s1 := by
        unfold s1
        repeat' split
        exacts [h.markDirty, h]
      exact h1.route

theorem IdsFresh.commitStores {t f} (h : IdsFresh s) : IdsFresh (s.commitStores t f) := .foldl (fun h => h.startStore) h.addReqs

theorem IdsFresh.sendMessage {t l m ftz after} (h : IdsFresh s) : IdsFresh (s.sendMessage t l m ftz after) := by
  unfold State.sendMessage
  extract_lets
  repeat' split
  exacts [h.modElem.sendPacket, h.modElem, h.modElem.inject, h.modElem.forwardReduced]

theorem IdsFresh.doDefer {t f d} (h : IdsFresh s) : IdsFresh (s.doDefer t f d) := by
  unfold State.doDefer
  extract_lets k sh
  split
  · exact h
  · exact h
  · exact h
  · exact h
  · exact h
  · exact h
  · exact h.cutRange
  · exact h.commitPut
  · exact h.commitClose
  · exact IdsFresh.append (s := (s.takeNumber k.ctx _).2.newId.2) (IdsFresh.newId h) _ (Nat.lt_succ_self s.nextId) rfl rfl
  · exact h
  · exact h.eret
  · exact h.issueCommand
  · exact h.copySuspend
  · exact h.engineResume
  · exact h

theorem IdsFresh.consume {t a} (h : IdsFresh s) : IdsFresh (s.consume t a) :=
  .retry (.foldl (fun h => h.refill) (.modTask (.foldl (fun h => h.modVc) h)))

theorem IdsFresh.sendBatch {t l b last after} (h : IdsFresh s) : IdsFresh (s.sendBatch t l b last after) :=
  .ite h (.ite h.newId.modTask.sendEnded h.newId.modTask.inject)

theorem IdsFresh.endActivation {t exit} (h : IdsFresh s) : IdsFresh (s.endActivation t exit) := by
  unfold State.endActivation
  extract_lets s1
  have h1 : IdsFresh s1 := by
    unfold s1
    repeat' split
    exacts [h.consume, h]
  exact .ite h1.openRange.dropWaits.modTask.closeStages.deadAll h1.openRange.dropWaits.modTask

theorem IdsFresh.commit {t f p} (h : IdsFresh s) : IdsFresh (s.commit t f p) := by
  unfold State.commit
  extract_lets _ _ s1 _ s2 _ _ _ _ s3 s4
  have h1 : IdsFresh s1 := h.commitRegs.commitVt.commitChan.commitStores.commitCanopy
  have h2 : IdsFresh s2 := .foldl (fun h => h.doDefer) h1.modTask
  have h3 : IdsFresh s3 := by
    unfold s3
    repeat' split
    exacts [.sendBatch (.foldl (fun h => h.sendMessage) h2.modElem.copyModes), h2.modElem.copyModes]
  have h4 : IdsFresh s4 := by
    unfold s4
    repeat' split
    exacts [h3.endActivation, h3.endActivation, h3]
  exact h4.takeFault

theorem IdsFresh.execBlockCommit (h : IdsFresh s) : NextFresh (execBlockCommit s) := by
  unfold Machine.execBlockCommit
  split
  · split
    · exact h
    · split
      · exact h
      · split
        · exact h.raise.takeFault
        · split
          · next heq => exact (h.pushStores.snd heq).raise.takeFault
          · next heq => exact (h.pushStores.snd heq).commit
  · exact h

theorem IdsFresh.execActivationStart (h : IdsFresh s) : NextFresh (execActivationStart s) := by
  unfold Machine.execActivationStart
  repeat' split
  exacts [h, h, h, h.modTask.modElem, h]

theorem IdsFresh.execTaskPromote (h : IdsFresh s) : NextFresh (execTaskPromote s) := by
  unfold Machine.execTaskPromote
  repeat' split
  exacts [h.modTask, h, h]

theorem IdsFresh.deliverTo {t which f r a} (h : IdsFresh s) : IdsFresh (s.deliverTo t which f r a) := by
  unfold State.deliverTo
  split
  · exact h.raise.dropReq.takeFault
  · extract_lets _ s1 s2
    have h1 : IdsFresh s1 := by
      unfold s1
      repeat' split
      exacts [h.modFlight, h.modFlight, h, h]
    have h2 : IdsFresh s2 := .ite h1.keepReplay h1
    exact h2.dropReq.fixFault.takeFault

theorem IdsFresh.sendReply {r tile} (h : IdsFresh s) : IdsFresh (s.sendReply r tile) := h.sendPacket
theorem IdsFresh.fillRegs {t r a} (h : IdsFresh s) : IdsFresh (s.fillRegs t r a) := h.modTask.copyModes.dropReq

theorem IdsFresh.takeResult {r a} (h : IdsFresh s) : IdsFresh (s.takeResult r a) := by
  unfold State.takeResult
  split
  · exact .ite h h.dropReq
  · split
    · exact h.dropReq
    · extract_lets
      repeat' split
      exacts [h, h.deliverTo, h.fillRegs]

theorem IdsFresh.execLongLatencyResult (h : IdsFresh s) : NextFresh (execLongLatencyResult s) := by
  unfold Machine.execLongLatencyResult
  repeat' split
  exacts [h, h.post, h.takeResult, h.sendReply, h.takeResult, h, h]

theorem IdsFresh.execRnextServe (h : IdsFresh s) : NextFresh (execRnextServe s) := by
  unfold Machine.execRnextServe
  repeat' split
  exacts [h, h, h, h.post, h.modLoad.reply, h, h]

theorem IdsFresh.execPageWalk (h : IdsFresh s) : NextFresh (execPageWalk s) := by
  unfold Machine.execPageWalk
  repeat' split
  exacts [h.post, h, IdsFresh.post h, h]

theorem IdsFresh.faultAt {t which idx r} (h : IdsFresh s) : IdsFresh (s.faultAt t which idx r) := h.modFlight.modElem.raise.takeFault

theorem IdsFresh.faultWaiter {x w} (h : IdsFresh s) : IdsFresh (s.faultWaiter x w) := by
  unfold State.faultWaiter
  extract_lets s1
  have h1 : IdsFresh s1 := h
  split
  · extract_lets
    repeat' split
    exacts [h, h1, h.faultAt]
  · exact h1

theorem IdsFresh.execWalkComplete (h : IdsFresh s) : NextFresh (execWalkComplete s) := by
  unfold Machine.execWalkComplete
  split
  · split
    · exact h
    · next id _ _ m _ =>
      extract_lets va
      split
      · next heq =>
        extract_lets inside s1
        have h1 : IdsFresh s1 := IdsFresh.fillTc (h.walk.snd heq)
        exact h1.of_eq rfl rfl
      · next heq =>
        extract_lets s1
        have h1 : IdsFresh s1 := (h.walk.snd heq).of_eq rfl rfl
        exact IdsFresh.foldl (fun h => h.faultWaiter) h1
  · exact h

end Sys2Proof.Safety
end

section
/-! SUPPORT. The numbers of operations through the launches, fetch, placement, and requests over a link. -/

namespace Sys2Proof.Safety

open Sys2Proof.Machine

variable {s : State}

/-! The taking of a launch. -/

theorem IdsFresh.meetDesc {c} (h : IdsFresh s) : IdsFresh (s.meetDesc c) := h.deviceMeet

theorem IdsFresh.readDesc {c} (h : IdsFresh s) : IdsFresh (s.readDesc c) := by
  unfold State.readDesc
  exact h.modCtx

theorem IdsFresh.modLq {c q f} (h : IdsFresh s) : IdsFresh (s.modLq c q f) := h.modCtx
theorem IdsFresh.advanceHead {c q} (h : IdsFresh s) : IdsFresh (s.advanceHead c q) := h.modLq.deviceWrite
theorem IdsFresh.writeStatus {c} (h : IdsFresh s) : IdsFresh (s.writeStatus c) := h.deviceWrite

theorem IdsFresh.completion {c q tag status code fload digest} (h : IdsFresh s) : IdsFresh (s.completion c q tag status code fload digest) :=
  h.deviceWrite.modLq

theorem IdsFresh.vacate {l} (h : IdsFresh s) : IdsFresh (s.vacate l) := h.filter _ rfl rfl

theorem IdsFresh.dropLoad {l} (h : IdsFresh s) : IdsFresh (s.dropLoad l) := by
  unfold State.dropLoad
  extract_lets s1
  have h1 : IdsFresh s1 := .ite h.vacate h
  exact h1

theorem IdsFresh.keepDigest {l} (h : IdsFresh s) : IdsFresh (s.keepDigest l) := .ite h h

theorem IdsFresh.complete {id status code} (h : IdsFresh s) : IdsFresh (s.complete id status code) := by
  unfold State.complete
  split
  · exact h
  · extract_lets _ _ _ s1 _ s2 _ s3
    have h1 : IdsFresh s1 := .foldl (fun h => h.keepDigest) h
    have h2 : IdsFresh s2 := .foldl (fun h => h.dropLoad) h1
    have h3 : IdsFresh s3 := h2
    exact h3.completion.writeStatus

theorem IdsFresh.execLaunchDoorbell (h : IdsFresh s) : NextFresh (execLaunchDoorbell s) := by
  unfold Machine.execLaunchDoorbell
  repeat' split
  exacts [h, NextFresh.ite h.meetDesc h.meetDesc.modLq, h]

theorem IdsFresh.meetHead {c q} (h : IdsFresh s) : IdsFresh (s.meetHead c q) := h.meetDesc.deviceMeet

theorem IdsFresh.readImage {die ctx u n va len} (h : IdsFresh s) : IdsFresh (s.readImage die ctx u n va len).2 := by
  induction n generalizing s va len with
  | zero => exact h
  | succ n ih =>
    unfold State.readImage
    split
    · exact h
    · extract_lets m
      split
      · next heq =>
        extract_lets s1
        have h1 : IdsFresh s1 := IdsFresh.deviceMeet (h.checkNow.snd heq)
        split
        · exact h1
        · split
          · next heq => exact (ih h1).snd heq
          · exact ih h1
      · next heq => exact h.checkNow.snd heq
      · next heq => exact h.checkNow.snd heq

theorem IdsFresh.imageBytes {ctx va len} (h : IdsFresh s) : IdsFresh (s.imageBytes ctx va len).2 := h.readImage

theorem IdsFresh.readParts {ctx va l} (h : IdsFresh s) : IdsFresh (s.readParts ctx va l).2 := by
  induction l generalizing s with
  | nil => exact h
  | cons x r ih =>
    unfold State.readParts
    split
    · next heq => exact ih (h.imageBytes.snd heq)
    · next heq => exact h.imageBytes.snd heq

theorem IdsFresh.signFault {ctx va d} (h : IdsFresh s) : IdsFresh (s.signFault ctx va d).2 := by
  unfold State.signFault
  split
  · repeat' split
    exacts [h, h.event]
  · split
    · next heq => exact h.imageBytes.snd heq
    · next heq =>
        have ht := h.imageBytes.snd heq
        split
        · next heq1 => exact ht.imageBytes.snd heq1
        · next heq1 =>
            have ht1 := ht.imageBytes.snd heq1
            repeat' split
            exacts [ht1, ht1.event]

theorem IdsFresh.imageFault {ctx va level} (h : IdsFresh s) : IdsFresh (s.imageFault ctx va level).2 := by
  unfold State.imageFault
  split
  · next heq => exact h.imageBytes.snd heq
  · next heq =>
      have ht := h.imageBytes.snd heq
      extract_lets
      split
      · exact ht
      · split
        · next heq1 => exact ht.imageBytes.snd heq1
        · next heq1 =>
            have ht1 := ht.imageBytes.snd heq1
            extract_lets
            split
            · exact ht1
            · split
              · next heq2 => exact ht1.signFault.snd heq2
              · next heq2 =>
                  have ht2 := ht1.signFault.snd heq2
                  split
                  · next heq3 => exact ht2.readParts.snd heq3
                  · next heq3 =>
                      have ht3 := ht2.readParts.snd heq3
                      repeat' split
                      all_goals exact ht3

theorem IdsFresh.beginLaunch {c q p entry i} (h : IdsFresh s) : IdsFresh (s.beginLaunch c q p entry i) := by
  unfold State.beginLaunch
  extract_lets x
  split
  next heq1 =>
  have h1 := h.newId.snd heq1
  split
  next heq2 =>
  have h2 := h1.newId.snd heq2
  extract_lets l
  split
  exacts [h2, h2.of_eq rfl rfl]

theorem IdsFresh.execLaunchTake (h : IdsFresh s) : NextFresh (execLaunchTake s) := by
  unfold Machine.execLaunchTake
  split
  · split
    · exact h
    · extract_lets
      split
      · exact h.meetHead.advanceHead.completion
      · split
        · exact h.meetHead.advanceHead.completion
        · split
          · next heq => exact (h.meetHead.advanceHead.readDesc.imageFault.snd heq).completion
          · next heq =>
              have ht := h.meetHead.advanceHead.readDesc.imageFault.snd heq
              repeat' split
              exacts [ht.beginLaunch, ht.completion, ht.completion]
  · exact h

theorem IdsFresh.execDeterminismChange (h : IdsFresh s) : NextFresh (execDeterminismChange s) := by
  unfold Machine.execDeterminismChange
  repeat' split
  exacts [h, NextFresh.ite h.meetHead.advanceHead.completion h.meetHead.advanceHead.modLq.completion, h]

theorem IdsFresh.deliverFrom {l hd stamp payload} (h : IdsFresh s) : IdsFresh (s.deliverFrom l hd stamp payload) := h.applyBatch.takeMessage

theorem IdsFresh.execTrapRecordDeliver (h : IdsFresh s) : NextFresh (execTrapRecordDeliver s) := by
  unfold Machine.execTrapRecordDeliver
  repeat' split
  exacts [h, h.modCtx.deliverFrom, h, h]

/-! Pages, bindings and code. -/

theorem IdsFresh.refetch {bed key n} (h : IdsFresh s) : IdsFresh (s.refetch bed key n) := .ite h (.ite h (.post h))

theorem IdsFresh.fillPage {ctx bed page} (h : IdsFresh s) : IdsFresh (s.fillPage ctx bed page).2 := by
  unfold State.fillPage
  extract_lets l keep
  split
  · exact .refetch (h.of_eq rfl rfl)
  · split
    · next heq => exact h.readImage.snd heq
    · next heq =>
      have ht := h.readImage.snd heq
      exact ht.of_eq rfl rfl

theorem IdsFresh.fillPages {ctx bed l} (h : IdsFresh s) : IdsFresh (s.fillPages ctx bed l).2 := by
  induction l generalizing s with
  | nil => exact h
  | cons p r ih =>
    unfold State.fillPages
    split
    · next heq => exact h.fillPage.snd heq
    · next heq => exact ih (h.fillPage.snd heq)

theorem IdsFresh.fillBeds {ctx l} (h : IdsFresh s) : IdsFresh (s.fillBeds ctx l).2 := by
  induction l generalizing s with
  | nil => exact h
  | cons x r ih =>
    have hbed : IdsFresh ({ s with cfgCache := s.cfgCache.put x.1 [] } : State) := h
    unfold State.fillBeds
    split
    · next heq => exact hbed.fillPages.snd heq
    · next heq => exact ih (hbed.fillPages.snd heq)

theorem IdsFresh.fillBinding {t} (h : IdsFresh s) : IdsFresh (s.fillBinding t).2 := by
  unfold State.fillBinding
  repeat' split
  exacts [h.fillPage, h]

theorem IdsFresh.execBindingFill (h : IdsFresh s) : NextFresh (execBindingFill s) := by
  unfold Machine.execBindingFill
  split
  · extract_lets e b free out
    clear_value out
    refine .ite h (.ite ?_ h)
    split
    · next heq => exact (h.fillBinding.snd heq).complete
    · next t heq =>
      have ht := h.fillBinding.snd heq
      extract_lets s1 s2 s3
      have h1 : IdsFresh s1 := by
        unfold s1
        split
        exacts [ht.modTask, ht]
      have h3 : IdsFresh s3 := h1.modElem.modTask
      exact h3.retry
  · exact h

theorem IdsFresh.fetchCode {t addr} (h : IdsFresh s) : FetchedFresh (s.fetchCode t addr) := by
  unfold State.fetchCode
  extract_lets
  split
  · exact h
  · split
    · exact h.modElem
    · split
      · trivial
      · split
        · next heq => exact h.fillPage.snd heq
        · next heq =>
          have ht := h.fillPage.snd heq
          exact IdsFresh.modElem (ht.of_eq rfl rfl)

theorem IdsFresh.fetchBlock {t addr} (h : IdsFresh s) : IdsFresh (s.fetchBlock t addr) := h.refetch.sampleModes.newId.modTask.takeFault

theorem IdsFresh.execBlockFetch (h : IdsFresh s) : NextFresh (execBlockFetch s) := by
  unfold Machine.execBlockFetch
  split
  · split
    · exact h
    · split
      · exact h
      · split
        · exact h
        · next heq => exact (h.fetchCode.failed heq).complete
        · next heq => exact (h.fetchCode.ready heq).fetchBlock
  · exact h

/-! Placement, pre-emption and resumption. -/

theorem IdsFresh.clearBeds {l} (h : IdsFresh s) : IdsFresh (s.clearBeds l) := .ite h h
theorem IdsFresh.freshUnits {l lost} (h : IdsFresh s) : IdsFresh (s.freshUnits l lost) := .foldl (fun h => h.modTile) h
theorem IdsFresh.placeTasks {l} (h : IdsFresh s) : IdsFresh (s.placeTasks l) := .foldl (fun h => h.setTask) h
theorem IdsFresh.giveRings {l rings} (h : IdsFresh s) : IdsFresh (s.giveRings l rings) := .foldl (fun h => h.modVc) h
theorem IdsFresh.seat {l beds} (h : IdsFresh s) : IdsFresh (s.seat l beds).2 := .modLoad h

theorem IdsFresh.place {l beds} (h : IdsFresh s) : IdsFresh (s.place l beds) :=
  .writeStatus (.foldl (fun h => h.deliverFrom) h.seat.clearBeds.freshUnits.placeTasks.giveRings.modLoad)

theorem IdsFresh.execLoadPlace (h : IdsFresh s) : NextFresh (execLoadPlace s) := by
  unfold Machine.execLoadPlace
  split
  · split
    · exact h
    · split
      · exact h
      · split
        · exact h.complete
        · split
          · exact h
          · split
            · next heq => exact (h.fillBeds.snd heq).complete
            · next heq => exact (h.fillBeds.snd heq).place
  · exact h

theorem IdsFresh.seqWord {die ctx va} (h : IdsFresh s) : IdsFresh (s.seqWord die ctx va).2 := by
  unfold State.seqWord
  split
  · next heq =>
      have ht := h.checkNow.snd heq
      extract_lets s1
      have h1 : IdsFresh s1 := by
        unfold s1
        repeat' split
        exacts [ht.prepare, ht]
      repeat' split
      all_goals exact h1
  · next heq => exact h.checkNow.snd heq
  · next heq => exact h.checkNow.snd heq

theorem IdsFresh.sequence {die ctx src l} (h : IdsFresh s) : IdsFresh (s.sequence die ctx src l).2 := by
  induction l generalizing s with
  | nil => exact h
  | cons x r ih =>
    unfold State.sequence
    split
    · exact ih h
    · split
      · exact h
      · split
        · next heq => exact h.seqWord.snd heq
        · next heq =>
          have ht := h.seqWord.snd heq
          split
          exacts [ht, ih ht]
      · split
        · next heq => exact h.seqWord.snd heq
        · next heq =>
          have ht := h.seqWord.snd heq
          split
          exacts [ht, ih ht]

theorem IdsFresh.follow {l i n} (h : IdsFresh s) : IdsFresh (s.follow l i n) := by
  unfold State.follow
  split
  exacts [h.complete, .of_eq h.newId.keepDigest.dropLoad rfl rfl]

theorem IdsFresh.execLoadDrain (h : IdsFresh s) : NextFresh (execLoadDrain s) := by
  unfold Machine.execLoadDrain
  split
  · split
    · exact h
    · split
      · exact h
      · split
        · exact h.complete
        · split
          · next heq => exact (h.sequence.snd heq).complete
          · next heq => exact (h.sequence.snd heq).complete
          · next heq => exact (h.sequence.snd heq).follow
  · exact h

theorem IdsFresh.abandon {t} (h : IdsFresh s) : IdsFresh (s.abandon t) := h.withdraw.modTask

theorem IdsFresh.drainCopy {x} (h : IdsFresh s) : IdsFresh (s.drainCopy x) := by
  unfold State.drainCopy
  repeat' split
  exacts [h.modCmd, h]

theorem IdsFresh.execPreemptStart (h : IdsFresh s) : NextFresh (execPreemptStart s) := by
  unfold Machine.execPreemptStart
  repeat' split
  exacts [h, h, IdsFresh.foldl (fun h => h.abandon) (.foldl (fun h => h.drainCopy) h.modLoad), h]

theorem IdsFresh.execReaderCancel (h : IdsFresh s) : NextFresh (execReaderCancel s) := by
  unfold Machine.execReaderCancel
  split
  · split
    · exact h
    · split
      · repeat' split
        exacts [h.abandon, h]
      · exact h
      · next heq _ =>
          have ht := h.cancelReader.some heq
          exact IdsFresh.ite ht.abandon ht.dropReq
      · next heq _ => exact (h.cancelReader.some heq).dropReq
  · exact h

theorem IdsFresh.writeBacking {l x} (h : IdsFresh s) : IdsFresh (s.writeBacking l x) := by
  unfold State.writeBacking
  extract_lets
  repeat' split
  exacts [h, .foldl (fun h => h.deviceWrite) h]

theorem IdsFresh.execPreemptSave (h : IdsFresh s) : NextFresh (execPreemptSave s) := by
  unfold Machine.execPreemptSave
  split
  · split
    · exact h
    · split
      exacts [h, IdsFresh.modLoad (.freshUnits (.vacate (.foldl (fun h => h.writeBacking) h)))]
  · exact h

theorem IdsFresh.restoreMatrix {l v} (h : IdsFresh s) : IdsFresh (s.restoreMatrix l v) := .foldl (fun h => h.modTile) h

theorem IdsFresh.queueReloads {l ms} (h : IdsFresh s) : IdsFresh (s.queueReloads l ms).2 := by
  induction ms generalizing s with
  | nil => exact h
  | cons x r ih =>
    unfold State.queueReloads
    split
    · exact ih h
    · exact ih (IdsFresh.modTile h.newId)

theorem IdsFresh.restoreCopies {l v} (h : IdsFresh s) : IdsFresh (s.restoreCopies l v) := .foldl (fun h => .ite h.modTile h.modTile.post) h

theorem IdsFresh.restoreTasks {l v} (h : IdsFresh s) : IdsFresh (s.restoreTasks l v) :=
  .foldl (fun h => .ite h.modTask h.modTask.modElem) (.foldl (fun h => h.modTask) h)

theorem IdsFresh.restoreQueues {l v} (h : IdsFresh s) : IdsFresh (s.restoreQueues l v) :=
  .foldl (fun h => .ite h (.ite (.foldl (fun h => h.deadMessage) h) h.modVc.refill)) h

theorem IdsFresh.postUnless {q : Prop} [Decidable q] {w} (h : IdsFresh s) : IdsFresh (if q then s else s.post w) := .ite h h.post

theorem IdsFresh.resume {l v beds} (h : IdsFresh s) : IdsFresh (s.resume l v beds) :=
  .writeStatus (.sweepLoops (.postUnless (.restoreQueues (.restoreCopies (.restoreTasks (.foldl (fun h => h.post) (.modLoad
    (.of_eq h.seat.clearBeds.freshUnits.placeTasks.restoreMatrix.queueReloads.giveRings rfl rfl))))))))

theorem IdsFresh.reloadMacro {l tile id rest} (h : IdsFresh s) : IdsFresh (s.reloadMacro l tile id rest) := by
  unfold State.reloadMacro
  extract_lets
  split
  · exact h.modLoad.post
  · split
    · split
      · next heq => exact (h.performMldb.wait heq).post
      · next heq => exact (h.performMldb.bad heq).complete
      · next heq =>
          have ht := h.performMldb.got heq
          exact .ite ht.dropEngReads.modTile.modLoad ht.dropEngReads.modTile.modLoad.post
    · exact h

theorem IdsFresh.execLoadResume (h : IdsFresh s) : NextFresh (execLoadResume s) := by
  unfold Machine.execLoadResume
  split
  · split
    · exact h
    · split
      · exact h.reloadMacro
      · split
        · exact h
        · split
          · exact h.complete
          · split
            · split
              · exact h.complete
              · split
                · next heq => exact (h.fillBeds.snd heq).complete
                · next heq => exact (h.fillBeds.snd heq).resume
            · exact h
  · exact h

theorem IdsFresh.execBedFail (h : IdsFresh s) : NextFresh (execBedFail s) := by
  unfold Machine.execBedFail
  split
  · split
    · exact h
    · extract_lets _ _ _ _ _ s1 _ s2
      have h1 : IdsFresh s1 := .ite h h
      have h2 : IdsFresh s2 := .ite h1 h1
      exact IdsFresh.event (.foldl (fun h => h.post) h2)
  · exact h

/-! Requests over a link. -/

theorem IdsFresh.sendRemote {r} (h : IdsFresh s) : IdsFresh (s.sendRemote r) := by
  unfold State.sendRemote
  extract_lets _ s1
  have h1 : IdsFresh s1 := h.modReq fun _ => rfl
  repeat' split
  exacts [h1.postAll.post, h1.postAll.sendPacket, h1.postAll.sendPacket]

theorem IdsFresh.takeAtAgent {r k n} (h : IdsFresh s) : IdsFresh (s.takeAtAgent r k n) := by
  unfold State.takeAtAgent
  extract_lets
  repeat' split
  exacts [h.reply, h, h.reply, h.post, .post (.arriveHome h)]

theorem IdsFresh.execLinkRequestArrive (h : IdsFresh s) : NextFresh (execLinkRequestArrive s) := by
  unfold Machine.execLinkRequestArrive
  split
  · split
    · exact h
    · split
      · repeat' split
        exacts [h, h.post, h.sendRemote]
      · extract_lets s1 r1
        have h1 : IdsFresh s1 := h.modReq fun _ => rfl
        exact .ite h (.ite h.post (.ite h1.takeAtAgent (.ite h1 (.ite h1.reply h1.arriveHome))))
  · exact h

theorem IdsFresh.execLinkRetransmit (h : IdsFresh s) : NextFresh (execLinkRetransmit s) := by
  unfold Machine.execLinkRetransmit
  repeat' split
  exacts [h, h, h.post, IdsFresh.postAll (h.modReq fun _ => rfl), h]

/-- R78: what stays of a request that is given up bears its number, which has been given. -/
theorem IdsFresh.giveUp (h : IdsFresh s) {r : Req} (hr : r.id < s.nextId) : IdsFresh (s.giveUp r).2 := by
  unfold State.giveUp
  split
  next new s1 hnew =>
  cases hnew
  extract_lets stays due s2
  have hstays : ∀ q ∈ stays, q.id = r.id := by
    intro q hq
    unfold stays at hq
    split at hq
    · rw [List.mem_singleton.mp hq]
    · exact absurd hq List.not_mem_nil
  have h2 : IdsFresh s2 := by
    intro q hq
    have hn : s2.nextId = s.nextId + 1 := rfl
    rcases List.mem_append.mp hq with hq | hq
    · rcases List.mem_append.mp hq with hq | hq
      · exact hn ▸ Nat.lt_succ_of_lt (h q (List.mem_filter.mp hq).1)
      · rw [hstays q hq, hn]
        exact Nat.lt_succ_of_lt hr
    · rw [List.mem_singleton.mp hq]
      exact Nat.lt_succ_self _
  split
  exacts [h2, h2]

theorem IdsFresh.execLinkTimeout (h : IdsFresh s) : NextFresh (execLinkTimeout s) := by
  unfold Machine.execLinkTimeout
  split
  · split
    · exact h
    · next r hr =>
      have hg := h.giveUp (h r (List.mem_of_find?_eq_some hr))
      refine .ite h (.ite h (.ite hg.finish ?_))
      split
      exacts [hg.writeLost, IdsFresh.finish (h.modReq fun _ => rfl)]
  · exact h

theorem IdsFresh.execReplyEntryAgeOut (h : IdsFresh s) : NextFresh (execReplyEntryAgeOut s) := by
  unfold Machine.execReplyEntryAgeOut
  repeat' split
  exacts [h, h.post, h, h]

theorem IdsFresh.disablePort {port} (h : IdsFresh s) : IdsFresh (s.disablePort port) := by
  unfold State.disablePort
  extract_lets lost kept back ports s1
  have h1 : IdsFresh s1 := h.map back (fun q => by unfold back; split <;> rfl) rfl rfl
  exact h1.postAll.event

theorem IdsFresh.execLaneFail (h : IdsFresh s) : NextFresh (execLaneFail s) := by
  unfold Machine.execLaneFail
  repeat' split
  exacts [h, h.disablePort, IdsFresh.event h, h]

theorem IdsFresh.execPlaneFail (h : IdsFresh s) : NextFresh (execPlaneFail s) := by
  unfold Machine.execPlaneFail
  repeat' split
  exacts [h, h.disablePort, h]

end Sys2Proof.Safety
end

section
/-! SUPPORT. The numbers of operations through the services of a package, its host and its upkeep. -/

namespace Sys2Proof.Safety

open Sys2Proof.Machine

variable {s : State}

/-! Launch completion, contexts, invalidations, resets and power. -/

theorem IdsFresh.discardUnit {load tile unit} (h : IdsFresh s) : IdsFresh (s.discardUnit load tile unit) := .foldl (fun h => .ite h h.discardCmd) h
theorem IdsFresh.discardEngines {l} (h : IdsFresh s) : IdsFresh (s.discardEngines l) := .foldl (fun h => .foldl (fun h => h.discardUnit) h) h

theorem IdsFresh.endNodes {l} (h : IdsFresh s) : IdsFresh (s.endNodes l) := by
  unfold State.endNodes
  extract_lets
  refine .foldl (fun h => ?_) h.modLoad
  repeat' split
  exacts [h, .foldl (fun h => h.lateReduced) h]

theorem IdsFresh.dropReloads {l} (h : IdsFresh s) : IdsFresh (s.dropReloads l) := .modLoad (.foldl (fun h => h.modTile) h)

theorem IdsFresh.stopLoad {l} (h : IdsFresh s) : IdsFresh (s.stopLoad l) :=
  .endNodes (.discardEngines (.foldl (fun h => h.killTask) h.dropReloads.modLoad))

theorem IdsFresh.stopSaved {l v} (h : IdsFresh s) : IdsFresh (s.stopSaved l v) := by
  unfold State.stopSaved
  extract_lets _ _ s1 s2
  have h1 : IdsFresh s1 := .foldl (fun h => h.timelineDone) h.modLoad
  have h2 : IdsFresh s2 := by
    unfold s2
    refine .foldl (fun h => ?_) h1
    repeat' split
    exacts [h, h.deadLetter]
  refine .foldl (fun h => ?_) h2
  repeat' split
  exacts [h.deadLetter, h]

theorem IdsFresh.killLaunch {x} (h : IdsFresh s) : IdsFresh (s.killLaunch x) := by
  unfold State.killLaunch
  split
  · exact h
  · extract_lets _ s1 s2
    have h1 : IdsFresh s1 := h
    have h2 : IdsFresh s2 := by
      unfold s2
      refine .foldl (fun h => ?_) h1
      repeat' split
      exacts [h.stopLoad, h.stopSaved, h]
    exact h2.event

theorem IdsFresh.killPackets {c q n} (h : IdsFresh s) : IdsFresh (s.killPackets c q n) := by
  induction n generalizing s with
  | zero => exact h
  | succ n ih => exact ih h.meetHead.completion.advanceHead

theorem IdsFresh.killQueues {v qs} (h : IdsFresh s) : IdsFresh (s.killQueues v qs) :=
  .foldl (fun h => h.killLaunch) (.foldl (fun h => .ite h.killPackets h) h)

theorem IdsFresh.execKillQueue (h : IdsFresh s) : NextFresh (execKillQueue s) := by
  unfold Machine.execKillQueue
  repeat' split
  exacts [h, h.killQueues, h]

theorem IdsFresh.execKillContext (h : IdsFresh s) : NextFresh (execKillContext s) := by
  unfold Machine.execKillContext
  repeat' split
  exacts [h, h.killQueues, h]

theorem IdsFresh.execKillComplete (h : IdsFresh s) : NextFresh (execKillComplete s) := by
  unfold Machine.execKillComplete
  split
  · extract_lets s1 s2
    have h1 : IdsFresh s1 := .foldl (fun h => h.discardEngines) h
    have h2 : IdsFresh s2 := .foldl (fun h => h.complete) h1
    exact IdsFresh.ite h2 h2
  · exact h

theorem IdsFresh.debugAct {action value} (h : IdsFresh s) : IdsFresh (s.debugAct action value) := h.eret

theorem IdsFresh.execDbgRefire (h : IdsFresh s) : NextFresh (execDbgRefire s) := by
  unfold Machine.execDbgRefire
  repeat' split
  exacts [h.debugAct, h]

theorem IdsFresh.execDbgKill (h : IdsFresh s) : NextFresh (execDbgKill s) := by
  unfold Machine.execDbgKill
  repeat' split
  exacts [h.debugAct, h]

theorem IdsFresh.execDbgRefireSuppress (h : IdsFresh s) : NextFresh (execDbgRefireSuppress s) := by
  unfold Machine.execDbgRefireSuppress
  repeat' split
  exacts [h.debugAct, h]

theorem IdsFresh.clearHeads {c} (h : IdsFresh s) : IdsFresh (s.clearHeads c) := h.deviceWrite
theorem IdsFresh.setElems {l} (h : IdsFresh s) : IdsFresh { s with elems := l } := h.of_eq rfl rfl

theorem IdsFresh.execContextCreate (h : IdsFresh s) : NextFresh (execContextCreate s) := by
  unfold Machine.execContextCreate
  split
  · exact .ite h (.ite h.meetDesc.event (IdsFresh.modCtx (.setElems h.meetDesc)).clearHeads.readDesc)
  · exact h

theorem IdsFresh.dropTranslations {c} (h : IdsFresh s) : IdsFresh (s.dropTranslations c) := h

theorem IdsFresh.execContextDestroy (h : IdsFresh s) : NextFresh (execContextDestroy s) := by
  unfold Machine.execContextDestroy
  split
  · exact .ite h (.ite h.modCtx.dropTranslations.settleSoon.writeStatus (.ite h.post (IdsFresh.post (.foldl (fun h => h.killLaunch) h.modCtx))))
  · exact h

theorem IdsFresh.startInval {c ctl users} (h : IdsFresh s) : IdsFresh (s.startInval c ctl users) := h.modCtx
theorem IdsFresh.invalAll {c} (h : IdsFresh s) : IdsFresh (s.invalAll c) := h

theorem IdsFresh.execTranslationInvalidatePage (h : IdsFresh s) : NextFresh (execTranslationInvalidatePage s) := by
  unfold Machine.execTranslationInvalidatePage
  repeat' split
  exacts [h, h.of_eq rfl rfl, h]

theorem IdsFresh.execTranslationInvalidateAll (h : IdsFresh s) : NextFresh (execTranslationInvalidateAll s) := by
  unfold Machine.execTranslationInvalidateAll
  repeat' split
  exacts [h, h.startInval.invalAll, h]

theorem IdsFresh.execTensorInvalidate (h : IdsFresh s) : NextFresh (execTensorInvalidate s) := by
  unfold Machine.execTensorInvalidate
  split
  · split
    · exact h
    · extract_lets tid lines s1 s2 s3
      have h2 : IdsFresh s2 := h.of_eq rfl rfl
      have h3 : IdsFresh s3 := .foldl (fun h => h.dropLine) h2
      exact IdsFresh.ite h3.invalAll h3
  · exact h

theorem IdsFresh.execInvalidationComplete (h : IdsFresh s) : NextFresh (execInvalidationComplete s) := by
  unfold Machine.execInvalidationComplete
  repeat' split
  exacts [h, h.modCtx, h]

theorem IdsFresh.testWord {u} (h : IdsFresh s) : IdsFresh (s.testWord u) := by
  unfold State.testWord
  extract_lets
  repeat' split
  exacts [.event h, .event h, h.post, h]

theorem IdsFresh.selfTest {failing} (h : IdsFresh s) : IdsFresh (s.selfTest failing) := .foldl (fun h => h.testWord) h
theorem IdsFresh.boot (h : IdsFresh s) : IdsFresh s.boot := .ite h (.event h)
theorem IdsFresh.rename {old new} (h : IdsFresh s) : IdsFresh (s.rename old new) := .ite h h

theorem IdsFresh.execColdReset (h : IdsFresh s) : NextFresh (execColdReset s) := by
  unfold Machine.execColdReset
  split
  · extract_lets mine r p t
    have ht : IdsFresh t := fun q hq => absurd hq List.not_mem_nil
    clear_value t
    exact NextFresh.next ht.rename.event.selfTest.boot
  · exact h

theorem IdsFresh.execPowerLoss (h : IdsFresh s) : NextFresh (execPowerLoss s) := by
  unfold Machine.execPowerLoss
  repeat' split
  all_goals exact h

/-- A warm reset forgets every operation. -/
theorem IdsFresh.afterWarm : IdsFresh s.afterWarm := by
  unfold State.afterWarm
  extract_lets r m t
  have ht : IdsFresh t := fun q hq => absurd hq List.not_mem_nil
  clear_value t
  exact ht.event.selfTest.boot

theorem IdsFresh.execWarmReset (h : IdsFresh s) : NextFresh (execWarmReset s) := by
  unfold Machine.execWarmReset
  repeat' split
  exacts [IdsFresh.afterWarm, h.post, IdsFresh.post (.foldl (fun h => h.killLaunch) h), h]

theorem IdsFresh.execPowerGrant (h : IdsFresh s) : NextFresh (execPowerGrant s) := by
  unfold Machine.execPowerGrant
  repeat' split
  all_goals exact h

theorem IdsFresh.execThermalThrottle (h : IdsFresh s) : NextFresh (execThermalThrottle s) := by
  unfold Machine.execThermalThrottle
  repeat' split
  exacts [h, IdsFresh.event h, h]

theorem IdsFresh.execThermalRecover (h : IdsFresh s) : NextFresh (execThermalRecover s) := by
  unfold Machine.execThermalRecover
  repeat' split
  all_goals exact h

theorem IdsFresh.execThermalShutdown (h : IdsFresh s) : NextFresh (execThermalShutdown s) := by
  unfold Machine.execThermalShutdown
  repeat' split
  exacts [h.of_eq rfl rfl, h]

theorem IdsFresh.execIdentWrite (h : IdsFresh s) : NextFresh (execIdentWrite s) := by
  unfold Machine.execIdentWrite
  split
  · extract_lets _ s1
    have h1 : IdsFresh s1 := .ite h.rename (.of_eq h.rename rfl rfl)
    exact h1
  · exact h

theorem IdsFresh.doeGo (h : IdsFresh s) : IdsFresh s.doeGo := by
  unfold State.doeGo
  extract_lets _ _ s1
  have h1 : IdsFresh s1 := h
  repeat' split
  exacts [h1, h1.post, h1]

theorem IdsFresh.doeWrite {off v} (h : IdsFresh s) : IdsFresh (s.doeWrite off v) := .ite (.ite h (.ite h.doeGo h)) (.ite h (.ite h h))

theorem IdsFresh.execRegisterWrite (h : IdsFresh s) : NextFresh (execRegisterWrite s) := by
  unfold Machine.execRegisterWrite
  repeat' split
  exacts [h, h.doeWrite, NextFresh.ite h.modCtx h, h]

theorem IdsFresh.spdmAnswer {b} (h : IdsFresh s) : IdsFresh (s.spdmAnswer b) := h

theorem IdsFresh.execSpdmRequest (h : IdsFresh s) : NextFresh (execSpdmRequest s) := by
  unfold Machine.execSpdmRequest
  repeat' split
  exacts [h.spdmAnswer, h, h]

theorem IdsFresh.execSpdmSlhDsaRequest (h : IdsFresh s) : NextFresh (execSpdmSlhDsaRequest s) := by
  unfold Machine.execSpdmSlhDsaRequest
  repeat' split
  all_goals exact h

theorem IdsFresh.execDoeDiscovery (h : IdsFresh s) : NextFresh (execDoeDiscovery s) := by
  unfold Machine.execDoeDiscovery
  repeat' split
  exacts [NextFresh.ite h h, h]

/-! The host's accesses. -/

theorem IdsFresh.hostMeet {line} (h : IdsFresh s) : IdsFresh (s.hostMeet line) := by
  unfold State.hostMeet
  extract_lets _ s1
  have h1 : IdsFresh s1 := by
    unfold s1
    repeat' split
    exacts [h.settle.touch, h.settle]
  exact .ite h1 h1

theorem IdsFresh.freshStatus {key n} (h : IdsFresh s) : IdsFresh (s.freshStatus key n) := .foldl (fun h => h.writeStatus) h
theorem IdsFresh.postFirst {w} (h : IdsFresh s) : IdsFresh (s.postFirst w) := h

theorem IdsFresh.execHostCxlMemRead (h : IdsFresh s) : NextFresh (execHostCxlMemRead s) := by
  unfold Machine.execHostCxlMemRead
  split
  · extract_lets _ s1
    have h1 : IdsFresh s1 := .foldl (fun h => h.hostMeet) h.freshStatus
    repeat' split
    exacts [h, h.postFirst, IdsFresh.event h1, h1]
  · exact h

theorem IdsFresh.execHostCxlMemWrite (h : IdsFresh s) : NextFresh (execHostCxlMemWrite s) := by
  unfold Machine.execHostCxlMemWrite
  repeat' split
  exacts [h, NextFresh.ite h (NextFresh.ite h.postFirst (IdsFresh.commitBytes (.foldl (fun h => h.hostMeet) h))), h]

theorem IdsFresh.execHostSnoop (h : IdsFresh s) : NextFresh (execHostSnoop s) := by
  unfold Machine.execHostSnoop
  repeat' split
  exacts [h.hostDrop, h]

theorem IdsFresh.modPq {c k f} (h : IdsFresh s) : IdsFresh (s.modPq c k f) := h.modCtx
theorem IdsFresh.joinQueue {c q packets} (h : IdsFresh s) : IdsFresh (s.joinQueue c q packets) := .foldl (fun h => h.deviceWrite.modLq) h

theorem IdsFresh.execPullQueuePull (h : IdsFresh s) : NextFresh (execPullQueuePull s) := by
  unfold Machine.execPullQueuePull
  split
  · extract_lets x s1 tail n at_ s2 s3 s4 s5
    have h1 : IdsFresh s1 := h.deviceMeet
    have h2 : IdsFresh s2 := h1.deviceMeet
    have h5 : IdsFresh s5 := h2.joinQueue.modPq.deviceWrite
    exact NextFresh.ite h1 (NextFresh.ite h2.modPq.event (IdsFresh.ite h5.post h5))
  · exact h

/-! Scalar instructions. -/

theorem IdsFresh.execBinary {hd b f} (h : IdsFresh s) : NextFresh (execBinary hd b f s) := by
  unfold Machine.execBinary
  repeat' split
  exacts [h.fire1, h]

theorem IdsFresh.execUnary {hd f} (h : IdsFresh s) : NextFresh (execUnary hd f s) := by
  unfold Machine.execUnary
  repeat' split
  exacts [h.fire1, h]

theorem IdsFresh.execTernary {hd b f} (h : IdsFresh s) : NextFresh (execTernary hd b f s) := by
  unfold Machine.execTernary
  repeat' split
  exacts [h.fire1, h]

theorem IdsFresh.execTest {hd b pd f} (h : IdsFresh s) : NextFresh (execTest hd b pd f s) := by
  unfold Machine.execTest
  repeat' split
  exacts [h.fireTest, h]

theorem IdsFresh.execMovi {hd k} (h : IdsFresh s) : NextFresh (execMovi hd k s) := by
  unfold Machine.execMovi
  repeat' split
  exacts [h.fire1, h]

theorem IdsFresh.execTnul {hd vc pd} (h : IdsFresh s) : NextFresh (execTnul hd vc pd s) := by
  unfold Machine.execTnul
  repeat' split
  exacts [h.fireTest, h]

/-! Memory upkeep. -/

theorem IdsFresh.countError {arr} (h : IdsFresh s) : IdsFresh (s.countError arr) := h
theorem IdsFresh.unitFails {src u} (h : IdsFresh s) : IdsFresh (s.unitFails src u) := .event h

theorem IdsFresh.queueFails {e vc n} (h : IdsFresh s) : IdsFresh (s.queueFails e vc n) := by
  unfold State.queueFails
  repeat' split
  exacts [h, h.of_eq rfl rfl]

theorem IdsFresh.wordFails {key} (h : IdsFresh s) : IdsFresh (s.wordFails key) := by
  unfold State.wordFails
  extract_lets u q s1
  have h1 : IdsFresh s1 := h.event
  exact .ite h1.queueFails (.ite h1 (h1.of_eq rfl rfl))

theorem IdsFresh.execHbmRefresh (h : IdsFresh s) : NextFresh (execHbmRefresh s) := by
  unfold Machine.execHbmRefresh
  repeat' split
  exacts [h, IdsFresh.event h, h]

theorem IdsFresh.execHbmScrub (h : IdsFresh s) : NextFresh (execHbmScrub s) := by
  unfold Machine.execHbmScrub
  repeat' split
  exacts [h.countError, h.wordFails, h, IdsFresh.ite h.countError.post h.countError, h.unitFails, h]

theorem IdsFresh.execL2Scrub (h : IdsFresh s) : NextFresh (execL2Scrub s) := by
  unfold Machine.execL2Scrub
  repeat' split
  exacts [h, IdsFresh.ite h.countError.post h.countError, h.unitFails.modFrame.post, h]

theorem IdsFresh.execL2FrameSpare (h : IdsFresh s) : NextFresh (execL2FrameSpare s) := by
  unfold Machine.execL2FrameSpare
  split
  · split
    · exact h
    · extract_lets s1 _ _ s2
      have h1 : IdsFresh s1 := by
        unfold s1
        repeat' split
        exacts [h.dropLine, h]
      have h2 : IdsFresh s2 := h1
      repeat' split
      exacts [IdsFresh.event h2, h2]
  · exact h

theorem IdsFresh.execPseudoChannelSpare (h : IdsFresh s) : NextFresh (execPseudoChannelSpare s) := by
  unfold Machine.execPseudoChannelSpare
  repeat' split
  exacts [h, h.post, IdsFresh.post (.event h), h]

theorem IdsFresh.execPseudoChannelCopyDone (h : IdsFresh s) : NextFresh (execPseudoChannelCopyDone s) := by
  unfold Machine.execPseudoChannelCopyDone
  repeat' split
  all_goals exact h

theorem IdsFresh.execStackDegrade (h : IdsFresh s) : NextFresh (execStackDegrade s) := by
  unfold Machine.execStackDegrade
  repeat' split
  exacts [h, IdsFresh.event h, h]

/-! Time, and the turn of a choice. -/

theorem IdsFresh.passTime (h : IdsFresh s) : IdsFresh s.passTime := by
  unfold State.passTime
  extract_lets _ s1
  have h1 : IdsFresh s1 := .ite h (.foldl (fun h => h.modElem) h)
  exact h1

theorem IdsFresh.turnTo {c} (h : IdsFresh s) : IdsFresh (s.turnTo c) := by
  unfold State.turnTo
  extract_lets
  repeat' split
  all_goals exact .of_eq h.passTime rfl rfl

end Sys2Proof.Safety
end

section
/-! The instructions' numbers together, and the obligation. -/

namespace Sys2Proof.Safety

open Sys2Proof.Machine

/-- What each instruction's meaning leaves, in the order of exec's arms. -/
theorem IdsFresh.exec {s i} (h : IdsFresh s) : NextFresh (Machine.exec i s) := by
  unfold Machine.exec
  split
  exacts [h.faultHere, h.execBinary, h.execBinary, h.execBinary, h.execBinary, h.execBinary, h.execBinary, h.execBinary, h.execBinary,
    h.execBinary, h.execUnary, h.execUnary, h.execBinary, h.execBinary, h.execBinary, h.execBinary, h.execBinary, h.execBinary, h.execBinary,
    h.execBinary, h.execUnary, h.execBinary, h.execBinary, h.execBinary, h.execBinary, h.execUnary, h.execUnary, h.execUnary, h.execUnary,
    h.execBinary, h.execBinary, h.execTernary, h.execBinary, h.execUnary, h.execMovi, h.execUnary, h.execTernary, h.execUnary, h.execUnary,
    h.execTest, h.execTest, h.execTest, h.execTest, h.execTest, h.execTest, h.execTest, h.execTnul, h.execRead, h.execWrite, h.execNul,
    h.execBr, h.execBrx, h.execJtab, h.execCall, h.execRet, h.execExit, h.execFan, h.execStamp, h.execStampOp, h.execStampOp, h.execStampOp,
    h.execSend, h.execSends, h.execMsg, h.execNotify, h.execRnext, h.execRsplit, h.execYield, h.execShdef, h.execShset, h.execShget,
    h.execShadv, h.vec2, h.vec2, h.vec2, h.vec3, h.vec3, h.vec2, h.vec2, h.vec1, h.vec1, h.vec2, h.vec1, h.vec1, h.vec1, h.vec1, h.vec1,
    h.vec1, h.vec1, h.vec1, h.vec1, h.execVcvt, h.execVscale, h.execVqnt, h.vec2, h.vec2, h.vec2, h.vec2, h.vec2, h.execVcmp, h.vec3,
    h.execVclamp, h.vecReduce, h.vecReduce, h.vecReduce, h.vecReduce, h.vecReduce, h.execVperm, h.execVgath, h.execVscat, h.execVjoin,
    h.execViota, h.execVfill, h.vec1, h.execLd, h.execSt, h.execLdp, h.execStp, h.execPref, h.execFlush, h.execInval, h.execLds, h.execSts,
    h.execStclr, h.execAtomicWord, h.execAtomicWord, h.execAtomicWord, h.execAtomicWord, h.execAtomicWord, h.execAtomicWord,
    h.execAtomicWord, h.execAtomicWord, h.execAtomicWord, h.execAcas, h.execAcasm, h.execAenq, h.execAchase, h.execAbxa, h.execWenq,
    h.execOtok, h.execOjoin, h.execFence, h.execTlwait, h.execTlread, h.execTlbump, h.execSnap, h.execSnacc, h.execSnrej, h.execSnqry,
    h.execStgput, h.execStgwait, h.execStgclose, h.copyHere, h.copyHere, h.copyHere, h.copyHere, h.execCpysus, h.execCpyres, h.execMldb,
    h.execMscl, h.execMma, h.execMacrd, h.execMacpk, h.execMacclr, h.execMacst, h.execCnclr, h.execCnfeed, h.cnTwo, h.cnTwo, h.cnTwo,
    h.cnOne, h.execCneval, h.execCnmin, h.cnOne, h.cnMemory, h.cnMemory, h.execCninfo, h.execTrap, h.execEret, h.execCsrrd, h.execCsrwr,
    h.execBkpt, h.execSleep, h.execPerf, h.execBlockFetch, h.execBlockCommit, h.execBlockQuiescentFault, h.execActivationStart,
    h.execTaskPromote, h.execMessageArrive, h.execBindingFill, h.execLongLatencyResult, h.execRnextServe, h.execStageWaiterServe,
    h.execSleepExpire, h.execTlwaitTimeout, h.execTlbumpComplete, h.execSpillTimeout, h.execBatchApply, h.execFrontierResume,
    h.execNotificationArrive, h.execBatchAck, h.execLoopAdmit, h.execPacketAccept, h.execLinkDisable, h.execReductionNodeArrive,
    h.execReductionTimeout, h.execHomeAtomic, h.execAenqAtHome, h.execAchaseHop, h.execStructLdsAtAgent, h.execStructStsAtAgent,
    h.execStructStclrAtAgent, h.execReaderCancel, h.execWenqAtTarget, h.execWenqHeadWake, h.execWenqRingTimeout, h.execLinkRequestArrive,
    h.execLinkRetransmit, h.execLinkTimeout, h.execReplyEntryAgeOut, h.execL2Access, h.execL2FillComplete, h.execPageWalk,
    h.execWalkComplete, h.execSettleBackground, h.execHbmRefresh, h.execHbmScrub, h.execL2Scrub, h.execL2FrameSpare,
    h.execPseudoChannelSpare, h.execPseudoChannelCopyDone, h.execStackDegrade, h.execCopyStart, h.execCopyStep, h.execFollowOnStart,
    h.execMacroLoad, h.execScaleTokenAccept, h.execMmaStart, h.execMmaComplete, h.execMacclrPerform, h.execMacstPerform, h.execCanopyLoad,
    h.execCanopyStore, h.execLaunchDoorbell, h.execLaunchTake, h.execDeterminismChange, h.execLoadPlace, h.execLoadDrain, h.execPreemptStart,
    h.execPreemptSave, h.execLoadResume, h.execBedFail, h.execPullQueuePull, h.execTrapRecordDeliver, h.execLaneFail, h.execPlaneFail,
    h.execHostCxlMemRead, h.execHostCxlMemWrite, h.execTranslationInvalidatePage, h.execTranslationInvalidateAll, h.execTensorInvalidate,
    h.execInvalidationComplete, h.execContextCreate, h.execContextDestroy, h.execIdentWrite, h.execKillQueue, h.execKillContext,
    h.execKillComplete, h.execDbgRefire, h.execDbgKill, h.execDbgRefireSuppress, h.execWarmReset, h.execColdReset, h.execRegisterWrite,
    h.execSpdmRequest, h.execSpdmSlhDsaRequest, h.execDoeDiscovery, h.execPowerGrant, h.execThermalThrottle, h.execThermalRecover,
    h.execThermalShutdown, h.execFlitResend, h.execHostSnoop, h.execPowerLoss]

theorem IdsFresh.step {s} (h : IdsFresh s) : NextFresh (step s) := by
  unfold Machine.step
  split
  · exact h.passTime
  · split
    · exact h.turnTo.exec
    · trivial

end Sys2Proof.Safety
end

section
namespace Sys2Proof.Proofs

open Sys2Proof.Machine

/-- Settles O3: time that passes and every instruction's meaning keep the number of the next operation new. -/
theorem operationsHaveTheirOwnNumbers : Obligations.OperationsHaveTheirOwnNumbers := by
  unfold Obligations.OperationsHaveTheirOwnNumbers
  intro s h t ht
  have hs := h.step
  rw [ht] at hs
  exact hs

end Sys2Proof.Proofs
end

section
/-! SUPPORT. Why the third part of O28 fails (R103, R111). SNACC sets the epoch of the snapshot that it ends to merging or retiring, and returns to free
every value that R103 lets return. The epoch of a snapshot under which nothing was pushed owns no shadow: where no epoch names it as its parent, the same
SNACC frees it, and its entry reads free and neither merging nor retiring. -/

namespace Sys2Proof.Proofs

open Sys2Proof.Machine

/-! Epochs that return to free. -/

/-- R103: an entry that is free stays as it is. -/
theorem mem_sweep_of_free {c : Ctx} {e : Nat × Epoch} (he : e ∈ c.epochs) (hf : e.2.state = .free) (n : Nat) : e ∈ (c.sweep n).epochs := by
  induction n generalizing c with
  | zero => exact he
  | succ n ih => exact ih (List.mem_map.mpr ⟨e, he, by simp [Ctx.freeable, hf]⟩)

/-- R103: a value that may return to free does so in the first round. -/
theorem mem_sweep_of_freeable {c : Ctx} {e : Nat × Epoch} (he : e ∈ c.epochs) (hf : c.freeable e = true) (n : Nat) :
    (e.1, { e.2 with state := .free }) ∈ (c.sweep (n + 1)).epochs :=
  mem_sweep_of_free (List.mem_map.mpr ⟨e, he, by simp [hf]⟩) rfl n

/-- R111: the snapshot of a slot has ended, and no value has yet returned to free. -/
def ending (c : Ctx) (slot : Nat) (r : Range) : Ctx :=
  { c with
    ranges := c.ranges.erase slot
    epochs := c.epochs.map fun e =>
      if e.1 = r.epoch then (e.1, { e.2 with state := if r.parent.isSome then EpState.merging else .retiring }) else e }

theorem accept_eq_sweep (c : Ctx) (slot : Nat) (r : Range) : c.accept slot r = (ending c slot r).sweep 255 := rfl

theorem mem_ending {c : Ctx} {r : Range} {x : Epoch} (hx : (r.epoch, x) ∈ c.epochs) (slot : Nat) :
    (r.epoch, { x with state := if r.parent.isSome then .merging else .retiring }) ∈ (ending c slot r).epochs :=
  List.mem_map.mpr ⟨_, hx, by simp⟩

/-- R103: the end of a snapshot changes the PARENT of no epoch. -/
theorem parent_ending {c : Ctx} {slot : Nat} {r : Range} {n : Nat} (hn : ∀ o ∈ c.epochs, o.2.parent ≠ n) :
    ∀ o ∈ (ending c slot r).epochs, o.2.parent ≠ n := by
  intro o ho
  obtain ⟨e, he, rfl⟩ := List.mem_map.mp ho
  split <;> exact hn e he

/-- R103, R111: the accepted snapshot's epoch is free at once, where it owns no shadow and no epoch names it as its parent. -/
theorem mem_accept_of_idle {c : Ctx} {slot : Nat} {r : Range} {x : Epoch} (hx : (r.epoch, x) ∈ c.epochs) (hp : x.pend = 0)
    (hn : ∀ o ∈ c.epochs, o.2.parent ≠ r.epoch) : (r.epoch, { x with state := .free }) ∈ (c.accept slot r).epochs := by
  have hchild : ((ending c slot r).epochs.any fun o => o.2.state != .free && o.2.parent == r.epoch) = false := by
    simpa using fun n y hy _ => parent_ending hn (n, y) hy
  rw [accept_eq_sweep]
  refine mem_sweep_of_freeable (mem_ending hx slot) ?_ 254
  cases r.parent <;> simp [Ctx.freeable, hp, hchild]

/-! SNACC, and the context that it leaves. -/

/-- R111, R326: SNACC of an innermost open snapshot accepts it. -/
theorem exec_snacc_accepts {h : Head} {s : State} {o : Opnds} {slot : Nat} {r : Range} (ho : s.operandsSnap h true false = some o)
    (hr : s.replayHere = none) (hs : (s.ctx (s.task s.cur.task).ctx).rangeOf o.a.v = some (slot, r)) (hh : r.held = false)
    (hn : ∀ x ∈ (s.ctx (s.task s.cur.task).ctx).ranges, x.2.parent ≠ some slot) :
    exec (.snacc h) s = .next (((s.modCtx (s.task s.cur.task).ctx fun c => c.accept slot r).settleSoon
      (s.task s.cur.task).ctx).completeReplay h 0 0) := by
  have hexec : exec (.snacc h) s = execSnacc h s := rfl
  have hany : ((s.ctx (s.task s.cur.task).ctx).ranges.any fun x => x.2.parent == some slot) = false := by simpa using hn
  simp only [hexec, execSnacc, ho, hr, hs, hh, hany, Bool.false_eq_true, if_false]

/-- R301: a replayed instruction without targets leaves every context as it is. -/
theorem ctxs_completeReplay {s : State} {f : Firing} {h : Head} (hh : s.here = some f) (hf : f.fault = none) (h0 : h.t0 = none) (h1 : h.t1 = none)
    (r0 r1 : Word) : (s.completeReplay h r0 r1).ctxs = s.ctxs := by
  have hhere : (s.keepReplay s.cur.task ⟨s.cur.idx, r0, r1, []⟩).here = some f := by
    simpa [State.keepReplay, State.here, Task.flight] using hh
  rw [State.completeReplay, State.fire1, fire_eq hhere]
  · rfl
  · simpa [Firing.deliver, h0, h1] using hf

/-- The context that was changed, after the settlement of its lines is posted and the instruction has fired. -/
theorem ctx_completeReplay {s : State} {f : Firing} {h : Head} (hh : s.here = some f) (hf : f.fault = none) (h0 : h.t0 = none) (h1 : h.t1 = none)
    (n : Nat) (g : Ctx → Ctx) : (((s.modCtx n g).settleSoon n).completeReplay h 0 0).ctx n = g (s.ctx n) := by
  rw [State.ctx, ctxs_completeReplay (s := (s.modCtx n g).settleSoon n) hh hf h0 h1]
  exact ctx_modCtx s n g

end Sys2Proof.Proofs

namespace Sys2Proof.Proofs.UnwrittenSnapshot

open Sys2Proof.Machine

/-- A snapshot of the first 64 KiB: outermost, open, of epoch 1 and generation 1. -/
def range : Range := { depth := 0, parent := none, epoch := 1, held := false, base := 0, len := 1, gen := 1 }

/-- The context with that snapshot in slot 0 (handle 32), its epoch owning no shadow. -/
def context : Ctx := { ranges := [(0, range)], gens := [(0, 1)], epochs := [(1, ⟨.opened, 0, 0⟩)] }

/-- SNACC's head: no guards and no targets. -/
def head : Head := { ga := none, gb := none, t0 := none, t1 := none, ch := 0, sctl := 0 }

/-- SNACC is about to fire in a block of its own, the handle in slot a. -/
def accepting : State :=
  ({ State.reset.withFetchWord 64 (encodeRaw 0x120 head 0).toNat with ctxs := [(0, context)] } : State).modFlight ⟨0, 0, 0⟩ 0
    fun f => { f with slots := f.slots.put (0, 0) (plain 32) }

theorem accepting_here : ∃ f, accepting.here = some f ∧ f.fault = none := ⟨_, rfl, rfl⟩

theorem accepting_task : (accepting.task accepting.cur.task).ctx = 0 := rfl

theorem accepting_operands : accepting.operandsSnap head true false = some { a := plain 32 } := by decide

theorem accepting_rangeOf : (accepting.ctx 0).rangeOf (plain 32).v = some (0, range) := by decide

theorem accepting_innermost : ∀ x ∈ (accepting.ctx 0).ranges, x.2.parent ≠ some 0 := by decide

theorem epoch_free_in_accept : (1, ⟨.free, 0, 0⟩) ∈ (context.accept 0 range).epochs :=
  mem_accept_of_idle (x := ⟨.opened, 0, 0⟩) (List.mem_singleton_self _) rfl (by decide)

/-- Refutes O28: SNACC of an outermost snapshot under which nothing was written leaves its epoch free and not retiring. -/
theorem not_snapshots : ¬ Obligations.Snapshots := by
  unfold Obligations.Snapshots
  intro h
  obtain ⟨-, -, hends⟩ := h
  obtain ⟨hsnacc, -⟩ := hends head accepting _
  obtain ⟨d, hd, -, hstate⟩ := hsnacc 0 _ accepting_operands rfl accepting_rangeOf rfl accepting_innermost
  have hctx : context.accept 0 range = d := by
    obtain ⟨f, hhere, hfault⟩ := accepting_here
    rw [exec_snacc_accepts accepting_operands rfl accepting_rangeOf rfl accepting_innermost, accepting_task] at hd
    have hsame := congrArg (fun t => t.ctx 0) (Host.Outcome.next.inj hd)
    rwa [ctx_completeReplay hhere hfault rfl rfl, ctx_completeReplay hhere hfault rfl rfl] at hsame
  subst hctx
  have hretiring : EpState.free = .retiring := hstate _ epoch_free_in_accept rfl
  cases hretiring

end Sys2Proof.Proofs.UnwrittenSnapshot
end

section
/-! SUPPORT. The choice of a step, and the machine turned to it (R215; log 2). -/

namespace Sys2Proof.Proofs

open Sys2Proof.Machine

/-! Time that passes. -/

/-- The two states differ at most in their elements, and in each element only in the count of its busy cycles. -/
def BusyOnly (s t : State) : Prop :=
  (∃ x, t = { s with elems := x }) ∧ ∀ e, { t.elem e with busy := (s.elem e).busy } = s.elem e

theorem BusyOnly.refl (s : State) : BusyOnly s s := ⟨⟨s.elems, rfl⟩, fun _ => rfl⟩

theorem BusyOnly.trans {s t u : State} (h : BusyOnly s t) (k : BusyOnly t u) : BusyOnly s u := by
  obtain ⟨⟨x, rfl⟩, h⟩ := h
  obtain ⟨⟨y, rfl⟩, k⟩ := k
  exact ⟨⟨y, rfl⟩, fun e => by rw [← h e, ← k e]⟩

theorem busyOnly_count (s : State) (e : ElemRef) (n : Word) : BusyOnly s (s.modElem e fun x => { x with busy := x.busy + n }) := by
  refine ⟨⟨_, rfl⟩, fun d => ?_⟩
  rw [elem_modElem_if]
  split
  · subst_vars; rfl
  · rfl

theorem busyOnly_foldl (n : Word) (l : List ElemRef) (s : State) :
    BusyOnly s (l.foldl (fun (s : State) e => s.modElem e fun x => { x with busy := x.busy + n }) s) := by
  induction l generalizing s with
  | nil => exact .refl s
  | cons e r ih => exact (busyOnly_count s e n).trans (ih _)

/-- R368: while time passes, the clock and the busy counters of the elements advance, and nothing else changes. -/
theorem passTime_eq (s : State) : ∃ t : State, BusyOnly s t ∧ s.passTime = { t with tick := s.tick + 1, cycle := s.cycle + Config.elapsed s.tick } := by
  unfold State.passTime
  split
  · exact ⟨s, .refl s, rfl⟩
  · have h := busyOnly_foldl (BitVec.ofNat 64 (Config.elapsed s.tick)) s.busyElems s
    refine ⟨_, h, ?_⟩
    obtain ⟨⟨x, hx⟩, -⟩ := h
    simp only [hx]

/-! The turn of a choice. -/

theorem turnTo_eq (s : State) (c : Cursor) : s.turnTo c = { s.passTime with
    cur := c, agenda := match c.work with | some w => s.passTime.agenda.erase w | none => s.passTime.agenda } := by
  unfold State.turnTo
  cases c.work <;> rfl

/-- The work of the choice has left the agenda, the cursor names the choice, and time has passed; nothing else differs. -/
theorem turnTo_spec (s : State) (c : Cursor) :
    (s.turnTo c).cur = c ∧ (s.turnTo c).agenda = (match c.work with | some w => s.agenda.erase w | none => s.agenda)
      ∧ (s.turnTo c).tick = s.tick + 1
      ∧ { s.turnTo c with cur := s.cur, agenda := s.agenda, tick := s.tick, cycle := s.cycle, elems := s.elems } = s
      ∧ ∀ e, { (s.turnTo c).elem e with busy := (s.elem e).busy } = s.elem e := by
  obtain ⟨t, ⟨⟨x, rfl⟩, hbusy⟩, ht⟩ := passTime_eq s
  rw [turnTo_eq, ht]
  exact ⟨rfl, rfl, rfl, rfl, hbusy⟩

/-! The step. -/

section
variable {s : State} {c : Cursor}

/-- A step executes the row of the choice. -/
theorem step_of_choice (h : s.choices[chosen s.choices.length s.tick]? = some c) {i : Instr} (hi : s.rowAt c = some i) : step s = exec i (s.turnTo c) := by
  simp only [step, h, hi]

theorem rowAt_work {w : Work} (hw : c.work = some w) : s.rowAt c = some (Work.row w) := by
  simp only [State.rowAt, hw]

theorem rowAt_word {w : Word} {i : Instr} (hc : c.work = none) (hw : s.wordAt c = some w) (hi : decodeWord w = .ok i) : s.rowAt c = some i := by
  simp only [State.rowAt, hc, hw, hi]

end

/-- One choice alone is taken, whatever the clock. -/
theorem chosen_one (tick : Nat) : chosen 1 tick = 0 := rfl

/-- With no choice, a step only lets time pass. -/
theorem step_idle {s : State} (h : s.choices = []) : step s = .next s.passTime := by
  simp only [step, h, List.getElem?_nil]

/-- Settles O4: the step executes the row of its choice (`step_of_choice`) at the machine turned to it (`turnTo_spec`). -/
theorem stepRunsTheDecodedInstruction : Obligations.StepRunsTheDecodedInstruction := by
  unfold Obligations.StepRunsTheDecodedInstruction
  intro s
  refine ⟨fun c hc => ⟨fun w i hwork hw hi => ?_, fun w hw => ?_⟩, fun c hc => ?_, step_idle, turnTo_spec s⟩
  · exact step_of_choice hc (rowAt_word hwork hw hi)
  · exact step_of_choice hc (rowAt_work hw)
  · rw [hc, List.length_singleton, chosen_one, List.getElem?_cons_zero]

end Sys2Proof.Proofs
end

section
/-! SUPPORT. What a firing delivers: the slots of its targets, where they are empty and differ (R215, R229, R231, R265). -/

namespace Sys2Proof.Proofs

open Sys2Proof.Machine Sys2Proof.Safety

/-- R229: a value sent to one target after another. -/
def sendAll (f : Firing) (ts : List Target) (v : SlotVal) : Firing := ts.foldl (fun f t => f.send (some t) v) f

theorem sendAll_append (f : Firing) (ts us : List Target) (v : SlotVal) : sendAll f (ts ++ us) v = sendAll (sendAll f ts v) us v :=
  List.foldl_append

theorem send_eq_sendAll (f : Firing) (t : Option Target) (v : SlotVal) : f.send t v = sendAll f t.toList v := by
  cases t <;> rfl

/-- R229: the delivery of one value to targets 0 and 1. -/
theorem deliver_eq_sendAll (f : Firing) (h : Head) (v : SlotVal) : f.deliver h v v = sendAll f (h.t0.toList ++ h.t1.toList) v := by
  rw [Firing.deliver, send_eq_sendAll, send_eq_sendAll, sendAll_append]

/-- What is sent does not depend on what has fired. -/
theorem sendAll_fired (f : Firing) (l : List Nat) (ts : List Target) (v : SlotVal) :
    sendAll { f with fired := l } ts v = { sendAll f ts v with fired := l } := by
  induction ts generalizing f with
  | nil => rfl
  | cons t r ih =>
    have hone : ({ f with fired := l } : Firing).send (some t) v = { f.send (some t) v with fired := l } := by
      simp only [Firing.send, Firing.arrive]
      cases f.slots.find (t.idx.toNat, Slot.num t.slot) <;> rfl
    exact (congrArg (sendAll · r v) hone).trans (ih (f.send (some t) v))

/-- R231: slots that are empty and differ take the value, and nothing else of the block changes. -/
theorem sendAll_empty {f : Firing} {ts : List Target} (hn : (ts.map slotOf).Nodup) (he : ∀ k ∈ ts.map slotOf, f.slots.find k = none) (v : SlotVal) :
    ∃ sl, sendAll f ts v = { f with slots := sl } ∧ ∀ k, sl.find k = if k ∈ ts.map slotOf then some v else f.slots.find k := by
  induction ts generalizing f with
  | nil => exact ⟨f.slots, rfl, fun k => by simp⟩
  | cons t r ih =>
    rw [List.map_cons, List.nodup_cons] at hn
    obtain ⟨ht, hr⟩ := hn
    have hsend : f.send (some t) v = { f with slots := f.slots.put (slotOf t) v } := send_none v (he _ (by simp))
    obtain ⟨sl, hsl, hfind⟩ := ih (f := { f with slots := f.slots.put (slotOf t) v }) hr fun k hk => by
      rw [find_put, if_neg (by rintro rfl; exact ht hk)]
      exact he k (by simp [hk])
    refine ⟨sl, (congrArg (sendAll · r v) hsend).trans hsl, fun k => ?_⟩
    rw [hfind, find_put]
    by_cases hk : k ∈ r.map slotOf
    · simp [hk]
    · by_cases e : k = slotOf t <;> simp [hk, e]

theorem fired_sendAll (f : Firing) (ts : List Target) (v : SlotVal) : (sendAll f ts v).fired = f.fired :=
  (congrArg Firing.fired (sendAll_fired f f.fired ts v) :)

/-- The state after the instruction at the cursor has fired and has sent a value to targets. -/
def firedTo (s : State) (ts : List Target) (v : SlotVal) : State :=
  (s.modFlight s.cur.task s.cur.which fun f => { sendAll f ts v with fired := s.cur.idx :: f.fired }).modElem (elemOf s.cur.task)
    fun e => { e with instrs := e.instrs + 1 }

/-- R215, R229, R368: what the firing leaves when the targets' slots are empty and differ. -/
theorem firedTo_spec {s : State} {f : Firing} (hh : s.here = some f) {ts : List Target} (hn : (ts.map slotOf).Nodup)
    (he : ∀ k ∈ ts.map slotOf, f.slots.find k = none) (v : SlotVal) :
    ∃ g, (firedTo s ts v).here = some g ∧ g.fired = s.cur.idx :: f.fired
      ∧ (∀ k, g.slots.find k = if k ∈ ts.map slotOf then some v else f.slots.find k)
      ∧ { g with fired := f.fired, slots := f.slots } = f ∧ FiresOnly s (firedTo s ts v) := by
  obtain ⟨sl, hsl, hfind⟩ := sendAll_empty hn he v
  refine ⟨_, here_changed hh _, rfl, ?_, ?_, firesOnly_of s _⟩
  · rw [hsl]; exact hfind
  · rw [hsl]

/-- A firing with one value for targets 0 and 1, after the same value has gone to further targets: no delivery raises a fault. -/
theorem fire_eq_firedTo {s u : State} {f : Firing} (hf : f.fault = none) (pre : List Target) (h : Head) (v : SlotVal)
    (hn : ((pre ++ (h.t0.toList ++ h.t1.toList)).map slotOf).Nodup)
    (he : ∀ k ∈ (pre ++ (h.t0.toList ++ h.t1.toList)).map slotOf, f.slots.find k = none) (hcur : u.cur = s.cur)
    (hu : u.here = some (sendAll f pre v))
    (hmod : ∀ g, u.modFlight s.cur.task s.cur.which g = s.modFlight s.cur.task s.cur.which fun f => g (sendAll f pre v)) :
    u.fire h v v = firedTo s (pre ++ (h.t0.toList ++ h.t1.toList)) v := by
  have hdeliver (f : Firing) : ({ sendAll f pre v with fired := s.cur.idx :: (sendAll f pre v).fired } : Firing).deliver h v v =
      { sendAll f (pre ++ (h.t0.toList ++ h.t1.toList)) v with fired := s.cur.idx :: f.fired } := by
    rw [deliver_eq_sendAll, sendAll_fired, ← sendAll_append, fired_sendAll]
  obtain ⟨sl, hsl, -⟩ := sendAll_empty hn he v
  rw [fire_eq hu h v v (by rw [hcur, hdeliver, hsl]; exact hf), hcur, hmod]
  simp only [hdeliver]
  rfl

/-- R229: a firing with one result. -/
theorem fire1_eq_firedTo {s : State} {f : Firing} (hh : s.here = some f) (hf : f.fault = none) (h : Head) (v : Word)
    (hn : ((h.t0.toList ++ h.t1.toList).map slotOf).Nodup) (he : ∀ k ∈ (h.t0.toList ++ h.t1.toList).map slotOf, f.slots.find k = none) :
    s.fire1 h v = firedTo s (h.t0.toList ++ h.t1.toList) (plain v) :=
  fire_eq_firedTo hf [] h (plain v) hn he rfl hh fun _ => rfl

/-- R265: FAN sends slot a to targets 2 and 3 as well. -/
theorem exec_fan_eq_firedTo {s : State} {f : Firing} {h : Head} {o : Opnds} (ho : s.operands h true false false = some o) (hh : s.here = some f)
    (hf : f.fault = none) (t2 : Target) (t3 : Option Target)
    (hn : (([t2] ++ t3.toList ++ (h.t0.toList ++ h.t1.toList)).map slotOf).Nodup)
    (he : ∀ k ∈ ([t2] ++ t3.toList ++ (h.t0.toList ++ h.t1.toList)).map slotOf, f.slots.find k = none) :
    exec (.fan h t2 t3) s = .next (firedTo s ([t2] ++ t3.toList ++ (h.t0.toList ++ h.t1.toList)) o.a) := by
  have hpre (f : Firing) : (f.send (some t2) o.a).send t3 o.a = sendAll f ([t2] ++ t3.toList) o.a := by
    rw [send_eq_sendAll, send_eq_sendAll, ← sendAll_append]; rfl
  have hexec : exec (.fan h t2 t3) s =
      .next ((s.modFlight s.cur.task s.cur.which fun f => (f.send (some t2) o.a).send t3 o.a).fire h o.a o.a) := by
    show execFan h t2 t3 s = _
    simp only [execFan, ho]
  simp only [hpre] at hexec
  have hhere : (s.modFlight s.cur.task s.cur.which fun f => sendAll f ([t2] ++ t3.toList) o.a).here = some (sendAll f ([t2] ++ t3.toList) o.a) := by
    rw [here_modFlight, hh]; rfl
  rw [hexec]
  exact congrArg Host.Outcome.next (fire_eq_firedTo hf ([t2] ++ t3.toList) h o.a hn he rfl hhere fun g => modFlight_modFlight ..)

/-- Settles O13: the empty slots of the targets, which differ, take the value one after another (`sendAll_empty`), and no delivery raises a fault. -/
theorem firingDelivers : Obligations.FiringDelivers := by
  unfold Obligations.FiringDelivers
  refine ⟨fun s h v f hh hf h0 h1 hne => ?_, fun h t2 t3 s o f ho hh hf => ?_⟩
  · have hn : ((h.t0.toList ++ h.t1.toList).map slotOf).Nodup := by
      cases e0 : h.t0 <;> cases e1 : h.t1 <;> simp
      exact hne _ _ e0 e1
    have hmem (k : Nat × Nat) : k ∈ (h.t0.toList ++ h.t1.toList).map slotOf ↔ h.t0.map slotOf = some k ∨ h.t1.map slotOf = some k := by
      cases h.t0 <;> cases h.t1 <;> simp [eq_comm]
    have he : ∀ k ∈ (h.t0.toList ++ h.t1.toList).map slotOf, f.slots.find k = none := by
      intro k hk
      rcases (hmem k).mp hk with hk | hk
      · obtain ⟨t, ht, rfl⟩ := Option.map_eq_some_iff.mp hk
        exact h0 t ht
      · obtain ⟨t, ht, rfl⟩ := Option.map_eq_some_iff.mp hk
        exact h1 t ht
    rw [fire1_eq_firedTo hh hf h v hn he]
    simpa only [hmem] using firedTo_spec hh hn he (plain v)
  · intro targets hn he
    have hperm : ([t2] ++ t3.toList ++ (h.t0.toList ++ h.t1.toList)).Perm (h.t0.toList ++ h.t1.toList ++ [t2] ++ t3.toList) := by
      rw [List.append_assoc (h.t0.toList ++ h.t1.toList)]
      exact List.perm_append_comm
    have hmem (k : Nat × Nat) : k ∈ ([t2] ++ t3.toList ++ (h.t0.toList ++ h.t1.toList)).map slotOf ↔ k ∈ targets := (hperm.map slotOf).mem_iff
    have hn' := (hperm.map slotOf).nodup_iff.mpr hn
    have he' : ∀ k ∈ ([t2] ++ t3.toList ++ (h.t0.toList ++ h.t1.toList)).map slotOf, f.slots.find k = none := fun k hk => he k ((hmem k).mp hk)
    have hspec := firedTo_spec hh hn' he' o.a
    simp only [hmem] at hspec
    obtain ⟨g, hg⟩ := hspec
    exact ⟨_, g, exec_fan_eq_firedTo ho hh hf t2 t3 hn' he', hg⟩

end Sys2Proof.Proofs
end

section
/-! SUPPORT. Instructions whose effect waits for the commit of their block, and what they check when they fire (R216, R267 to R271, R276, R364, R366). -/

namespace Sys2Proof.Proofs

open Sys2Proof.Machine Sys2Proof.Safety

/-! Bytes of a payload. -/

/-- R164: the bytes of a word, the lowest first. -/
theorem bytesOfNat_word (w : Word) : bytesOfNat 8 w.toNat = (List.range 8).map fun i => w.extractLsb' (8 * i) 8 := by
  refine List.ext_getElem (by simp) fun i h1 h2 => ?_
  have hi : i < 8 := by simpa using h1
  have := bytesOfNat_getD w.toNat hi
  rw [List.getD_eq_getElem _ _ h1] at this
  simp [this]

/-- The bytes that stand at the keys from one up. -/
theorem bytes_eq_map (s : State) (key n : Nat) : s.bytes key n = (List.range n).map fun i => s.byte (key + i) := by
  refine List.ext_getElem (by simp [bytes_length]) fun i h1 h2 => ?_
  have hi : i < n := by simpa [bytes_length] using h1
  have := bytes_getD s key hi
  rw [List.getD_eq_getElem _ _ h1] at this
  simp [this]

/-! Instructions that fire with an effect that waits. -/

section
variable {h : Head} {s : State} {f : Firing} {o : Opnds}

/-- An instruction that fires with its effect waiting changes nothing but its block. -/
theorem defers_of_exec {i : Instr} {d : Defer} (hh : s.here = some f) (he : exec i s = .next (s.atCommit d).fire0) :
    ∃ t, exec i s = .next t ∧ Defers s t f d := ⟨_, he, atCommit_fire0 hh d⟩

theorem exec_stampOp (ho : s.operands h false false false = some o) :
    exec (.lpin h) s = .next (s.atCommit (.stamp .inn)).fire0 ∧ exec (.lpnext h) s = .next (s.atCommit (.stamp .next)).fire0
      ∧ exec (.lpout h) s = .next (s.atCommit (.stamp .out)).fire0 := by
  have h (op : StampOp) : execStampOp h op s = .next (s.atCommit (.stamp op)).fire0 := by simp only [execStampOp, ho]
  exact ⟨h _, h _, h _⟩

/-- R268: a payload that the channel of its port takes leaves at the commit. -/
theorem sendOut_fits {port n : Nat} {c : ChanCfg} (hp : s.portChan s.cur.task port = some (n, c)) {payload : List Byte} (hl : payload.length ≤ c.size) :
    s.sendOut port payload = (s.atCommit (.send port payload)).fire0 := by
  simp only [State.sendOut, hp, if_neg (Nat.not_lt.mpr hl)]

theorem sendOut_unbound {port : Nat} (hp : s.portChan s.cur.task port = none) (payload : List Byte) :
    s.sendOut port payload = s.fireFault { code := .addrRange, detail := port } := by
  simp only [State.sendOut, hp]

theorem sendOut_long {port n : Nat} {c : ChanCfg} (hp : s.portChan s.cur.task port = some (n, c)) {payload : List Byte} (hl : c.size < payload.length) :
    s.sendOut port payload = s.fireFault { code := .addrRange, detail := port } := by
  simp only [State.sendOut, hp, if_pos hl]

theorem exec_send {port : BitVec 5} (ho : s.operandsStore h true false false = some o) :
    exec (.send h port) s = .next (s.sendOut port.toNat ((List.range 8).map fun i => o.a.v.extractLsb' (8 * i) 8)) := by
  show execSend h port s = _
  simp only [execSend, ho, bytesOfNat_word]

theorem exec_msg {port : BitVec 5} (ho : s.operandsStore h true true false = some o) :
    exec (.msg h port) s = .next (s.sendOut port.toNat ((List.range 8).map (fun i => o.a.v.extractLsb' (8 * i) 8)
      ++ (List.range 8).map fun i => o.b.v.extractLsb' (8 * i) 8)) := by
  show execMsg h port s = _
  simp only [execMsg, ho, bytesOfNat_word]

/-- R269: a channel of the element is bound to a task. -/
theorem exec_notify_bound {vc : BitVec 5} (ho : s.operandsStore h false false false = some o) {l : Load} (hl : s.loadOf s.cur.task = some l)
    {c : ChanCfg} (hc : c ∈ l.cfg.chans) (hp : c.place = s.placeOf s.cur.task vc.toNat) :
    exec (.notify h vc) s = .next (s.atCommit (.notify vc.toNat)).fire0 := by
  show execNotify h vc s = _
  have hbound : (l.cfg.chans.any fun c => c.place == s.placeOf s.cur.task vc.toNat) = true :=
    List.any_eq_true.mpr ⟨c, hc, beq_iff_eq.mpr hp⟩
  simp only [execNotify, ho, hl, hbound, if_true]

/-- R271: a cut of an element's interval waits for the commit, in a range operator. -/
theorem exec_rsplit (ho : s.operandsStore h true false false = some o) :
    exec (.rsplit h) s = .next (if s.inRange s.cur.task then (s.atCommit (.rsplit o.a.v)).fire0 else s.fireFault { code := .perm }) := by
  show execRsplit h s = _
  simp only [execRsplit, ho]
  cases s.inRange s.cur.task <;> rfl

theorem exec_rnext_plain (ho : s.operandsStore h false false false = some o) (hr : s.inRange s.cur.task = false) :
    exec (.rnext h) s = .next (s.fireFault { code := .perm }) := by
  show execRnext h s = _
  simp only [execRnext, ho, hr, Bool.not_false, if_true]

/-- R366: a return from a fault waits for the commit, in the trap operator, when its action is one of the three. -/
theorem exec_eret (ho : s.operandsStore h true true true = some o) :
    exec (.eret h) s = .next (if s.isTrapTask s.cur.task then
      (if 2 < o.b.v.toNat then s.fireFault { code := .addrRange } else (s.atCommit (.eret o.a.v o.b.v o.c.v)).fire0) else s.fireFault { code := .priv }) := by
  show execEret h s = _
  simp only [execEret, ho]
  cases s.isTrapTask s.cur.task
  · rfl
  · simp only [Bool.not_true, Bool.false_eq_true, if_false, if_true]
    split <;> rfl

/-! A message from a lane slice (R268). -/

/-- R268: a length of no bytes, of too many, or beyond the channel's size. -/
theorem exec_sends_length {port : BitVec 5} (ho : s.operandsRead h true true false = some o) {n : Nat} {c : ChanCfg}
    (hp : s.portChan s.cur.task port.toNat = some (n, c)) (hl : c.size < o.b.v.toNat ∨ o.b.v.toNat = 0 ∨ 256 < o.b.v.toNat) :
    exec (.sends h port) s = .next (s.fireFault { code := .addrRange, detail := port.toNat }) := by
  show execSends h port s = _
  simp only [execSends, ho, hp, if_pos hl]

/-- R8: an access within the lane slice of an element. -/
theorem checkLocal_ls {addr : Word} {size : Nat} (tile elem : Nat) (h : addr.toNat + size ≤ 2 ^ 15) :
    checkLocal .ls tile elem addr size 1 .read = .ok (localKey .ls tile elem addr.toNat) none := by
  have : ¬ spaceSize .ls < addr.toNat + size := Nat.not_lt.mpr h
  simp [checkLocal, this, Nat.mod_one]

/-- R268: the payload is read when the instruction fires, once the order of the task's accesses lets it. -/
theorem exec_sends {port : BitVec 5} (hh : s.here = some f) (ho : s.operandsRead h true true false = some o) {n : Nat} {c : ChanCfg}
    (hp : s.portChan s.cur.task port.toNat = some (n, c)) (h1 : 1 ≤ o.b.v.toNat) (h256 : o.b.v.toNat ≤ 256) (hsize : o.b.v.toNat ≤ c.size)
    (hin : o.a.v.toNat + o.b.v.toNat ≤ 2 ^ 15)
    (hready : s.readReady (keysOf (localKey .ls s.cur.task.tile s.cur.task.elem o.a.v.toNat) o.b.v.toNat) = true) (hord : s.orderOk false = true)
    (hbad : s.badIn (localKey .ls s.cur.task.tile s.cur.task.elem o.a.v.toNat) o.b.v.toNat = none) :
    exec (.sends h port) s = .next (s.atCommit (.send port.toNat
      ((List.range o.b.v.toNat).map fun i => s.byte (localKey .ls s.cur.task.tile s.cur.task.elem o.a.v.toNat + i)))).fire0 := by
  show execSends h port s = _
  simp only [State.readReady, hh, Bool.and_eq_true, Bool.not_eq_true'] at hready
  obtain ⟨hwrite, hprev⟩ := hready
  have hlen : ¬ (c.size < o.b.v.toNat ∨ o.b.v.toNat = 0 ∨ 256 < o.b.v.toNat) := by omega
  simp only [execSends, ho, hp, if_neg hlen, checkLocal_ls _ _ hin, hh, hwrite, hprev, hord, hbad, bytes_eq_map, Bool.not_true, Bool.or_false,
    Bool.false_eq_true, if_false]

end

/-- Settles O18: each instruction is one case of its meaning, which leaves its effect for the commit (`atCommit_fire0`) or takes its fault. -/
theorem effectsWaitForTheCommit : Obligations.EffectsWaitForTheCommit := by
  unfold Obligations.EffectsWaitForTheCommit
  refine ⟨fun h s f hh => ⟨fun o ho => ?_, fun o port n c ho hp hc => ?_, fun o port n c ho hp hc => ?_, fun o vc l c ho hl hc hp => ?_,
      fun o ho hr => ?_, fun o sh fld ho => ?_, fun o sh d ho => ?_, fun o n ho => ?_, fun o ho ht ha => ?_, fun o tl ho => ?_⟩,
    fun h port s o f n c ho hh hp => ?_,
    fun h s port => ⟨fun o ho hp => ?_, fun o n c ho hp hc => ?_, fun o n c ho hp hl => ?_, fun o ho hr => ?_, fun o ho hr => ?_,
      fun o ho ht => ?_, fun o ho ht ha => ?_⟩⟩
  · obtain ⟨hin, hnext, hout⟩ := exec_stampOp ho
    exact ⟨defers_of_exec hh hin, defers_of_exec hh hnext, defers_of_exec hh hout⟩
  · exact defers_of_exec hh (by rw [exec_send ho, sendOut_fits hp (by simpa using hc)])
  · exact defers_of_exec hh (by rw [exec_msg ho, sendOut_fits hp (by simpa using hc)])
  · exact defers_of_exec hh (exec_notify_bound ho hl hc hp)
  · exact defers_of_exec hh (by rw [exec_rsplit ho, hr, if_pos rfl])
  · exact defers_of_exec hh (by show execShset h sh fld s = _; simp only [execShset, ho])
  · exact defers_of_exec hh (by show execShadv h sh d s = _; simp only [execShadv, ho])
  · exact defers_of_exec hh (by show execCsrwr h n s = _; simp only [execCsrwr, ho])
  · exact defers_of_exec hh (by rw [exec_eret ho, ht, if_pos rfl, if_neg (Nat.not_lt.mpr ha)])
  · exact defers_of_exec hh (by show execTlbump h tl s = _; simp only [execTlbump, ho])
  · intro len key h1 h256 hsize hin hready hord hbad
    exact defers_of_exec hh (exec_sends hh ho hp h1 h256 hsize hin hready hord hbad)
  · rw [exec_send ho, sendOut_unbound hp]
  · rw [exec_msg ho, sendOut_long hp (by simpa using hc)]
  · refine exec_sends_length ho hp (.inr (hl.imp_left fun e => ?_))
    rw [e]; rfl
  · exact exec_rnext_plain ho hr
  · rw [exec_rsplit ho, hr]; rfl
  · rw [exec_eret ho, ht]; rfl
  · rw [exec_eret ho, ht, if_pos rfl, if_pos ha]

end Sys2Proof.Proofs
end

section
/-! SUPPORT. The fetch of a block (R215, R212, R221, R244, R245, R364). -/

namespace Sys2Proof.Proofs

open Sys2Proof.Machine Sys2Proof.Safety

/-! The instruction store. -/

/-- R65: with no failing word above the keys of the levels, nothing of an instruction store is fetched again. -/
theorem refetch_code {s : State} (hb : ∀ x ∈ s.bad, x < 2 ^ 64) (bed : Nat) (e : ElemRef) (slot addr n : Nat) :
    s.refetch bed (codeKey e slot addr) n = s := by
  have hnone : (s.bad.filter fun u => decide (codeKey e slot addr ≤ u) && decide (u < codeKey e slot addr + n)) = [] := by
    refine List.filter_eq_nil_iff.mpr fun u hu => ?_
    have := hb u hu
    have hkey : 2 ^ 64 ≤ codeKey e slot addr := by unfold codeKey; omega
    simp only [Bool.and_eq_true, decide_eq_true_eq, not_and]
    omega
  simp only [State.refetch, hnone, List.isEmpty_nil, if_true]

theorem fetchCode_resident {s : State} {u : TaskRef} {addr : Nat} (h : ∀ x, s.taskCfg u = some x → x.overlayAt addr = none) :
    s.fetchCode u addr = .ready s := by
  have : ((s.taskCfg u).bind fun c => c.overlayAt addr) = none := Option.bind_eq_none_iff.mpr h
  simp only [State.fetchCode, this]

/-- The overlay block of a task becomes the most recently used one of its element. -/
def useOverlay (s : State) (u : TaskRef) (addr : Nat) : State :=
  s.modElem (elemOf u) fun x => { x with overlays := (s.elem (elemOf u)).overlays.erase (u.slot, addr) ++ [(u.slot, addr)] }

/-- R212: an overlay block that stands in the instruction store. -/
theorem fetchCode_overlay {s : State} {u : TaskRef} {addr len page : Nat} {x : TaskCfg} (hx : s.taskCfg u = some x)
    (ho : x.overlayAt addr = some (len, page)) (hin : (u.slot, addr) ∈ (s.elem (elemOf u)).overlays) :
    s.fetchCode u addr = .ready (useOverlay s u addr) := by
  have : ((s.taskCfg u).bind fun c => c.overlayAt addr) = some (len, page) := by rw [hx, Option.bind_some, ho]
  simp only [State.fetchCode, this, if_pos hin]
  rfl

/-! The block. -/

/-- R215, R364: the block that a fetch adds. -/
def fetchedBlock (s : State) (u : TaskRef) (addr : Nat) : Firing :=
  let k := s.task u
  let b := k.blockAt addr
  let bad := fetchFault k.waved k.sh b.1 b.2
  { serial := s.nextId, addr := addr, hdr := b.1, words := if bad.isSome then [] else b.2, fpmode := (s.sampleModes u).1.1
    cntol := (s.sampleModes u).1.2, wave := k.seq + b.1.pdelta.toNat, suppress := k.refire, fault := bad.map (s.fillRecord u) }

/-- R218: the task with that block as its youngest in flight. -/
def fetchedTask (s : State) (u : TaskRef) (addr : Nat) : Task :=
  let k := s.task u
  let h := (k.blockAt addr).1
  { k with flights := k.flights ++ [fetchedBlock s u addr], fetch := none, refire := none
           seq := if k.waved then k.seq + h.pdelta.toNat + h.scount.toNat - 1 else 0 }

/-- The state after a fetch, before its fault is taken. -/
def fetchedState (s : State) (u : TaskRef) (addr : Nat) : State :=
  ({ (s.sampleModes u).2 with nextId := s.nextId + 1 } : State).setTask u (fetchedTask s u addr)

theorem fetchBlock_eq {s : State} (hb : ∀ x ∈ s.bad, x < 2 ^ 64) (u : TaskRef) (addr : Nat) :
    s.fetchBlock u addr = (fetchedState s u addr).takeFault u := by
  simp only [State.fetchBlock, refetch_code hb]
  rfl

theorem fetchedState_task (s : State) (u : TaskRef) (addr : Nat) : (fetchedState s u addr).task u = fetchedTask s u addr := task_setTask ..

theorem fetchedState_task_ne (s : State) {u v : TaskRef} (h : v ≠ u) (addr : Nat) : (fetchedState s u addr).task v = s.task v :=
  task_setTask_ne _ h _

theorem fetchedState_frame (s : State) (u : TaskRef) (addr : Nat) :
    { fetchedState s u addr with tasks := s.tasks, elems := s.elems, nextId := s.nextId } = s := rfl

theorem fetchedState_elem (s : State) (u : TaskRef) (addr : Nat) (x : ElemRef) : (fetchedState s u addr).elem x =
    if x = elemOf u then { s.elem (elemOf u) with modes := (s.elem (elemOf u)).modes.put (s.task u).ctx (s.sampleModes u).1 } else s.elem x :=
  elem_modElem_if s (elemOf u) x fun y => { y with modes := y.modes.put (s.task u).ctx (s.sampleModes u).1 }

theorem fetchedState_elem_frame (s : State) (u : TaskRef) (addr : Nat) (x : ElemRef) :
    { (fetchedState s u addr).elem x with modes := (s.elem x).modes } = s.elem x := by
  rw [fetchedState_elem]
  split
  · next h => subst h; rfl
  · rfl

/-- R364: each value sampled is the context's, or the element's copy of the one before its last write. -/
theorem sampleModes_spec (s : State) (u : TaskRef) :
    let k := s.task u
    let c := s.ctx k.ctx
    let copy := (s.elem (elemOf u)).modes.get k.ctx (c.fpmode, c.cntol)
    let m := (s.sampleModes u).1
    (m.1 = c.fpmode ∨ k.flights = [] ∧ copy.1 = c.old.1 ∧ m.1 = copy.1) ∧ (m.2 = c.cntol ∨ k.flights = [] ∧ copy.2 = c.old.2 ∧ m.2 = copy.2) := by
  have pick {α : Type} [BEq α] [LawfulBEq α] (l : List Firing) (copy old new : α) (free : Bool) :
      let v := if l.isEmpty && copy == old && free then copy else new
      v = new ∨ l = [] ∧ copy = old ∧ v = copy := by
    intro v
    by_cases h : (l.isEmpty && copy == old && free) = true
    · have hv : v = copy := if_pos h
      simp only [Bool.and_eq_true, List.isEmpty_iff, beq_iff_eq] at h
      exact .inr ⟨h.1.1, h.1.2, hv⟩
    · exact .inl (if_neg h)
  exact ⟨pick _ _ _ _ _, pick _ _ _ _ _⟩

/-! The step. -/

section
variable {s t : State} {u : TaskRef} {addr : Nat}

theorem exec_blockFetch (hw : s.cur.work = some (.blockFetch u)) (hf : (s.task u).fetch = some addr) (hm : s.mayFetch u = true)
    (hc : s.fetchCode u addr = .ready t) : exec .blockFetch s = .next (t.fetchBlock u addr) := by
  show execBlockFetch s = _
  simp only [execBlockFetch, hw, hf, hm, hc, Bool.not_true, Bool.false_eq_true, if_false]

/-- R218: a block is fetched while no block of its task in flight has faulted. -/
theorem fault_of_mayFetch (h : s.mayFetch u = true) : ∀ f ∈ (s.task u).flights, f.fault = none := by
  simp only [State.mayFetch, Bool.and_eq_true, List.all_eq_true, Option.isNone_iff_eq_none] at h
  exact fun f hf => (h.2 f hf).1

theorem takeFault_of_no_fault (h : ∀ f ∈ (s.task u).flights, f.fault = none) : s.takeFault u = s := by
  unfold State.takeFault
  cases hl : (s.task u).flights with
  | nil => rfl
  | cons f l => simp only [h f (by simp [hl])]

/-- R245: a block that passes the checks is fetched without a fault. -/
theorem fetchBlock_of_pass (hb : ∀ x ∈ s.bad, x < 2 ^ 64) (hm : s.mayFetch u = true)
    (hok : fetchFault (s.task u).waved (s.task u).sh ((s.task u).blockAt addr).1 ((s.task u).blockAt addr).2 = none) :
    s.fetchBlock u addr = fetchedState s u addr
      ∧ (fetchedBlock s u addr).words = ((s.task u).blockAt addr).2 ∧ (fetchedBlock s u addr).fault = none := by
  have hfault : (fetchedBlock s u addr).fault = none := by simp only [fetchedBlock, hok, Option.map_none]
  refine ⟨?_, by simp only [fetchedBlock, hok]; rfl, hfault⟩
  rw [fetchBlock_eq hb, takeFault_of_no_fault]
  intro f hf
  rw [fetchedState_task, fetchedTask, List.mem_append, List.mem_singleton] at hf
  rcases hf with hf | rfl
  · exact fault_of_mayFetch hm f hf
  · exact hfault

/-- R244, R245: an illegal word is the first thing that the checks look for. -/
theorem fetchFault_illegal {ws : List Word} {i : Nat} (h : illegalAt ws = some i) (waved : Bool) (sh : List Row) (hd : Header) :
    fetchFault waved sh hd ws = some { code := .illegalOp, index := i } := by
  simp only [fetchFault, h]

/-- R244, R217: the task of a block with an illegal word, fetched alone, parks with the block, none of which has fired. -/
theorem fetchBlock_illegal {i : Nat} (hb : ∀ x ∈ s.bad, x < 2 ^ 64) (hi : illegalAt ((s.task u).blockAt addr).2 = some i)
    (hl : (s.task u).flights = []) (hq : ∀ q ∈ s.reqs, q.serial ≠ s.nextId) :
    let t := s.fetchBlock u addr
    (t.task u).phase = .parked ∧ (t.task u).flights = []
      ∧ (t.task u).parked = some (fetchedBlock s u addr, s.fillRecord u { code := .illegalOp, index := i })
      ∧ (fetchedBlock s u addr).words = [] ∧ (t.task u).regs = (s.task u).regs ∧ SameStorage s t := by
  have hbad := fetchFault_illegal hi (s.task u).waved (s.task u).sh ((s.task u).blockAt addr).1
  have hfault : (fetchedBlock s u addr).fault = some (s.fillRecord u { code := .illegalOp, index := i }) := by
    simp only [fetchedBlock, hbad, Option.map_some]
  have hflights : ((fetchedState s u addr).task u).flights = [fetchedBlock s u addr] := by
    rw [fetchedState_task]
    show (s.task u).flights ++ [_] = _
    rw [hl, List.nil_append]
  have hquiet : Quiet (fetchedState s u addr) u (fetchedBlock s u addr) :=
    ⟨fun q hq' _ hs => absurd hs (hq q hq'), fun i hi => absurd hi List.not_mem_nil⟩
  have ht : s.fetchBlock u addr = (fetchedState s u addr).park u (fetchedBlock s u addr) (s.fillRecord u { code := .illegalOp, index := i }) false := by
    rw [fetchBlock_eq hb]
    exact takeFault_of_quiet hflights hfault (fun h => nomatch h) hquiet
  obtain ⟨⟨hphase, hfl, -, hparked, hregs, -⟩, hst⟩ := park_spec (fetchedState s u addr) u (fetchedBlock s u addr)
    (s.fillRecord u { code := .illegalOp, index := i })
  rw [← ht] at hphase hfl hparked hregs hst
  refine ⟨hphase, hfl, hparked, by simp only [fetchedBlock, hbad]; rfl, ?_, hst⟩
  rw [hregs, fetchedState_task]
  rfl

end

/-- Settles O39: what the fetch leaves is `fetchedState`, whose block has no fault when the checks pass, and parks its task on an illegal word. -/
theorem blocksAreFetched : Obligations.BlocksAreFetched := by
  unfold Obligations.BlocksAreFetched
  intro s u addr hw hf hm hb k b c e copy
  refine ⟨fun hres hok => ?_, fun x len page hx ho hin hok => ?_, fun i hres hi hl hq => ?_⟩
  · obtain ⟨ht, hwords, hfault⟩ := fetchBlock_of_pass hb hm hok
    obtain ⟨hmode, htol⟩ := sampleModes_spec s u
    refine ⟨fetchedState s u addr, fetchedBlock s u addr, ?_, ?_, rfl, rfl, hwords, rfl, rfl, rfl, rfl, rfl, hfault, rfl, hmode, htol, ?_, ?_, ?_,
      fun v hv => fetchedState_task_ne s hv addr, fetchedState_elem_frame s u addr, fetchedState_frame s u addr⟩
    · rw [exec_blockFetch hw hf hm (fetchCode_resident hres), ht]
    · rw [fetchedState_task]; rfl
    · rw [fetchedState_elem, if_pos rfl]; exact get_put_self ..
    · rw [fetchedState_task]; rfl
    · rw [fetchedState_task]; rfl
  · obtain ⟨ht, hwords, -⟩ := fetchBlock_of_pass (s := useOverlay s u addr) (u := u) (addr := addr) hb hm hok
    refine ⟨_, _, (exec_blockFetch hw hf hm (fetchCode_overlay hx ho hin)).trans (congrArg Host.Outcome.next ht), ?_, rfl, hwords, rfl, ?_⟩
    · rw [fetchedState_task]; rfl
    · rw [fetchedState_elem, if_pos rfl]
      simp only [useOverlay, elem_modElem]
      rfl
  · obtain ⟨hphase, hfl, hparked, hwords, hregs, hmem, hl2, hhost⟩ := fetchBlock_illegal hb hi hl hq
    exact ⟨_, _, _, exec_blockFetch hw hf hm (fetchCode_resident hres), hphase, hfl, hparked, rfl, hwords, rfl, rfl, rfl, hregs, hmem, hl2, hhost⟩

end Sys2Proof.Proofs
end

section
/-! SUPPORT. Activations that start, tasks that are promoted, and bindings that enter their store (R200, R201, R212, R420). -/

namespace Sys2Proof.Proofs

open Sys2Proof.Machine Sys2Proof.Safety

section
variable {s : State} {u : TaskRef}

/-! Starts. -/

/-- R200, R201: the element starts the task that its order names, at its first pending activation. -/
theorem exec_activationStart {e : ElemRef} {a : Activation} (hw : s.cur.work = some (.activationStart e)) (hm : s.mayStartOn e = true)
    (hn : s.nextReady e = some u) (ha : firstPending (s.task u).pending = some a) :
    exec .activationStart s = .next ((s.modTask u fun k => k.begin_ a).modElem e fun x => { x with last := u.slot, bound := (x.bound.erase u.slot) ++ [u.slot] }) := by
  show execActivationStart s = _
  simp only [execActivationStart, hw, hm, hn, ha, Bool.not_true, Bool.false_eq_true, if_false]

/-- R201: an activation starts with every register empty. -/
theorem begin_regs (k : Task) (a : Activation) : (∀ r ∈ (k.begin_ a).regs, r.full = false) ∧ (k.begin_ a).regs.length = 32 :=
  ⟨fun r hr => by rw [List.eq_of_mem_replicate hr], List.length_replicate⟩

/-! Promotion. -/

/-- R420: a Ready task that has been passed over for 4,096 cycles may be promoted. -/
theorem mayPromote_iff : s.mayPromote u = true ↔
    (s.task u).phase = .ready ∧ (s.task u).promoted = none ∧ ∃ a ∈ (s.task u).pending, a.since + 4096 ≤ s.cycle := by
  simp only [State.mayPromote, Bool.and_eq_true, beq_iff_eq, Option.isNone_iff_eq_none, List.any_eq_true, decide_eq_true_eq, and_assoc]

theorem exec_taskPromote (hw : s.cur.work = some (.taskPromote u)) (hm : s.mayPromote u = true) :
    exec .taskPromote s = .next (s.modTask u fun k => { k with promoted := some s.tick }) := by
  show execTaskPromote s = _
  simp only [execTaskPromote, hw, hm, if_true]

/-! Bindings. -/

/-- R65: with no failing word above the keys of the levels, nothing of a configuration cache is fetched again. -/
theorem refetch_cache (hb : ∀ x ∈ s.bad, x < 2 ^ 64) (bed page n : Nat) : s.refetch bed (cacheKey bed page) n = s := by
  have hnone : (s.bad.filter fun x => decide (cacheKey bed page ≤ x) && decide (x < cacheKey bed page + n)) = [] := by
    refine List.filter_eq_nil_iff.mpr fun x hx => ?_
    have := hb x hx
    have hkey : 2 ^ 80 ≤ cacheKey bed page := by unfold cacheKey; omega
    simp only [Bool.and_eq_true, decide_eq_true_eq, not_and]
    omega
  simp only [State.refetch, hnone, List.isEmpty_nil, if_true]

/-- R212: a page that the cache holds is its most recently used one, and nothing is fetched. -/
theorem fillPage_held (hb : ∀ x ∈ s.bad, x < 2 ^ 64) (ctx : Nat) {bed page : Nat} (hp : page ∈ s.cfgCache.get bed []) :
    s.fillPage ctx bed page = (none, { s with cfgCache := s.cfgCache.put bed ((s.cfgCache.get bed []).erase page ++ [page]) }) := by
  simp only [State.fillPage, if_pos hp]
  rw [refetch_cache]
  exact hb

/-- R212: a binding that the cache holds is read from it. -/
theorem fillBinding_held (hb : ∀ x ∈ s.bad, x < 2 ^ 64) (hp : ∀ c, s.taskCfg u = some c → c.page ∈ s.cfgCache.get (bedOf u.tile) []) :
    ∃ l, s.fillBinding u = (none, { s with cfgCache := l }) := by
  unfold State.fillBinding
  cases hc : s.taskCfg u with
  | none => exact ⟨s.cfgCache, rfl⟩
  | some c => exact ⟨_, fillPage_held hb _ (hp c hc)⟩

/-- R206: with no arrival unmatched there is nothing to try again. -/
theorem retry_matched {e : ElemRef} (h : (s.elem e).unmatched = []) : s.retry e = s.modElem e fun m => { m with unmatched := [] } := by
  simp only [State.retry, h, List.length_nil, State.retryTimes, State.retryList]

/-- R212, R420: the task whose binding has entered the store. -/
def boundTask (k : Task) (now : Nat) : Task :=
  if k.phase == Phase.unbound then
    { k with phase := if k.pending.isEmpty then Phase.idle else Phase.ready, pending := k.pending.map fun a => { a with since := now } }
  else k

theorem boundTask_phase (k : Task) (now : Nat) :
    (boundTask k now).phase = (if k.phase = .unbound then (if k.pending = [] then .idle else .ready) else k.phase) := by
  unfold boundTask
  simp only [beq_iff_eq, List.isEmpty_iff]
  split <;> rfl

theorem boundTask_pending (k : Task) (now : Nat) :
    (boundTask k now).pending = (if k.phase = .unbound then k.pending.map fun (a : Activation) => { a with since := now } else k.pending) := by
  unfold boundTask
  simp only [beq_iff_eq]
  split <;> rfl

theorem boundTask_frame (k : Task) (now : Nat) : { boundTask k now with phase := k.phase, pending := k.pending } = k := by
  unfold boundTask
  split <;> rfl

/-- R212: the state after a binding has entered the store of its element, where no arrival waits to be matched. -/
def boundState (s : State) (u : TaskRef) : State :=
  ((s.modElem (elemOf u) fun x => { x with bound := x.bound ++ [u.slot] }).modTask u fun k => boundTask k s.cycle).modElem (elemOf u)
    fun x => { x with unmatched := [] }

theorem boundState_task (s : State) (u : TaskRef) : (boundState s u).task u = boundTask (s.task u) s.cycle := task_modTask _ u _

theorem boundState_task_ne (s : State) {u v : TaskRef} (h : v ≠ u) : (boundState s u).task v = s.task v := task_modTask_ne _ h _

theorem boundState_frame (s : State) (u : TaskRef) : { boundState s u with tasks := s.tasks, elems := s.elems } = s := by
  simp only [boundState, State.modTask, State.setTask, State.modElem]

theorem boundState_elem (s : State) (u : TaskRef) :
    (boundState s u).elem (elemOf u) = { s.elem (elemOf u) with bound := (s.elem (elemOf u)).bound ++ [u.slot], unmatched := [] } := by
  have h : ((s.modElem (elemOf u) fun x => { x with bound := x.bound ++ [u.slot] }).modTask u fun k => boundTask k s.cycle).elem (elemOf u) =
      { s.elem (elemOf u) with bound := (s.elem (elemOf u)).bound ++ [u.slot] } :=
    elem_modElem s (elemOf u) fun x => { x with bound := x.bound ++ [u.slot] }
  rw [boundState, elem_modElem, h]

/-- R212: the fill of a store with room that finds the binding: no other binding leaves. -/
theorem exec_bindingFill {x : State} (hw : s.cur.work = some (.bindingFill u)) (hu : u.slot ∉ (s.elem (elemOf u)).bound)
    (hroom : (s.elem (elemOf u)).bound.length < 16) (hf : s.fillBinding u = (none, x)) (hmatch : (x.elem (elemOf u)).unmatched = []) :
    exec .bindingFill s = .next (boundState x u) := by
  have hall (l : List Nat) : (l.filter fun n => decide (some n ≠ none)) = l := List.filter_eq_self.mpr fun _ _ => rfl
  have hexec : exec .bindingFill s = .next (((x.modElem (elemOf u) fun y => { y with bound := y.bound ++ [u.slot] }).modTask u
      fun k => boundTask k x.cycle).retry (elemOf u)) := by
    show execBindingFill s = _
    simp only [execBindingFill, hw, if_neg hu, if_pos hroom, hf, if_pos (Or.inl hroom), hall]
    rfl
  rw [hexec, retry_matched]
  · rfl
  · have : ((x.modElem (elemOf u) fun y => { y with bound := y.bound ++ [u.slot] }).elem (elemOf u)).unmatched = [] := by rw [elem_modElem]; exact hmatch
    exact this

/-- R39: the fill of the configuration cache that faults fails the launch. -/
theorem exec_bindingFill_fails {x : State} {code : FCode} (hw : s.cur.work = some (.bindingFill u)) (hu : u.slot ∉ (s.elem (elemOf u)).bound)
    (hroom : (s.elem (elemOf u)).bound.length < 16) (hf : s.fillBinding u = (some code, x)) :
    exec .bindingFill s = .next (x.complete (x.task u).launch 2 code.num) := by
  show execBindingFill s = _
  simp only [execBindingFill, hw, if_neg hu, if_pos hroom, hf, if_pos (Or.inl hroom)]

end

/-- Settles O41: a start and a promotion change one task each; a binding's fill is one change of its element and its task, with nothing to match again. -/
theorem activationsStart : Obligations.ActivationsStart := by
  unfold Obligations.ActivationsStart
  intro s u k
  refine ⟨fun e a hw hm hn ha => ?_, fun hw hp hn ha => ?_, fun hw hu hroom hmatch hb hc => ?_, fun code x hw hu hroom hf => exec_bindingFill_fails hw hu hroom hf⟩
  · obtain ⟨hempty, hlen⟩ := begin_regs k a
    have htask : (s.modTask u fun k => k.begin_ a).task u = k.begin_ a := task_modTask ..
    refine ⟨_, exec_activationStart hw hm hn ha, ?_⟩
    rw [task_modElem, htask, elem_modElem]
    exact ⟨rfl, rfl, rfl, hempty, hlen, rfl, rfl, rfl, rfl, rfl, rfl, fun v hv => (task_modElem ..).trans (task_modTask_ne s hv _), rfl⟩
  · have htask : (s.modTask u fun k => { k with promoted := some s.tick }).task u = { k with promoted := some s.tick } := task_modTask ..
    refine ⟨_, exec_taskPromote hw (mayPromote_iff.mpr ⟨hp, hn, ha⟩), ?_⟩
    rw [htask]
    refine ⟨rfl, ?_, fun v hv => task_modTask_ne s hv _, rfl⟩
    rw [← hn]
  · obtain ⟨l, hf⟩ := fillBinding_held hb hc
    refine ⟨_, exec_bindingFill hw hu hroom hf hmatch, ?_⟩
    rw [boundState_task, boundState_elem]
    exact ⟨rfl, boundTask_phase k s.cycle, boundTask_pending k s.cycle, boundTask_frame k s.cycle, fun v hv => boundState_task_ne _ hv,
      congrArg (fun x : State => { x with cfgCache := s.cfgCache }) (boundState_frame { s with cfgCache := l } u)⟩

end Sys2Proof.Proofs
end

section
/-! SUPPORT. Messages of Exited tasks, and messages that enter their queue and are matched (R200, R204, R206, R213, R214). -/

namespace Sys2Proof.Proofs

open Sys2Proof.Machine Sys2Proof.Safety

/-! Dead letters (R213, R214). -/

/-- A dead letter's record is written at the homes, and its event recorded; nothing else changes. -/
def LetterOnly (s t : State) : Prop := ∃ ring, Laws.HomeOnly { s with ring := ring, ringSeq := s.ringSeq + 1 } t

theorem LetterOnly.after {s t u : State} (h : LetterOnly s t) (k : Laws.HomeOnly t u) : LetterOnly s u := by
  obtain ⟨ring, h⟩ := h
  exact ⟨ring, h.trans k⟩

theorem LetterOnly.fields {s t : State} (h : LetterOnly s t) :
    t.tasks = s.tasks ∧ t.elems = s.elems ∧ t.packets = s.packets ∧ t.loads = s.loads ∧ t.ringSeq = s.ringSeq + 1 := by
  obtain ⟨ring, h⟩ := h
  have hpackets := congrArg State.packets h
  have hloads := congrArg State.loads h
  have hseq := congrArg State.ringSeq h
  exact ⟨h.tasks, h.elems, hpackets, hloads, hseq⟩

theorem letterOnly_event {s t : State} (h : Laws.HomeOnly s t) (k c x a d : Nat) : LetterOnly s (t.event k c x a d) := by
  have hseq : t.ringSeq = s.ringSeq := by
    have e := congrArg State.ringSeq h
    exact e
  refine ⟨lastEvents (t.ring ++ [t.eventNow k c x a d]), ?_⟩
  have e := congrArg (fun u : State => { u with ring := lastEvents (t.ring ++ [t.eventNow k c x a d]), ringSeq := s.ringSeq + 1 }) h
  rw [State.event, hseq]
  exact e

theorem deadLetter_spec (s : State) (ctx : Nat) (u : Stamp) (vc kind : Nat) (payload : List Byte) (handle : Nat) :
    LetterOnly s (s.deadLetter ctx u vc kind payload handle) := by
  have hmeets (a b : List Nat) : Laws.HomeOnly s ((s.deviceMeet a).deviceMeet b) := (Laws.deviceMeet_homeOnly ..).trans (Laws.deviceMeet_homeOnly ..)
  simp only [State.deadLetter]
  split
  · exact letterOnly_event (hmeets ..) ..
  · split
    · refine LetterOnly.after ?_ (Laws.deviceWrite_homeOnly ..)
      exact letterOnly_event (hmeets ..) ..
    · refine LetterOnly.after ?_ (Laws.deviceWrite_homeOnly ..)
      refine LetterOnly.after ?_ (Laws.deviceWrite_homeOnly ..)
      exact letterOnly_event (hmeets ..) ..

/-- R213, R380: the dead letter of a message is recorded, and the decrement of its key is on its way to the tracker. -/
structure DiesAt (s t : State) (l : Load) (k : Key) (n : Nat) : Prop where
  tasks : t.tasks = s.tasks
  elems : t.elems = s.elems
  event : t.ringSeq = s.ringSeq + 1
  delta : ∃ q ∈ t.packets, q.dest = l.tracker ∧ q.payload = .batch { load := l.id, deltas := [(k, -(n : Int))], decs := [(k, n)] }

theorem load_of_loads {s u : State} (h : u.loads = s.loads) (n : Nat) : u.load n = s.load n := by simp only [State.load, h]

/-- R380: the decrement of a key's count sets out at once where no packet stands before it. -/
theorem sendDelta_alone {s u : State} (hu : LetterOnly s u) (hp : s.packets = []) (l : Load) (src : Nat) (k : Key) (n : Nat) :
    DiesAt s (u.sendDelta l src k (-(n : Int))) l k n := by
  obtain ⟨htasks, helems, hpackets, -, hseq⟩ := hu.fields
  obtain ⟨q, c, hsend, hpay, -, hdest⟩ := sendPacket_alone (hpackets.trans hp)
    { id := 0, net := 3, load := l.id, at_ := src, dest := l.tracker
      payload := .batch { load := l.id, deltas := [(k, -(n : Int))], decs := [(k, n)] }, after := [] }
  simp only [State.sendDelta, State.inject, Int.natAbs_neg, Int.natAbs_natCast, hsend]
  exact ⟨htasks, helems, hseq, q, List.mem_singleton_self q, hdest, hpay⟩

theorem deadMessage_spec {s : State} (hp : s.packets = []) {m : Msg} {l : Load} (hl : s.load m.load = some l) (e : ElemRef) (t : TaskRef) (kind : Nat) :
    DiesAt s (s.deadMessage m e t kind) l ⟨false, l.placeAt e m.vc, m.stamp⟩ m.count := by
  -- Of the applied function the kernel would run the dead letter: it is unfolded before it is applied.
  generalize hf : @State.deadMessage = f
  delta State.deadMessage at hf
  subst hf
  beta_reduce
  extract_lets u
  have hletter : LetterOnly s u := deadLetter_spec ..
  clear_value u
  obtain ⟨-, -, -, hloads, -⟩ := hletter.fields
  rw [(load_of_loads hloads m.load).trans hl]
  exact sendDelta_alone hletter hp l _ _ m.count

/-! Loads that change in their loops. -/

theorem load_modLoad (s : State) (n m : Nat) {f : Load → Load} (hf : ∀ x, (f x).id = x.id) :
    (s.modLoad n f).load m = (s.load m).map fun x => if x.id = n then f x else x := by
  have hid : ((fun l : Load => l.id == m) ∘ fun x => if x.id = n then f x else x) = fun l : Load => l.id == m := by
    funext x
    simp only [Function.comp_apply]
    split <;> simp only [hf]
  simp only [State.load, State.modLoad, List.find?_map, hid]

theorem id_of_load {s : State} {m : Nat} {l : Load} (h : s.load m = some l) : l.id = m := by simpa using List.find?_some h

/-- A loop's state is no part of a load's number, place or configuration. -/
theorem modLoop_fields (l : Load) (i : Nat) (f : LoopState → LoopState) :
    (l.modLoop i f).id = l.id ∧ (l.modLoop i f).beds = l.beds ∧ { l.modLoop i f with loops := l.loops } = l := by
  unfold Load.modLoop
  split <;> exact ⟨rfl, rfl, rfl⟩

theorem load_modLoop {s : State} {m : Nat} {l : Load} (h : s.load m = some l) (i : Nat) (f : LoopState → LoopState) :
    (s.modLoad l.id fun l => l.modLoop i f).load m = some (l.modLoop i f) := by
  rw [load_modLoad s l.id m fun x => (modLoop_fields x i f).1, h, Option.map_some, if_pos rfl]

/-- R387: what a dead message leaves is the same whatever its loop's state. -/
theorem deadMessage_modLoop {s : State} (hp : s.packets = []) {m : Msg} {l : Load} (hl : s.load m.load = some l) (e : ElemRef) (t : TaskRef) (kind i : Nat)
    (f : LoopState → LoopState) :
    DiesAt s ((s.modLoad l.id fun l => l.modLoop i f).deadMessage m e t kind) l ⟨false, l.placeAt e m.vc, m.stamp⟩ m.count := by
  obtain ⟨htasks, helems, hevent, q, hq, hdest, hpay⟩ :=
    deadMessage_spec (s := s.modLoad l.id fun l => l.modLoop i f) hp (load_modLoop hl i f) e t kind
  obtain ⟨hid, hbeds, -⟩ := modLoop_fields l i f
  simp only [Load.tracker, Load.placeAt, hid, hbeds] at hdest hpay
  exact ⟨htasks, helems, hevent, q, hq, hdest, hpay⟩

/-- R213: a message for an Exited task dies, whether it comes to a loop or not. -/
theorem takeMessage_exited {s : State} (hp : s.packets = []) {m : Msg} {l : Load} (hl : s.load m.load = some l) {e : ElemRef} {k c : Nat}
    (hr : l.receiver (l.placeAt e m.vc) = some k) (hc : l.chanAt (l.placeAt e m.vc) = some c) (hs : l.phase ≠ .saved)
    (hx : (s.task (l.taskRef k)).phase = .exited) (port : Option Nat) :
    DiesAt s (s.takeMessage e m port) l ⟨false, l.placeAt e m.vc, m.stamp⟩ m.count := by
  have hphase : (l.phase == .saved) = false := beq_eq_false_iff_ne.mpr hs
  have hexit : ((s.task (l.taskRef k)).phase == Phase.exited) = true := beq_iff_eq.mpr hx
  simp only [State.takeMessage, hl, hr, hc, hphase, hexit, Bool.false_eq_true, if_false, if_true]
  cases hloop : l.cfg.loopOf c with
  | none => exact deadMessage_spec hp hl e _ 0
  | some i =>
    simp only
    split
    · exact deadMessage_modLoop hp hl e _ 0 i _
    · simp only [State.deadUntaken, State.deadBefore, hl, hc, Option.bind_some, hloop]
      exact deadMessage_modLoop hp hl e _ 0 i _

/-! A message that enters its queue (R204, R206). -/

/-- R200: an activation pends. -/
theorem pend_task (s : State) (t : TaskRef) (a : Activation) : (s.pend t a).task t = { s.task t with
    pending := (s.task t).pending ++ [{ a with since := s.cycle }]
    phase := if (s.task t).phase = .idle then .ready else (s.task t).phase } := by
  rw [State.pend, task_modTask]
  simp only [beq_iff_eq]

theorem pend_task_ne (s : State) {t v : TaskRef} (h : v ≠ t) (a : Activation) : (s.pend t a).task v = s.task v := task_modTask_ne s h _

/-- R206: one arrival at a task of one input, whose binding stands, is matched at once. -/
theorem retry_one {s : State} {t : TaskRef} {st : Stamp} {vc : Nat} (hu : (s.elem (elemOf t)).unmatched = [(t.slot, st, vc)])
    (hb : t.slot ∈ (s.elem (elemOf t)).bound) (hi : (s.inputs t).length ≤ 1) :
    s.retry (elemOf t) = (State.activate (s.modElem (elemOf t) fun m => { m with unmatched := [] }) (elemOf t) t st).modElem (elemOf t)
      fun m => { m with unmatched := [] } := by
  have hbound : t.slot ∈ ((s.modElem (elemOf t) fun m => { m with unmatched := [] }).elem (elemOf t)).bound := by rw [elem_modElem]; exact hb
  have hmatch : (s.modElem (elemOf t) fun m => { m with unmatched := [] }).matchOne (elemOf t) t st vc =
      (State.activate (s.modElem (elemOf t) fun m => { m with unmatched := [] }) (elemOf t) t st, true) := if_pos hi
  have hempty : ((State.activate (s.modElem (elemOf t) fun m => { m with unmatched := [] }) (elemOf t) t st).elem (elemOf t)).unmatched = [] := by
    have : ((s.modElem (elemOf t) fun m => { m with unmatched := [] }).elem (elemOf t)).unmatched = [] := by rw [elem_modElem]
    exact this
  have href : (⟨(elemOf t).tile, (elemOf t).elem, t.slot⟩ : TaskRef) = t := rfl
  simp only [State.retry, hu, List.length_singleton, State.retryTimes, State.retryList, href, hmatch]
  rw [if_pos hbound, hempty]
  rfl

/-- R206: the oldest message of a tag that no activation holds is one that stands behind messages of other tags. -/
theorem oldest_last {s : State} {e : ElemRef} {t : TaskRef} {m : Msg} {q : List Msg} (hq : (s.vc e m.vc).queue = q ++ [m])
    (hother : ∀ n ∈ q, n.stamp ≠ m.stamp) (hc : (s.task t).claims m.vc m.stamp = 0) : s.oldest e t m.vc m.stamp = some m := by
  have hfilter : ((q ++ [m]).filter fun n => n.stamp == m.stamp) = [m] := by
    rw [List.filter_append, List.filter_eq_nil_iff.mpr (by simpa using hother)]
    simp
  have hq' : ((s.elem e).vcs.get m.vc {}).queue = q ++ [m] := hq
  simp only [State.oldest, hq', hfilter, hc, List.getElem?_cons_zero]

/-- A queue's element when a message has entered the queue and not been matched. -/
def queued (slot : Nat) (m : Msg) (x : Elem) : Elem := { x with
  vcs := x.vcs.put m.vc { x.vcs.get m.vc {} with queue := (x.vcs.get m.vc {}).queue ++ [m] }
  unmatched := x.unmatched ++ [(slot, m.stamp, m.vc)] }

theorem enterQueue_bound {s : State} {e : ElemRef} {t : TaskRef} (hb : t.slot ∈ (s.elem e).bound) (m : Msg) :
    s.enterQueue e t m = (s.modElem e (queued t.slot m)).retry e := by
  have helem : ((s.modElem e (queued t.slot m)).elem e).bound = (s.elem e).bound := by rw [elem_modElem]; rfl
  have hbound : t.slot ∈ ((s.modElem e (queued t.slot m)).elem e).bound := by rw [helem]; exact hb
  exact if_pos hbound

theorem activate_single {s : State} {e : ElemRef} {t : TaskRef} {m : Msg} (hi : s.inputs t = [m.vc]) (ho : s.oldest e t m.vc m.stamp = some m) :
    s.activate e t m.stamp = s.pend t { stamp := m.stamp, msgs := [m] } := by
  simp only [State.activate, hi, List.filterMap_cons, List.filterMap_nil, ho]

/-- R204, R206, R200: what the arrival of a message at a task of one input leaves. -/
structure Enters (s t : State) (u : TaskRef) (m : Msg) : Prop where
  packets : t.packets = s.packets
  mem : t.mem = s.mem
  queue : (t.vc (elemOf u) m.vc).queue = (s.vc (elemOf u) m.vc).queue ++ [m]
  task : t.task u = { s.task u with
    pending := (s.task u).pending ++ [{ stamp := m.stamp, msgs := [m], since := s.cycle }]
    phase := if (s.task u).phase = .idle then .ready else (s.task u).phase }
  others : ∀ v, v ≠ u → t.task v = s.task v

/-- A message stands in its queue before it is matched, and when its activation pends. -/
theorem enters_pend {s w : State} {u : TaskRef} {m : Msg} (hp : w.packets = s.packets) (hm : w.mem = s.mem) (ht : w.tasks = s.tasks) (hc : w.cycle = s.cycle)
    (hq : (w.vc (elemOf u) m.vc).queue = (s.vc (elemOf u) m.vc).queue ++ [m]) :
    Enters s ((w.pend u { stamp := m.stamp, msgs := [m] }).modElem (elemOf u) fun x => { x with unmatched := [] }) u m := by
  have htask (v : TaskRef) : w.task v = s.task v := by simp only [State.task, ht]
  have htasks {x : State} (f : Elem → Elem) (v : TaskRef) : (x.modElem (elemOf u) f).task v = x.task v := rfl
  refine ⟨hp, hm, ?_, ?_, fun v hv => ?_⟩
  · rw [State.vc, elem_modElem]
    exact hq
  · rw [htasks, pend_task, htask, hc]
  · rw [htasks, pend_task_ne w hv, htask]

theorem enterQueue_single {s : State} {u : TaskRef} {m : Msg} (hb : u.slot ∈ (s.elem (elemOf u)).bound) (hu : (s.elem (elemOf u)).unmatched = [])
    (hi : s.inputs u = [m.vc]) (hother : ∀ n ∈ (s.vc (elemOf u) m.vc).queue, n.stamp ≠ m.stamp) (hc : (s.task u).claims m.vc m.stamp = 0) :
    Enters s (s.enterQueue (elemOf u) u m) u m := by
  have helem : (s.modElem (elemOf u) (queued u.slot m)).elem (elemOf u) = queued u.slot m (s.elem (elemOf u)) := elem_modElem ..
  have hbound : u.slot ∈ ((s.modElem (elemOf u) (queued u.slot m)).elem (elemOf u)).bound := by rw [helem]; exact hb
  have hun : ((s.modElem (elemOf u) (queued u.slot m)).elem (elemOf u)).unmatched = [(u.slot, m.stamp, m.vc)] := by
    rw [helem, queued, hu, List.nil_append]
  have hin : (s.modElem (elemOf u) (queued u.slot m)).inputs u = [m.vc] := hi
  have hqueue : ((s.modElem (elemOf u) (queued u.slot m)).vc (elemOf u) m.vc).queue = (s.vc (elemOf u) m.vc).queue ++ [m] := by
    rw [State.vc, helem]
    simp only [queued, get_put_self]
    rfl
  have hclaims : ((s.modElem (elemOf u) (queued u.slot m)).task u).claims m.vc m.stamp = 0 := hc
  have hpackets : (s.modElem (elemOf u) (queued u.slot m)).packets = s.packets := rfl
  have hmem : (s.modElem (elemOf u) (queued u.slot m)).mem = s.mem := rfl
  have htasks : (s.modElem (elemOf u) (queued u.slot m)).tasks = s.tasks := rfl
  have hcycle : (s.modElem (elemOf u) (queued u.slot m)).cycle = s.cycle := rfl
  rw [enterQueue_bound hb]
  generalize s.modElem (elemOf u) (queued u.slot m) = w at hbound hun hin hqueue hclaims hpackets hmem htasks hcycle ⊢
  rw [retry_one hun hbound (by rw [hin]; simp)]
  have hcleared : ((w.modElem (elemOf u) fun x => { x with unmatched := [] }).vc (elemOf u) m.vc).queue = (s.vc (elemOf u) m.vc).queue ++ [m] := by
    rw [State.vc, elem_modElem]
    exact hqueue
  have hold : (w.modElem (elemOf u) fun x => { x with unmatched := [] }).oldest (elemOf u) u m.vc m.stamp = some m := oldest_last hcleared hother hclaims
  have hone : (w.modElem (elemOf u) fun x => { x with unmatched := [] }).inputs u = [m.vc] := hin
  rw [activate_single hone hold]
  exact enters_pend hpackets hmem htasks hcycle hcleared

/-- R204: a message that its element can take enters its queue. -/
theorem arriveAt_enters {s : State} {e : ElemRef} {t : TaskRef} {m : Msg} (hh : (s.vc e m.vc).held = []) (hs : (s.vc e m.vc).spilled = false)
    (hq : (s.vc e m.vc).queue.length < 16) (port : Option Nat) : s.arriveAt e t m port = s.enterQueue e t m := by
  simp only [State.arriveAt, hh, hs, List.isEmpty_nil, Bool.not_true, Bool.false_eq_true, if_false]
  exact if_pos hq

/-- R204: a message for a task that has not Exited, on a channel of no loop, reaches its element. -/
theorem takeMessage_arrives {s : State} {m : Msg} {l : Load} (hl : s.load m.load = some l) {e : ElemRef} {k c : Nat}
    (hr : l.receiver (l.placeAt e m.vc) = some k) (hc : l.chanAt (l.placeAt e m.vc) = some c) (hs : l.phase ≠ .saved)
    (hx : (s.task (l.taskRef k)).phase ≠ .exited) (hloop : l.cfg.loopOf c = none) (port : Option Nat) :
    s.takeMessage e m port = s.arriveAt e (l.taskRef k) m port := by
  have hphase : (l.phase == .saved) = false := beq_eq_false_iff_ne.mpr hs
  have hexit : ((s.task (l.taskRef k)).phase == Phase.exited) = false := beq_eq_false_iff_ne.mpr hx
  simp only [State.takeMessage, hl, hr, hc, hphase, hexit, hloop, Bool.false_eq_true, if_false]

/-- R204: the only packet of the mesh is not behind another message. -/
theorem messageArrive_alone {s : State} {id : Nat} {p : Packet} {m : Msg} (hw : s.cur.work = some (.messageArrive id)) (hp : s.packets = [p]) (hid : p.id = id)
    (hm : p.payload = .message m) :
    exec .messageArrive s = .next (({ s with packets := [] } : State).takeMessage ⟨p.at_, m.elem⟩ m (if p.slot.isSome then none else some p.inp)) := by
  have hpacket : s.packet id = some p := by simp [State.packet, hp, hid]
  have hbefore : s.messageBefore p m = false := by simp [State.messageBefore, hp]
  have hrest : s.packets.filter (fun q => decide (q.id ≠ id)) = [] := by simp [hp, hid]
  show execMessageArrive s = _
  simp only [execMessageArrive, hw, hpacket, hm, hbefore, hrest, Bool.false_eq_true, if_false]

end Sys2Proof.Proofs
end

section
/-! SUPPORT. A message held past its time goes to its channel's overflow ring (R447, R448). -/

namespace Sys2Proof.Proofs

open Sys2Proof.Machine Sys2Proof.Safety

/-- R214: what a record of a message holds from its byte 16 on is the message's payload. -/
theorem letterBytes_payload (ctx : Nat) (u : Stamp) (vc kind time handle : Nat) {payload : List Byte} {i : Nat} (hi : i < payload.length) :
    (letterBytes ctx u vc kind payload time handle).getD (16 + i) 0 = payload.getD i 0 := by
  have hhead : (bytesOfNat 12 (tagNum ctx u) ++ bytesOfNat 1 vc ++ bytesOfNat 1 kind ++ bytesOfNat 2 payload.length).length = 16 := by
    simp only [List.length_append, bytesOfNat_length]
  unfold letterBytes
  generalize bytesOfNat 12 (tagNum ctx u) ++ bytesOfNat 1 vc ++ bytesOfNat 1 kind ++ bytesOfNat 2 payload.length = head at hhead ⊢
  simp only [List.append_assoc, List.getD_eq_getElem?_getD]
  rw [List.getElem?_append_right (by omega), hhead, Nat.add_sub_cancel_left, List.getElem?_append_left hi]

theorem letterBytes_length (ctx : Nat) (u : Stamp) (vc kind time handle : Nat) {payload : List Byte} (hp : payload.length ≤ 256) :
    (letterBytes ctx u vc kind payload time handle).length = 320 := by
  simp only [letterBytes, List.length_append, bytesOfNat_length, List.length_replicate]
  omega

/-- R113: where no line is marked, an agent that meets lines changes only what the host shares. -/
theorem deviceMeet_bias {s : State} (h : s.marks = []) (lines : List Nat) :
    s.deviceMeet lines = { s with hostBias := s.hostBias.filter fun l => decide (l ∉ lines) } := by
  simp only [State.deviceMeet, Laws.settle_all_of_no_marks h]

theorem deviceMeet_sameHomes {s : State} (h : s.marks = []) (lines : List Nat) : SameHomes s (s.deviceMeet lines) := by
  rw [deviceMeet_bias h]
  exact .of_eq rfl rfl rfl rfl rfl rfl

/-- R113: where no line is marked, an agent's write leaves each byte as its last cell names it. -/
theorem byte_deviceWrite {s : State} (hm : s.marks = []) (ho : MemoryOk s) (cells : List (Nat × Byte)) (key : Nat) :
    (s.deviceWrite cells).byte key = (lastWrite cells key none).getD (s.byte key) := by
  have hmeet := deviceMeet_sameHomes hm (linesOf (cells.map (·.1)))
  rw [State.deviceWrite, byte_commitBytes (hmeet.memoryOk ho), hmeet.byte]

/-- R448: the record of a message stands at an address of its channel's ring, and the message is the ring's last. -/
structure Spills (s t : State) (e : ElemRef) (m : Msg) (slot : Nat) : Prop where
  vc : t.vc e m.vc = { s.vc e m.vc with ring := (s.vc e m.vc).ring ++ [m], spilled := true }
  count : (t.elem e).spills = (s.elem e).spills + 1
  payload : ∀ i, i < m.payload.length → t.byte (slot + 16 + i) = m.payload.getD i 0
  others : ∀ a, a < slot ∨ slot + 320 ≤ a → t.byte a = s.byte a

/-- The writing of the record, whatever its last fields say. -/
theorem spills_of_write {s w : State} {e : ElemRef} {m : Msg} {slot : Nat} (hw : SameHomes s w) (hm : w.marks = []) (ho : MemoryOk s)
    (hp : m.payload.length ≤ 256) (hvc : w.vc e m.vc = s.vc e m.vc) (hs : (w.elem e).spills = (s.elem e).spills + 1) (time handle : Nat) :
    Spills s ((w.deviceWrite (placeBytes slot (letterBytes m.ctx m.stamp m.vc 0 m.payload time handle))).modVc e m.vc
      fun v => { v with ring := v.ring ++ [m], spilled := true }) e m slot := by
  have hlen := letterBytes_length m.ctx m.stamp m.vc 0 time handle hp
  have hbyte (key : Nat) := (byte_deviceWrite hm (hw.memoryOk ho) (placeBytes slot (letterBytes m.ctx m.stamp m.vc 0 m.payload time handle)) key).trans
    (congrArg _ (hw.byte key))
  have helems := (Laws.deviceWrite_homeOnly w (placeBytes slot (letterBytes m.ctx m.stamp m.vc 0 m.payload time handle))).elems
  have hload := @letterBytes_payload m.ctx m.stamp m.vc 0 time handle m.payload
  generalize letterBytes m.ctx m.stamp m.vc 0 m.payload time handle = record at hlen hbyte helems hload ⊢
  simp only [lastWrite_placeBytes, hlen] at hbyte
  generalize w.deviceWrite (placeBytes slot record) = t at hbyte helems ⊢
  have helem : t.elem e = w.elem e := by simp only [State.elem, helems]
  refine ⟨?_, ?_, fun i hi => ?_, fun a ha => ?_⟩
  · have hget : (w.elem e).vcs.get m.vc {} = s.vc e m.vc := hvc
    simp only [State.modVc, State.vc, elem_modElem, helem, get_put_self, hget]
  · rw [State.modVc, elem_modElem, helem]
    exact hs
  · refine (hbyte (slot + 16 + i)).trans ?_
    rw [if_pos (by omega), Option.getD_some, ← hload hi]
    congr 1
    omega
  · refine (hbyte a).trans ?_
    rw [if_neg (by omega), Option.getD_none]

/-- R448: what the spill of a message to a ring that can be written leaves. -/
theorem spillOne_spills {s : State} {e : ElemRef} {m : Msg} {base : Nat} (hb : (s.vc e m.vc).ringBase = some base) (hm : s.marks = []) (ho : MemoryOk s)
    (hp : m.payload.length ≤ 256) (hg : s.badIn (base + 320 * (((s.vc e m.vc).ringHead + (s.vc e m.vc).ring.length) % 64)) 320 = none) (t : TaskRef) :
    Spills s (s.spillOne e t m) e m (base + 320 * (((s.vc e m.vc).ringHead + (s.vc e m.vc).ring.length) % 64)) := by
  unfold State.spillOne
  extract_lets v w
  simp only [show v.ringBase = some base from hb]
  generalize hslot : base + 320 * ((v.ringHead + v.ring.length) % 64) = slot
  have hmarks : w.marks = [] := hm
  have hsame : SameHomes s w := .of_eq rfl rfl rfl rfl rfl rfl
  have hgood : w.badIn slot 320 = none := by rw [← hslot]; exact hg
  have helem : w.elem e = { s.elem e with spills := (s.elem e).spills + 1 } := elem_modElem s e fun x : Elem => { x with spills := x.spills + 1 }
  clear_value w
  rw [deviceMeet_bias hmarks]
  generalize hx : ({ w with hostBias := w.hostBias.filter fun l => decide (l ∉ linesOf (keysOf slot 320)) } : State) = x
  have hxgood : x.badIn slot 320 = none := by rw [← hx]; exact hgood
  have hxmarks : x.marks = [] := by rw [← hx]; exact hmarks
  have hxsame : SameHomes s x := hsame.trans (by rw [← hx]; exact .of_eq rfl rfl rfl rfl rfl rfl)
  have hxelem : x.elem e = { s.elem e with spills := (s.elem e).spills + 1 } := by rw [← hx]; exact helem
  rw [hxgood, Option.isSome_none, if_neg Bool.false_ne_true]
  exact spills_of_write hxsame hxmarks ho hp (by rw [State.vc, hxelem]; rfl) (by rw [hxelem]) ..

/-- R448: a queue without room stays as it is once no message is held for it. -/
theorem refill_rests {s : State} {e : ElemRef} {t : TaskRef} {n k : Nat} {m : Msg} (hr : (s.vc e n).ring = [m]) (hh : (s.vc e n).held = [])
    (hq : 16 ≤ (s.vc e n).queue.length) : s.refill e t n k = s := by
  cases k with
  | zero => rfl
  | succ k =>
    simp only [State.refill, hr, hh, if_neg (Nat.not_lt.mpr hq), ite_self]

theorem vc_modVc (s : State) (e : ElemRef) (n : Nat) (f : Vc → Vc) : (s.modVc e n f).vc e n = f (s.vc e n) := by
  simp only [State.modVc, State.vc, elem_modElem, get_put_self]

/-- R447, R449: the only message held for a full queue, its time passed, goes to the ring. -/
theorem spillTimeout_late {s : State} {e : ElemRef} {n base : Nat} {m : Msg} {l : Load} (hw : s.cur.work = some (.spillTimeout e n))
    (hh : (s.vc e n).held = [m]) (hl : s.load m.load = some l) (hs : (s.vc e n).spilled = false) (hr : (s.vc e n).ring = [])
    (hq : 16 ≤ (s.vc e n).queue.length) (hu : m.until_ ≠ 0) (hc : m.until_ ≤ s.cycle) (hb : (s.vc e n).ringBase = some base) :
    ∃ t : TaskRef, exec .spillTimeout s =
      .next (((s.modVc e n fun v => { v with held := [] }).spillOne e t { m with port := none }).refill e t n 80) := by
  have hlate : ([m].any fun h => h.until_ != 0 && decide (h.until_ ≤ s.cycle)) = true := by simp [hu, hc]
  have hroom : ¬ ((s.vc e n).queue.length < 16 ∨ false = true) := by simpa using hq
  have hgo : True ∧ ([] : List Msg).length < 64 ∧ (some base).isSome = true := ⟨trivial, by simp, rfl⟩
  have hrow : exec .spillTimeout s = execSpillTimeout s := rfl
  simp only [hrow, execSpillTimeout, hw, hh, hl, hs, hr, hb, hlate]
  rw [if_neg hroom, if_pos hgo]
  exact ⟨_, rfl⟩

/-- R447, R448: the message held past its time stands in the ring, its record at the ring's head. -/
theorem spillTimeout_spills {s : State} {e : ElemRef} {n base : Nat} {m : Msg} {l : Load} (hw : s.cur.work = some (.spillTimeout e n))
    (hh : (s.vc e n).held = [m]) (hn : m.vc = n) (hl : s.load m.load = some l) (hs : (s.vc e n).spilled = false) (hr : (s.vc e n).ring = [])
    (hq : 16 ≤ (s.vc e n).queue.length) (hu : m.until_ ≠ 0) (hc : m.until_ ≤ s.cycle) (ho : MemoryOk s) (hm : s.marks = [])
    (hb : (s.vc e n).ringBase = some base) (hp : m.payload.length ≤ 256) (hg : s.badIn (base + 320 * ((s.vc e n).ringHead % 64)) 320 = none) :
    ∃ t, exec .spillTimeout s = .next t
      ∧ t.vc e n = { s.vc e n with held := [], ring := [{ m with port := none }], spilled := true }
      ∧ Spills (s.modVc e n fun v => { v with held := [] }) t e { m with port := none } (base + 320 * ((s.vc e n).ringHead % 64)) := by
  subst hn
  obtain ⟨u, hexec⟩ := spillTimeout_late hw hh hl hs hr hq hu hc hb
  have hvc := vc_modVc s e m.vc fun v : Vc => { v with held := [] }
  have hspill := spillOne_spills (s := s.modVc e m.vc fun v => { v with held := [] }) (m := { m with port := none }) (e := e) (base := base)
    (by rw [hvc]; exact hb) hm ho hp (by rw [hvc]; simp only [hr, List.length_nil, Nat.add_zero]; exact hg) u
  simp only [hvc, hr, List.length_nil, Nat.add_zero] at hspill
  have hafter := hspill.vc
  simp only [hvc, hr, List.nil_append] at hafter
  rw [refill_rests (by rw [hafter]) (by rw [hafter]) (by rw [hafter]; exact hq)] at hexec
  exact ⟨_, hexec, hafter, hspill⟩

end Sys2Proof.Proofs
end

section
/-! SUPPORT. The arrival of messages changes no load (R204, R206, R213, R448), and a loop admits a stamp with all its waiting messages (R210). -/

namespace Sys2Proof.Proofs

open Sys2Proof.Machine Sys2Proof.Safety

/-! Matching changes tasks and matching stores, and no queue (R206). -/

/-- Only tasks, the agenda, and elements apart from their queues differ. -/
def Matches (s t : State) : Prop := (∃ k x a, t = { s with tasks := k, elems := x, agenda := a }) ∧ ∀ e, (t.elem e).vcs = (s.elem e).vcs

theorem Matches.refl (s : State) : Matches s s := ⟨⟨s.tasks, s.elems, s.agenda, rfl⟩, fun _ => rfl⟩

theorem Matches.trans {s t u : State} (h : Matches s t) (k : Matches t u) : Matches s u := by
  obtain ⟨⟨_, _, _, rfl⟩, hvcs⟩ := h
  obtain ⟨⟨k, x, a, rfl⟩, hvcs'⟩ := k
  exact ⟨⟨k, x, a, rfl⟩, fun e => (hvcs' e).trans (hvcs e)⟩

theorem Matches.fields {s t : State} (h : Matches s t) : t.loads = s.loads ∧ t.ctxs = s.ctxs := by
  obtain ⟨⟨_, _, _, rfl⟩, -⟩ := h
  exact ⟨rfl, rfl⟩

theorem modElem_matches (s : State) (e : ElemRef) {f : Elem → Elem} (hf : ∀ x, (f x).vcs = x.vcs) : Matches s (s.modElem e f) := by
  refine ⟨⟨s.tasks, (s.modElem e f).elems, s.agenda, rfl⟩, fun d => ?_⟩
  rw [elem_modElem_if s e d f]
  split
  · next h => rw [hf, h]
  · rfl

theorem pend_matches (s : State) (t : TaskRef) (a : Activation) : Matches s (s.pend t a) := ⟨⟨_, s.elems, s.agenda, rfl⟩, fun _ => rfl⟩

theorem matchOne_matches (s : State) (e : ElemRef) (t : TaskRef) (st : Stamp) (vc : Nat) : Matches s (s.matchOne e t st vc).1 := by
  unfold State.matchOne
  split
  · exact pend_matches ..
  · extract_lets
    repeat' split
    · exact .refl s
    · refine Matches.trans ?_ (pend_matches ..)
      exact modElem_matches s e fun _ => rfl
    · dsimp only
      exact modElem_matches s e fun _ => rfl
    · dsimp only
      exact modElem_matches s e fun _ => rfl
    · exact .refl s

theorem retryList_matches (l : List (Nat × Stamp × Nat)) (s : State) (e : ElemRef) : Matches s (s.retryList e l) := by
  induction l generalizing s with
  | nil => exact .refl s
  | cons x r ih =>
    unfold State.retryList
    extract_lets t
    split
    · have hmatch := matchOne_matches s e t x.2.1 x.2.2
      split
      next heq =>
        rw [heq] at hmatch
        exact hmatch.trans (ih _)
      next heq =>
        rw [heq] at hmatch
        refine Matches.trans (hmatch.trans ?_) (ih _)
        exact modElem_matches _ e fun _ => rfl
    · refine Matches.trans ?_ (ih _)
      exact modElem_matches s e fun _ => rfl

theorem retryTimes_matches (n : Nat) (s : State) (e : ElemRef) : Matches s (s.retryTimes e n) := by
  induction n generalizing s with
  | zero => exact .refl s
  | succ n ih =>
    refine Matches.trans (Matches.trans ?_ (retryList_matches ..)) (ih _)
    exact modElem_matches s e fun _ => rfl

/-- R204, R212: what is left to do once a message stands in its queue. -/
theorem enterQueue_matches (s : State) (e : ElemRef) (t : TaskRef) (m : Msg) : Matches (s.modElem e (queued t.slot m)) (s.enterQueue e t m) := by
  have hrow : s.enterQueue e t m = if t.slot ∈ ((s.modElem e (queued t.slot m)).elem e).bound then (s.modElem e (queued t.slot m)).retry e
    else (s.modElem e (queued t.slot m)).post (.bindingFill t) := rfl
  rw [hrow]
  split
  · exact retryTimes_matches ..
  · exact ⟨⟨_, _, _, rfl⟩, fun _ => rfl⟩

/-! What a packet's way into the mesh may change. -/

/-- Nothing differs but the mesh, and what combining packets makes there. -/
def MeshOnly (s t : State) : Prop :=
  { t with nextId := s.nextId, reqs := s.reqs, combines := s.combines, batchRecs := s.batchRecs, circuits := s.circuits, packets := s.packets
           agenda := s.agenda } = s

theorem MeshOnly.refl (s : State) : MeshOnly s s := rfl

theorem MeshOnly.trans {s t u : State} (h : MeshOnly s t) (k : MeshOnly t u) : MeshOnly s u := by
  have := congrArg (fun x : State => ({ x with nextId := s.nextId, reqs := s.reqs, combines := s.combines, batchRecs := s.batchRecs
                                               circuits := s.circuits, packets := s.packets, agenda := s.agenda } : State)) k
  exact this.trans h

theorem MeshOnly.ite {s t u : State} {c : Prop} [Decidable c] (h : MeshOnly s t) (k : MeshOnly s u) : MeshOnly s (if c then t else u) := by
  split
  · exact h
  · exact k

theorem MeshOnly.snd {s t : State} {x : Nat × State} {n : Nat} (h : MeshOnly s x.2) (hx : x = (n, t)) : MeshOnly s t := by
  rw [hx] at h
  exact h

theorem mergeReqs_meshOnly (s : State) (a b : Req) (port : Nat) (circuit : Bool) : MeshOnly s (s.mergeReqs a b port circuit).2 := by
  unfold State.mergeReqs
  split
  · exact .ite rfl rfl
  · exact .refl s

theorem mergeInto_meshOnly (s : State) (p q : Packet) (payload : Payload) (n : Nat) : MeshOnly s (s.mergeInto p q payload n) := rfl

theorem tryMerge_meshOnly (s : State) (p : Packet) : MeshOnly s (s.tryMerge p) := by
  unfold State.tryMerge
  extract_lets port circuit
  split
  · exact .refl s
  · split
    · exact rfl
    · split
      · exact rfl
      · split
        · split
          next heq =>
            refine MeshOnly.trans ?_ (mergeInto_meshOnly ..)
            split at heq
            · exact .snd (mergeReqs_meshOnly ..) heq
            · exact .snd (mergeReqs_meshOnly ..) heq
        · exact .refl s
      · exact .refl s

theorem enterMesh_meshOnly (s : State) (p : Packet) : MeshOnly s (s.enterMesh p) := by
  unfold State.enterMesh
  extract_lets u
  have hu : MeshOnly s u := rfl
  clear_value u
  refine MeshOnly.trans (hu.trans ?_) (tryMerge_meshOnly ..)
  unfold State.takeTurns
  split
  · exact .refl u
  · exact rfl

/-- R433: a packet that is sent stands in the mesh; nothing outside the mesh differs. -/
theorem sendPacket_meshOnly (s : State) (p : Packet) : MeshOnly s (s.sendPacket p) := by
  have hpost (t : State) (w : Work) : MeshOnly t (t.post w) := rfl
  unfold State.sendPacket
  refine MeshOnly.trans (MeshOnly.ite (MeshOnly.trans ?_ (enterMesh_meshOnly ..)) ?_) (hpost ..)
  · exact rfl
  · exact rfl

theorem MeshOnly.fields {s t : State} (h : MeshOnly s t) :
    t.loads = s.loads ∧ t.tasks = s.tasks ∧ t.elems = s.elems ∧ t.ctxs = s.ctxs := by
  have hloads := congrArg State.loads h
  have htasks := congrArg State.tasks h
  have helems := congrArg State.elems h
  have hctxs := congrArg State.ctxs h
  exact ⟨hloads, htasks, helems, hctxs⟩

/-! The ways of an arrival change no load. -/

/-- The loads of a machine. -/
def LoadsAre (ls : List Load) (s : State) : Prop := s.loads = ls

theorem LoadsAre.ite {ls : List Load} {c : Prop} [Decidable c] {s t : State} (h : LoadsAre ls s) (k : LoadsAre ls t) : LoadsAre ls (if c then s else t) := by
  split
  · exact h
  · exact k

theorem LoadsAre.of_eq {ls : List Load} {s t : State} (h : LoadsAre ls s) (e : t.loads = s.loads) : LoadsAre ls t := e.trans h

theorem LoadsAre.sendPacket {ls : List Load} {s : State} (h : LoadsAre ls s) (p : Packet) : LoadsAre ls (s.sendPacket p) :=
  h.of_eq (sendPacket_meshOnly s p).fields.1

theorem LoadsAre.modVc {ls : List Load} {s : State} (h : LoadsAre ls s) (e : ElemRef) (n : Nat) (f : Vc → Vc) : LoadsAre ls (s.modVc e n f) := h

theorem LoadsAre.deadMessage {ls : List Load} {s : State} (h : LoadsAre ls s) (m : Msg) (e : ElemRef) (t : TaskRef) (kind : Nat) :
    LoadsAre ls (s.deadMessage m e t kind) := by
  -- Of the applied function the kernel would run the dead letter: it is unfolded before it is applied.
  generalize hf : @State.deadMessage = f
  delta State.deadMessage at hf
  subst hf
  beta_reduce
  extract_lets u
  have hletter : LetterOnly s u := deadLetter_spec ..
  clear_value u
  obtain ⟨-, -, -, hloads, -⟩ := hletter.fields
  have hu := h.of_eq hloads
  split
  · exact hu.sendPacket _
  · exact hu

theorem LoadsAre.homeOnly {ls : List Load} {s t : State} (h : LoadsAre ls s) (k : Laws.HomeOnly s t) : LoadsAre ls t := by
  have e := congrArg State.loads k
  exact h.of_eq e

theorem LoadsAre.spillOne {ls : List Load} {s : State} (h : LoadsAre ls s) (e : ElemRef) (t : TaskRef) (m : Msg) : LoadsAre ls (s.spillOne e t m) := by
  unfold State.spillOne
  extract_lets v w
  have hw : LoadsAre ls w := h
  clear_value w
  split
  · exact hw.deadMessage ..
  · extract_lets slot x y
    have hx : LoadsAre ls x := hw.homeOnly (Laws.deviceMeet_homeOnly ..)
    have hy : LoadsAre ls y := hx.homeOnly (Laws.deviceWrite_homeOnly ..)
    clear_value y x
    exact .ite (hx.deadMessage ..) (hy.modVc ..)

theorem LoadsAre.enterQueue {ls : List Load} {s : State} (h : LoadsAre ls s) (e : ElemRef) (t : TaskRef) (m : Msg) : LoadsAre ls (s.enterQueue e t m) := by
  have hqueued : LoadsAre ls (s.modElem e (queued t.slot m)) := h
  exact hqueued.of_eq (enterQueue_matches s e t m).fields.1

/-- R204, R447, R448: a message reaches its element, its loads as they were. -/
theorem LoadsAre.arriveAt {ls : List Load} {s : State} (h : LoadsAre ls s) (e : ElemRef) (t : TaskRef) (m : Msg) (port : Option Nat) :
    LoadsAre ls (s.arriveAt e t m port) := by
  unfold State.arriveAt
  extract_lets v hold
  have hhold : LoadsAre ls hold := h
  clear_value hold
  exact .ite hhold (.ite (.ite (h.spillOne ..) hhold) (.ite (h.enterQueue ..) hhold))

/-! A loop admits a stamp (R210). -/

/-- R210: the lowest of messages of one stamp is the first. -/
theorem lowestWaiting_same {m : Msg} {ms : List Msg} (h : ∀ x ∈ ms, x.stamp = m.stamp) : lowestWaiting (m :: ms) = some m := by
  rw [lowestWaiting, List.foldl_cons]
  induction ms with
  | nil => rfl
  | cons x r ih =>
    obtain ⟨hx, hr⟩ := List.forall_mem_cons.mp h
    simp only [List.foldl_cons, hx, lt_self_iff_false, if_false]
    exact ih hr

/-- R210, R387: messages of one stamp pass as one stamp in flight, each counted. -/
theorem pass_all {ls : LoopState} {u : Stamp} {n : Nat} (hf : ls.flight = [(u, n, 0)]) {ms : List Msg} (h : ∀ x ∈ ms, x.stamp = u) :
    ms.foldl (fun y x => y.pass x.stamp x.count) ls = { ls with flight := [(u, n + (ms.map (·.count)).sum, 0)] } := by
  induction ms generalizing ls n with
  | nil => simp [← hf]
  | cons x r ih =>
    obtain ⟨hx, hr⟩ := List.forall_mem_cons.mp h
    have hpass : ls.pass x.stamp x.count = { ls with flight := [(u, n + x.count, 0)] } := by simp [LoopState.pass, hf, hx]
    rw [List.foldl_cons, hpass, ih rfl hr, List.map_cons, List.sum_cons, Nat.add_assoc]

theorem pass_fresh {ls : LoopState} (hf : ls.flight = []) (u : Stamp) (n : Nat) : ls.pass u n = { ls with flight := [(u, n, 0)] } := by
  simp [LoopState.pass, hf]

theorem LoadsAre.foldl {ls : List Load} {α : Type} {f : State → α → State} (hf : ∀ s a, LoadsAre ls s → LoadsAre ls (f s a)) (as : List α) {s : State}
    (h : LoadsAre ls s) : LoadsAre ls (as.foldl f s) := by
  induction as generalizing s with
  | nil => exact h
  | cons a r ih => exact ih (hf s a h)

/-- R426: a bed whose only loop has no stamp in flight has room for one. -/
theorem stampRoom_only {l : Load} {ls : LoopState} (hl : l.loops = [ls]) (hf : ls.flight = []) (i : Nat) : l.stampRoom i = true := by
  have hnone (p : LoopState → Bool) : ([ls].filter p).foldl (fun n x => n + x.flight.length) 0 = 0 := by
    cases hp : p ls <;> simp [hp, hf]
  unfold Load.stampRoom
  extract_lets bed
  rw [hl, hnone]
  rfl

/-- A loop's state when its only waiting stamp, that of all its waiting messages, is admitted. -/
def admitted (ls : LoopState) (m : Msg) (ms : List Msg) : LoopState :=
  { ls with waiting := [], flight := [(m.stamp, ((m :: ms).map (·.count)).sum, 0)] }

theorem pass_admitted {ls : LoopState} (hf : ls.flight = []) {m : Msg} {ms : List Msg} (h : ∀ x ∈ ms, x.stamp = m.stamp) :
    (m :: ms).foldl (fun y x => y.pass x.stamp x.count) { ls with waiting := [] } = admitted ls m ms := by
  rw [List.foldl_cons, pass_fresh (ls := { ls with waiting := [] }) hf, pass_all rfl h, ← List.sum_cons, ← List.map_cons (f := Msg.count)]
  rfl

/-- R210: a loop admits the only stamp that waits at it with all the messages that wait. -/
theorem loopAdmit_only {s : State} {id i : Nat} {l : Load} {ls : LoopState} {cfg : LoopCfg} {m : Msg} {ms : List Msg}
    (hw : s.cur.work = some (.loopAdmit id i)) (hl : s.load id = some l) (hloops : l.loops = [ls]) (hi : ls.loop = i) (hwait : ls.waiting = m :: ms)
    (hs : ∀ x ∈ ms, x.stamp = m.stamp) (hf : ls.flight = []) (hcfg : l.cfg.loops[i]? = some cfg) (hk : 1 ≤ cfg.k) :
    ∃ t, exec .loopAdmit s = .next t ∧ t.load id = some { l with loops := [admitted ls m ms] } := by
  have hall : ∀ x ∈ m :: ms, x.stamp = m.stamp := List.forall_mem_cons.mpr ⟨rfl, hs⟩
  have hfind : l.loops.find? (fun x => x.loop == i) = some ls := by simp [hloops, hi]
  have hpasses : (m :: ms).filter (fun m => ls.flight.any (fun f => f.1 == m.stamp) || ls.admits cfg.k m.stamp && l.stampRoom i) = m :: ms :=
    List.filter_eq_self.mpr fun x _ => by simp [hf, LoopState.admits, stampRoom_only hloops hf]; omega
  have hgo : (m :: ms).filter (fun x => x.stamp == m.stamp) = m :: ms := List.filter_eq_self.mpr fun x hx => beq_iff_eq.mpr (hall x hx)
  have hrest : (m :: ms).filter (fun x => x.stamp != m.stamp) = [] := List.filter_eq_nil_iff.mpr fun x hx => by simp [hall x hx]
  have hnone : (admitted ls m ms).waiting.isEmpty = true := rfl
  have hrow : exec .loopAdmit s = execLoopAdmit s := rfl
  simp only [hrow, execLoopAdmit, hw, hl, hfind, hcfg, hwait, hpasses, lowestWaiting_same hs, hgo, hrest, pass_admitted hf hs, hnone, if_true]
  refine ⟨_, rfl, ?_⟩
  have hloads := LoadsAre.foldl (ls := (s.modLoad id fun l => l.modLoop i fun _ => admitted ls m ms).loads)
    (f := fun s x => s.arriveAt ⟨x.elem / 16, x.elem % 16⟩ (l.takerOf x) { x with elem := x.elem % 16 } none)
    (fun s x h => h.arriveAt ..) (m :: ms) (s := s.modLoad id fun l => l.modLoop i fun _ => admitted ls m ms) rfl
  refine (load_of_loads hloads id).trans ?_
  have hmod := load_modLoop hl i fun _ => admitted ls m ms
  rw [id_of_load hl] at hmod
  rw [hmod]
  simp [Load.modLoop, hloops, hi]

/-! Notifications (R385). -/

/-- R385: the only packet of the mesh, a notification for a task that has not Exited, becomes an activation; a task whose binding does not stand waits for
its fill. -/
theorem notificationArrive_alone {s : State} {id : Nat} {p : Packet} {n : Note} (hw : s.cur.work = some (.notificationArrive id)) (hp : s.packets = [p])
    (hid : p.id = id) (hn : p.payload = .note n) (hx : (s.task n.task).phase ≠ .exited) :
    exec .notificationArrive s = .next (if n.task.slot ∈ (s.elem (elemOf n.task)).bound
      then ({ s with packets := [] } : State).pend n.task { stamp := n.stamp, note := some n }
      else (({ s with packets := [] } : State).pend n.task { stamp := n.stamp, note := some n }).post (.bindingFill n.task)) := by
  have hpacket : s.packet id = some p := by simp [State.packet, hp, hid]
  have hrest : s.packets.filter (fun q => decide (q.id ≠ id)) = [] := by simp [hp, hid]
  show execNotificationArrive s = _
  simp only [execNotificationArrive, hw, hpacket, hrest, hn]
  rw [if_neg (show ¬ (({ s with packets := [] } : State).task n.task).phase = .exited from hx)]
  rfl

end Sys2Proof.Proofs
end

section
/-! SUPPORT. Messages, spills, loops and notifications (R204, R206, R210, R385, R448). -/

namespace Sys2Proof.Proofs

open Sys2Proof.Machine Sys2Proof.Safety

/-- R385: what the arrival of a notification leaves. -/
theorem note_arrives {s : State} {id : Nat} {p : Packet} {n : Note} (hw : s.cur.work = some (.notificationArrive id)) (hp : s.packets = [p])
    (hid : p.id = id) (hn : p.payload = .note n) (hx : (s.task n.task).phase ≠ .exited) :
    ∃ t a, exec .notificationArrive s = .next t ∧ t.packets = [] ∧ (t.task n.task).pending = (s.task n.task).pending ++ [a] ∧ a.stamp = n.stamp
      ∧ a.note = some n ∧ a.msgs = [] ∧ a.since = s.cycle ∧ (t.task n.task).regs = (s.task n.task).regs
      ∧ (n.task.slot ∉ (s.elem (elemOf n.task)).bound → Work.bindingFill n.task ∈ t.agenda) ∧ ∀ v, v ≠ n.task → t.task v = s.task v := by
  refine ⟨_, { stamp := n.stamp, note := some n, since := s.cycle }, notificationArrive_alone hw hp hid hn hx, ?_⟩
  have htask := pend_task ({ s with packets := [] } : State) n.task { stamp := n.stamp, note := some n }
  have hothers (v : TaskRef) (hv : v ≠ n.task) := pend_task_ne ({ s with packets := [] } : State) hv { stamp := n.stamp, note := some n }
  have hpackets : (({ s with packets := [] } : State).pend n.task { stamp := n.stamp, note := some n }).packets = [] := rfl
  generalize ({ s with packets := [] } : State).pend n.task { stamp := n.stamp, note := some n } = u at htask hothers hpackets ⊢
  have hpending := congrArg Task.pending htask
  have hregs := congrArg Task.regs htask
  split
  · next hb => exact ⟨hpackets, hpending, rfl, rfl, rfl, rfl, hregs, fun h => absurd hb h, hothers⟩
  · exact ⟨hpackets, hpending, rfl, rfl, rfl, rfl, hregs, fun _ => List.mem_append_right _ (List.mem_singleton_self _), hothers⟩

/-- Settles O49: an arrival is the step of a message alone in the mesh, in the branch of the receiving task's phase; a spill writes the record of the
message held; a loop's admission folds the arrivals of its waiting messages, which change no load. -/
theorem messagesArrive : Obligations.MessagesArrive := by
  unfold Obligations.MessagesArrive
  refine fun s id p l => ⟨fun m k c hw hp hid hm hl => ?_, fun e n m hw hh hn hl hs hr hq hu hc ho hmarks base hb => ?_,
    fun i ls cfg m ms hw hl hloops hi hwait hs hf hcfg hk => ?_, fun n hw hp hid hn hx => note_arrives hw hp hid hn hx⟩
  · intro e u hrec hchan hphase
    have hexec := messageArrive_alone hw hp hid hm
    refine ⟨fun hx => ?_, fun hx hloop he hheld hspilled hroom hbound hun hin hother hclaims => ?_⟩
    · obtain ⟨htasks, helems, hevent, hdelta⟩ := takeMessage_exited (s := { s with packets := [] }) rfl hl hrec hchan hphase hx
        (if p.slot.isSome then none else some p.inp)
      exact ⟨_, hexec, htasks, helems, hevent, hdelta⟩
    · have hlocal : (⟨p.at_, m.elem⟩ : ElemRef) = e := rfl
      rw [hlocal] at hexec
      clear_value e
      subst he
      rw [takeMessage_arrives (s := { s with packets := [] }) hl hrec hchan hphase hx hloop,
        arriveAt_enters (s := { s with packets := [] }) hheld hspilled hroom] at hexec
      obtain ⟨hpackets, hmem, hqueue, htask, hothers⟩ := enterQueue_single (s := { s with packets := [] }) (u := u) (m := m) hbound hun hin hother hclaims
      refine ⟨_, { stamp := m.stamp, msgs := [m], since := s.cycle }, hexec, hpackets, hqueue, ?_, rfl, rfl, rfl, ?_, ?_, ?_, hmem, hothers⟩
      all_goals rw [htask]; rfl
  · intro slot hlen hgood
    obtain ⟨t, hexec, hvc, -, hcount, hpayload, hrest⟩ := spillTimeout_spills hw hh hn hl hs hr hq hu hc ho hmarks hb hlen hgood
    refine ⟨t, hexec, by rw [hvc], by rw [hvc], by rw [hvc], by rw [hvc], ?_, hpayload, hrest⟩
    rw [hcount, State.modVc, elem_modElem]
  · obtain ⟨t, hexec, ht⟩ := loopAdmit_only hw hl hloops hi hwait hs hf hcfg hk
    exact ⟨t, _, hexec, ht, rfl, rfl⟩

end Sys2Proof.Proofs
end

section
/-! SUPPORT. Why the first part of O40 fails (R216). A commit numbers the request of its local store with the next free number, and starts the request of
that number. Nothing in the statement keeps the next number free: where an operation of no task stands under it already, that one is started in the
store's place, and the completion of it drops both. The bytes of the block's store are never written. -/

namespace Sys2Proof.Proofs.TakenNumber

open Sys2Proof.Machine

/-- The task at the start of tile 0. -/
def task : TaskRef := ⟨0, 0, 0⟩

/-- The byte stored, at the start of the tile's local storage. -/
def cell : Nat × Byte := (localKey .ls 0 0 0, 5)

/-- A block of one store word, which has fired: it stores a byte and branches to the block at 0. -/
def storing : Firing :=
  { serial := 0, addr := 0, hdr := decodeHeader 0, words := [0x8080000000000000], fired := [0], branch := some (.block 0)
    stores := [{ idx := 0, sid := 0, bytes := [cell] }] }

/-- The block is to commit; a store of no task that writes nothing has the number that the block's store is to get. -/
def taken : State :=
  { State.reset with
    cur := { work := some (.blockCommit task) }
    tasks := [(task, { phase := .active, act := some { stamp := {} }, flights := [storing] })]
    reqs := [{ id := 1, op := .store [] }] }

/-- The byte at the cell's key, where the step goes on. -/
def byteAfter : Host.Outcome State Fault Refusal → Option Byte
  | .next t => some (t.byte cell.1)
  | _ => none

/-- The commit may be taken. -/
theorem taken_mayCommit : taken.mayCommit task = true := by decide +kernel

/-- After the commit the cell's byte is what it was. -/
theorem byteAfter_commit : byteAfter (exec .blockCommit taken) = some 0 := by decide +kernel

theorem storing_stores : ∀ r ∈ storing.stores,
    r.idx < storing.words.length ∧ r.lines = [] ∧ r.chan = [] ∧ r.wait = none ∧ ∀ c ∈ r.bytes, isGl c.1 = false := by
  decide

theorem lastWrite_storing : lastWrite (storing.stores.flatMap (·.bytes)) cell.1 none = some 5 := by decide

/-- Refutes O40: in a state where an operation stands under the number that the block's local store gets, the commit leaves the byte stored as it was. -/
theorem not_blocksCommitWhole : ¬ Obligations.BlocksCommitWhole := by
  unfold Obligations.BlocksCommitWhole
  intro h
  obtain ⟨t, ht, -, -, -, hbyte, -⟩ := (h taken task storing).1 rfl taken_mayCommit rfl (by unfold Safety.MemoryOk; decide) rfl rfl rfl ⟨0, rfl⟩ rfl
    (by decide) (by decide) storing_stores (fun n v hn => absurd hn (by simp [storing, Table.find]))
  have hafter := byteAfter_commit
  rw [ht] at hafter
  simp only [byteAfter, hbyte cell.1, lastWrite_storing] at hafter
  exact absurd hafter (by decide)

end Sys2Proof.Proofs.TakenNumber
end

section
/-! SUPPORT. The end of a launch (R415): its loads leave, and it is no longer in flight. -/

namespace Sys2Proof.Proofs

open Sys2Proof.Machine

theorem completion_homeOnly (s : State) (c q : Nat) (tag : Word) (status code fload : Nat) (digest : BitVec 256) :
    Laws.HomeOnly s (s.completion c q tag status code fload digest) := by
  have hmod (u : State) (f : LaunchQ → LaunchQ) : Laws.HomeOnly u (u.modLq c q f) := rfl
  unfold State.completion
  extract_lets x n b
  clear_value b
  exact (Laws.deviceWrite_homeOnly ..).trans (hmod ..)

theorem writeStatus_homeOnly (s : State) (c : Nat) : Laws.HomeOnly s (s.writeStatus c) := Laws.deviceWrite_homeOnly ..

theorem homeOnly_loads {s t : State} (h : Laws.HomeOnly s t) : t.loads = s.loads ∧ t.launches = s.launches := by
  have hloads := congrArg State.loads h
  have hlaunches := congrArg State.launches h
  exact ⟨hloads, hlaunches⟩

theorem keepDigest_loads (s : State) (l : Load) : (s.keepDigest l).loads = s.loads := by
  unfold State.keepDigest
  split <;> rfl

theorem keepDigests_loads (ls : List Load) (s : State) : (ls.foldl State.keepDigest s).loads = s.loads := by
  induction ls generalizing s with
  | nil => rfl
  | cons l r ih => exact (ih _).trans (keepDigest_loads s l)

theorem dropLoad_loads (s : State) (l : Load) : (s.dropLoad l).loads = s.loads.filter fun x => decide (x.id ≠ l.id) := by
  unfold State.dropLoad
  extract_lets u
  have hu : u.loads = s.loads := by
    unfold u
    split <;> rfl
  rw [← hu]

/-- The loads that are left once some have been dropped. -/
theorem mem_dropLoads {ls : List Load} {s : State} {y : Load} : y ∈ (ls.foldl State.dropLoad s).loads ↔ y ∈ s.loads ∧ ∀ z ∈ ls, y.id ≠ z.id := by
  induction ls generalizing s with
  | nil => simp
  | cons l r ih => rw [List.foldl_cons, ih, dropLoad_loads, List.mem_filter, decide_eq_true_eq, List.forall_mem_cons, and_assoc]

/-- R415: the launch is in flight no more, and what loads are left have the numbers of none of its loads. -/
structure Ends (s t : State) (n : Nat) : Prop where
  gone : t.launch n = none
  loads : ∀ y ∈ t.loads, y ∈ s.loads ∧ ∀ z ∈ s.loads, z.launch = n → y.id ≠ z.id

theorem complete_ends {s : State} {launch : Nat} (h : (s.launch launch).isSome) (status code : Nat) : Ends s (s.complete launch status code) launch := by
  unfold State.complete
  split
  next hn => simp [hn] at h
  next x hx =>
    extract_lets mine fload status' s1 x1 s2 mgmt s3
    have hmine : ∀ z, z ∈ mine ↔ z ∈ s.loads ∧ z.launch = launch := fun z => by simp [mine]
    have h1 : s1.loads = s.loads := keepDigests_loads mine s
    have h2 : ∀ y, y ∈ s2.loads ↔ y ∈ s.loads ∧ ∀ z ∈ mine, y.id ≠ z.id := fun y => by rw [← h1]; exact mem_dropLoads
    have h3 : s3.loads = s2.loads := rfl
    have h3' : s3.launches = s2.launches.filter fun x => decide (x.id ≠ launch) := rfl
    clear_value s3 mgmt s2 s1 x1 status' fload
    obtain ⟨hloads, hlaunches⟩ := homeOnly_loads ((completion_homeOnly s3 x1.ctx x1.queue x1.tag status' code fload x1.result).trans
      (writeStatus_homeOnly _ x1.ctx))
    constructor
    · rw [State.launch, hlaunches, h3', List.find?_eq_none]
      intro y hy
      simpa using (List.mem_filter.mp hy).2
    · intro y hy
      rw [hloads, h3, h2] at hy
      exact ⟨hy.1, fun z hz hl => hy.2 z ((hmine z).mpr ⟨hz, hl⟩)⟩

theorem Ends.no_load {s t : State} {launch : Nat} (h : Ends s t launch) : ∀ y ∈ t.loads, y.launch ≠ launch :=
  fun y hy hl => (h.loads y hy).2 y (h.loads y hy).1 hl rfl

theorem Ends.load_gone {s t : State} {l : Load} {id : Nat} (h : Ends s t l.launch) (hl : s.load id = some l) : t.load id = none := by
  refine List.find?_eq_none.mpr fun y hy => ?_
  have := (h.loads y hy).2 l (List.mem_of_find?_eq_some hl) rfl
  simpa [id_of_load hl] using this

/-! Placement that ends the launch, and drains (R415, R190, R196). -/

theorem loadPlace_faults {s u : State} {id code : Nat} {fc : FCode} {l : Load} {beds : List Nat} (hw : s.cur.work = some (.loadPlace id))
    (hl : s.load id = some l) (hm : s.mayPlace l = true) (hn : s.neverFits l = false) (hb : s.bedsFor l = some beds)
    (hf : s.fillBeds l.ctx (beds.zip (l.cfg.pages ++ List.replicate beds.length [])) = (some fc, u)) (hc : fc.num = code) :
    exec .loadPlace s = .next (u.complete l.launch 2 code) := by
  show execLoadPlace s = _
  simp only [execLoadPlace, hw, hl, hm, hn, hb, hf, hc, Bool.not_true, Bool.false_eq_true, if_false]

theorem loadPlace_fills {s u : State} {id : Nat} {l : Load} {beds : List Nat} (hw : s.cur.work = some (.loadPlace id))
    (hl : s.load id = some l) (hm : s.mayPlace l = true) (hn : s.neverFits l = false) (hb : s.bedsFor l = some beds)
    (hf : s.fillBeds l.ctx (beds.zip (l.cfg.pages ++ List.replicate beds.length [])) = (none, u)) :
    exec .loadPlace s = .next (u.place l beds) := by
  show execLoadPlace s = _
  simp only [execLoadPlace, hw, hl, hm, hn, hb, hf, Bool.not_true, Bool.false_eq_true, if_false]

theorem loadPlace_never {s : State} {id : Nat} {l : Load} (hw : s.cur.work = some (.loadPlace id)) (hl : s.load id = some l) (hm : s.mayPlace l = true)
    (hn : s.neverFits l = true) : exec .loadPlace s = .next (s.complete l.launch 3 0) := by
  show execLoadPlace s = _
  simp only [execLoadPlace, hw, hl, hm, hn, Bool.not_true, Bool.false_eq_true, if_false, if_true]

theorem loadDrain_ends {s : State} {id : Nat} {l : Load} {x : Launch} {i : Image} (hw : s.cur.work = some (.loadDrain id)) (hl : s.load id = some l)
    (hm : s.mayDrain l = true) (hx : s.launch l.launch = some x) (hi : s.images.find (x.ctx, x.image) = some i) (hr : i.rows = []) :
    exec .loadDrain s = .next (s.complete l.launch 0 0) := by
  show execLoadDrain s = _
  simp only [execLoadDrain, hw, hl, hm, hx, hi, hr, Option.bind_some, State.sequence, Bool.not_true, Bool.false_eq_true, if_false]

theorem loadDrain_follows {s : State} {id n : Nat} {l : Load} {x : Launch} {i : Image} (hw : s.cur.work = some (.loadDrain id)) (hl : s.load id = some l)
    (hm : s.mayDrain l = true) (hx : s.launch l.launch = some x) (hi : s.images.find (x.ctx, x.image) = some i) (hr : i.rows = [(l.number, n, .always)]) :
    exec .loadDrain s = .next (s.follow l i n) := by
  show execLoadDrain s = _
  simp only [execLoadDrain, hw, hl, hm, hx, hi, hr, Option.bind_some, State.sequence, Bool.not_true, Bool.false_eq_true, if_false, ne_eq, not_true_eq_false]

/-- R196: the load that follows waits for its beds, in the place of the one that has drained. -/
theorem follow_loads {s : State} {l : Load} {i : Image} {n : Nat} {cfg : LoadCfg} (hn : i.loads[n]? = some cfg) :
    (s.follow l i n).loads = (s.loads.filter fun z => decide (z.id ≠ l.id))
      ++ [{ id := s.nextId, launch := l.launch, ctx := l.ctx, number := n, cfg := cfg, shapes := i.shapes, prio := l.prio, since := s.tick }] := by
  simp only [State.follow, hn, dropLoad_loads, keepDigest_loads]
  rfl

end Sys2Proof.Proofs
end

section
/-! SUPPORT. The placement of a load (R416, R418, R419). -/

namespace Sys2Proof.Proofs

open Sys2Proof.Machine

/-- A part of the machine that no turn of a fold changes, the fold leaves. -/
theorem foldl_keeps {α β : Type} {f : State → α → State} {part : State → β} (h : ∀ s a, part (f s a) = part s) (as : List α) (s : State) :
    part (as.foldl f s) = part s := by
  induction as generalizing s with
  | nil => rfl
  | cons a r ih => exact (ih _).trans (h s a)

/-! The tasks of a load. -/

theorem foldl_setTask_ne {α : Type} (ref : α → TaskRef) (new : α → Task) {v : TaskRef} {as : List α} (h : v ∉ as.map ref) (s : State) :
    (as.foldl (fun s a => s.setTask (ref a) (new a)) s).task v = s.task v := by
  induction as generalizing s with
  | nil => rfl
  | cons a r ih =>
    rw [List.map_cons, List.mem_cons, not_or] at h
    rw [List.foldl_cons, ih h.2, task_setTask_ne s h.1]

theorem foldl_setTask {α : Type} (ref : α → TaskRef) (new : α → Task) {a : α} {as : List α} (h : (as.map ref).Nodup) (ha : a ∈ as) (s : State) :
    (as.foldl (fun s a => s.setTask (ref a) (new a)) s).task (ref a) = new a := by
  induction as generalizing s with
  | nil => simp at ha
  | cons b r ih =>
    rw [List.map_cons, List.nodup_cons] at h
    rw [List.foldl_cons]
    rcases List.mem_cons.mp ha with rfl | hr
    · rw [foldl_setTask_ne ref new h.1, task_setTask]
    · exact ih h.2 hr _

/-- R200, R212: each task of a load stands in its slot as its configuration gives it. -/
theorem task_placeTasks {s : State} {l : Load} (h : (l.cfg.tasks.zipIdx.map fun k => l.taskRef k.2).Nodup) {n : Nat} {k : TaskCfg}
    (hk : l.cfg.tasks[n]? = some k) : (s.placeTasks l).task (l.taskRef n) =
      { ctx := l.ctx, launch := l.launch, load := l.id, number := n, gen := l.gen, code := k.code, waved := k.waved } := by
  unfold State.placeTasks
  extract_lets u
  exact foldl_setTask (fun c : TaskCfg × Nat => l.taskRef c.2)
    (fun c => { ctx := l.ctx, launch := l.launch, load := l.id, number := c.2, gen := l.gen, code := c.1.code, waved := c.1.waved })
    h (a := (k, n)) (List.mk_mem_zipIdx_iff_getElem?.mpr hk) u

/-! What the steps of a placement leave of the loads and the tasks. -/

theorem loads_clearBeds (s : State) (l : Load) : (s.clearBeds l).loads = s.loads := by
  unfold State.clearBeds
  split <;> rfl

theorem loads_freshUnits (s : State) (l : Load) (lost : Bool) : (s.freshUnits l lost).loads = s.loads := by
  unfold State.freshUnits
  extract_lets tiles fresh
  exact foldl_keeps (part := State.loads) (fun _ _ => by rfl) tiles _

theorem tasks_freshUnits (s : State) (l : Load) (lost : Bool) : (s.freshUnits l lost).tasks = s.tasks := by
  unfold State.freshUnits
  extract_lets tiles fresh
  exact foldl_keeps (part := State.tasks) (fun _ _ => by rfl) tiles _

theorem loads_placeTasks (s : State) (l : Load) : (s.placeTasks l).loads = s.loads := by
  unfold State.placeTasks
  extract_lets u
  exact foldl_keeps (part := State.loads) (fun _ _ => by rfl) _ u

theorem loads_giveRings (s : State) (l : Load) (rings : List (Place × Nat)) : (s.giveRings l rings).loads = s.loads :=
  foldl_keeps (part := State.loads) (fun _ _ => by rfl) rings s

theorem tasks_giveRings (s : State) (l : Load) (rings : List (Place × Nat)) : (s.giveRings l rings).tasks = s.tasks :=
  foldl_keeps (part := State.tasks) (fun _ _ => by rfl) rings s

/-- A load put in the place of the first of its number is what that number then names. -/
theorem load_put {s : State} {id : Nat} {l : Load} (h : s.load id = some l) {y : Load} (hy : y.id = id) : (s.modLoad id fun _ => y).load id = some y := by
  have hid : ((fun l : Load => l.id == id) ∘ fun x => if x.id = id then y else x) = fun l : Load => l.id == id := by
    funext x
    simp only [Function.comp_apply]
    split
    · next hx => rw [hy, hx]
    · rfl
  simp only [State.load, State.modLoad, List.find?_map, hid]
  rw [show s.loads.find? (fun l => l.id == id) = some l from h, Option.map_some, if_pos (id_of_load h)]

theorem load_changed {s : State} {id : Nat} {l : Load} (h : s.load id = some l) {f : Load → Load} (hf : ∀ x, (f x).id = x.id) :
    (s.modLoad id f).load id = some (f l) := by
  rw [load_modLoad s id id hf, h, Option.map_some, if_pos (id_of_load h)]

/-! Seating (R416). -/

/-- R416: the bookkeeping gives a load its beds, and a generation. -/
structure Seated (s : State) (l : Load) (beds : List Nat) (x : Load) : Prop where
  phase : x.phase = .placed
  beds : x.beds = beds
  gen : x.gen = (s.placements + 1) % 2 ^ 32
  first : x.first = false
  rest : x.id = l.id ∧ x.ctx = l.ctx ∧ x.launch = l.launch ∧ x.entries = l.entries ∧ x.cfg = l.cfg ∧ x.saved = l.saved

theorem seat_seated (s : State) (l : Load) (beds : List Nat) : Seated s l beds (s.seat l beds).1 := ⟨rfl, rfl, rfl, rfl, rfl, rfl, rfl, rfl, rfl, rfl⟩

theorem load_seat {s : State} {id : Nat} {l x : Load} (h : s.load id = some x) (hl : l.id = id) (beds : List Nat) :
    (s.seat l beds).2.load id = some (s.seat l beds).1 := by
  subst hl
  unfold State.seat
  extract_lets gen y s1 cut s2
  have h2 : s2.load l.id = some x := h
  exact load_put h2 rfl

/-- R418, R419: the steps of a placement of a load without start channels, on beds it does not clear. -/
theorem place_quiet {s : State} {l : Load} {beds : List Nat} (hc : l.cfg.clear = false) (hs : ∀ h ∈ l.cfg.chans, h.src ≠ .start) :
    ∃ args rings, s.place l beds =
      (((((s.seat l beds).2.freshUnits (s.seat l beds).1 false).placeTasks (s.seat l beds).1).giveRings (s.seat l beds).1 rings).modLoad
      l.id fun l => { l with ranges := l.cfg.intervals args }).writeStatus l.ctx := by
  have hclear (u : State) : u.clearBeds (s.seat l beds).1 = u :=
    if_pos (by rw [show (s.seat l beds).1.cfg.clear = false from hc]; rfl)
  have hstart : (s.seat l beds).1.cfg.chans.filter (fun h => h.src == .start) = [] := List.filter_eq_nil_iff.mpr fun h hh => by simpa using hs h hh
  unfold State.place
  extract_lets rings
  simp only [hclear, hstart, List.foldl_nil]
  exact ⟨_, _, rfl⟩

/-- R416, R418: the load stands on its beds, and its tasks in their slots. -/
theorem place_stands {s : State} {id : Nat} {l x : Load} {beds : List Nat} (hl : s.load id = some x) (hid : l.id = id) (hc : l.cfg.clear = false)
    (hs : ∀ h ∈ l.cfg.chans, h.src ≠ .start) :
    ∃ y, (s.place l beds).load id = some y ∧ Seated s l beds y
      ∧ ((l.cfg.tasks.zipIdx.map fun k => y.taskRef k.2).Nodup → ∀ n k, l.cfg.tasks[n]? = some k → (s.place l beds).task (y.taskRef n) =
        { ctx := l.ctx, launch := l.launch, load := id, number := n, gen := y.gen, code := k.code, waved := k.waved }) := by
  subst hid
  obtain ⟨args, rings, hplace⟩ := place_quiet (s := s) (beds := beds) hc hs
  have hseat := load_seat hl rfl beds
  have hx := seat_seated s l beds
  generalize (s.seat l beds).1 = y at hplace hseat hx
  generalize (s.seat l beds).2 = u at hplace hseat
  obtain ⟨hid, hctx, hlaunch, -, hcfg, -⟩ := hx.rest
  have hloads : (((u.freshUnits y false).placeTasks y).giveRings y rings).loads = u.loads :=
    (loads_giveRings ..).trans ((loads_placeTasks ..).trans (loads_freshUnits ..))
  have htasks := tasks_giveRings ((u.freshUnits y false).placeTasks y) y rings
  have hnew (h : _) (n : Nat) (k : TaskCfg) (hk : _) := task_placeTasks (s := u.freshUnits y false) (l := y) h (n := n) (k := k) hk
  generalize (u.freshUnits y false).placeTasks y = v at hplace hloads htasks hnew
  generalize v.giveRings y rings = w at hplace hloads htasks
  have hhome := writeStatus_homeOnly (w.modLoad l.id fun l => { l with ranges := l.cfg.intervals args }) l.ctx
  rw [← hplace] at hhome
  refine ⟨{ y with ranges := y.cfg.intervals args }, ?_, ⟨hx.phase, hx.beds, hx.gen, hx.first, hx.rest⟩, fun hnodup n k hk => ?_⟩
  · rw [load_of_loads (homeOnly_loads hhome).1]
    exact load_changed ((load_of_loads hloads _).trans hseat) fun _ => by rfl
  · have htask (t : TaskRef) : (s.place l beds).task t = v.task t := by
      rw [State.task, hhome.tasks]
      exact congrArg (fun x => Table.get x t {}) htasks
    rw [← hcfg] at hnodup hk
    refine (htask _).trans ((hnew hnodup n k hk).trans ?_)
    rw [hctx, hlaunch, hid]

end Sys2Proof.Proofs
end

section
/-! SUPPORT. The pre-emption of a load: its drain, and what is saved of it (R423 to R426). -/

namespace Sys2Proof.Proofs

open Sys2Proof.Machine

/-! The drain (R424, R425). -/

/-- What the cancelled waits and suspended copies of a drain do not change. -/
def loadsMem (s : State) : List Load × Memory := (s.loads, s.mem)

theorem loadsMem_cancelReader (s : State) (id : Nat) : loadsMem ((s.cancelReader id).getD s) = loadsMem s := by
  unfold State.cancelReader
  split
  · extract_lets
    rfl
  · rfl

theorem loadsMem_withdraw (s : State) (t : TaskRef) : loadsMem (s.withdraw t) = loadsMem s := by
  unfold State.withdraw
  extract_lets gone mine
  have hstep (s : State) (r : Req) : loadsMem (((s.cancelReader r.id).getD s).dropReq r.id) = loadsMem s := loadsMem_cancelReader s r.id
  have hkeeps := foldl_keeps (part := loadsMem) hstep mine s
  exact hkeeps

theorem loadsMem_abandon (s : State) (t : TaskRef) : loadsMem (s.abandon t) = loadsMem s := loadsMem_withdraw s t

theorem loadsMem_drainCopy (s : State) (x : Nat × Nat) : loadsMem (s.drainCopy x) = loadsMem s := by
  unfold State.drainCopy
  split <;> rfl

/-- R423, R424: a load that is to leave drains, and nothing else of it changes. -/
theorem preemptStart_drains {s : State} {id : Nat} {l : Load} (hw : s.cur.work = some (.preemptStart id)) (hl : s.load id = some l)
    (hm : s.mayPreempt l = true) : ∃ t, exec .preemptStart s = .next t ∧ t.load id = some { l with phase := .draining } ∧ t.mem = s.mem := by
  have hrow : exec .preemptStart s = execPreemptStart s := rfl
  simp only [hrow, execPreemptStart, hw, hl, hm, Bool.not_true, Bool.false_eq_true, if_false]
  refine ⟨_, rfl, ?_⟩
  have hdraining := load_changed hl (f := fun l => { l with phase := .draining }) fun _ => rfl
  have hmem : (s.modLoad id fun l => { l with phase := .draining }).mem = s.mem := rfl
  generalize (s.modLoad id fun l => { l with phase := .draining }) = u at hdraining hmem ⊢
  have hcopies := foldl_keeps (part := loadsMem) loadsMem_drainCopy (u.unmetCopies l) u
  generalize (u.unmetCopies l).foldl State.drainCopy u = v at hcopies ⊢
  have hwaits := (foldl_keeps (part := loadsMem) loadsMem_abandon ((v.idleWaits l).filterMap (·.task)).eraseDups v).trans hcopies
  have hloads := congrArg Prod.fst hwaits
  have hstore := congrArg Prod.snd hwaits
  exact ⟨(load_of_loads hloads id).trans hdraining, hstore.trans hmem⟩

/-! The save (R426). -/

theorem writeBacking_homeOnly (s : State) (l : Load) (x : Nat × Place) : Laws.HomeOnly s (s.writeBacking l x) := by
  unfold State.writeBacking
  extract_lets e v t
  split
  · exact .refl s
  · exact .foldl (fun _ _ => Laws.deviceWrite_homeOnly ..) _ s

theorem get_filter_key {κ α : Type} [DecidableEq κ] (t : Table κ α) (p : κ → Bool) (k : κ) (d : α) :
    Table.get (t.filter fun x => p x.1) k d = if p k then t.get k d else d := by
  induction t with
  | nil => simp [Table.get]
  | cons e r ih =>
    obtain ⟨j, v⟩ := e
    by_cases hj : p j
    · rw [List.filter_cons_of_pos (by exact hj), Table.get, Table.get, ih]
      by_cases hk : j = k
      · rw [if_pos hk, if_pos hk, ← hk, if_pos hj]
      · rw [if_neg hk, if_neg hk]
    · rw [List.filter_cons_of_neg (by exact hj), ih, Table.get]
      split
      · next hp => rw [if_neg fun hk : j = k => hj (hk ▸ hp)]
      · rfl

/-- R426: the tasks that stood on a load's beds leave them; the others stay. -/
theorem task_vacate (s : State) (l : Load) (u : TaskRef) : (s.vacate l).task u = if bedOf u.tile ∈ l.beds then {} else s.task u := by
  have hget := get_filter_key s.tasks (fun u : TaskRef => !l.on u.tile) u {}
  refine hget.trans ?_
  by_cases hu : bedOf u.tile ∈ l.beds <;> simp [Load.on, hu, State.task]

theorem preemptSave_eq {s : State} {id : Nat} {l : Load} (hw : s.cur.work = some (.preemptSave id)) (hl : s.load id = some l)
    (hm : s.mayPreemptSave l = true) : ∃ stay, exec .preemptSave s =
      .next ((((l.cfg.receivers.foldl (fun s x => s.writeBacking l x) s).vacate l).freshUnits l false).modLoad id
        fun _ => { s.asSaved l (l.beds.map s.standIn) with stay := stay }) := by
  have hrow : exec .preemptSave s = execPreemptSave s := rfl
  simp only [hrow, execPreemptSave, hw, hl, hm, Bool.not_true, Bool.false_eq_true, if_false]
  exact ⟨_, rfl⟩

/-- R426: what a saved load is, and what is left where it stood. -/
theorem preemptSave_saves {s : State} {id : Nat} {l : Load} (hw : s.cur.work = some (.preemptSave id)) (hl : s.load id = some l)
    (hm : s.mayPreemptSave l = true) : ∃ t stay, exec .preemptSave s = .next t
      ∧ t.load id = some { s.asSaved l (l.beds.map s.standIn) with stay := stay }
      ∧ ∀ u, t.task u = if bedOf u.tile ∈ l.beds then {} else s.task u := by
  obtain ⟨stay, hexec⟩ := preemptSave_eq hw hl hm
  refine ⟨_, stay, hexec, ?_⟩
  have hhome := Laws.HomeOnly.foldl (fun s x => writeBacking_homeOnly s l x) l.cfg.receivers s
  generalize l.cfg.receivers.foldl (fun s x => s.writeBacking l x) s = v at hhome ⊢
  have hloads : ((v.vacate l).freshUnits l false).loads = s.loads := (loads_freshUnits ..).trans (homeOnly_loads hhome).1
  have htasks := tasks_freshUnits (v.vacate l) l false
  generalize hsaved : ({ s.asSaved l (l.beds.map s.standIn) with stay := stay } : Load) = y
  have hid : y.id = l.id := by rw [← hsaved]; rfl
  refine ⟨load_put ((load_of_loads hloads id).trans hl) (hid.trans (id_of_load hl)), fun u => ?_⟩
  have htask : (((v.vacate l).freshUnits l false).modLoad id fun _ => y).task u = (v.vacate l).task u := congrArg (fun x : Table TaskRef Task => x.get u {}) htasks
  rw [htask, task_vacate, State.task, State.task, hhome.tasks]

end Sys2Proof.Proofs
end

section
/-! SUPPORT. A saved load resumes with its state (R404, R416, R418), and a fault record is delivered (R468). -/

namespace Sys2Proof.Proofs

open Sys2Proof.Machine

/-! The saved state, as it comes back. -/

theorem unitsFrom_ge {key n b : Nat} (h : b * 64 ≤ key) : ∀ u ∈ unitsFrom key n, b * 64 ≤ u := by
  intro u hu
  obtain ⟨i, -, rfl⟩ := List.mem_map.mp hu
  have : b ≤ key / 64 := (Nat.le_div_iff_mul_le (by omega)).mpr h
  exact Nat.mul_le_mul_right 64 (by omega)

/-- R65: storage below the homes fails only where a word of it does. -/
theorem badIn_local {s : State} (hb : s.bad = []) {key : Nat} (hk : dsKey ≤ key) (n : Nat) : s.badIn key n = none := by
  have hunits : (unitsFrom key n).find? s.degraded = none := List.find?_eq_none.mpr fun u hu => by
    have hu : dsKey ≤ u := by simpa [dsKey] using unitsFrom_ge (b := dsKey / 64) (by simpa [dsKey] using hk) u hu
    simp [State.degraded, isGl, hu]
  simp only [State.badIn, hb, List.find?_nil, hunits, ite_self]

theorem savedBad_none {s : State} (hb : s.bad = []) (v : Saved) : s.savedBad v = false := by
  rw [State.savedBad, List.any_eq_false]
  intro d _
  rw [badIn_local hb (by simp only [localKey]; omega)]
  simp

theorem loadResume_fills {s u : State} {id : Nat} {l : Load} {beds : List Nat} {v : Saved} (hw : s.cur.work = some (.loadResume id))
    (hl : s.load id = some l) (hr : l.reloads = []) (hm : s.mayResume l = true) (hn : s.neverFits l = false) (hb : s.bedsFor l = some beds)
    (hv : l.saved = some v) (hgood : s.bad = [])
    (hf : s.fillBeds l.ctx (beds.zip (l.cfg.pages ++ List.replicate beds.length [])) = (none, u)) :
    exec .loadResume s = .next (u.resume l v beds) := by
  show execLoadResume s = _
  simp only [execLoadResume, hw, hl, hr, hm, hn, hb, hv, savedBad_none hgood, hf, Bool.not_true, Bool.false_eq_true, if_false]

theorem restoreQueues_none {s : State} {l : Load} {v : Saved} (h : v.back = []) : s.restoreQueues l v = s := by
  have hstep (xs : List (Nat × Place)) : xs.foldl (fun (s : State) _ => s) s = s := by
    induction xs with
    | nil => rfl
    | cons x r ih => exact ih
  simpa only [State.restoreQueues, h, List.filter_nil, List.map_nil, List.isEmpty_nil, if_true] using hstep l.cfg.receivers

theorem restoreTasks_loads {s : State} {l : Load} {v : Saved} (h : v.tasks = []) : (s.restoreTasks l v).loads = s.loads := by
  unfold State.restoreTasks
  extract_lets u
  rw [h]
  exact foldl_keeps (part := State.loads) (fun _ _ => by rfl) v.runs s

/-- R210: without loops no message waits at one. -/
theorem load_sweepLoops {s : State} {id : Nat} {l : Load} (h : s.load id = some l) (hn : l.loops = []) : (s.sweepLoops id).load id = some l := by
  unfold State.sweepLoops
  rw [h]
  simp only [hn, List.map_nil, List.filter_nil]
  have hput := load_changed h (f := fun l => { l with loops := [] }) fun _ => rfl
  rw [← hn] at hput ⊢
  exact hput

/-- R404, R416, R418: what the restoring of a state without copies, macros, queues, notifications, tasks or loops leaves of the load. -/
theorem resume_restores {s : State} {id : Nat} {l x : Load} {v : Saved} {beds : List Nat} (hl : s.load id = some x) (hid : l.id = id)
    (hmatrix : v.matrix = []) (hcopies : v.copies = []) (hback : v.back = []) (htasks : v.tasks = []) (hloops : v.loops = []) :
    ∃ y, (s.resume l v beds).load id = some y ∧ y.phase = .placed ∧ y.beds = beds ∧ y.entries = v.entries ∧ y.ranges = v.ranges ∧ y.saved = none
      ∧ y.resumed = true := by
  subst hid
  have hseat := load_seat (l := { l with held := v.held, saved := none }) hl rfl beds
  have hx := seat_seated s { l with held := v.held, saved := none } beds
  unfold State.resume
  split
  next y u heq =>
    rw [heq] at hseat hx
    extract_lets s1 macros
    have hmacros : macros = [] := by unfold macros; rw [hmatrix]; rfl
    have h1 : s1.loads = u.loads := by
      unfold s1 State.restoreMatrix
      rw [hmatrix]
      exact (loads_placeTasks ..).trans ((loads_freshUnits ..).trans (loads_clearBeds ..))
    clear_value s1 macros
    subst hmacros
    split
    next reloads s2 hq =>
      obtain ⟨rfl, rfl⟩ := Prod.mk.inj hq
      extract_lets s3 s4 s5 s6 s7 s8
      have h4 : s4.loads = u.loads := (loads_giveRings ..).trans h1
      have hid : y.id = l.id := hx.rest.1
      have hload : s4.load y.id = some y := by rw [hid]; exact (load_of_loads h4 l.id).trans hseat
      have h5 : s5.load y.id = some { y with entries := v.entries, loops := [], ranges := v.ranges, resumed := true, reloads := [] } := by
        unfold s5
        rw [hloops]
        refine load_changed hload ?_
        exact fun _ => rfl
      clear_value s5
      have h6 : s6.loads = s5.loads := foldl_keeps (part := State.loads) (fun _ _ => by rfl) v.held s5
      have h7 : s7.loads = s6.loads := by
        unfold s7
        rw [restoreQueues_none hback, State.restoreCopies, hcopies]
        exact restoreTasks_loads htasks
      have h8 : s8.loads = s5.loads := h7.trans h6
      have hsweep := load_sweepLoops ((load_of_loads h8 y.id).trans h5) rfl
      clear_value s8
      rw [← hid]
      exact ⟨_, (load_of_loads (homeOnly_loads (writeStatus_homeOnly _ y.ctx)).1 y.id).trans hsweep, hx.phase, hx.beds, rfl, rfl, hx.rest.2.2.2.2.2, rfl⟩

/-! The delivery of a fault record (R468, R380). -/

/-- R380: what an application of a packet keeps of its load: what it is and where it stands. -/
structure SameSeat (l y : Load) : Prop where
  id : y.id = l.id
  cfg : y.cfg = l.cfg
  beds : y.beds = l.beds
  phase : y.phase = l.phase

theorem SameSeat.trans {l y z : Load} (h : SameSeat l y) (k : SameSeat y z) : SameSeat l z :=
  ⟨k.id.trans h.id, k.cfg.trans h.cfg, k.beds.trans h.beds, k.phase.trans h.phase⟩

/-- What a delivery at the tracker leaves: tasks, elements and contexts, and the load in its seat. -/
structure SeatKept (s t : State) (id : Nat) (l : Load) : Prop where
  fields : t.tasks = s.tasks ∧ t.elems = s.elems ∧ t.ctxs = s.ctxs
  load : ∃ y, t.load id = some y ∧ SameSeat l y

theorem seatKept_of_load {s : State} {id : Nat} {l : Load} (h : s.load id = some l) : SeatKept s s id l :=
  ⟨⟨rfl, rfl, rfl⟩, l, h, rfl, rfl, rfl, rfl⟩

theorem SeatKept.meshOnly {s t u : State} {id : Nat} {l : Load} (h : SeatKept s t id l) (k : MeshOnly t u) : SeatKept s u id l := by
  obtain ⟨htasks, helems, hctxs⟩ := h.fields
  obtain ⟨y, hy, hseat⟩ := h.load
  obtain ⟨kloads, ktasks, kelems, kctxs⟩ := k.fields
  exact ⟨⟨ktasks.trans htasks, kelems.trans helems, kctxs.trans hctxs⟩, y, (load_of_loads kloads id).trans hy, hseat⟩

theorem SeatKept.modLoad {s t : State} {id : Nat} {l : Load} (h : SeatKept s t id l) {f : Load → Load} (hf : ∀ x, SameSeat x (f x)) :
    SeatKept s (t.modLoad id f) id l := by
  obtain ⟨y, hy, hseat⟩ := h.load
  exact ⟨h.fields, f y, load_changed hy fun x => (hf x).id, hseat.trans (hf y)⟩

theorem SeatKept.deliverEntry {s t : State} {id : Nat} {l : Load} (h : SeatKept s t id l) (x : Entry) : SeatKept s (t.deliverEntry id x) id l := by
  unfold State.deliverEntry
  split
  · exact h
  · extract_lets u
    have hu : SeatKept s u id l := by
      refine h.modLoad ?_
      exact fun _ => ⟨rfl, rfl, rfl, rfl⟩
    clear_value u
    generalize x.who.eraseDups = ts
    induction ts generalizing u with
    | nil => exact hu
    | cons t r ih => exact ih _ (hu.meshOnly (sendPacket_meshOnly ..))

theorem SeatKept.deliverAll {s t : State} {id : Nat} {l : Load} (h : SeatKept s t id l) : SeatKept s (t.deliverAll id) id l := by
  unfold State.deliverAll
  split
  · exact h
  · next y hy =>
    generalize (_ : List Entry).foldl (fun q x => insertEntry x q) [] = xs
    clear hy
    induction xs generalizing t with
    | nil => exact h
    | cons x r ih => exact ih (h.deliverEntry x)

theorem SeatKept.sweepLoops {s t : State} {id : Nat} {l : Load} (h : SeatKept s t id l) : SeatKept s (t.sweepLoops id) id l := by
  unfold State.sweepLoops
  split
  · exact h
  · extract_lets next
    have hmod : SeatKept s (t.modLoad id fun l => { l with loops := next }) id l := by
      refine h.modLoad ?_
      exact fun _ => ⟨rfl, rfl, rfl, rfl⟩
    exact ⟨hmod.fields, hmod.load⟩

/-- R380: a packet that wants no acknowledgement is applied. -/
theorem applyBatch_seatKept {s : State} {id : Nat} {l : Load} (h : s.load id = some l) {b : Batch} (hb : b.ack = none) : SeatKept s (s.applyBatch id b) id l := by
  unfold State.applyBatch
  rw [h]
  refine SeatKept.sweepLoops (SeatKept.deliverAll ?_)
  rw [hb]
  refine SeatKept.modLoad (seatKept_of_load h) ?_
  exact fun _ => ⟨rfl, rfl, rfl, rfl⟩

theorem taskRef_of_seat {l y : Load} (h : SameSeat l y) (k : Nat) : y.taskRef k = l.taskRef k := by
  simp only [Load.taskRef, h.cfg, h.beds]

theorem placeAt_of_seat {l y : Load} (h : SameSeat l y) (e : ElemRef) (vc : Nat) : y.placeAt e vc = l.placeAt e vc := by
  simp only [Load.placeAt, h.beds]

/-- R204, R468: a message of the bed manager enters its channel's queue. -/
theorem deliverFrom_enters {s : State} {l : Load} {h : ChanCfg} {k n : Nat} (hl : s.load l.id = some l)
    (hp : l.placeAt ⟨l.tileAt h.place, h.place.elem⟩ h.place.vc = h.place) (hr : l.receiver h.place = some k) (hc : l.chanAt h.place = some n)
    (hloop : l.cfg.loopOf n = none) (hx : (s.task (l.taskRef k)).phase ≠ .exited) (hphase : l.phase ≠ .saved)
    (hheld : (s.vc ⟨l.tileAt h.place, h.place.elem⟩ h.place.vc).held = []) (hspilled : (s.vc ⟨l.tileAt h.place, h.place.elem⟩ h.place.vc).spilled = false)
    (hq : (s.vc ⟨l.tileAt h.place, h.place.elem⟩ h.place.vc).queue.length < 16) (stamp : Stamp) (payload : List Byte) :
    (s.deliverFrom l h stamp payload).ctxs = s.ctxs
      ∧ ((s.deliverFrom l h stamp payload).vc ⟨l.tileAt h.place, h.place.elem⟩ h.place.vc).queue =
        (s.vc ⟨l.tileAt h.place, h.place.elem⟩ h.place.vc).queue
          ++ [{ ctx := l.ctx, stamp := stamp, payload := payload, load := l.id, elem := h.place.elem, vc := h.place.vc }] := by
  obtain ⟨⟨htasks, helems, hctxs⟩, y, hy, hseat⟩ := applyBatch_seatKept hl (b := { load := l.id, deltas := [((⟨false, h.place, stamp⟩ : Key), 1)] }) rfl
  unfold State.deliverFrom
  generalize s.applyBatch l.id { load := l.id, deltas := [((⟨false, h.place, stamp⟩ : Key), 1)] } = u at htasks helems hctxs hy ⊢
  generalize he : (⟨l.tileAt h.place, h.place.elem⟩ : ElemRef) = e at *
  generalize hm : ({ ctx := l.ctx, stamp := stamp, payload := payload, load := l.id, elem := h.place.elem, vc := h.place.vc } : Msg) = m
  have hvc : m.vc = h.place.vc := by rw [← hm]
  have hload : u.load m.load = some y := by rw [← hm]; exact hy
  have hplace : y.placeAt e m.vc = h.place := by rw [placeAt_of_seat hseat, hvc, hp]
  have hsame : u.vc e m.vc = s.vc e h.place.vc := by simp only [State.vc, State.elem, helems, hvc]
  have htask : u.task (y.taskRef k) = s.task (l.taskRef k) := by rw [taskRef_of_seat hseat, State.task, State.task, htasks]
  rw [takeMessage_arrives hload (by rw [hplace, Load.receiver, hseat.cfg]; exact hr) (by rw [hplace, Load.chanAt, hseat.cfg]; exact hc)
      (by rw [hseat.phase]; exact hphase) (by rw [htask]; exact hx) (by rw [hseat.cfg]; exact hloop),
    arriveAt_enters (by rw [hsame]; exact hheld) (by rw [hsame]; exact hspilled) (by rw [hsame]; exact hq)]
  obtain ⟨hfields, hvcs⟩ : _ ∧ _ := ⟨(enterQueue_matches u e (y.taskRef k) m).fields, (enterQueue_matches u e (y.taskRef k) m).2 e⟩
  refine ⟨hfields.2.trans hctxs, ?_⟩
  rw [← hvc, State.vc, hvcs, elem_modElem]
  simp only [queued, get_put_self]
  rw [show (u.elem e).vcs.get m.vc {} = s.vc e m.vc from hsame.trans (by rw [hvc])]

end Sys2Proof.Proofs
end

section
/-! SUPPORT. The life of a load, and the delivery of fault records (R196, R205, R415, R418, R423, R426, R468). -/

namespace Sys2Proof.Proofs

open Sys2Proof.Machine

/-- A fill of the configuration caches changes nothing else. -/
theorem filled_fields {s u : State} (h : { u with cfgCache := s.cfgCache } = s) :
    u.loads = s.loads ∧ u.launches = s.launches ∧ u.placements = s.placements := by
  have hloads := congrArg State.loads h
  have hlaunches := congrArg State.launches h
  have hplacements := congrArg State.placements h
  exact ⟨hloads, hlaunches, hplacements⟩

theorem launch_of_launches {s u : State} (h : u.launches = s.launches) (n : Nat) : u.launch n = s.launch n := by simp only [State.launch, h]

/-- R468: the channel of a context's fault records is one of a load that stands, and it has room for a record. -/
theorem room_of_mayDeliver {s : State} {c : Nat} {r : Record} {rest : List Record} {l : Load} {h : ChanCfg} (hm : s.mayDeliver c = true)
    (ht : (s.ctx c).traps = r :: rest) (hc : s.trapChannel c = some (l, h)) :
    l.phase = .placed ∧ (s.vc ⟨l.tileAt h.place, h.place.elem⟩ h.place.vc).held = []
      ∧ (s.vc ⟨l.tileAt h.place, h.place.elem⟩ h.place.vc).spilled = false
      ∧ (s.vc ⟨l.tileAt h.place, h.place.elem⟩ h.place.vc).queue.length < 16 := by
  simp only [State.mayDeliver, ht, hc, Bool.and_eq_true, beq_iff_eq, decide_eq_true_eq, Bool.not_eq_true', List.isEmpty_iff] at hm
  obtain ⟨⟨⟨⟨hphase, hq⟩, hspilled⟩, hheld⟩, -⟩ := hm
  exact ⟨hphase, hheld, hspilled, hq⟩

theorem trapRecordDeliver_delivers {s : State} {c : Nat} {r : Record} {rest : List Record} {l : Load} {h : ChanCfg}
    (hw : s.cur.work = some (.trapRecordDeliver c)) (hm : s.mayDeliver c = true) (ht : (s.ctx c).traps = r :: rest)
    (hc : s.trapChannel c = some (l, h)) :
    exec .trapRecordDeliver s = .next ((s.modCtx c fun x => { x with traps := rest }).deliverFrom l h { c0 := r.epoch } r.bytes) := by
  show execTrapRecordDeliver s = _
  simp only [execTrapRecordDeliver, hw, hm, ht, hc, Bool.not_true, Bool.false_eq_true, if_false]

/-- Settles O55: each step of a load's life, by what it leaves of the loads, the launches and the tasks. -/
theorem loadsAreScheduled : Obligations.LoadsAreScheduled := by
  unfold Obligations.LoadsAreScheduled
  refine fun s id l hl => ⟨fun beds hw hm hn hb => ?_, fun hw hm hn hx => ?_, fun x i hw hm hx hi => ⟨fun hr => ?_, fun n cfg hr hcfg => ?_⟩,
    fun hw hm => ?_, fun hw hm => ?_, fun beds v hw hm hn hb hv hmatrix hcopies hstages hback hnotes htasks hloops hheld hbad u hr hf hu => ?_,
    fun c r rest h k n hw hm ht hc => ?_⟩
  · intro pages
    refine ⟨fun code u hf hu hx => ?_, fun u hs hf hu hclear => ?_⟩
    · obtain ⟨hloads, hlaunches, -⟩ := filled_fields hu
      have hends := complete_ends (s := u) (launch := l.launch) (by rw [launch_of_launches hlaunches]; exact hx) 2 code.num
      exact ⟨_, loadPlace_faults hw hl hm hn hb hf rfl, hends.gone, hends.no_load⟩
    · obtain ⟨hloads, -, hplacements⟩ := filled_fields hu
      obtain ⟨y, hy, hseat, hplaced⟩ := place_stands (s := u) (beds := beds) ((load_of_loads hloads id).trans hl) (id_of_load hl) hclear hs
      obtain ⟨-, -, -, hentries, hcfg, -⟩ := hseat.rest
      exact ⟨_, y, loadPlace_fills hw hl hm hn hb hf, hy, hseat.phase, hseat.beds, by rw [hseat.gen, hplacements], hseat.first, hentries, hcfg, hplaced⟩
  · have hends := complete_ends hx 3 0
    exact ⟨_, loadPlace_never hw hl hm hn, hends.gone, hends.no_load⟩
  · have hends := complete_ends (s := s) (launch := l.launch) (by rw [hx]; rfl) 0 0
    exact ⟨_, loadDrain_ends hw hl hm hx hi hr, hends.gone, hends.load_gone hl⟩
  · have hloads := follow_loads (s := s) (l := l) hcfg
    rw [id_of_load hl] at hloads
    exact ⟨_, _, loadDrain_follows hw hl hm hx hi hr, hloads, rfl, rfl, rfl, rfl, rfl, rfl, rfl⟩
  · obtain ⟨t, hexec, hload, hmem⟩ := preemptStart_drains hw hl hm
    exact ⟨t, _, hexec, hload, rfl, rfl, hmem⟩
  · obtain ⟨t, stay, hexec, hload, htask⟩ := preemptSave_saves hw hl hm
    exact ⟨t, _, _, hexec, hload, rfl, rfl, rfl, rfl, rfl, rfl, rfl, rfl, rfl, fun u hu => by rw [htask, if_pos hu], fun u hu => by rw [htask, if_neg hu]⟩
  · obtain ⟨hloads, -, -⟩ := filled_fields hu
    obtain ⟨y, hy, hrest⟩ := resume_restores (s := u) (beds := beds) ((load_of_loads hloads id).trans hl) (id_of_load hl) hmatrix hcopies hback htasks hloops
    exact ⟨_, y, loadResume_fills hw hl hr hm hn hb hv hbad hf, hy, hrest⟩
  · intro e hp hrec hchan hloop hx
    obtain ⟨hphase, hheld, hspilled, hq⟩ := room_of_mayDeliver hm ht hc
    have hload : (s.modCtx c fun x => { x with traps := rest }).load l.id = some l := by rw [id_of_load hl]; exact hl
    obtain ⟨hctxs, hqueue⟩ := deliverFrom_enters hload hp hrec hchan hloop hx (by rw [hphase]; decide) hheld hspilled hq { c0 := r.epoch } r.bytes
    refine ⟨_, _, trapRecordDeliver_delivers hw hm ht hc, ?_, hqueue, rfl, rfl, rfl⟩
    rw [State.ctx, hctxs]
    exact congrArg Ctx.traps (ctx_modCtx s c fun x => { x with traps := rest })

end Sys2Proof.Proofs
end

section
/-! SUPPORT. Decoding reads back every instruction, and the header its 128 bits (R222, R226, R233 to R244); words that the manual writes out. -/

namespace Sys2Proof.Proofs

open Sys2Proof.Machine Sys2Proof.Laws

/-- The family RoundTrip as one statement; a row that is no instruction word has no word to be read. -/
theorem roundTrip (i : Instr) : RoundTrip.Statement i := by
  cases i with
  | illg => apply RoundTrip.illg
  | add => apply RoundTrip.add
  | sub => apply RoundTrip.sub
  | mul => apply RoundTrip.mul
  | mulh => apply RoundTrip.mulh
  | mulhw => apply RoundTrip.mulhw
  | div => apply RoundTrip.div
  | divw => apply RoundTrip.divw
  | rem => apply RoundTrip.rem
  | remw => apply RoundTrip.remw
  | neg => apply RoundTrip.neg
  | abs => apply RoundTrip.abs
  | min => apply RoundTrip.min
  | max => apply RoundTrip.max
  | minw => apply RoundTrip.minw
  | maxw => apply RoundTrip.maxw
  | and => apply RoundTrip.and
  | or => apply RoundTrip.or
  | xor => apply RoundTrip.xor
  | andn => apply RoundTrip.andn
  | not => apply RoundTrip.not
  | shl => apply RoundTrip.shl
  | shr => apply RoundTrip.shr
  | sar => apply RoundTrip.sar
  | rot => apply RoundTrip.rot
  | clz => apply RoundTrip.clz
  | ctz => apply RoundTrip.ctz
  | popc => apply RoundTrip.popc
  | brev => apply RoundTrip.brev
  | bfx => apply RoundTrip.bfx
  | bfxw => apply RoundTrip.bfxw
  | bfi => apply RoundTrip.bfi
  | lea => apply RoundTrip.lea
  | mov => apply RoundTrip.mov
  | movi => apply RoundTrip.movi
  | movhi => apply RoundTrip.movhi
  | sel => apply RoundTrip.sel
  | sext => apply RoundTrip.sext
  | zext => apply RoundTrip.zext
  | teq => apply RoundTrip.teq
  | tne => apply RoundTrip.tne
  | tlt => apply RoundTrip.tlt
  | tle => apply RoundTrip.tle
  | tltw => apply RoundTrip.tltw
  | tlew => apply RoundTrip.tlew
  | tbit => apply RoundTrip.tbit
  | tnul => apply RoundTrip.tnul
  | read => apply RoundTrip.read
  | write => apply RoundTrip.write
  | nul => apply RoundTrip.nul
  | br => apply RoundTrip.br
  | brx => apply RoundTrip.brx
  | jtab => apply RoundTrip.jtab
  | call => apply RoundTrip.call
  | ret => apply RoundTrip.ret
  | exit => apply RoundTrip.exit
  | fan => apply RoundTrip.fan
  | stamp => apply RoundTrip.stamp
  | lpin => apply RoundTrip.lpin
  | lpnext => apply RoundTrip.lpnext
  | lpout => apply RoundTrip.lpout
  | send => apply RoundTrip.send
  | sends => apply RoundTrip.sends
  | msg => apply RoundTrip.msg
  | notify => apply RoundTrip.notify
  | rnext => apply RoundTrip.rnext
  | rsplit => apply RoundTrip.rsplit
  | yield => apply RoundTrip.yield
  | shdef => apply RoundTrip.shdef
  | shset => apply RoundTrip.shset
  | shget => apply RoundTrip.shget
  | shadv => apply RoundTrip.shadv
  | vadd => apply RoundTrip.vadd
  | vsub => apply RoundTrip.vsub
  | vmul => apply RoundTrip.vmul
  | vfma => apply RoundTrip.vfma
  | vfms => apply RoundTrip.vfms
  | vmin => apply RoundTrip.vmin
  | vmax => apply RoundTrip.vmax
  | vabs => apply RoundTrip.vabs
  | vneg => apply RoundTrip.vneg
  | vdiv => apply RoundTrip.vdiv
  | vsqrt => apply RoundTrip.vsqrt
  | vrcp => apply RoundTrip.vrcp
  | vrsq => apply RoundTrip.vrsq
  | vexp2 => apply RoundTrip.vexp2
  | vlog2 => apply RoundTrip.vlog2
  | vsin => apply RoundTrip.vsin
  | vcos => apply RoundTrip.vcos
  | vtanh => apply RoundTrip.vtanh
  | vsigm => apply RoundTrip.vsigm
  | vcvt => apply RoundTrip.vcvt
  | vscale => apply RoundTrip.vscale
  | vqnt => apply RoundTrip.vqnt
  | vand => apply RoundTrip.vand
  | vor => apply RoundTrip.vor
  | vxor => apply RoundTrip.vxor
  | vshl => apply RoundTrip.vshl
  | vshr => apply RoundTrip.vshr
  | vcmp => apply RoundTrip.vcmp
  | vselm => apply RoundTrip.vselm
  | vclamp => apply RoundTrip.vclamp
  | vsum => apply RoundTrip.vsum
  | vrmax => apply RoundTrip.vrmax
  | vrmin => apply RoundTrip.vrmin
  | vargmx => apply RoundTrip.vargmx
  | vdot => apply RoundTrip.vdot
  | vperm => apply RoundTrip.vperm
  | vgath => apply RoundTrip.vgath
  | vscat => apply RoundTrip.vscat
  | vjoin => apply RoundTrip.vjoin
  | viota => apply RoundTrip.viota
  | vfill => apply RoundTrip.vfill
  | vcopy => apply RoundTrip.vcopy
  | ld => apply RoundTrip.ld
  | st => apply RoundTrip.st
  | ldp => apply RoundTrip.ldp
  | stp => apply RoundTrip.stp
  | pref => apply RoundTrip.pref
  | flush => apply RoundTrip.flush
  | inval => apply RoundTrip.inval
  | lds => apply RoundTrip.lds
  | sts => apply RoundTrip.sts
  | stclr => apply RoundTrip.stclr
  | aadd => apply RoundTrip.aadd
  | amin => apply RoundTrip.amin
  | amax => apply RoundTrip.amax
  | aminw => apply RoundTrip.aminw
  | amaxw => apply RoundTrip.amaxw
  | aand => apply RoundTrip.aand
  | aor => apply RoundTrip.aor
  | axor => apply RoundTrip.axor
  | aswp => apply RoundTrip.aswp
  | acas => apply RoundTrip.acas
  | acasm => apply RoundTrip.acasm
  | aenq => apply RoundTrip.aenq
  | achase => apply RoundTrip.achase
  | abxa => apply RoundTrip.abxa
  | wenq => apply RoundTrip.wenq
  | otok => apply RoundTrip.otok
  | ojoin => apply RoundTrip.ojoin
  | fence => apply RoundTrip.fence
  | tlwait => apply RoundTrip.tlwait
  | tlread => apply RoundTrip.tlread
  | tlbump => apply RoundTrip.tlbump
  | snap => apply RoundTrip.snap
  | snacc => apply RoundTrip.snacc
  | snrej => apply RoundTrip.snrej
  | snqry => apply RoundTrip.snqry
  | stgput => apply RoundTrip.stgput
  | stgwait => apply RoundTrip.stgwait
  | stgclose => apply RoundTrip.stgclose
  | cpy => apply RoundTrip.cpy
  | cpyt => apply RoundTrip.cpyt
  | cpyg => apply RoundTrip.cpyg
  | cpys => apply RoundTrip.cpys
  | cpysus => apply RoundTrip.cpysus
  | cpyres => apply RoundTrip.cpyres
  | mldb => apply RoundTrip.mldb
  | mscl => apply RoundTrip.mscl
  | mma => apply RoundTrip.mma
  | macrd => apply RoundTrip.macrd
  | macpk => apply RoundTrip.macpk
  | macclr => apply RoundTrip.macclr
  | macst => apply RoundTrip.macst
  | cnclr => apply RoundTrip.cnclr
  | cnfeed => apply RoundTrip.cnfeed
  | cnmax => apply RoundTrip.cnmax
  | cnsum => apply RoundTrip.cnsum
  | cninf => apply RoundTrip.cninf
  | cnconj => apply RoundTrip.cnconj
  | cneval => apply RoundTrip.cneval
  | cnmin => apply RoundTrip.cnmin
  | cnsimp => apply RoundTrip.cnsimp
  | cnld => apply RoundTrip.cnld
  | cnst => apply RoundTrip.cnst
  | cninfo => apply RoundTrip.cninfo
  | trap => apply RoundTrip.trap
  | eret => apply RoundTrip.eret
  | csrrd => apply RoundTrip.csrrd
  | csrwr => apply RoundTrip.csrwr
  | bkpt => apply RoundTrip.bkpt
  | sleep => apply RoundTrip.sleep
  | perf => apply RoundTrip.perf
  | _ => exact fun _ _ e => nomatch e

theorem encode_row (w : Work) : encode (Work.row w) = none := by cases w <;> rfl

/-- Every row without a word is the step of some work; its operands are free. -/
theorem exists_work_of_encode_none {i : Instr} (h : encode i = none) : ∃ w : Work, Work.row w = i := by
  cases i with
  | blockFetch => exact ⟨.blockFetch ⟨0, 0, 0⟩, rfl⟩
  | blockCommit => exact ⟨.blockCommit ⟨0, 0, 0⟩, rfl⟩
  | blockQuiescentFault => exact ⟨.blockQuiescentFault ⟨0, 0, 0⟩, rfl⟩
  | activationStart => exact ⟨.activationStart ⟨0, 0⟩, rfl⟩
  | taskPromote => exact ⟨.taskPromote ⟨0, 0, 0⟩, rfl⟩
  | messageArrive => exact ⟨.messageArrive 0, rfl⟩
  | bindingFill => exact ⟨.bindingFill ⟨0, 0, 0⟩, rfl⟩
  | longLatencyResult => exact ⟨.longLatencyResult 0, rfl⟩
  | rnextServe => exact ⟨.rnextServe 0, rfl⟩
  | stageWaiterServe => exact ⟨.stageWaiterServe 0 0, rfl⟩
  | sleepExpire => exact ⟨.sleepExpire 0, rfl⟩
  | tlwaitTimeout => exact ⟨.tlwaitTimeout 0, rfl⟩
  | tlbumpComplete => exact ⟨.tlbumpComplete 0 0 0, rfl⟩
  | spillTimeout => exact ⟨.spillTimeout ⟨0, 0⟩ 0, rfl⟩
  | batchApply => exact ⟨.batchApply 0, rfl⟩
  | frontierResume => exact ⟨.frontierResume 0, rfl⟩
  | notificationArrive => exact ⟨.notificationArrive 0, rfl⟩
  | batchAck => exact ⟨.batchAck ⟨0, 0, 0⟩ 0, rfl⟩
  | loopAdmit => exact ⟨.loopAdmit 0 0, rfl⟩
  | packetAccept => exact ⟨.packetAccept 0, rfl⟩
  | linkDisable => exact ⟨.linkDisable 0 0, rfl⟩
  | reductionNodeArrive => exact ⟨.reductionNodeArrive 0, rfl⟩
  | reductionTimeout => exact ⟨.reductionTimeout 0 0 0 0, rfl⟩
  | homeAtomic => exact ⟨.homeAtomic 0, rfl⟩
  | aenqAtHome => exact ⟨.aenqAtHome 0, rfl⟩
  | achaseHop => exact ⟨.achaseHop 0, rfl⟩
  | structLdsAtAgent => exact ⟨.structLdsAtAgent 0, rfl⟩
  | structStsAtAgent => exact ⟨.structStsAtAgent 0, rfl⟩
  | structStclrAtAgent => exact ⟨.structStclrAtAgent 0, rfl⟩
  | readerCancel => exact ⟨.readerCancel 0, rfl⟩
  | wenqAtTarget => exact ⟨.wenqAtTarget 0, rfl⟩
  | wenqHeadWake => exact ⟨.wenqHeadWake 0, rfl⟩
  | wenqRingTimeout => exact ⟨.wenqRingTimeout 0, rfl⟩
  | linkRequestArrive => exact ⟨.linkRequestArrive 0 0, rfl⟩
  | linkRetransmit => exact ⟨.linkRetransmit 0, rfl⟩
  | linkTimeout => exact ⟨.linkTimeout 0, rfl⟩
  | replyEntryAgeOut => exact ⟨.replyEntryAgeOut 0, rfl⟩
  | l2Access => exact ⟨.l2Access 0, rfl⟩
  | l2FillComplete => exact ⟨.l2FillComplete 0, rfl⟩
  | pageWalk => exact ⟨.pageWalk 0, rfl⟩
  | walkComplete => exact ⟨.walkComplete 0 0, rfl⟩
  | settleBackground => exact ⟨.settleBackground 0, rfl⟩
  | hbmRefresh => exact ⟨.hbmRefresh 0 none, rfl⟩
  | hbmScrub => exact ⟨.hbmScrub 0 true, rfl⟩
  | l2Scrub => exact ⟨.l2Scrub 0 true, rfl⟩
  | l2FrameSpare => exact ⟨.l2FrameSpare 0 0 0 0, rfl⟩
  | pseudoChannelSpare => exact ⟨.pseudoChannelSpare 0 0, rfl⟩
  | pseudoChannelCopyDone => exact ⟨.pseudoChannelCopyDone 0 0, rfl⟩
  | stackDegrade => exact ⟨.stackDegrade 0 0, rfl⟩
  | copyStart => exact ⟨.copyStart 0 0, rfl⟩
  | copyStep => exact ⟨.copyStep 0 0, rfl⟩
  | followOnStart => exact ⟨.followOnStart 0 0, rfl⟩
  | macroLoad => exact ⟨.macroLoad 0 0, rfl⟩
  | scaleTokenAccept => exact ⟨.scaleTokenAccept 0 0, rfl⟩
  | mmaStart => exact ⟨.mmaStart 0 0, rfl⟩
  | mmaComplete => exact ⟨.mmaComplete 0 0, rfl⟩
  | macclrPerform => exact ⟨.macclrPerform 0 0, rfl⟩
  | macstPerform => exact ⟨.macstPerform 0 0, rfl⟩
  | canopyLoad => exact ⟨.canopyLoad 0, rfl⟩
  | canopyStore => exact ⟨.canopyStore 0, rfl⟩
  | launchDoorbell => exact ⟨.launchDoorbell 0 0 0, rfl⟩
  | launchTake => exact ⟨.launchTake 0 0, rfl⟩
  | determinismChange => exact ⟨.determinismChange 0 0, rfl⟩
  | loadPlace => exact ⟨.loadPlace 0, rfl⟩
  | loadDrain => exact ⟨.loadDrain 0, rfl⟩
  | preemptStart => exact ⟨.preemptStart 0, rfl⟩
  | preemptSave => exact ⟨.preemptSave 0, rfl⟩
  | loadResume => exact ⟨.loadResume 0, rfl⟩
  | bedFail => exact ⟨.bedFail 0 0, rfl⟩
  | pullQueuePull => exact ⟨.pullQueuePull 0 0, rfl⟩
  | trapRecordDeliver => exact ⟨.trapRecordDeliver 0, rfl⟩
  | laneFail => exact ⟨.laneFail 0, rfl⟩
  | planeFail => exact ⟨.planeFail 0, rfl⟩
  | hostCxlMemRead => exact ⟨.hostCxlMemRead 0 0, rfl⟩
  | hostCxlMemWrite => exact ⟨.hostCxlMemWrite 0 [], rfl⟩
  | translationInvalidatePage => exact ⟨.translationInvalidatePage 0 0, rfl⟩
  | translationInvalidateAll => exact ⟨.translationInvalidateAll 0 0, rfl⟩
  | tensorInvalidate => exact ⟨.tensorInvalidate 0 0, rfl⟩
  | invalidationComplete => exact ⟨.invalidationComplete 0, rfl⟩
  | contextCreate => exact ⟨.contextCreate 0 0, rfl⟩
  | contextDestroy => exact ⟨.contextDestroy 0 0, rfl⟩
  | identWrite => exact ⟨.identWrite 0, rfl⟩
  | killQueue => exact ⟨.killQueue 0, rfl⟩
  | killContext => exact ⟨.killContext 0, rfl⟩
  | killComplete => exact ⟨.killComplete, rfl⟩
  | dbgRefire => exact ⟨.dbgRefire, rfl⟩
  | dbgKill => exact ⟨.dbgKill, rfl⟩
  | dbgRefireSuppress => exact ⟨.dbgRefireSuppress, rfl⟩
  | warmReset => exact ⟨.warmReset, rfl⟩
  | coldReset => exact ⟨.coldReset, rfl⟩
  | registerWrite => exact ⟨.registerWrite 0 0, rfl⟩
  | spdmRequest => exact ⟨.spdmRequest [], rfl⟩
  | spdmSlhDsaRequest => exact ⟨.spdmSlhDsaRequest [], rfl⟩
  | doeDiscovery => exact ⟨.doeDiscovery [], rfl⟩
  | powerGrant => exact ⟨.powerGrant [] 0, rfl⟩
  | thermalThrottle => exact ⟨.thermalThrottle 0, rfl⟩
  | thermalRecover => exact ⟨.thermalRecover 0, rfl⟩
  | thermalShutdown => exact ⟨.thermalShutdown 0, rfl⟩
  | flitResend => exact ⟨.flitResend 0 0, rfl⟩
  | hostSnoop => exact ⟨.hostSnoop 0, rfl⟩
  | powerLoss => exact ⟨.powerLoss, rfl⟩
  | vscale _ _ _ by_ => cases by_ <;> cases h
  | vqnt _ _ _ pass => cases pass <;> cases h
  | _ => cases h

/-- A bit of a word is its field of one bit. -/
theorem ofBool_bit {k : Nat} (i : Nat) (w : BitVec k) : BitVec.ofBool (bit i w) = bits i 1 w := by
  ext j hj
  obtain rfl : j = 0 := by omega
  simp [bit, bits]

/-- Fields that lie next to each other join to the field of both. -/
theorem bits_append_bits {k : Nat} (lo m n p : Nat) (w : BitVec k) (h : p = lo + n) : bits p m w ++ bits lo n w = bits lo (m + n) w := by
  subst h
  ext i hi
  simp only [bits, BitVec.getElem_append, BitVec.getElem_extractLsb']
  split
  · rfl
  · congr 1
    omega

theorem decodeHeader_encodeHeader (h : Header) : decodeHeader (encodeHeader h) = h := by
  simp (disch := decide) only [decodeHeader, encodeHeader, bits_append_low, bits_append_high, bits_all, bit_append_low, bit_append_high, bit_ofBool,
    Nat.reduceSub]

theorem encodeHeader_decodeHeader (q : Quad) : encodeHeader (decodeHeader q) = q := by
  simp (disch := decide) only [decodeHeader, encodeHeader, ofBool_bit, bits_append_bits]
  exact bits_all q

/-- Settles O1: the round trip of each instruction, the work of each row without a word, and the header's fields, which tile its 128 bits. -/
theorem decodeReadsBackEveryInstruction : Obligations.DecodeReadsBackEveryInstruction := by
  unfold Obligations.DecodeReadsBackEveryInstruction
  exact ⟨roundTrip, fun i => ⟨exists_work_of_encode_none, fun ⟨w, hw⟩ => hw ▸ encode_row w⟩, decodeHeader_encodeHeader, encodeHeader_decodeHeader⟩

/-- Settles O7: the decoder's run on each word. -/
theorem wordsOfTheManualDecode : Obligations.WordsOfTheManualDecode := by
  unfold Obligations.WordsOfTheManualDecode
  decide

end Sys2Proof.Proofs
end

section
/-! SUPPORT. Why the last part of O42 fails (R140, R319, R324). A TLBUMP completes once every memory event up to its own block's is performed and the
token in its slot p is released. The statement asks for the first alone. The token may name a store of the block to a matched message's payload, which
is no memory event (R10, R124): while that store is still to be performed, the number is not complete, and its request stands. -/

namespace Sys2Proof.Proofs.HeldToken

open Sys2Proof.Machine

/-- The task at the start of tile 0. -/
def task : TaskRef := ⟨0, 0, 0⟩

/-- A store of one byte to a payload, instruction 0 of a block that has committed. -/
def payloadStore : Req := { id := 4, op := .chwrite [(0, 0, 5)], task := some task }

/-- The TLBUMP of the same block, with a token of that store. -/
def bump : Req := { id := 5, op := .tlbump 15 1, task := some task, idx := 1, wait := some { refs := [⟨0, 0, true⟩] } }

/-- The step that is to complete the number, the store not yet performed. -/
def held : State := { State.reset with cur := { work := some (.tlbumpComplete 0 15 1) }, reqs := [payloadStore, bump], nextId := 6 }

theorem held_fenced : held.fenced task (bump.serial + 1) = true := by decide

theorem held_alone : ∀ q ∈ held.reqs, q.ctx = bump.ctx → q.op = .tlbump 15 1 → q.id = 5 := by decide

theorem held_timeline : (held.ctx bump.ctx).tls[15]? = some ({} : Timeline) := by decide

/-- The request of the TLBUMP, where the step goes on. -/
def bumpAfter : Host.Outcome State Fault Refusal → Option Req
  | .next t => t.req 5
  | _ => none

/-- After the step the TLBUMP is pending as it was. -/
theorem bumpAfter_complete : bumpAfter (exec .tlbumpComplete held) = some bump := by decide +kernel

/-- Refutes O42: where the token of a TLBUMP waits for a store to a payload, the step leaves its request. -/
theorem not_resultsArrive : ¬ Obligations.ResultsArrive := by
  unfold Obligations.ResultsArrive
  intro h
  obtain ⟨-, -, -, -, -, -, -, hbump⟩ := h held 5 bump task rfl rfl
  obtain ⟨t, ht, hgone, -⟩ := hbump 15 1 {} rfl rfl held_alone held_fenced held_timeline
  have hafter := bumpAfter_complete
  rw [ht] at hafter
  exact absurd (hgone.symm.trans hafter) (by decide)

end Sys2Proof.Proofs.HeldToken
end

section
/-! SUPPORT. READ, and the products of WRITE and NUL (R217, R218, R241, R242, R258 to R260). -/

namespace Sys2Proof.Proofs

open Sys2Proof.Machine Sys2Proof.Safety

theorem exec_read (h : Head) (r : BitVec 5) (te : Bool) (s : State) : exec (.read h r te) s = execRead h r te s := rfl

theorem exec_write (h : Head) (r : BitVec 5) (s : State) : exec (.write h r) s = execWrite h r s := rfl

theorem exec_nul (h : Head) (store : Bool) (n : BitVec 5) (s : State) : exec (.nul h store n) s = execNul h store n s := rfl

/-- A change of the block at the cursor that keeps what has fired, counted as its firing. -/
theorem modFlight_fire0_spec {s : State} {f : Firing} (hh : s.here = some f) (g : Firing → Firing) :
    ((s.modFlight s.cur.task s.cur.which g).fire0).here = some { g f with fired := s.cur.idx :: (g f).fired }
      ∧ FiresOnly s (s.modFlight s.cur.task s.cur.which g).fire0 := by
  rw [modFlight_fire0]
  exact ⟨here_changed hh _, firesOnly_of s _⟩

/-- R217: the first product of a register enters the block's products, and no register changes. -/
theorem produce_first {s : State} {f : Firing} (hh : s.here = some f) {n : Nat} (hn : f.regs.find n = none) (p : RegProd) :
    ∃ g, (s.produce n p).here = some g ∧ g.regs.find n = some p ∧ (∀ m, m ≠ n → g.regs.find m = f.regs.find m)
      ∧ { g with fired := f.fired, regs := f.regs } = f ∧ FiresOnly s (s.produce n p) := by
  have he : s.produce n p = (s.modFlight s.cur.task s.cur.which fun f => { f with regs := f.regs.put n p }).fire0 := by
    simp only [State.produce, hh, hn]
  obtain ⟨hhere, hfires⟩ := modFlight_fire0_spec hh fun f => { f with regs := f.regs.put n p }
  rw [he]
  exact ⟨_, hhere, find_put_self .., fun m hm => find_put_ne _ hm _, rfl, hfires⟩

/-- R217: a second product of a register is the block's fault. -/
theorem produce_second {s : State} {f : Firing} (hh : s.here = some f) {n : Nat} (hn : (f.regs.find n).isSome) (p : RegProd) :
    s.produce n p = s.fireFault { code := .blockFormat, detail := n } := by
  obtain ⟨q, hq⟩ := Option.isSome_iff_exists.mp hn
  simp only [State.produce, hh, hq]

theorem exec_write_of_operands {h : Head} {r : BitVec 5} {s : State} {o : Opnds} (ho : s.operands h true false false = some o) :
    exec (.write h r) s = .next (s.produce r.toNat (.value { o.a with ref := none })) := by
  simp only [exec_write, execWrite, ho]

section
variable {h : Head} {r : BitVec 5} {s : State} {o : Opnds} {f : Firing} (ho : s.operands h false false false = some o) (hh : s.here = some f)
include ho hh

theorem exec_nul_register : exec (.nul h false r) s = .next (s.produce r.toNat .null) := by
  simp only [exec_nul, execNul, ho, hh, Bool.not_false, if_true]

/-- R260: a store identifier below 24 of which nothing has been made yet is named as not made. -/
theorem exec_nul_store (hr : r.toNat < 24) (hn : r.toNat ∉ f.nulls) (hs : ∀ x ∈ f.stores, x.sid ≠ r.toNat) :
    exec (.nul h true r) s = .next (s.modFlight s.cur.task s.cur.which fun f => { f with nulls := r.toNat :: f.nulls }).fire0 := by
  have hlocal : (s.task s.cur.task).sidVt r.toNat = false := by
    rw [Task.sidVt, decide_eq_false (Nat.not_le.mpr hr), Bool.false_and]
  have hstores : (f.stores.any fun x => x.sid == r.toNat) = false := by simpa [List.any_eq_false] using hs
  simp [exec_nul, execNul, ho, hh, Nat.not_le.mpr hr, hlocal, hn, hstores]

variable {te : Bool}

/-- R242: a block with no predecessor in flight reads the register file. -/
theorem exec_read_file (hw : s.cur.which = 0) {x : Reg} (hx : (s.task s.cur.task).regs[r.toNat]? = some x) :
    (x.full = true → exec (.read h r te) s = .next (s.fire1 h x.v))
      ∧ (x.full = false → x.due = none →
        exec (.read h r te) s = .next (if te || f.hdr.trapEmpty then s.fireFault { code := .emptyRead, detail := r.toNat } else s)) := by
  simp only [exec_read, execRead, ho, hh, hw, hx, if_true]
  refine ⟨fun hfull => ?_, fun hfull hdue => ?_⟩
  · simp only [hfull, Bool.true_or, if_true]
  · simp only [hfull, hdue, Bool.or_self, Bool.false_eq_true, if_false]

/-- R218: a successor reads a register of its predecessor's write mask from the predecessor, and any other from the file. -/
theorem exec_read_successor (hw : s.cur.which ≠ 0) {g : Firing} {l : List Firing} (hl : (s.task s.cur.task).flights = g :: l) :
    (∀ v, g.hdr.wmask.getLsbD r.toNat = true → g.regs.find r.toNat = some (.value v) → v.tok = none →
        exec (.read h r te) s = .next (s.fire1 h v.v))
      ∧ (g.hdr.wmask.getLsbD r.toNat = true → g.regs.find r.toNat = none → exec (.read h r te) s = .next s)
      ∧ (∀ x, g.hdr.wmask.getLsbD r.toNat = false → (s.task s.cur.task).regs[r.toNat]? = some x → x.full = true →
        exec (.read h r te) s = .next (s.fire1 h x.v)) := by
  simp only [exec_read, execRead, ho, hh, hw, hl, if_false]
  refine ⟨fun v hm hv htok => ?_, fun hm hv => ?_, fun x hm hx hfull => ?_⟩
  · simp only [hm, hv, htok, Option.isNone_none, if_true]
  · simp only [hm, hv, if_true]
  · simp only [hm, hx, hfull, Bool.true_or, Bool.false_eq_true, if_false, if_true]

end

/-- Settles O16: a READ takes its value from the file or from its predecessor, and a product is a block's first of its register or a fault. -/
theorem registersAreReadAndProduced : Obligations.RegistersAreReadAndProduced := by
  unfold Obligations.RegistersAreReadAndProduced
  refine ⟨fun h r te s o f ho hh => ⟨fun x hw hx => (exec_read_file ho hh hw hx).1, fun x hw hx => (exec_read_file ho hh hw hx).2,
      fun g v l hw hl hm => (exec_read_successor ho hh hw hl).1 v hm, fun g l hw hl => (exec_read_successor ho hh hw hl).2.1,
      fun g x l hw hl => (exec_read_successor ho hh hw hl).2.2 x⟩,
    fun h r s f hh => ⟨fun o ho hn => ?_, fun o ho hn => ?_, fun o ho hn => ?_, fun o ho hn => ?_, fun o ho hr hn hs => ?_⟩⟩
  · obtain ⟨g, hg, hfind, hrest⟩ := produce_first hh hn (.value { o.a with ref := none })
    exact ⟨_, g, exec_write_of_operands ho, hg, ⟨_, hfind, rfl, rfl⟩, hrest⟩
  · obtain ⟨g, hg⟩ := produce_first hh hn .null
    exact ⟨_, g, exec_nul_register ho hh, hg⟩
  · rw [exec_write_of_operands ho, produce_second hh hn]
  · rw [exec_nul_register ho hh, produce_second hh hn]
  · obtain ⟨hhere, hfires⟩ := modFlight_fire0_spec hh fun f => { f with nulls := r.toNat :: f.nulls }
    exact ⟨_, _, exec_nul_store ho hh hr hn hs, hhere, rfl, rfl, hfires⟩

end Sys2Proof.Proofs
end

section
/-! SUPPORT. A second value for a slot: the fault of the block that takes it, of the lowest instruction whose slot meets a value (R35, R231). -/

namespace Sys2Proof.Proofs

open Sys2Proof.Machine Sys2Proof.Safety

/-! Arrivals at slots, one after another. -/

/-- R231: values reach slots one after another; `sendAll` is the case of one value for all. -/
def arriveAll (f : Firing) (l : List ((Nat × Nat) × SlotVal)) : Firing := l.foldl (fun f e => f.arrive e.1.1 e.1.2 e.2) f

/-- What one target receives. -/
def arrivals (t : Option Target) (v : SlotVal) : List ((Nat × Nat) × SlotVal) := t.toList.map fun t => (slotOf t, v)

theorem arrivals_slots (t : Option Target) (v : SlotVal) : (arrivals t v).map Prod.fst = t.toList.map slotOf := by cases t <;> rfl

theorem arriveAll_append (f : Firing) (l m : List ((Nat × Nat) × SlotVal)) : arriveAll f (l ++ m) = arriveAll (arriveAll f l) m := List.foldl_append

theorem arriveAll_snoc (f : Firing) (l : List ((Nat × Nat) × SlotVal)) (k : Nat × Nat) (v : SlotVal) :
    arriveAll f (l ++ [(k, v)]) = (arriveAll f l).arrive k.1 k.2 v := arriveAll_append ..

theorem send_eq_arriveAll (f : Firing) (t : Option Target) (v : SlotVal) : f.send t v = arriveAll f (arrivals t v) := by cases t <;> rfl

theorem deliver_eq_arriveAll (f : Firing) (h : Head) (v0 v1 : SlotVal) : f.deliver h v0 v1 = arriveAll f (arrivals h.t0 v0 ++ arrivals h.t1 v1) := by
  rw [Firing.deliver, send_eq_arriveAll, send_eq_arriveAll, arriveAll_append]

/-- An arrival changes the slots and the fault of its block alone. -/
theorem arriveAll_frame (f : Firing) (l : List ((Nat × Nat) × SlotVal)) :
    { arriveAll f l with slots := f.slots, fault := f.fault } = f := by
  induction l generalizing f with
  | nil => rfl
  | cons e l ih =>
    have hone : { f.arrive e.1.1 e.1.2 e.2 with slots := f.slots, fault := f.fault } = f := by
      simp only [Firing.arrive]
      split <;> rfl
    have hrest := congrArg (fun g : Firing => { g with slots := f.slots, fault := f.fault }) (ih (f.arrive e.1.1 e.1.2 e.2))
    exact hrest.trans hone

theorem serial_arriveAll (f : Firing) (l : List ((Nat × Nat) × SlotVal)) : (arriveAll f l).serial = f.serial :=
  (congrArg Firing.serial (arriveAll_frame f l) :)

theorem fired_arriveAll (f : Firing) (l : List ((Nat × Nat) × SlotVal)) : (arriveAll f l).fired = f.fired :=
  (congrArg Firing.fired (arriveAll_frame f l) :)

theorem issued_arriveAll (f : Firing) (l : List ((Nat × Nat) × SlotVal)) : (arriveAll f l).issued = f.issued :=
  (congrArg Firing.issued (arriveAll_frame f l) :)

/-- What arrives does not depend on what has fired. -/
theorem arriveAll_fired (f : Firing) (n : List Nat) (l : List ((Nat × Nat) × SlotVal)) :
    arriveAll { f with fired := n } l = { arriveAll f l with fired := n } := by
  induction l generalizing f with
  | nil => rfl
  | cons e l ih =>
    have hone : ({ f with fired := n } : Firing).arrive e.1.1 e.1.2 e.2 = { f.arrive e.1.1 e.1.2 e.2 with fired := n } := by
      simp only [Firing.arrive]
      cases f.slots.find (e.1.1, e.1.2) <;> rfl
    exact (congrArg (arriveAll · l) hone).trans (ih (f.arrive e.1.1 e.1.2 e.2))

/-- An arrival fills an empty slot, and no other. -/
theorem find_arrive (f : Firing) (k j : Nat × Nat) (v : SlotVal) :
    (f.arrive k.1 k.2 v).slots.find j = (f.slots.find j).or (if j = k then some v else none) := by
  simp only [Firing.arrive]
  cases hk : f.slots.find (k.1, k.2) with
  | none =>
    simp only [find_put]
    by_cases hj : j = k
    · subst hj
      simp [show f.slots.find j = none from hk]
    · simp [hj]
  | some w =>
    by_cases hj : j = k
    · subst hj
      simp [show f.slots.find j = some w from hk]
    · simp [hj]

theorem fault_arrive (f : Firing) (k : Nat × Nat) (v : SlotVal) :
    (f.arrive k.1 k.2 v).fault =
      if (f.slots.find k).isSome then lowerFault f.fault { code := .blockFormat, index := k.1 } else f.fault := by
  simp only [Firing.arrive]
  cases hk : f.slots.find (k.1, k.2) <;> simp

/-- R231: the value that stands stays. -/
theorem arriveAll_keeps {f : Firing} {k : Nat × Nat} {v : SlotVal} (hk : f.slots.find k = some v) (l : List ((Nat × Nat) × SlotVal)) :
    (arriveAll f l).slots.find k = some v := by
  induction l generalizing f with
  | nil => exact hk
  | cons e l ih => exact ih (f := f.arrive e.1.1 e.1.2 e.2) (by rw [find_arrive f e.1, hk, Option.some_or])

/-- A slot is full after arrivals if it was full or one of them has reached it. -/
theorem isSome_arriveAll (f : Firing) (l : List ((Nat × Nat) × SlotVal)) (k : Nat × Nat) :
    ((arriveAll f l).slots.find k).isSome ↔ (f.slots.find k).isSome ∨ k ∈ l.map Prod.fst := by
  induction l generalizing f with
  | nil => simp [arriveAll]
  | cons e l ih =>
    refine (ih (f.arrive e.1.1 e.1.2 e.2)).trans ?_
    rw [find_arrive f e.1, Option.isSome_or, List.map_cons, List.mem_cons]
    by_cases hk : k = e.1 <;> simp [hk]

/-! The fault of arrivals. -/

/-- R231: a slot of instruction n meets a value: it is full, or an earlier one of the list is the same. -/
def MeetsAt (f : Firing) (slots : List (Nat × Nat)) (n : Nat) : Prop :=
  ∃ i k, (slots[i]? = some k ∧ ((f.slots.find k).isSome ∨ k ∈ slots.take i)) ∧ k.1 = n

theorem collides_iff {f : Firing} {slots : List (Nat × Nat)} {n : Nat} :
    Collides f slots n ↔ MeetsAt f slots n ∧ ∀ m, MeetsAt f slots m → n ≤ m :=
  and_congr_right fun _ => ⟨fun h _ ⟨i, k, hk, hm⟩ => hm ▸ h i k hk, fun h i k hk => h k.1 ⟨i, k, hk, rfl⟩⟩

theorem meetsAt_snoc (f : Firing) (slots : List (Nat × Nat)) (k : Nat × Nat) (n : Nat) :
    MeetsAt f (slots ++ [k]) n ↔ MeetsAt f slots n ∨ k.1 = n ∧ ((f.slots.find k).isSome ∨ k ∈ slots) := by
  constructor
  · rintro ⟨i, j, ⟨hi, hj⟩, hn⟩
    rcases Nat.lt_or_ge i slots.length with hlt | hge
    · rw [List.getElem?_append_left hlt] at hi
      rw [List.take_append_of_le_length hlt.le] at hj
      exact .inl ⟨i, j, ⟨hi, hj⟩, hn⟩
    · rw [List.getElem?_append_right hge, List.getElem?_singleton] at hi
      split at hi
      next h0 =>
        obtain rfl := Option.some.inj hi
        obtain rfl : i = slots.length := by omega
        rw [List.take_left' rfl] at hj
        exact .inr ⟨hn, hj⟩
      next => cases hi
  · rintro (⟨i, j, ⟨hi, hj⟩, hn⟩ | ⟨hn, hk⟩)
    · have hlt : i < slots.length := (List.getElem?_eq_some_iff.mp hi).1
      exact ⟨i, j, ⟨by rw [List.getElem?_append_left hlt]; exact hi, by rw [List.take_append_of_le_length hlt.le]; exact hj⟩, hn⟩
    · exact ⟨slots.length, k, ⟨by simp, by simpa using hk⟩, hn⟩

/-- R35: a fault that is raised is that of the lowest instruction whose slot meets a value; without one no slot does. -/
def FaultOfLowest (f : Firing) (slots : List (Nat × Nat)) : Option Record → Prop
  | none => ∀ m, ¬ MeetsAt f slots m
  | some r => r.code = .blockFormat ∧ MeetsAt f slots r.index ∧ ∀ m, MeetsAt f slots m → r.index ≤ m

section
variable {f : Firing} {slots : List (Nat × Nat)} {o : Option Record} (h : FaultOfLowest f slots o) {k : Nat × Nat}
include h

theorem FaultOfLowest.meets (hk : (f.slots.find k).isSome ∨ k ∈ slots) :
    FaultOfLowest f (slots ++ [k]) (lowerFault o { code := .blockFormat, index := k.1 }) := by
  have hnew : MeetsAt f (slots ++ [k]) k.1 := (meetsAt_snoc ..).mpr (.inr ⟨rfl, hk⟩)
  cases o with
  | none => exact ⟨rfl, hnew, fun m hm => ((meetsAt_snoc ..).mp hm).elim (fun hm => absurd hm (h m)) fun hm => hm.1.le⟩
  | some r =>
    obtain ⟨hcode, hmeets, hlow⟩ := h
    simp only [lowerFault]
    split
    next hlt => exact ⟨rfl, hnew, fun m hm => ((meetsAt_snoc ..).mp hm).elim (fun hm => hlt.le.trans (hlow m hm)) fun hm => hm.1.le⟩
    next hge =>
      exact ⟨hcode, (meetsAt_snoc ..).mpr (.inl hmeets),
        fun m hm => ((meetsAt_snoc ..).mp hm).elim (hlow m) fun hm => (Nat.le_of_not_lt hge).trans hm.1.le⟩

theorem FaultOfLowest.fills (hk : ¬((f.slots.find k).isSome ∨ k ∈ slots)) : FaultOfLowest f (slots ++ [k]) o := by
  have hsame (m : Nat) : MeetsAt f (slots ++ [k]) m ↔ MeetsAt f slots m :=
    (meetsAt_snoc ..).trans (or_iff_left fun hm => hk hm.2)
  cases o <;> simpa only [FaultOfLowest, hsame] using h

end

theorem fault_arriveAll {f : Firing} (hf : f.fault = none) (l : List ((Nat × Nat) × SlotVal)) :
    FaultOfLowest f (l.map Prod.fst) (arriveAll f l).fault := by
  induction l using List.reverseRecOn with
  | nil =>
    show FaultOfLowest f [] f.fault
    rw [hf]
    rintro - ⟨i, k, ⟨hi, -⟩, -⟩
    simp at hi
  | append_singleton l e ih =>
    obtain ⟨k, v⟩ := e
    rw [arriveAll_snoc, fault_arrive, List.map_append, List.map_singleton]
    by_cases hk : ((arriveAll f l).slots.find k).isSome
    · rw [if_pos hk]
      exact ih.meets ((isSome_arriveAll f l k).mp hk)
    · rw [if_neg hk]
      exact ih.fills (mt (isSome_arriveAll f l k).mpr hk)

/-- R231: arrivals of which one meets a value leave the block with its fault, and the values that stood. -/
theorem blocked_arriveAll {f : Firing} (hf : f.fault = none) {l : List ((Nat × Nat) × SlotVal)} {n : Nat} (hc : Collides f (l.map Prod.fst) n) :
    Blocked f (arriveAll f l) n := by
  have hfault := fault_arriveAll hf l
  obtain ⟨hn, hlow⟩ := collides_iff.mp hc
  refine ⟨?_, fun k v hk => arriveAll_keeps hk l⟩
  cases hr : (arriveAll f l).fault with
  | none =>
    rw [hr] at hfault
    exact absurd hn (hfault n)
  | some r =>
    rw [hr] at hfault
    obtain ⟨hcode, hmeets, hleast⟩ := hfault
    exact ⟨r, rfl, hcode, Nat.le_antisymm (hleast n hn) (hlow _ hmeets)⟩

/-! The fault is taken. -/

/-- R467: a block whose record its task completes. -/
def completed (s : State) (t : TaskRef) (f : Firing) : Firing :=
  { f with fault := f.fault.map fun r => if r.time = 0 then s.fillRecord t r else r }

theorem blocked_completed {f g : Firing} {n : Nat} (h : Blocked f g n) (s : State) (t : TaskRef) : Blocked f (completed s t g) n := by
  obtain ⟨⟨r, hr, hcode, hindex⟩, hslots⟩ := h
  refine ⟨⟨if r.time = 0 then s.fillRecord t r else r, by simp only [completed, hr, Option.map_some], ?_, ?_⟩, hslots⟩
  · split <;> exact hcode
  · split <;> exact hindex

theorem fixFault_flights (u : State) (t : TaskRef) (which : Nat) :
    ((u.fixFault t which).task t).flights = listMod (u.task t).flights which (completed u t) := by
  simp only [State.fixFault, task_modFlight]
  rfl

/-- R35: a fault of a successor is not taken while its predecessor has none. -/
theorem takeFault_successor {u : State} {t : TaskRef} {which : Nat} (hw : which ≠ 0)
    (hhead : ∀ g, (u.task t).flights.head? = some g → g.fault = none) : (u.fixFault t which).takeFault t = u.fixFault t which := by
  have hflights := fixFault_flights u t which
  cases hl : (u.task t).flights with
  | nil =>
    rw [hl] at hflights
    simp only [State.takeFault, hflights, listMod]
  | cons e l =>
    obtain ⟨m, rfl⟩ := Nat.exists_eq_succ_of_ne_zero hw
    rw [hl] at hflights
    simp only [State.takeFault, hflights, listMod, hhead e (by rw [hl]; rfl)]

section
variable {u : State} {t : TaskRef} {which : Nat} {f g : Firing} {n : Nat} (hg : (u.task t).flight which = some g) (hb : Blocked f g n)
include hg hb

theorem blocked_fixFault : ∃ g, ((u.fixFault t which).task t).flight which = some g ∧ Blocked f g n := by
  refine ⟨completed u t g, ?_, blocked_completed hb u t⟩
  rw [Task.flight, fixFault_flights, listMod_getElem?, if_pos rfl, show (u.task t).flights[which]? = some g from hg]
  rfl

/-- R35: the fault of the oldest block, of which nothing is outstanding, parks its task. -/
theorem parksBlocked_of_oldest (hw : which = 0) (hq : Quiet u t g) : ParksBlocked t f ((u.fixFault t which).takeFault t) n := by
  subst hw
  obtain ⟨l, hl⟩ : ∃ l, (u.task t).flights = g :: l := by
    rwa [Task.flight, ← List.head?_eq_getElem?, List.head?_eq_some_iff] at hg
  have hflights : ((u.fixFault t 0).task t).flights = completed u t g :: l := by rw [fixFault_flights, hl]; rfl
  obtain ⟨⟨r, hr, hcode, hindex⟩, hslots⟩ := blocked_completed hb u t
  rw [takeFault_of_quiet hflights hr (by rw [hcode]; decide) hq]
  obtain ⟨⟨hphase, hnone, -, hparked, -⟩, -⟩ := park_spec (u.fixFault t 0) t (completed u t g) r
  exact ⟨_, r, hparked, ⟨⟨r, hr, hcode, hindex⟩, hslots⟩, hcode, hindex, hphase, hnone⟩

end

/-! A firing that delivers to a full slot. -/

/-- The state after the instruction at the cursor has fired and its values have reached these slots, before a fault is taken. -/
def arrived (s : State) (l : List ((Nat × Nat) × SlotVal)) : State :=
  (s.modFlight s.cur.task s.cur.which fun f => { arriveAll f l with fired := s.cur.idx :: f.fired }).modElem (elemOf s.cur.task)
    fun e => { e with instrs := e.instrs + 1 }

/-- R229: a firing is the arrival of its values, after those that have reached further targets. -/
theorem fire_eq_arrived {s u : State} (pre : List ((Nat × Nat) × SlotVal)) (h : Head) (v0 v1 : SlotVal) (hcur : u.cur = s.cur)
    (hmod : ∀ g, u.modFlight s.cur.task s.cur.which g = s.modFlight s.cur.task s.cur.which fun f => g (arriveAll f pre)) :
    u.fire h v0 v1 = (arrived s (pre ++ (arrivals h.t0 v0 ++ arrivals h.t1 v1))).afterDelivery := by
  have hdeliver (f : Firing) : ({ arriveAll f pre with fired := s.cur.idx :: (arriveAll f pre).fired } : Firing).deliver h v0 v1 =
      { arriveAll f (pre ++ (arrivals h.t0 v0 ++ arrivals h.t1 v1)) with fired := s.cur.idx :: f.fired } := by
    rw [deliver_eq_arriveAll, arriveAll_fired, ← arriveAll_append, fired_arriveAll]
  simp only [State.fire, hcur, hmod, hdeliver]
  rfl

theorem fire1_eq_arrived (s : State) (h : Head) (v : Word) :
    s.fire1 h v = (arrived s (arrivals h.t0 (plain v) ++ arrivals h.t1 (plain v))).afterDelivery :=
  fire_eq_arrived [] h (plain v) (plain v) rfl fun _ => rfl

/-- R265: FAN's values reach targets 2 and 3, and then targets 0 and 1. -/
theorem exec_fan_eq_arrived {s : State} {h : Head} {o : Opnds} (ho : s.operands h true false false = some o) (t2 : Target) (t3 : Option Target) :
    exec (.fan h t2 t3) s =
      .next (arrived s (arrivals (some t2) o.a ++ arrivals t3 o.a ++ (arrivals h.t0 o.a ++ arrivals h.t1 o.a))).afterDelivery := by
  have hexec : exec (.fan h t2 t3) s =
      .next ((s.modFlight s.cur.task s.cur.which fun f => (f.send (some t2) o.a).send t3 o.a).fire h o.a o.a) := by
    show execFan h t2 t3 s = _
    simp only [execFan, ho]
  simp only [send_eq_arriveAll, ← arriveAll_append] at hexec
  exact hexec.trans (congrArg Host.Outcome.next (fire_eq_arrived (s := s) _ h o.a o.a rfl fun g => modFlight_modFlight ..))

/-- R231, R35: a firing of which a value meets another, by the place of its block. -/
theorem arrived_faults {s : State} {f : Firing} (hh : s.here = some f) (hf : f.fault = none) {l : List ((Nat × Nat) × SlotVal)} {n : Nat}
    (hc : Collides f (l.map Prod.fst) n) :
    (s.cur.which ≠ 0 → (∀ g, (s.task s.cur.task).flights.head? = some g → g.fault = none) →
        ∃ g, (arrived s l).afterDelivery.here = some g ∧ Blocked f g n)
      ∧ (s.cur.which = 0 → (∀ q ∈ s.reqs, q.task = some s.cur.task → q.serial = f.serial → q.holds = false) →
        (∀ i ∈ f.issued, i ∈ s.cur.idx :: f.fired) → ParksBlocked s.cur.task f (arrived s l).afterDelivery n) := by
  have hblocked := blocked_arriveAll hf hc
  have hhere : (arrived s l).here = some { arriveAll f l with fired := s.cur.idx :: f.fired } := here_changed hh _
  have hafter : (arrived s l).afterDelivery = ((arrived s l).fixFault s.cur.task s.cur.which).takeFault s.cur.task := by
    obtain ⟨⟨r, hr, -⟩, -⟩ := hblocked
    simp only [State.afterDelivery, hhere, hr, Option.isSome_some, if_true]
    rfl
  rw [hafter]
  refine ⟨fun hw hhead => ?_, fun hw hreq hiss => ?_⟩
  · have htask : ((arrived s l).task s.cur.task).flights.head? = (s.task s.cur.task).flights.head? := by
      obtain ⟨m, hm⟩ := Nat.exists_eq_succ_of_ne_zero hw
      simp only [arrived, task_modElem, task_modFlight, hm]
      cases (s.task s.cur.task).flights <;> rfl
    rw [takeFault_successor hw (by rw [htask]; exact hhead)]
    exact blocked_fixFault hhere hblocked
  · exact parksBlocked_of_oldest hhere hblocked hw 
      ⟨fun q hq ht hs => hreq q hq ht (hs.trans (serial_arriveAll f l)), fun i hi => hiss i (issued_arriveAll f l ▸ hi)⟩

/-! A result that arrives after the firing. -/

section
variable {s : State} {id which : Nat} {r : Req} {t : TaskRef} {a : Answer} {f : Firing} {w : Word} {h : Head}

/-- The state after a result has reached the targets of its instruction, before a fault is taken. -/
def resultArrived (s : State) (t : TaskRef) (which : Nat) (r : Req) (a : Answer) (l : List ((Nat × Nat) × SlotVal)) : State :=
  let s := s.modFlight t which fun f => arriveAll f l
  (if r.replayed then s.keepReplay t { idx := r.idx, r0 := a.r0, r1 := a.r1, olds := a.olds } else s).dropReq r.id

theorem deliverTo_eq (hfail : a.fail = none) (hop : ∀ m vk ops sc, r.op ≠ .acasm m vk ops sc) (hw : f.words[r.idx]? = some w)
    (hd : decodeHead w = .ok h) : ∃ v0 v1, s.deliverTo t which f r a =
      ((resultArrived s t which r a (arrivals h.t0 v0 ++ arrivals h.t1 v1)).fixFault t which).takeFault t := by
  let ref : Option Ref := if r.event then some ⟨f.serial, r.idx, false⟩ else none
  refine ⟨⟨a.r0, ref, none⟩, ⟨a.r1, ref, none⟩, ?_⟩
  cases hr : r.op with
  | acasm m vk ops sc => exact absurd hr (hop m vk ops sc)
  | _ => simp only [State.deliverTo, hfail, hw, hd, hr, resultArrived, deliver_eq_arriveAll, ref]

/-- R241: a result that has come to a block in flight goes to its instruction's targets. -/
theorem exec_longLatencyResult_inFlight (hw : s.cur.work = some (.longLatencyResult id)) (hreq : s.req id = some r) (ht : r.task = some t)
    (ha : r.answer = some a) (hret : r.returned = true) (hbefore : s.replyBefore r = false) (hstore : r.isStore = false)
    (hkeeps : s.keeps r true = false) (hf : (s.task t).flights[which]? = some f) (hserial : f.serial = r.serial)
    (hfirst : ∀ m g, m < which → (s.task t).flights[m]? = some g → g.serial ≠ r.serial) :
    exec .longLatencyResult s = .next (s.deliverTo t which f r a) := by
  have hidx : (s.task t).flights.findIdx (fun f => f.serial == r.serial) = which := by
    obtain ⟨hlt, hget⟩ := List.getElem?_eq_some_iff.mp hf
    refine (List.findIdx_eq hlt).mpr ⟨by simp [hget, hserial], fun m hm => ?_⟩
    simpa using hfirst m _ hm (List.getElem?_eq_getElem (hm.trans hlt))
  have htile : r.tileOf = some t.tile := by simp only [Req.tileOf, ht]
  show execLongLatencyResult s = _
  simp only [execLongLatencyResult, hw, hreq, ha, htile, hbefore, hret, State.takeResult, ht, hstore, hidx, hf, hkeeps, if_true, Bool.false_eq_true,
    if_false]

theorem keepReplay_flights (s : State) (t : TaskRef) (r : Replay) : ((s.keepReplay t r).task t).flights = (s.task t).flights := by
  rw [State.keepReplay, task_modTask]

/-- The task's blocks after the result has reached its targets. -/
theorem resultArrived_flights (l : List ((Nat × Nat) × SlotVal)) :
    ((resultArrived s t which r a l).task t).flights = listMod (s.task t).flights which fun f => arriveAll f l := by
  have harrive := congrArg Task.flights (task_modFlight s t which fun f => arriveAll f l)
  unfold resultArrived
  split
  · exact (keepReplay_flights ..).trans harrive
  · exact harrive

theorem resultArrived_reqs (l : List ((Nat × Nat) × SlotVal)) :
    (resultArrived s t which r a l).reqs = s.reqs.filter fun q => decide (q.id ≠ r.id) := by
  unfold resultArrived
  split <;> rfl

end

/-- Settles O14: values arrive one after another, so the fault is that of the lowest slot that meets one (`blocked_arriveAll`), and the oldest
block's is taken at once. -/
theorem secondArrivalFaults : Obligations.SecondArrivalFaults := by
  unfold Obligations.SecondArrivalFaults
  refine ⟨fun s h v f n hh hf hc => ?_, fun s h t2 t3 o f n ho hh hf hc => ?_,
    fun s id r t a f w h which n hw hreq hid ht ha hfail hret hbefore hstore hkeeps hop hfl hserial hfirst hword hhead hf hc => ?_⟩
  · rw [fire1_eq_arrived]
    exact arrived_faults hh hf (by simpa only [List.map_append, arrivals_slots] using hc)
  · rw [exec_fan_eq_arrived ho]
    have hc' : Collides f ((arrivals (some t2) o.a ++ arrivals t3 o.a ++ (arrivals h.t0 o.a ++ arrivals h.t1 o.a)).map Prod.fst) n := by
      simpa only [List.map_append, arrivals_slots, Option.toList_some, List.append_assoc] using hc
    obtain ⟨hsuccessor, holdest⟩ := arrived_faults hh hf hc'
    refine ⟨fun hw hhead => ?_, fun hw hq hiss => ⟨_, rfl, holdest hw hq hiss⟩⟩
    obtain ⟨g, hg⟩ := hsuccessor hw hhead
    exact ⟨_, g, rfl, hg⟩
  · rw [exec_longLatencyResult_inFlight hw hreq ht ha hret hbefore hstore hkeeps hfl hserial hfirst]
    obtain ⟨v0, v1, hdeliver⟩ := deliverTo_eq (s := s) (t := t) (which := which) hfail hop hword hhead
    rw [hdeliver]
    generalize hl : arrivals h.t0 v0 ++ arrivals h.t1 v1 = l
    have hblocked : Blocked f (arriveAll f l) n := blocked_arriveAll hf (by rw [← hl]; simpa only [List.map_append, arrivals_slots] using hc)
    have hflight : ((resultArrived s t which r a l).task t).flight which = some (arriveAll f l) := by
      rw [Task.flight, resultArrived_flights, listMod_getElem?, if_pos rfl, hfl]; rfl
    refine ⟨fun hwhich hfault => ?_, fun hwhich hq hiss => ⟨_, rfl, parksBlocked_of_oldest hflight hblocked hwhich ⟨?_, ?_⟩⟩⟩
    · have hsame : ((resultArrived s t which r a l).task t).flights.head? = (s.task t).flights.head? := by
        obtain ⟨m, rfl⟩ := Nat.exists_eq_succ_of_ne_zero hwhich
        rw [resultArrived_flights]
        cases (s.task t).flights <;> rfl
      obtain ⟨g, hg⟩ := blocked_fixFault hflight hblocked
      exact ⟨_, g, rfl, by rw [takeFault_successor hwhich (by rw [hsame]; exact hfault)]; exact hg⟩
    · intro q hqmem htask hqserial
      rw [resultArrived_reqs, List.mem_filter, hid] at hqmem
      exact hq q hqmem.1 (of_decide_eq_true hqmem.2) htask (hqserial.trans (serial_arriveAll f l))
    · rw [issued_arriveAll, fired_arriveAll]
      exact hiss

end Sys2Proof.Proofs
end

section
/-! SUPPORT. The results of the integer and logic instructions in terms of bit vectors of the operation's width (R248, R251). -/

namespace Sys2Proof.Proofs

open Sys2Proof.Machine

/-! Integers as words of a width. -/

theorem toNat_ofInt_cast (w : Nat) (n : Int) : ((BitVec.ofInt w n).toNat : Int) = n % 2 ^ w := by
  rw [BitVec.toNat_ofInt, Int.toNat_of_nonneg (Int.emod_nonneg _ (by positivity))]
  norm_cast

theorem setWidth_ofInt {w m : Nat} (h : w ≤ m) (n : Int) : (BitVec.ofInt m n).setWidth w = BitVec.ofInt w n := by
  apply BitVec.eq_of_toNat_eq
  rw [BitVec.toNat_setWidth, ← Int.natCast_inj, Int.natCast_mod, toNat_ofInt_cast, toNat_ofInt_cast]
  exact Int.emod_emod_of_dvd n (by exact_mod_cast pow_dvd_pow 2 h)

theorem ofInt_sub (w : Nat) (m n : Int) : BitVec.ofInt w (m - n) = BitVec.ofInt w m - BitVec.ofInt w n := by
  rw [sub_eq_add_neg, BitVec.ofInt_add, BitVec.ofInt_neg, ← BitVec.sub_eq_add_neg]

/-- The upper half of a word of 2w bits is the exact number divided by 2^w. -/
theorem extractLsb'_ofInt (w : Nat) (n : Int) : (BitVec.ofInt (2 * w) n).extractLsb' w w = BitVec.ofInt w (n / 2 ^ w) := by
  apply BitVec.eq_of_toNat_eq
  rw [BitVec.extractLsb'_toNat, Nat.shiftRight_eq_div_pow, ← Int.natCast_inj, Int.natCast_mod, Int.natCast_ediv, toNat_ofInt_cast, toNat_ofInt_cast]
  have hsquare : (2 : Int) ^ (2 * w) = 2 ^ w * 2 ^ w := by rw [two_mul, pow_add]
  have hsplit : n % (2 ^ w * 2 ^ w) = n - 2 ^ w * (2 ^ w * (n / (2 ^ w * 2 ^ w))) := by rw [Int.emod_def, mul_assoc]
  push_cast
  rw [hsquare, hsplit, Int.sub_mul_ediv_left _ _ (by positivity), Int.sub_mul_emod_self_left]

theorem setWidth_signExtend {w m l : Nat} (h : w ≤ m) (x : BitVec l) : (x.signExtend m).setWidth w = x.signExtend w := setWidth_ofInt h _

theorem ofInt_lowS (w : Nat) (x : Word) : BitVec.ofInt w (lowS w x) = x.setWidth w := by rw [lowS_eq, BitVec.ofInt_toInt]

/-! The table of R251. -/

section
variable (w : Nat) (x y : Word)

theorem extS_add : extS w (x.toNat + y.toNat) = (x.setWidth w + y.setWidth w).signExtend 64 :=
  extS_eq (by rw [BitVec.ofNat_add, ofNat_low, ofNat_low])

theorem extSI_sub : extSI w (lowS w x - lowS w y) = (x.setWidth w - y.setWidth w).signExtend 64 :=
  extSI_eq (by rw [ofInt_sub, ofInt_lowS, ofInt_lowS])

theorem extS_mul : extS w (x.toNat * y.toNat) = (x.setWidth w * y.setWidth w).signExtend 64 :=
  extS_eq (by rw [BitVec.ofNat_mul, ofNat_low, ofNat_low])

/-- The exact product of two signed operands fits in 2w bits, of which MULH takes the upper half. -/
theorem extSI_mulHigh : extSI w (lowS w x * lowS w y / 2 ^ w) =
    (((x.setWidth w).signExtend (2 * w) * (y.setWidth w).signExtend (2 * w)).extractLsb' w w).signExtend 64 := by
  refine extSI_eq ?_
  rw [BitVec.signExtend, BitVec.signExtend, ← BitVec.ofInt_mul, extractLsb'_ofInt, lowS_eq, lowS_eq]

theorem extZ_mulHigh : extZ w (low w x * low w y / 2 ^ w) =
    (((x.setWidth w).setWidth (2 * w) * (y.setWidth w).setWidth (2 * w)).extractLsb' w w).setWidth 64 := by
  refine extZ_eq ?_
  have hwide (a : BitVec w) : (a.setWidth (2 * w)).toNat = a.toNat := BitVec.toNat_setWidth_of_le (by omega)
  have hproduct : (x.setWidth w).toNat * (y.setWidth w).toNat < 2 ^ (2 * w) := by
    rw [two_mul, pow_add]
    exact Nat.mul_lt_mul'' (BitVec.isLt _) (BitVec.isLt _)
  rw [BitVec.extractLsb'_toNat, BitVec.toNat_mul, hwide, hwide, Nat.mod_eq_of_lt hproduct, Nat.shiftRight_eq_div_pow, low_eq, low_eq]

theorem extSI_min : extSI w (min (lowS w x) (lowS w y)) =
    (if (x.setWidth w).slt (y.setWidth w) then x.setWidth w else y.setWidth w).signExtend 64 := by
  refine extSI_eq ?_
  simp only [BitVec.slt_iff_toInt_lt, ← lowS_eq]
  split
  next h => rw [min_eq_left h.le, ofInt_lowS]
  next h => rw [min_eq_right (not_lt.mp h), ofInt_lowS]

theorem extSI_max : extSI w (max (lowS w x) (lowS w y)) =
    (if (x.setWidth w).slt (y.setWidth w) then y.setWidth w else x.setWidth w).signExtend 64 := by
  refine extSI_eq ?_
  simp only [BitVec.slt_iff_toInt_lt, ← lowS_eq]
  split
  next h => rw [max_eq_right h.le, ofInt_lowS]
  next h => rw [max_eq_left (not_lt.mp h), ofInt_lowS]

theorem extZ_toNat : extZ w x.toNat = (x.setWidth w).setWidth 64 := extZ_eq (BitVec.toNat_setWidth ..).symm

theorem extZ_low : extZ w (low w x) = (x.setWidth w).setWidth 64 := extZ_eq (by rw [low_eq, BitVec.toNat_mod_cancel])

theorem extZ_min : extZ w (min (low w x) (low w y)) =
    (if (x.setWidth w).ult (y.setWidth w) then x.setWidth w else y.setWidth w).setWidth 64 := by
  simp only [BitVec.ult_iff_toNat_lt, ← low_eq]
  split
  next h => rw [min_eq_left h.le, extZ_low]
  next h => rw [min_eq_right (not_lt.mp h), extZ_low]

theorem extZ_max : extZ w (max (low w x) (low w y)) =
    (if (x.setWidth w).ult (y.setWidth w) then y.setWidth w else x.setWidth w).setWidth 64 := by
  simp only [BitVec.ult_iff_toNat_lt, ← low_eq]
  split
  next h => rw [max_eq_right h.le, extZ_low]
  next h => rw [max_eq_left (not_lt.mp h), extZ_low]

theorem extS_low : extS w x.toNat = (x.setWidth w).signExtend 64 := extS_eq (ofNat_low w x)

theorem extSI_neg : extSI w (-lowS w x) = (-x.setWidth w).signExtend 64 :=
  extSI_eq (by rw [BitVec.ofInt_neg, ofInt_lowS])

theorem extSI_abs : extSI w (lowS w x).natAbs = (if (x.setWidth w).msb then -x.setWidth w else x.setWidth w).signExtend 64 := by
  refine extSI_eq ?_
  rw [lowS_eq, BitVec.msb_eq_toInt]
  simp only [decide_eq_true_eq]
  split
  next h => rw [Int.ofNat_natAbs_of_nonpos h.le, BitVec.ofInt_neg, BitVec.ofInt_toInt]
  next h => rw [Int.natAbs_of_nonneg (not_lt.mp h), BitVec.ofInt_toInt]

theorem extS_brev : extS w (brevAt w x) = (x.setWidth w).reverse.signExtend 64 := by
  refine extS_eq (BitVec.eq_of_getLsbD_eq fun i hi => ?_)
  rw [BitVec.getLsbD_ofNat, brevAt_testBit, BitVec.getLsbD_reverse, BitVec.getMsbD_eq_getLsbD, BitVec.getLsbD_setWidth]
  simp only [hi, decide_true, Bool.true_and, show w - 1 - i < w by omega]

/-- A count of bits of a word of w bits is a number of w bits. -/
theorem extZ_count {n : Nat} (h : n ≤ w) : extZ w n = BitVec.ofNat 64 n := by
  rw [extZ, Nat.mod_eq_of_lt (h.trans_lt Nat.lt_two_pow_self)]

end

theorem leaAt_eq (w : Width) (x y : Word) :
    leaAt w.bits x y = x + y * (match w with | .w64 => 8 | .w32 => 4 | .w16 => 2 | .w8 => 1) := by
  rw [leaAt, BitVec.ofNat_add, BitVec.ofNat_mul, BitVec.ofNat_toNat, BitVec.ofNat_toNat]
  cases w <;> simp [Width.bits]


/-! An instruction whose operands have come fire1_congr with its result (R215, R248). -/

section
variable {h : Head} {b : OpB} {s : State} {o : Opnds}

theorem execBinary_of (ho : s.operands h true b.isSlot false = some o) (f : Word → Word → Word) :
    execBinary h b f s = .next (s.fire1 h (f o.a.v (b.value o.b.v))) := by
  simp only [execBinary, ho]

theorem execUnary_of (ho : s.operands h true false false = some o) (f : Word → Word) : execUnary h f s = .next (s.fire1 h (f o.a.v)) := by
  simp only [execUnary, ho]

theorem execTernary_of (ho : s.operands h true b.isSlot true = some o) (f : Word → Word → Word → Word) :
    execTernary h b f s = .next (s.fire1 h (f o.a.v (b.value o.b.v) o.c.v)) := by
  simp only [execTernary, ho]

/-- Two firings with one result are one outcome. -/
theorem fire1_congr {v r : Word} (hr : v = r) : (Host.Outcome.next (s.fire1 h v) : Host.Outcome State Fault Refusal) = .next (s.fire1 h r) := by
  rw [hr]

end

/-- Bits that are clear up to the width are clear for good at that width. -/
theorem getLsbD_setWidth_false {w : Nat} {x : Word} {n : Nat} (h : ∀ i, n ≤ i → i < w → x.getLsbD i = false) (i : Nat) (hi : n ≤ i) :
    (x.setWidth w).getLsbD i = false := by
  rw [BitVec.getLsbD_setWidth]
  by_cases hw : i < w
  · rw [h i hi hw, Bool.and_false]
  · rw [decide_eq_false hw, Bool.false_and]

theorem exec_clz (h : Head) (w : Width) {s : State} {o : Opnds} (ho : s.operands h true false false = some o) :
    ∃ n, n ≤ w.bits ∧ (∀ i, w.bits - n ≤ i → (o.a.v.setWidth w.bits).getLsbD i = false)
      ∧ (n < w.bits → (o.a.v.setWidth w.bits).getLsbD (w.bits - 1 - n) = true) ∧ exec (.clz h w) s = .next (s.fire1 h (BitVec.ofNat 64 n)) := by
  obtain ⟨hle, hzero, hone⟩ := clzAt_spec w.bits o.a.v
  simp only [exec, execClz, execUnary_of ho]
  refine ⟨clzAt w.bits o.a.v, hle, getLsbD_setWidth_false hzero, fun hlt => ?_, fire1_congr (extZ_count _ hle)⟩
  rw [BitVec.getLsbD_setWidth, hone hlt, Bool.and_true, decide_eq_true]
  omega

theorem exec_ctz (h : Head) (w : Width) {s : State} {o : Opnds} (ho : s.operands h true false false = some o) :
    ∃ n, n ≤ w.bits ∧ (∀ i, i < n → (o.a.v.setWidth w.bits).getLsbD i = false)
      ∧ (n < w.bits → (o.a.v.setWidth w.bits).getLsbD n = true) ∧ exec (.ctz h w) s = .next (s.fire1 h (BitVec.ofNat 64 n)) := by
  obtain ⟨hle, hzero, hone⟩ := ctzAt_spec w.bits o.a.v
  simp only [exec, execCtz, execUnary_of ho]
  refine ⟨ctzAt w.bits o.a.v, hle, fun i hi => ?_, fun hlt => ?_, fire1_congr (extZ_count _ hle)⟩
  · rw [BitVec.getLsbD_setWidth, hzero i hi, Bool.and_false]
  · rw [BitVec.getLsbD_setWidth, hone hlt, Bool.and_true, decide_eq_true hlt]

/-- Settles O8: each result of the model, modulo 2^w, is the table's operation on words of w bits. -/
theorem integerResults : Obligations.IntegerResults := by
  unfold Obligations.IntegerResults
  refine ⟨fun h w b s o ho => ?_, fun h w s o ho => ?_, fun h w b s o ho => ?_⟩
  · simp only [exec, execAdd, execSub, execMul, execMulh, execMulhw, execMin, execMax, execMinw, execMaxw, execAnd, execOr, execXor, execAndn,
      execLea, execBinary_of ho]
    refine ⟨fire1_congr (extS_add ..), fire1_congr (extSI_sub ..), fire1_congr (extS_mul ..), fire1_congr (extSI_mulHigh ..),
      fire1_congr (extZ_mulHigh ..), fire1_congr (extSI_min ..), fire1_congr (extSI_max ..), fire1_congr (extZ_min ..),
      fire1_congr (extZ_max ..), fire1_congr ?_, fire1_congr ?_, fire1_congr ?_, fire1_congr ?_, fire1_congr (leaAt_eq ..)⟩
    · rw [extS_low, BitVec.setWidth_and]
    · rw [extS_low, BitVec.setWidth_or]
    · rw [extS_low, BitVec.setWidth_xor]
    · rw [extS_low, BitVec.setWidth_and, BitVec.setWidth_not (width_le w)]
  · have hclz := exec_clz h w ho
    have hctz := exec_ctz h w ho
    simp only [exec, execNeg, execAbs, execNot, execPopc, execBrev, execSext, execZext, execMov, execUnary_of ho] at hclz hctz ⊢
    refine ⟨fire1_congr (extSI_neg ..), fire1_congr (extSI_abs ..), fire1_congr ?_, hclz, hctz, fire1_congr ?_,
      fire1_congr (extS_brev ..), fire1_congr (extS_low ..), fire1_congr (extZ_toNat ..), trivial⟩
    · rw [extS_low, BitVec.setWidth_not (width_le w)]
    · rw [popAt_eq, extZ_count]
      exact List.countP_le_length.trans_eq List.length_range
  · simp only [exec, execSel, execTernary_of ho]
    refine fire1_congr ?_
    by_cases ha : o.a.v = 0
    · rw [if_neg (not_not.mpr ha), if_pos ha, extS_low]
    · rw [if_pos ha, if_neg ha, extS_low]

end Sys2Proof.Proofs
end

section
/-! SUPPORT. Quotients and remainders at a width, with a zero divisor and the quotient that wraps (R252). -/

namespace Sys2Proof.Proofs

open Sys2Proof.Machine

/-! Over words of w bits. -/

section
variable {w : Nat} {a b : BitVec w}

theorem toInt_eq_zero_iff : b.toInt = 0 ↔ b = 0 := by
  rw [← BitVec.toInt_inj]
  exact Eq.congr_right BitVec.toInt_zero.symm

theorem toNat_eq_zero_iff : b.toNat = 0 ↔ b = 0 := by rw [← BitVec.toNat_inj]; rfl

theorem toInt_neg_one (hw : 0 < w) : (-1 : BitVec w).toInt = -1 := by
  have h : (-1 : BitVec w) = BitVec.allOnes w := BitVec.neg_one_eq_allOnes
  rw [h, BitVec.toInt_allOnes, if_pos hw]

/-- R252: the most negative number divided by −1 is its own negation modulo 2^w. -/
theorem ofInt_tdiv_wraps (hw : 0 < w) (ha : a = BitVec.intMin w) (hb : b = -1) : BitVec.ofInt w (a.toInt.tdiv b.toInt) = a := by
  rw [hb, toInt_neg_one hw, Int.tdiv_neg, Int.tdiv_one, BitVec.ofInt_neg, BitVec.ofInt_toInt, ha, BitVec.neg_intMin]

theorem ofInt_tmod_wraps (hw : 0 < w) (hb : b = -1) : BitVec.ofInt w (a.toInt - a.toInt.tdiv b.toInt * b.toInt) = 0 := by
  rw [hb, toInt_neg_one hw, Int.tdiv_neg, Int.tdiv_one, neg_mul_neg, mul_one, sub_self]
  rfl

end

/-! The model's quotients and remainders. -/

section
variable {w : Nat} (x y : Word)

theorem extSI_quotient (hw : 0 < w) : extSI w (divideS (lowS w x) (lowS w y)).1 =
    (if y.setWidth w = 0 then 0 else if x.setWidth w = BitVec.intMin w ∧ y.setWidth w = -1 then x.setWidth w
      else BitVec.ofInt w ((x.setWidth w).toInt.tdiv (y.setWidth w).toInt)).signExtend 64 := by
  refine extSI_eq ?_
  simp only [divideS, lowS_eq, toInt_eq_zero_iff]
  by_cases h0 : y.setWidth w = 0
  · rw [if_pos h0, if_pos h0]
    rfl
  rw [if_neg h0, if_neg h0]
  split
  next hwrap => exact ofInt_tdiv_wraps hw hwrap.1 hwrap.2
  next => rfl

theorem extSI_remainder (hw : 0 < w) : extSI w (divideS (lowS w x) (lowS w y)).2 =
    (if y.setWidth w = 0 then x.setWidth w else if x.setWidth w = BitVec.intMin w ∧ y.setWidth w = -1 then 0
      else BitVec.ofInt w ((x.setWidth w).toInt - (x.setWidth w).toInt.tdiv (y.setWidth w).toInt * (y.setWidth w).toInt)).signExtend 64 := by
  refine extSI_eq ?_
  simp only [divideS, lowS_eq, toInt_eq_zero_iff]
  by_cases h0 : y.setWidth w = 0
  · rw [if_pos h0, if_pos h0, BitVec.ofInt_toInt]
  rw [if_neg h0, if_neg h0, mul_comm]
  split
  next hwrap => exact ofInt_tmod_wraps hw hwrap.2
  next => rfl

theorem extZ_quotient : extZ w (divideW (low w x) (low w y)).1 =
    (if y.setWidth w = 0 then 0 else BitVec.ofNat w ((x.setWidth w).toNat / (y.setWidth w).toNat)).setWidth 64 := by
  refine extZ_eq ?_
  simp only [divideW, low_eq, toNat_eq_zero_iff]
  by_cases h0 : y.setWidth w = 0
  · rw [if_pos h0, if_pos h0]
    exact Nat.zero_mod _
  rw [if_neg h0, if_neg h0, BitVec.toNat_ofNat]

theorem extZ_remainder : extZ w (divideW (low w x) (low w y)).2 =
    (if y.setWidth w = 0 then x.setWidth w
      else BitVec.ofNat w ((x.setWidth w).toNat - (x.setWidth w).toNat / (y.setWidth w).toNat * (y.setWidth w).toNat)).setWidth 64 := by
  refine extZ_eq ?_
  simp only [divideW, low_eq, toNat_eq_zero_iff]
  by_cases h0 : y.setWidth w = 0
  · rw [if_pos h0, if_pos h0, BitVec.toNat_mod_cancel]
  rw [if_neg h0, if_neg h0, BitVec.toNat_ofNat, ← Nat.mod_eq_sub_div_mul]

end

/-- Settles O9: where the quotient of integers wraps, it is −A modulo 2^w, which is A, and the remainder is 0 (`ofInt_tdiv_wraps`). -/
theorem divisionResults : Obligations.DivisionResults := by
  unfold Obligations.DivisionResults
  intro h w b s o ho A B
  simp only [exec, execDiv, execRem, execDivw, execRemw, execBinary_of ho]
  exact ⟨fire1_congr (extSI_quotient _ _ (width_pos w)), fire1_congr (extSI_remainder _ _ (width_pos w)),
    fire1_congr (extZ_quotient ..), fire1_congr (extZ_remainder ..)⟩

end Sys2Proof.Proofs
end

section
/-! SUPPORT. Shifts and rotations by a full 64-bit count (R253). -/

namespace Sys2Proof.Proofs

open Sys2Proof.Machine

/-- A number of w bits that is shifted by w or more is −1 or 0. -/
theorem ediv_two_pow_of_le {w n : Nat} (a : BitVec w) (h : w ≤ n) : a.toInt / 2 ^ n = a.toInt / 2 ^ w := by
  have hlt : 2 * a.toInt < 2 ^ w := BitVec.two_mul_toInt_lt
  have hge : -2 ^ w ≤ 2 * a.toInt := BitVec.le_two_mul_toInt
  have hpow : (2 : Int) ^ w ≤ 2 ^ n := pow_le_pow_right₀ (by decide) h
  rcases lt_or_ge a.toInt 0 with h0 | h0
  · rw [Int.ediv_eq_neg_one_of_neg_of_le h0 (by omega), Int.ediv_eq_neg_one_of_neg_of_le h0 (by omega)]
  · rw [Int.ediv_eq_zero_of_lt h0 (by omega), Int.ediv_eq_zero_of_lt h0 (by omega)]

section
variable (w : Nat) (x n : Word)

theorem shlAt_eq : shlAt w x n = (x.setWidth w <<< n.toNat).signExtend 64 := by
  rw [shlAt]
  split
  next h => rw [BitVec.shiftLeft_eq_zero h, BitVec.signExtend, BitVec.toInt_zero]; rfl
  next h =>
    refine extS_eq (BitVec.eq_of_toNat_eq ?_)
    rw [BitVec.toNat_ofNat, BitVec.toNat_shiftLeft, Nat.shiftLeft_eq, low_eq]

theorem shrAt_eq : shrAt w x n = (x.setWidth w >>> n.toNat).setWidth 64 := by
  rw [shrAt]
  split
  next h => simp [BitVec.ushiftRight_eq_zero h]
  next h =>
    refine extZ_eq ?_
    rw [low_eq, ← Nat.shiftRight_eq_div_pow, ← BitVec.toNat_ushiftRight, BitVec.toNat_mod_cancel]

theorem sarAt_eq : sarAt w x n = ((x.setWidth w).sshiftRight n.toNat).signExtend 64 := by
  refine extSI_eq ?_
  rw [BitVec.sshiftRight, Int.shiftRight_eq_div_pow, lowS_eq, Int.natCast_pow, Nat.cast_ofNat]
  congr 1
  rcases Nat.le_total n.toNat w with h | h
  · rw [min_eq_left h]
  · rw [min_eq_right h, ediv_two_pow_of_le (x.setWidth w) h]

/-- R253: the bits that leave at the top come in at the bottom. -/
theorem rotAt_eq (hw : 0 < w) : rotAt w x n = ((x.setWidth w).rotateLeft n.toNat).signExtend 64 := by
  refine extS_eq ?_
  have hk : n.toNat % w < w := Nat.mod_lt _ hw
  have hlow : (x.setWidth w).toNat >>> (w - n.toNat % w) < 2 ^ (n.toNat % w) := by
    rw [Nat.shiftRight_eq_div_pow]
    refine Nat.div_lt_of_lt_mul ?_
    rw [← pow_add, Nat.sub_add_cancel hk.le]
    exact BitVec.isLt _
  rw [BitVec.rotateLeft_def, low_eq, ← Nat.shiftLeft_eq, ← Nat.shiftRight_eq_div_pow, Nat.shiftLeft_add_eq_or_of_lt hlow, BitVec.ofNat_or]
  have hup (a : BitVec w) (k : Nat) : BitVec.ofNat w (a.toNat <<< k) = a <<< k := rfl
  have hdown (a : BitVec w) (k : Nat) : BitVec.ofNat w (a.toNat >>> k) = a >>> k :=
    BitVec.eq_of_toNat_eq (by rw [BitVec.toNat_ofNat, ← BitVec.toNat_ushiftRight, BitVec.toNat_mod_cancel])
  rw [hup, hdown]

end

theorem getLsbD_rotateLeft_add {w : Nat} (a : BitVec w) (n i : Nat) (hi : i < w) : (a.rotateLeft n).getLsbD ((i + n) % w) = a.getLsbD i := by
  have hn : n % w < w := Nat.mod_lt _ (by omega)
  rw [BitVec.getLsbD_rotateLeft, Nat.add_mod, Nat.mod_eq_of_lt hi]
  rcases Nat.lt_or_ge (i + n % w) w with h | h
  · have hkept : ¬i + n % w < n % w := by omega
    simp only [Nat.mod_eq_of_lt h, hkept, h, decide_false, decide_true, cond_false, Bool.true_and, Nat.add_sub_cancel]
  · have hwrapped : i + n % w - w < n % w := by omega
    have hbit : w - n % w + (i + n % w - w) = i := by omega
    rw [Nat.mod_eq_sub_mod h, Nat.mod_eq_of_lt (by omega), decide_eq_true hwrapped, cond_true, hbit]

/-- Settles O10: the model's shifts are those of words of w bits, whose bits the library gives. -/
theorem shiftResults : Obligations.ShiftResults := by
  unfold Obligations.ShiftResults
  intro h w b s o ho A n
  simp only [exec, execShl, execShr, execSar, execRot, execBinary_of ho]
  refine ⟨A <<< n, A >>> n, A.sshiftRight n, A.rotateLeft n, fun i hi => ?_, fun i _ => ?_, fun i hi => ?_,
    fun i hi => getLsbD_rotateLeft_add A n i hi, fire1_congr (shlAt_eq ..), fire1_congr (shrAt_eq ..),
    fire1_congr (sarAt_eq ..), fire1_congr (rotAt_eq _ _ _ (width_pos w))⟩
  · rw [BitVec.getLsbD_shiftLeft, decide_eq_true hi, Bool.true_and, ← decide_not, decide_eq_decide.mpr Nat.not_lt]
  · rw [BitVec.getLsbD_ushiftRight, Nat.add_comm]
  · rw [BitVec.getLsbD_sshiftRight, decide_eq_false (Nat.not_le.mpr hi), Bool.not_false, Bool.true_and, Nat.add_comm n i]
    split
    · rfl
    · exact BitVec.msb_eq_getLsbD_last A

end Sys2Proof.Proofs
end

section
/-! SUPPORT. Bit fields and immediates (R254, R255). -/

namespace Sys2Proof.Proofs

open Sys2Proof.Machine

/-- R254: the position of a field, and its length from 1 to 32. -/
theorem fieldSpec_eq (y : Word) : fieldSpec y = ((y.extractLsb' 5 6).toNat, (y.extractLsb' 0 5).toNat + 1) := by
  simp [fieldSpec, BitVec.extractLsb'_toNat, Nat.shiftRight_eq_div_pow]

theorem fieldSpec_length_le (y : Word) : (fieldSpec y).2 ≤ 32 := Nat.mod_lt _ (by decide)

theorem fieldAt_eq (w : Nat) (x y : Word) : fieldAt w x y = ((x.setWidth w).extractLsb' (fieldSpec y).1 (fieldSpec y).2).toNat := by
  rw [fieldAt, BitVec.extractLsb'_toNat, Nat.shiftRight_eq_div_pow, low_eq]

theorem extSI_field {w : Nat} (hw : w ≤ 64) (x y : Word) : extSI w (BitVec.ofNat (fieldSpec y).2 (fieldAt w x y)).toInt =
    ((((x.setWidth w).extractLsb' (fieldSpec y).1 (fieldSpec y).2).signExtend 64).setWidth w).signExtend 64 := by
  refine extSI_eq ?_
  rw [fieldAt_eq, BitVec.ofNat_toNat, BitVec.setWidth_eq, setWidth_signExtend hw]
  rfl

theorem extZ_field (w : Nat) (x y : Word) : extZ w (fieldAt w x y) =
    ((((x.setWidth w).extractLsb' (fieldSpec y).1 (fieldSpec y).2).setWidth 64).setWidth w).setWidth 64 := by
  have hfit : (fieldSpec y).2 ≤ 64 := (fieldSpec_length_le y).trans (by decide)
  refine extZ_eq ?_
  rw [fieldAt_eq, BitVec.toNat_setWidth, BitVec.toNat_setWidth_of_le hfit]

/-- The bits of a number of which l bits from position p on are replaced. -/
theorem testBit_replace (a c p l i : Nat) : (a - a / 2 ^ p % 2 ^ l * 2 ^ p + c % 2 ^ l * 2 ^ p).testBit i =
    if p ≤ i ∧ i < p + l then c.testBit (i - p) else a.testBit i := by
  have hlow : a % 2 ^ p < 2 ^ p := Nat.mod_lt _ (by positivity)
  have hnew : c % 2 ^ l < 2 ^ l := Nat.mod_lt _ (by positivity)
  have hsplit : a = 2 ^ p * (2 ^ l * (a / 2 ^ p / 2 ^ l) + a / 2 ^ p % 2 ^ l) + a % 2 ^ p := by
    rw [Nat.div_add_mod, Nat.div_add_mod]
  have hreplace : a - a / 2 ^ p % 2 ^ l * 2 ^ p + c % 2 ^ l * 2 ^ p = 2 ^ p * (2 ^ l * (a / 2 ^ p / 2 ^ l) + c % 2 ^ l) + a % 2 ^ p := by
    generalize a / 2 ^ p % 2 ^ l = f at hsplit ⊢
    generalize a / 2 ^ p / 2 ^ l = u at hsplit ⊢
    generalize a % 2 ^ p = v at hsplit ⊢
    rw [hsplit, Nat.mul_add, Nat.mul_add, Nat.mul_comm f, Nat.mul_comm (c % _)]
    omega
  rw [hreplace, Nat.testBit_two_pow_mul_add _ hlow, Nat.testBit_two_pow_mul_add _ hnew]
  rcases Nat.lt_or_ge i p with hp | hp
  · rw [if_pos hp, if_neg (by omega), Nat.testBit_mod_two_pow, decide_eq_true hp, Bool.true_and]
  rcases Nat.lt_or_ge i (p + l) with hl | hl
  · rw [if_neg (by omega), if_pos (by omega), if_pos ⟨hp, hl⟩, Nat.testBit_mod_two_pow, decide_eq_true (by omega), Bool.true_and]
  · rw [if_neg (by omega), if_neg (by omega), if_neg (by omega), Nat.testBit_div_two_pow, Nat.testBit_div_two_pow]
    congr 1
    omega

/-- R254: BFI's result before its extension. -/
def insertedField (w : Nat) (x y z : Word) : BitVec w :=
  BitVec.ofNat w (low w x - fieldAt w x y * 2 ^ (fieldSpec y).1 + z.toNat % 2 ^ (fieldSpec y).2 * 2 ^ (fieldSpec y).1)

theorem insertAt_eq (w : Nat) (x y z : Word) : insertAt w x y z = (insertedField w x y z).signExtend 64 := rfl

theorem getLsbD_insertedField {w : Nat} (x y z : Word) {i : Nat} (hi : i < w) : (insertedField w x y z).getLsbD i =
    if (fieldSpec y).1 ≤ i ∧ i < (fieldSpec y).1 + (fieldSpec y).2 then z.getLsbD (i - (fieldSpec y).1) else (x.setWidth w).getLsbD i := by
  rw [insertedField, fieldAt, BitVec.getLsbD_ofNat, testBit_replace, decide_eq_true hi, Bool.true_and, low_eq]
  rfl

/-- R255: a quarter is replaced bit by bit. -/
theorem getLsbD_quarterAt (q : BitVec 2) (chunk : BitVec 16) (a : Word) (i : Nat) : (quarterAt q chunk a).getLsbD i =
    if 16 * q.toNat ≤ i ∧ i < 16 * q.toNat + 16 then chunk.getLsbD (i - 16 * q.toNat) else a.getLsbD i := by
  have hq : q.toNat < 4 := q.isLt
  have hones : (0xFFFF : Word) = (BitVec.allOnes 16).setWidth 64 := rfl
  rw [quarterAt, hones]
  simp only [BitVec.getLsbD_or, BitVec.getLsbD_and, BitVec.getLsbD_not, BitVec.getLsbD_shiftLeft, BitVec.getLsbD_setWidth, BitVec.getLsbD_allOnes]
  rcases Nat.lt_or_ge i 64 with hi | hi
  · have hi' : i - 16 * q.toNat < 64 := by omega
    simp only [hi, hi', decide_true, Bool.true_and]
    rcases Nat.lt_or_ge i (16 * q.toNat) with hp | hp
    · simp [hp, Nat.not_le.mpr hp]
    rcases Nat.lt_or_ge i (16 * q.toNat + 16) with hl | hl
    · have hin : i - 16 * q.toNat < 16 := by omega
      simp [hp, hl, hin, Nat.not_lt.mpr hp]
    · have hout : ¬i - 16 * q.toNat < 16 := by omega
      simp [hout, Nat.not_lt.mpr hl, BitVec.getLsbD_of_ge _ _ (Nat.not_lt.mp hout)]
  · have hout : ¬i < 16 * q.toNat + 16 := by omega
    simp [Nat.not_lt.mpr hi, hout, BitVec.getLsbD_of_ge _ _ hi]

/-- Settles O11: a field is a slice of A, and BFI replaces the field's bits (`testBit_replace`). -/
theorem fieldResults : Obligations.FieldResults := by
  unfold Obligations.FieldResults
  refine ⟨⟨fun h w b s o ho => ?_, fun h w b s o ho => ?_⟩, fun h k s o ho => ?_, fun h q chunk s o ho => ?_⟩
  · have hspec := fieldSpec_eq (b.value o.b.v)
    have hs := extSI_field (width_le w) o.a.v (b.value o.b.v)
    have hz := extZ_field w.bits o.a.v (b.value o.b.v)
    simp only [exec, execBfx, execBfxw, execBinary_of ho]
    rw [hspec] at hs hz
    exact ⟨fire1_congr hs, fire1_congr hz⟩
  · have hbits (i : Nat) (hi : i < w.bits) := getLsbD_insertedField o.a.v (b.value o.b.v) o.c.v hi
    simp only [fieldSpec_eq] at hbits
    simp only [exec, execBfi, execTernary_of ho]
    exact ⟨insertedField w.bits o.a.v (b.value o.b.v) o.c.v, hbits, fire1_congr (insertAt_eq ..)⟩
  · simp only [exec, execMovi, ho]
  · simp only [exec, execMovhi, execUnary_of ho]
    exact ⟨quarterAt q chunk o.a.v, getLsbD_quarterAt q chunk o.a.v, rfl⟩

end Sys2Proof.Proofs
end

section
/-! SUPPORT. Tests: what they compare, and what they write to their predicate (R228, R256, R257). -/

namespace Sys2Proof.Proofs

open Sys2Proof.Machine Sys2Proof.Safety

/-! What a test compares. -/

theorem low_beq (w : Nat) (x y : Word) : (low w x == low w y) = (x.setWidth w == y.setWidth w) := by
  rw [low_eq, low_eq, Bool.eq_iff_iff, beq_iff_eq, beq_iff_eq, BitVec.toNat_inj]

theorem low_bne (w : Nat) (x y : Word) : (low w x != low w y) = (x.setWidth w != y.setWidth w) := congrArg (! ·) (low_beq w x y)

theorem lowS_lt (w : Nat) (x y : Word) : decide (lowS w x < lowS w y) = (x.setWidth w).slt (y.setWidth w) := by rw [lowS_eq, lowS_eq]; rfl

theorem lowS_le (w : Nat) (x y : Word) : decide (lowS w x ≤ lowS w y) = (x.setWidth w).sle (y.setWidth w) := by rw [lowS_eq, lowS_eq]; rfl

theorem low_lt (w : Nat) (x y : Word) : decide (low w x < low w y) = (x.setWidth w).ult (y.setWidth w) := by rw [low_eq, low_eq]; rfl

theorem low_le (w : Nat) (x y : Word) : decide (low w x ≤ low w y) = (x.setWidth w).ule (y.setWidth w) := by rw [low_eq, low_eq]; rfl

theorem fireTest_congr {s : State} {h : Head} {pd : Option (BitVec 4)} {v r : Bool} (hr : v = r) :
    (Host.Outcome.next (s.fireTest h pd v) : Host.Outcome State Fault Refusal) = .next (s.fireTest h pd r) := by
  rw [hr]

theorem execTest_of {h : Head} {b : OpB} {s : State} {o : Opnds} (ho : s.operands h true b.isSlot false = some o) (pd : Option (BitVec 4))
    (f : Word → Word → Bool) : execTest h b pd f s = .next (s.fireTest h pd (f o.a.v (b.value o.b.v))) := by
  simp only [execTest, ho]

/-- R257: a task without a running activation holds no matched message. -/
theorem matched_isNone (k : Task) (vc : Nat) :
    (k.matched vc).isNone = (match k.act with | some a => !(a.msgs.any fun m => m.vc == vc) | none => true) := by
  rw [Task.matched]
  cases k.act with
  | none => rfl
  | some a =>
    show (a.msgs.find? fun m => m.vc == vc).isNone = !a.msgs.any fun m => m.vc == vc
    rw [← Option.not_isSome, List.isSome_find?]

/-! What a test without targets leaves. -/

section
variable {s : State} {h : Head} {f : Firing}

/-- The state after the instruction at the cursor has fired and its block has changed, before a fault is taken. -/
def firedWith (s : State) (g : Firing → Firing) : State :=
  (s.modFlight s.cur.task s.cur.which fun f => { g f with fired := s.cur.idx :: (g f).fired }).modElem (elemOf s.cur.task)
    fun e => { e with instrs := e.instrs + 1 }

theorem firedWith_cur (s : State) (g : Firing → Firing) : (firedWith s g).cur = s.cur := rfl

theorem fireTest_without_targets (h0 : h.t0 = none) (h1 : h.t1 = none) (pd : Option (BitVec 4)) (v : Bool) :
    s.fireTest h pd v = (firedWith s fun f => f.setPred s.cur.idx pd v).afterDelivery := by
  simp only [State.fireTest, State.fire1, State.fire, Firing.deliver, h0, h1, send_nil, modFlight_cur, modFlight_modFlight]
  rfl

theorem afterDelivery_of_no_fault (hh : s.here = some f) (hf : f.fault = none) : s.afterDelivery = s := by
  simp [State.afterDelivery, hh, hf]

theorem afterDelivery_of_fault (hh : s.here = some f) (hf : f.fault.isSome) :
    s.afterDelivery = (s.fixFault s.cur.task s.cur.which).takeFault s.cur.task := by
  simp [State.afterDelivery, hh, hf]

theorem here_firedWith (hh : s.here = some f) (g : Firing → Firing) :
    (firedWith s g).here = some { g f with fired := s.cur.idx :: (g f).fired } := here_changed hh _

/-- A successor's firing leaves the oldest block of its task. -/
theorem head?_firedWith (hw : s.cur.which ≠ 0) (g : Firing → Firing) :
    ((firedWith s g).task s.cur.task).flights.head? = (s.task s.cur.task).flights.head? := by
  obtain ⟨m, hm⟩ := Nat.exists_eq_succ_of_ne_zero hw
  simp only [firedWith, task_modElem, task_modFlight, hm]
  cases (s.task s.cur.task).flights <;> rfl

/-- R35, R467: the fault of a successor waits in its block, completed with its task. -/
theorem here_afterDelivery_successor (hh : s.here = some f) (hf : f.fault.isSome) (hw : s.cur.which ≠ 0)
    (hhead : ∀ g, (s.task s.cur.task).flights.head? = some g → g.fault = none) :
    s.afterDelivery.here = some (completed s s.cur.task f) := by
  rw [afterDelivery_of_fault hh hf, takeFault_successor hw hhead]
  show ((s.fixFault s.cur.task s.cur.which).task s.cur.task).flight s.cur.which = _
  rw [Task.flight, fixFault_flights, listMod_getElem?, if_pos rfl, here_eq hh]
  rfl

/-- R228, R256: the first write of a predicate. -/
theorem fireTest_writes_predicate (hh : s.here = some f) (hf : f.fault = none) (h0 : h.t0 = none) (h1 : h.t1 = none) {p : BitVec 4}
    (hp : f.preds.find p.toNat = none) (v : Bool) :
    ∃ g, (s.fireTest h (some p) v).here = some g ∧ g.preds.find p.toNat = some v ∧ (∀ q, q ≠ p.toNat → g.preds.find q = f.preds.find q)
      ∧ { g with fired := f.fired, preds := f.preds } = f ∧ FiresOnly s (s.fireTest h (some p) v) := by
  have hset : f.setPred s.cur.idx (some p) v = { f with preds := f.preds.put p.toNat v } := by simp only [Firing.setPred, hp]
  have hhere := here_firedWith hh fun f => f.setPred s.cur.idx (some p) v
  rw [fireTest_without_targets h0 h1, afterDelivery_of_no_fault hhere (by rw [hset]; exact hf), hhere, hset]
  exact ⟨_, rfl, find_put_self .., fun q hq => find_put_ne _ hq v, rfl, firesOnly_of s _⟩

/-- R228: a second write of a predicate is the block's fault. -/
theorem fireTest_faults_predicate (hh : s.here = some f) (hf : f.fault = none) (h0 : h.t0 = none) (h1 : h.t1 = none) {p : BitVec 4}
    (hp : (f.preds.find p.toNat).isSome) (hw : s.cur.which ≠ 0)
    (hhead : ∀ g, (s.task s.cur.task).flights.head? = some g → g.fault = none) (v : Bool) :
    ∃ g r, (s.fireTest h (some p) v).here = some g ∧ g.fault = some r ∧ r.code = .blockFormat ∧ r.index = s.cur.idx
      ∧ r.detail = p.toNat := by
  obtain ⟨u, hu⟩ := Option.isSome_iff_exists.mp hp
  have hset : f.setPred s.cur.idx (some p) v = { f with fault := some { code := .blockFormat, index := s.cur.idx, detail := p.toNat } } := by
    simp only [Firing.setPred, hu, hf, lowerFault]
  have hhere := here_firedWith hh fun f => f.setPred s.cur.idx (some p) v
  rw [hset] at hhere
  rw [fireTest_without_targets h0 h1]
  exact ⟨_, _, here_afterDelivery_successor hhere rfl hw (by rwa [firedWith_cur, head?_firedWith hw]), rfl, rfl, rfl, rfl⟩

end

/-- Settles O12: a test compares words of w bits, and fires with the change of its predicate, whose second write leaves a fault in the block. -/
theorem testsDeliverAndWrite : Obligations.TestsDeliverAndWrite := by
  unfold Obligations.TestsDeliverAndWrite
  refine ⟨⟨fun h w b pd s o ho => ?_, fun h vc pd s o ho => ?_⟩, fun s h p v f hh hf h0 h1 => ⟨fun hp => ?_, fun hp hw hhead => ?_⟩⟩
  · simp only [exec, execTeq, execTne, execTlt, execTle, execTltw, execTlew, execTbit, execTest_of ho]
    exact ⟨fireTest_congr (low_beq ..), fireTest_congr (low_bne ..), fireTest_congr (lowS_lt ..), fireTest_congr (lowS_le ..),
      fireTest_congr (low_lt ..), fireTest_congr (low_le ..), fireTest_congr (BitVec.getLsbD_setWidth ..).symm⟩
  · simp only [exec, execTnul, ho]
    exact fireTest_congr (matched_isNone ..)
  · exact fireTest_writes_predicate hh hf h0 h1 hp v
  · exact fireTest_faults_predicate hh hf h0 h1 hp hw hhead v

end Sys2Proof.Proofs
end

section
/-! SUPPORT. Branches, calls, the table jump, and the end of an activation (R217, R218, R261 to R264). -/

namespace Sys2Proof.Proofs

open Sys2Proof.Machine Sys2Proof.Safety

/-! The target of a branch (R239, R261). -/

section
variable {k : Task} {t : Word}

theorem targetFault_none (ha : t.toNat % 16 = 0) (hs : t.toNat < 8 * k.code.length) : k.targetFault t = none := by
  rw [Task.targetFault, if_neg (not_not.mpr ha), Task.codeSize, if_neg (by omega)]

theorem targetFault_align (ha : t.toNat % 16 ≠ 0) : k.targetFault t = some { code := .align, addr := t.toNat } := by
  rw [Task.targetFault, if_pos ha]

theorem targetFault_range (ha : t.toNat % 16 = 0) (hs : 8 * k.code.length ≤ t.toNat) :
    k.targetFault t = some { code := .addrRange, addr := t.toNat } := by
  rw [Task.targetFault, if_neg (not_not.mpr ha), Task.codeSize, if_pos (by omega)]

end

theorem offset_eq (f : Firing) (off : BitVec 13) : f.offset off = BitVec.ofNat 64 f.addr + 16 * off.signExtend 64 := by
  rw [Firing.offset, BitVec.mul_comm]

/-- An aligned target that a block names by its offset is that of an aligned block. -/
theorem addr_aligned {f : Firing} {off : BitVec 13} (h : (f.offset off).toNat % 16 = 0) : f.addr % 16 = 0 := by
  rw [Firing.offset, BitVec.toNat_add, BitVec.toNat_mul, BitVec.toNat_ofNat] at h
  have h16 : (16 : Word).toNat = 16 := rfl
  rw [h16] at h
  omega

/-- R262: the block after an aligned one. -/
theorem returnAddr_aligned {f : Firing} (h : f.addr % 16 = 0) : f.returnAddr = (f.addr + 16 + 8 * f.words.length + 15) / 16 * 16 := by
  rw [Firing.returnAddr]
  omega

/-! A block's branch. -/

section
variable {s : State} {f : Firing} (hh : s.here = some f)

theorem branchTo_fault {t : Word} {r : Record} (hr : (s.task s.cur.task).targetFault t = some r) : s.branchTo t = s.fireFault r := by
  simp only [State.branchTo, hr]

include hh

theorem branchTo_takes (hb : f.branch = none) {t : Word} (ht : (s.task s.cur.task).targetFault t = none) :
    TakesBranch s (s.branchTo t) f (.block t.toNat) := by
  simp only [State.branchTo, ht]
  exact branch_takes _ hh hb

/-- R217: a second branch of a block. -/
theorem branch_second (hb : f.branch.isSome) (n : Next) : s.branch n = s.fireFault { code := .blockFormat } := by
  obtain ⟨m, hm⟩ := Option.isSome_iff_exists.mp hb
  simp only [State.branch, hh, hm]

end

/-- R261, R262: the state in which a CALL delivers its result: the block has its branch, and the task fetches the block at an address. -/
def called (s : State) (off : BitVec 13) (a : Nat) : State :=
  (s.modFlight s.cur.task s.cur.which fun f => { f with branch := some (.block (f.offset off).toNat) }).modTask s.cur.task
    fun k => { k with fetch := some a }

theorem here_called {s : State} {f : Firing} (hh : s.here = some f) (off : BitVec 13) (a : Nat) :
    (called s off a).here = some { f with branch := some (.block (f.offset off).toNat) } := by
  show ((called s off a).task s.cur.task).flight s.cur.which = _
  simp [called, Task.flight, listMod_getElem?, here_eq hh]

theorem fetch_called (s : State) (off : BitVec 13) (a : Nat) : ((called s off a).task s.cur.task).fetch = some a := by simp [called]

section
variable {h : Head} {s : State} {f : Firing} {o : Opnds}

theorem exec_call_fires (ho : s.operands h false false false = some o) (hh : s.here = some f) (hb : f.branch = none) {off : BitVec 13}
    (ht : (s.task s.cur.task).targetFault (f.offset off) = none) :
    exec (.call h off) s = .next ((called s off (f.offset off).toNat).fire1 h (BitVec.ofNat 64 f.returnAddr)) := by
  simp only [exec, execCall, ho, hh, ht, hb, modFlight_cur, called]

/-! The table jump (R263). -/

section
variable (ho : s.operandsStore h true true false = some o) (hh : s.here = some f) {off : BitVec 13}
include ho hh

theorem exec_jtab_default {n : Word} {u : State} (hn : s.readTable s.cur.task o.a.v = .value n u) (hle : n ≤ o.b.v) :
    exec (.jtab h off) s = .next (u.dropVloads.branchTo (f.offset off)) := by
  simp only [exec, execJtab, ho, hh, hn, if_pos hle]

theorem exec_jtab_entry {n t : Word} {u v : State} (hn : s.readTable s.cur.task o.a.v = .value n u) (hlt : o.b.v < n)
    (ht : u.readTable u.cur.task (o.a.v + 8 + 8 * o.b.v) = .value t v) : exec (.jtab h off) s = .next (v.dropVloads.branchTo t) := by
  simp only [exec, execJtab, ho, hh, hn, if_neg (BitVec.not_le.mpr hlt), ht]

theorem exec_jtab_align (ha : o.a.v.toNat % 8 ≠ 0) :
    exec (.jtab h off) s = .next (s.dropVloads.fireFault { code := .align, addr := o.a.v.toNat }) := by
  have hread : s.readTable s.cur.task o.a.v = .bad { code := .align, addr := o.a.v.toNat } := by simp only [State.readTable, if_pos ha]
  simp only [exec, execJtab, ho, hh, hread]

end

end

/-- Settles O17: a target passes its checks and becomes the block's branch, or is a fault; the table jump branches to the entry that it reads. -/
theorem branchesNameTheNextBlock : Obligations.BranchesNameTheNextBlock := by
  unfold Obligations.BranchesNameTheNextBlock
  refine ⟨fun h off s f hh hb => ?_, fun h s f o hh ho => ?_, fun h off s o f ho hh => ?_⟩
  · intro size near
    have hnear : f.offset off = near := offset_eq f off
    refine ⟨fun o ho ha hs => ⟨?_, ?_⟩, fun o ho ha hs => ?_, fun o ho ha => ?_, fun o ho ha hs => ?_⟩
    · simp only [exec, execBr, ho, hh, hnear]
      exact ⟨_, rfl, branchTo_takes hh hb (targetFault_none ha hs)⟩
    · have hfits := targetFault_none ha hs
      rw [← hnear] at ha hfits ⊢
      rw [exec_call_fires ho hh hb hfits, returnAddr_aligned (addr_aligned ha)]
      exact ⟨_, rfl, here_called hh .., fetch_called .., rfl⟩
    · have htakes := branchTo_takes hh hb (targetFault_none ha hs)
      simp only [exec, execBrx, execRet, ho]
      exact ⟨⟨_, rfl, htakes⟩, _, rfl, htakes⟩
    · simp only [exec, execBrx, execRet, ho, branchTo_fault (targetFault_align ha), and_self]
    · simp only [exec, execBrx, execRet, ho, branchTo_fault (targetFault_range ha hs), and_self]
  · simp only [exec, execYield, execExit, ho]
    refine ⟨fun hb => ⟨⟨_, rfl, branch_takes _ hh hb⟩, _, rfl, branch_takes _ hh hb⟩, fun hb => ?_⟩
    rw [branch_second hh hb, branch_second hh hb]
    exact ⟨rfl, rfl⟩
  · rw [← offset_eq]
    exact ⟨fun n u hn hle => exec_jtab_default ho hh hn hle, fun n u t v hn hlt ht => exec_jtab_entry ho hh hn hlt ht, exec_jtab_align ho hh⟩

end Sys2Proof.Proofs
end

section
/-! SUPPORT. A vector instruction whose operands pass their checks and are read: what it then does (R282, R283), for each of the forms. -/

namespace Sys2Proof.Proofs

open Sys2Proof.Machine

section
variable {s s' : State} {h : Head} {v : VSpec} {p : SlotVal} {x y z : List Nat} {locs : List ELoc} {touched : Bool}

/-- R282: with its elements read, a vector instruction writes to its destination what its function gives for the destination's count. -/
theorem vector_of_read {q : VOpd} (hd : v.d = some q) (hr : s.vecRead h v p = .ok x y z locs s' touched) (f : VFun) :
    s.vector h v f p = s'.writeVec h (some q) locs (f x y z (shCount ((s.task s.cur.task).shape q.reg))).1
      (f x y z (shCount ((s.task s.cur.task).shape q.reg))).2 touched p := by
  simp only [State.vector, hr, hd]

/-- R292: a reduction has no destination: it delivers its value. -/
theorem vector_of_read_reduce (hd : v.d = none) (hr : s.vecRead h v p = .ok x y z locs s' touched) (f : VFun) :
    s.vector h v f p = s'.fire h ⟨(f x y z 0).2, if touched then s'.refHere false else none, none⟩
      ⟨(f x y z 0).2, if touched then s'.refHere false else none, none⟩ := by
  simp only [State.vector, hr, hd, State.writeVec]

end

/-! The forms of the elementwise instructions. -/

section
variable {s s' : State} {h : Head} {d a b : BitVec 3} {ty aty : Ty} {o : Opnds} {x y z : List Nat} {locs : List ELoc} {touched : Bool}
  (ho : s.operandsVec h false false = some o)
include ho

theorem vec1_of_read (hr : s.vecRead h { a := opd a aty, d := opd d ty, counts := countsAll false false } o.p = .ok x y z locs s' touched)
    {f g : Nat → Nat} (hfg : ∀ p, f p = g p) :
    s.vec1 h d a ty aty f =
      .next (s'.writeVec h (opd d ty) locs ((x.map g).map some) (BitVec.ofNat 64 (shCount ((s.task s.cur.task).shape d.toNat))) touched o.p) := by
  obtain rfl : f = g := funext hfg
  simp only [State.vec1, ho, vector_of_read (q := ⟨d.toNat, [ty.bytes]⟩) rfl hr, giving]
  rfl

theorem vec2_of_read
    (hr : s.vecRead h { a := opd a ty, b := opd b ty, d := opd d ty, counts := countsAll true false } o.p = .ok x y z locs s' touched)
    {f g : Nat → Nat → Nat} (hfg : ∀ p q, f p q = g p q) :
    s.vec2 h d a b ty f =
      .next (s'.writeVec h (opd d ty) locs ((List.zipWith g x y).map some) (BitVec.ofNat 64 (shCount ((s.task s.cur.task).shape d.toNat))) touched o.p) := by
  obtain rfl : f = g := funext₂ hfg
  simp only [State.vec2, ho, vector_of_read (q := ⟨d.toNat, [ty.bytes]⟩) rfl hr, giving]
  rfl

theorem vec3_of_read {v : VSpec} (hd : v.d = opd d ty) (hr : s.vecRead h v o.p = .ok x y z locs s' touched)
    {f : Nat → Nat → Nat → Nat} {g : Nat × Nat → Nat → Nat} (hfg : ∀ pq r, f pq.1 pq.2 r = g pq r) :
    s.vec3 h v f =
      .next (s'.writeVec h (opd d ty) locs ((List.zipWith g (x.zip y) z).map some) (BitVec.ofNat 64 (shCount ((s.task s.cur.task).shape d.toNat))) touched o.p) := by
  obtain rfl : (fun pq => f pq.1 pq.2) = g := funext₂ hfg
  simp only [State.vec3, ho, vector_of_read hd hr, giving]
  rfl

end

end Sys2Proof.Proofs
end

section
/-! SUPPORT. Elementwise integer results as words of the type's width (R166, R286, R291). -/

namespace Sys2Proof.Proofs

open Sys2Proof.Machine

/-- R166: the integer that an element of a type stands for, read from a word of the type's width. -/
def elemInt (ty : Ty) (v : Nat) : Int := if ty.isI then (BitVec.ofNat (8 * ty.bytes) v).toInt else (BitVec.ofNat (8 * ty.bytes) v).toNat

/-- R166: the least integer of a type. -/
def elemLow (ty : Ty) : Int := if ty.isI then -(2 ^ (8 * ty.bytes - 1)) else 0

/-- R166: the greatest integer of a type. -/
def elemHigh (ty : Ty) : Int := if ty.isI then 2 ^ (8 * ty.bytes - 1) - 1 else 2 ^ (8 * ty.bytes) - 1

theorem bytes_pos (ty : Ty) : 0 < ty.bytes := by cases ty <;> decide

theorem isI_eq_false_of_isW {ty : Ty} : ty.isW = true → ty.isI = false := by cases ty <;> decide

theorem isF_eq_false {ty : Ty} : ty.isI = true ∨ ty.isW = true → ty.isF = false := by cases ty <;> decide

theorem isI_eq_false_of_isF {ty : Ty} : ty.isF = true → ty.isI = false := by cases ty <;> decide

theorem patOf_eq (w : Nat) (v : Int) : patOf w v = (BitVec.ofInt w v).toNat := by
  rw [patOf, ← toNat_ofInt_cast, Int.toNat_natCast]

/-- R166: the integer of a signed element is that of its word in two's complement. -/
theorem intOf_eq_toInt {ty : Ty} (h : ty.isI = true) (v : Nat) : intOf ty v = (BitVec.ofNat (8 * ty.bytes) v).toInt := by
  have hw : 2 * 2 ^ (8 * ty.bytes - 1) = 2 ^ (8 * ty.bytes) := by
    rw [← pow_succ', Nat.sub_add_cancel (by have := bytes_pos ty; omega)]
  rw [intOf, BitVec.toInt_eq_toNat_cond, BitVec.toNat_ofNat, h, Nat.mul_comm ty.bytes 8]
  simp only [Bool.true_and, decide_eq_true_eq]
  push_cast
  split <;> split <;> omega

/-- R166: the integer of any other element is its pattern. -/
theorem intOf_eq_toNat {ty : Ty} (h : ty.isI = false) (v : Nat) : intOf ty v = (BitVec.ofNat (8 * ty.bytes) v).toNat := by
  simp [intOf, h, Nat.mul_comm ty.bytes 8]

theorem intOf_eq (ty : Ty) (v : Nat) : intOf ty v = elemInt ty v := by
  rw [elemInt]
  split
  · next h => exact intOf_eq_toInt h v
  · next h => exact intOf_eq_toNat (Bool.eq_false_of_not_eq_true h) v

section
variable {ty : Ty} (ht : ty.isI = true ∨ ty.isW = true)
include ht

theorem intRange_eq : intRange ty = (elemLow ty, elemHigh ty) := by
  rw [intRange, elemLow, elemHigh, Nat.mul_comm ty.bytes 8]
  rcases ht with h | h
  · have hW : ty.isW = false := by revert h; cases ty <;> decide
    simp [h, hW]
  · simp [h, isI_eq_false_of_isW h]

/-- R286: an exact result, wrapped to the type or limited to its range. -/
theorem intElem_eq (sat : Bool) (r : Int) :
    intElem ty sat r = (BitVec.ofInt (8 * ty.bytes) (if sat then Max.max (elemLow ty) (Min.min (elemHigh ty) r) else r)).toNat := by
  rw [intElem, patOf_eq, saturate, intRange_eq ht]

/-- R285: addition, subtraction and multiplication of integer elements. -/
theorem vArith_int (sat : Bool) (ff : Fmt → Nat → Nat → Nat) (fi : Int → Int → Int) (p q : Nat) :
    vArith ty sat ff fi p q = (BitVec.ofInt (8 * ty.bytes)
      (if sat then Max.max (elemLow ty) (Min.min (elemHigh ty) (fi (elemInt ty p) (elemInt ty q))) else fi (elemInt ty p) (elemInt ty q))).toNat := by
  rw [vArith, isF_eq_false ht, if_neg Bool.false_ne_true, intElem_eq ht, intOf_eq, intOf_eq]

theorem vMinMax_min_int (ftz : Bool) (p q : Nat) : vMinMax ty ftz false p q = if elemInt ty q < elemInt ty p then q else p := by
  rw [vMinMax, isF_eq_false ht, if_neg Bool.false_ne_true, if_neg Bool.false_ne_true, intOf_eq, intOf_eq]

theorem vMinMax_max_int (ftz : Bool) (p q : Nat) : vMinMax ty ftz true p q = if elemInt ty p < elemInt ty q then q else p := by
  rw [vMinMax, isF_eq_false ht, if_neg Bool.false_ne_true, if_pos rfl, intOf_eq, intOf_eq]

end

/-- R286: the magnitude of an integer element. -/
theorem natAbs_eq_ite (v : Int) : (v.natAbs : Int) = if v < 0 then -v else v := by split <;> omega

/-! Shifts of elements (R291). -/

theorem shlElem_eq (w p n : Nat) : shlElem w p n = (BitVec.ofNat w p <<< n).toNat := by
  rw [shlElem, BitVec.toNat_shiftLeft, BitVec.toNat_ofNat, Nat.shiftLeft_eq, Nat.mod_mul_mod]
  split
  · next h => exact (Nat.mod_eq_zero_of_dvd ((Nat.pow_dvd_pow 2 h).mul_left p)).symm
  · rfl

/-- A shift by the width or more leaves what a shift by the width leaves. -/
theorem ediv_two_pow_min {w : Nat} (a : BitVec w) (v : Int) (hv : v = a.toInt ∨ v = a.toNat) (n : Nat) : v / 2 ^ min n w = v / 2 ^ n := by
  rcases Nat.le_total n w with h | h
  · rw [Nat.min_eq_left h]
  · rw [Nat.min_eq_right h]
    rcases hv with rfl | rfl
    · exact (ediv_two_pow_of_le a h).symm
    · have hsmall : ∀ m, w ≤ m → ((a.toNat : Int) / 2 ^ m) = 0 := fun m hm =>
        Int.ediv_eq_zero_of_lt (by positivity) (by exact_mod_cast Nat.lt_of_lt_of_le a.isLt (Nat.pow_le_pow_right (by decide) hm))
      rw [hsmall w le_rfl, hsmall n h]

theorem shrElem_eq (ty : Ty) (p n : Nat) : shrElem ty p n =
    (if ty.isI then (BitVec.ofNat (8 * ty.bytes) p).sshiftRight n else BitVec.ofNat (8 * ty.bytes) p >>> n).toNat := by
  rw [shrElem, patOf_eq]
  cases h : ty.isI with
  | true =>
    rw [intOf_eq_toInt h, if_pos rfl, ediv_two_pow_min _ _ (.inl rfl), BitVec.sshiftRight, Int.shiftRight_eq_div_pow]
    norm_cast
  | false =>
    rw [intOf_eq_toNat h, if_neg Bool.false_ne_true, ediv_two_pow_min _ _ (.inr rfl), BitVec.toNat_ushiftRight, Nat.shiftRight_eq_div_pow]
    rw [show ((BitVec.ofNat (8 * ty.bytes) p).toNat : Int) / 2 ^ n = (((BitVec.ofNat (8 * ty.bytes) p).toNat / 2 ^ n : Nat) : Int) by push_cast; rfl]
    rw [BitVec.ofInt_natCast, BitVec.toNat_ofNat]
    exact Nat.mod_eq_of_lt (Nat.lt_of_le_of_lt (Nat.div_le_self ..) (BitVec.isLt _))

/-! The instructions that make their elements of slot values (R293). -/

theorem iotaElem_int {ty : Ty} (ht : ty.isI = true ∨ ty.isW = true) (rm : Rm) (ftz : Bool) (start step : Word) :
    iotaElem ty rm ftz start step = fun j : Nat => (BitVec.ofInt (8 * ty.bytes) (start.toInt + j * step.toInt)).toNat := by
  funext j
  rw [iotaElem, isF_eq_false ht, if_neg Bool.false_ne_true, patOf_eq]

theorem patOf_word {ty : Ty} (ht : ty.isI = true ∨ ty.isW = true) (v : Word) : patOf (8 * ty.bytes) v.toInt = (v.setWidth (8 * ty.bytes)).toNat := by
  have hw : 8 * ty.bytes ≤ 64 := by revert ht; cases ty <;> decide
  rw [patOf_eq, ← setWidth_ofInt hw, BitVec.ofInt_toInt]

/-- Settles O31: each element's result is the operation on the integers of its words. -/
theorem vectorIntegerResults : Obligations.VectorIntegerResults := by
  unfold Obligations.VectorIntegerResults
  intro h d a b ty rm sat s x y z locs s' touched ht w val lo hi fin wrap n gives
  refine ⟨fun o ho hr => ⟨?_, ?_, ?_, ?_, ?_, ?_, ?_, ?_, ?_, ?_⟩, fun o ho hr => ⟨?_, ?_, ?_⟩, fun o ho hr => ?_, fun o ho hr => ?_⟩
  · exact vec2_of_read ho hr fun p q => vArith_int ht ..
  · exact vec2_of_read ho hr fun p q => vArith_int ht ..
  · exact vec2_of_read ho hr fun p q => vArith_int ht ..
  · exact vec2_of_read ho hr fun p q => vMinMax_min_int ht ..
  · exact vec2_of_read ho hr fun p q => vMinMax_max_int ht ..
  · exact vec2_of_read ho hr fun p q => rfl
  · exact vec2_of_read ho hr fun p q => rfl
  · exact vec2_of_read ho hr fun p q => rfl
  · exact vec2_of_read ho hr fun p q => shlElem_eq w p q
  · exact vec2_of_read ho hr fun p q => shrElem_eq ty p q
  · refine vec1_of_read ho hr fun p => ?_
    rw [isF_eq_false ht, if_neg Bool.false_ne_true, natAbs_eq_ite, intOf_eq]
    exact intElem_eq ht ..
  · refine vec1_of_read ho hr fun p => ?_
    rw [isF_eq_false ht, if_neg Bool.false_ne_true, intOf_eq]
    exact intElem_eq ht ..
  · have hcopy := vec1_of_read ho hr (f := id) fun p => rfl
    rwa [List.map_id] at hcopy
  · show execViota h d ty rm s = _
    simp only [execViota, ho, vector_of_read (q := ⟨d.toNat, [ty.bytes]⟩) rfl hr, giving, iotaElem_int ht]
    rfl
  · show execVfill h d ty s = _
    simp only [execVfill, ho, vector_of_read (q := ⟨d.toNat, [ty.bytes]⟩) rfl hr, giving, patOf_word ht]
    rfl

end Sys2Proof.Proofs
end

section
/-! SUPPORT. Flushing, quieting and signs of floating-point patterns (R165, R169, R171), and the elementwise floating-point results (R284, R285, R287). -/

namespace Sys2Proof.Proofs

open Sys2Proof.Machine

theorem fmtOf_e4m3 {ty : Ty} : ty.isF = true → (fmtOf ty).e4m3 = false := by cases ty <;> decide

/-- R171: the FTZ bit that a vector instruction sees is bit 0 of what its block sampled. -/
theorem ftzHere_eq {s : State} {f : Firing} (hh : s.here = some f) : s.ftzHere = f.fpmode.getLsbD 0 := by
  simp only [State.ftzHere, hh, Firing.ftz]

section
variable (f : Fmt)

theorem two_pow_width : 2 ^ f.width = 2 * f.signBit := by rw [Fmt.width, Fmt.signBit, add_assoc, pow_add, pow_one]

theorem two_pow_width_sub_one : 2 ^ (f.width - 1) = f.signBit := by rw [Fmt.width, Fmt.signBit, add_assoc, Nat.add_sub_cancel_left]

theorem signBit_pos : 0 < f.signBit := Nat.two_pow_pos _

theorem mant_mul_signBit (k : Nat) : f.mant (k * f.signBit) = 0 := by
  rw [Fmt.mant, Fmt.signBit, Nat.pow_add, ← Nat.mul_assoc, Nat.mul_mod_left]

/-- R171: what a subnormal is flushed to, a zero of its sign, is not subnormal. -/
theorem isSub_mul_signBit (k : Nat) : f.isSub (k * f.signBit) = false := by
  rw [Fmt.isSub, mant_mul_signBit]
  exact Bool.and_false _

@[simp] theorem flush_flush (ftz : Bool) (v : Nat) : f.flush ftz (f.flush ftz v) = f.flush ftz v := by
  by_cases h : (ftz && f.isSub v) = true
  · have hz : f.flush ftz v = v / f.signBit % 2 * f.signBit := if_pos h
    rw [hz, Fmt.flush, isSub_mul_signBit, Bool.and_false, if_neg Bool.false_ne_true]
  · have hv : f.flush ftz v = v := if_neg h
    rw [hv, hv]

@[simp] theorem flush_false (v : Nat) : f.flush false v = v := if_neg (by simp)

theorem flush_lt {v : Nat} (ftz : Bool) (h : v < 2 ^ f.width) : f.flush ftz v < 2 ^ f.width := by
  have hpos := signBit_pos f
  rw [Fmt.flush]
  split
  · rw [two_pow_width]
    exact Nat.mul_lt_mul_of_pos_right (Nat.mod_lt _ (by decide)) hpos
  · exact h

/-- R165: the sign of a pattern of the format's width. -/
theorem neg_eq {v : Nat} (h : v < 2 ^ f.width) : f.neg v = decide (f.signBit ≤ v) := by
  have hpos := signBit_pos f
  rw [two_pow_width] at h
  rw [Fmt.neg]
  by_cases hs : f.signBit ≤ v
  · have : v / f.signBit = 1 := Nat.div_eq_of_lt_le (by omega) (by omega)
    simp [this, hs]
  · simp [Nat.div_eq_of_lt (Nat.lt_of_not_le hs), hs]

variable {f} (he : f.e4m3 = false)
include he

theorem isNan_mul_signBit (k : Nat) : f.isNan (k * f.signBit) = false := by
  rw [Fmt.isNan, he, if_neg Bool.false_ne_true, mant_mul_signBit]
  exact Bool.and_false _

/-- R171: FTZ leaves a NaN as it is. -/
theorem flush_eq_of_isNan {ftz : Bool} {v : Nat} (h : f.isNan (f.flush ftz v) = true) : f.flush ftz v = v := by
  by_cases hs : (ftz && f.isSub v) = true
  · have hz : f.flush ftz v = v / f.signBit % 2 * f.signBit := if_pos hs
    rw [hz, isNan_mul_signBit he] at h
    exact absurd h Bool.false_ne_true
  · exact if_neg hs

/-- R285: the magnitude of an element after FTZ; a NaN is only quieted. -/
theorem signElem_abs (ftz : Bool) {p : Nat} (hp : p < 2 ^ f.width) :
    signElem f ftz true p = if f.isNan (f.flush ftz p) then f.quiet p else f.flush ftz p % 2 ^ (f.width - 1) := by
  have hlt := flush_lt f ftz hp
  rw [signElem, neg_eq f hlt, two_pow_width_sub_one]
  split
  · next hn => rw [flush_eq_of_isNan he hn]
  · rw [two_pow_width] at hlt
    by_cases hs : f.signBit ≤ f.flush ftz p
    · rw [if_pos (decide_eq_true hs), Nat.mod_eq_sub_mod hs, Nat.mod_eq_of_lt (by omega)]
    · rw [if_neg (by simpa using hs), if_pos rfl, Nat.mod_eq_of_lt (by omega)]

/-- R285: an element with its sign turned after FTZ; a NaN is only quieted. -/
theorem signElem_neg (ftz : Bool) {p : Nat} (hp : p < 2 ^ f.width) :
    signElem f ftz false p =
      if f.isNan (f.flush ftz p) then f.quiet p else (f.flush ftz p + 2 ^ (f.width - 1)) % 2 ^ f.width := by
  have hlt := flush_lt f ftz hp
  rw [signElem, neg_eq f hlt, two_pow_width_sub_one]
  split
  · next hn => rw [flush_eq_of_isNan he hn]
  · rw [two_pow_width] at hlt ⊢
    by_cases hs : f.signBit ≤ f.flush ftz p
    · rw [if_pos (decide_eq_true hs), Nat.mod_eq_sub_mod (by omega), Nat.mod_eq_of_lt (by omega)]
      omega
    · rw [if_neg (by simpa using hs), if_neg Bool.false_ne_true, Nat.mod_eq_of_lt (by omega)]

end

/-- R285: addition, subtraction and multiplication of floating-point elements are the format's. -/
theorem vArith_float {ty : Ty} (ht : ty.isF = true) (sat : Bool) (ff : Fmt → Nat → Nat → Nat) (fi : Int → Int → Int) (p q : Nat) :
    vArith ty sat ff fi p q = ff (fmtOf ty) p q := if_pos ht

/-- R170: the minimum and maximum of floating-point elements are the format's. -/
theorem vMinMax_float {ty : Ty} (ht : ty.isF = true) (ftz mx : Bool) (p q : Nat) : vMinMax ty ftz mx p q = (fmtOf ty).minmax ftz mx p q := if_pos ht

/-- Settles O32: each element's result is the format's operation on its operands, rounded once. -/
theorem vectorFloatResults : Obligations.VectorFloatResults := by
  unfold Obligations.VectorFloatResults
  intro h d a b c ty rm sat s o f x y z locs s' touched ht hh ho g ftz once at_ n gives
  have hz : s.ftzHere = ftz := ftzHere_eq hh
  have he : g.e4m3 = false := fmtOf_e4m3 ht
  refine ⟨fun hr => ⟨?_, ?_, ?_, ?_, ?_, ?_⟩, fun hr => ⟨?_, ?_⟩, fun hr => ⟨?_, ?_, ?_, ?_, ?_, ?_⟩⟩
  · exact vec2_of_read ho hr fun p q => by rw [vArith_float ht, hz]; rfl
  · exact vec2_of_read ho hr fun p q => by rw [vArith_float ht, hz]; rfl
  · exact vec2_of_read ho hr fun p q => by rw [vArith_float ht, hz]; rfl
  · exact vec2_of_read ho hr fun p q => by rw [hz]; rfl
  · exact vec2_of_read ho hr fun p q => by rw [vMinMax_float ht, hz]
  · exact vec2_of_read ho hr fun p q => by rw [vMinMax_float ht, hz]
  · exact vec3_of_read ho rfl hr fun pq r => by rw [hz]; rfl
  · exact vec3_of_read ho rfl hr fun pq r => by rw [hz]; rfl
  · exact vec1_of_read ho hr fun p => by rw [hz]; rfl
  · exact vec1_of_read ho hr fun p => by rw [hz]; rfl
  · exact vec1_of_read ho hr fun p => by rw [hz]
  · refine ⟨x.map (signElem g ftz true), vec1_of_read ho hr fun p => by rw [if_pos ht, hz], List.length_map .., fun j p hj hp => ?_⟩
    rw [List.getElem?_map, hj, Option.map_some, signElem_abs he ftz hp]
  · refine ⟨x.map (signElem g ftz false), vec1_of_read ho hr fun p => by rw [if_pos ht, hz], List.length_map .., fun j p hj hp => ?_⟩
    rw [List.getElem?_map, hj, Option.map_some, signElem_neg he ftz hp]
  · intro i fn hmem
    simp only [List.mem_cons, Prod.mk.injEq, List.not_mem_nil, or_false] at hmem
    rcases hmem with ⟨rfl, rfl⟩ | ⟨rfl, rfl⟩ | ⟨rfl, rfl⟩ | ⟨rfl, rfl⟩ | ⟨rfl, rfl⟩ | ⟨rfl, rfl⟩ <;>
      exact vec1_of_read ho hr fun p => by rw [hz]; rfl

end Sys2Proof.Proofs
end

section
/-! SUPPORT. Floating-point values in the order of the numbers, and in that of minimum and maximum (R165, R170, R291). -/

namespace Sys2Proof.Proofs

open Sys2Proof.Machine Sys2Proof.Safety

/-- A value that is a number or an infinity, with a denominator that is not 0. -/
def Proper : FV → Prop
  | .nan => False
  | .inf _ => True
  | .rat _ _ d => 0 < d

theorem proper_dyad (neg : Bool) (m : Nat) (e : Int) : Proper (dyad neg m e) := by
  rw [dyad]
  split
  · exact Nat.one_pos
  · exact Nat.two_pow_pos _

/-- R165: a pattern that is no NaN stands for a number or an infinity. -/
theorem proper_value {f : Fmt} {v : Nat} (h : f.isNan v = false) : Proper (f.value v) := by
  rw [Fmt.value, if_neg (by simp [h])]
  split
  · trivial
  · split <;> exact proper_dyad ..

theorem value_of_isNan {f : Fmt} {v : Nat} (h : f.isNan v = true) : f.value v = .nan := if_pos h

@[simp] theorem lt_nan_left (z : Bool) (v : FV) : FV.lt z .nan v = false := by cases v <;> rfl

@[simp] theorem lt_nan_right (z : Bool) (u : FV) : FV.lt z u .nan = false := by cases u <;> rfl

@[simp] theorem numberOf_inf (s : Bool) : numberOf (.inf s) = if s then ⊥ else ⊤ := by cases s <;> rfl

theorem rankOf_inf (s : Bool) : rankOf (.inf s) = toLex (numberOf (.inf s), true) := rfl

theorem rankOf_rat (s : Bool) (n d : Nat) : rankOf (.rat s n d) = toLex (numberOf (.rat s n d), !s) := rfl

/-- The numerator with its sign. -/
def signed (s : Bool) (n : Nat) : Int := if s then -(n : Int) else n

theorem numberOf_rat (s : Bool) (n d : Nat) : numberOf (.rat s n d) = point ((signed s n : Rat) / d) := by
  cases s <;> simp [numberOf, point, signed]

theorem point_lt_point {x y : Rat} : point x < point y ↔ x < y := by simp [point]

theorem point_inj {x y : Rat} : point x = point y ↔ x = y := by simp [point]

@[simp] theorem bot_lt_point (x : Rat) : (⊥ : WithBot (WithTop Rat)) < point x := WithBot.bot_lt_coe _

@[simp] theorem point_lt_top (x : Rat) : point x < (⊤ : WithBot (WithTop Rat)) := WithBot.coe_lt_coe.mpr (WithTop.coe_lt_top x)

section
variable {s t : Bool} {n m d e : Nat} (hd : 0 < d) (he : 0 < e)
include hd he

theorem numberOf_rat_lt : numberOf (.rat s n d) < numberOf (.rat t m e) ↔ signed s n * e < signed t m * d := by
  rw [numberOf_rat, numberOf_rat, point_lt_point, div_lt_div_iff₀ (by exact_mod_cast hd) (by exact_mod_cast he)]
  exact_mod_cast Iff.rfl

theorem numberOf_rat_eq : numberOf (.rat s n d) = numberOf (.rat t m e) ↔ signed s n * e = signed t m * d := by
  rw [numberOf_rat, numberOf_rat, point_inj, div_eq_div_iff (by exact_mod_cast hd.ne') (by exact_mod_cast he.ne')]
  exact_mod_cast Iff.rfl

omit hd he in
/-- The comparison of fractions, where they are not both zeros. -/
theorem lt_rat (z : Bool) (h0 : ¬(n = 0 ∧ m = 0)) : FV.lt z (.rat s n d) (.rat t m e) = decide (signed s n * e < signed t m * d) := by
  rw [FV.lt, if_neg h0]
  cases s <;> cases t <;> simp [signed]

omit hd he in
theorem signed_zero (s : Bool) : signed s 0 = 0 := by cases s <;> rfl

/-- Equal numbers that are not zeros have one sign. -/
theorem sign_eq_of_number_eq (h0 : ¬(n = 0 ∧ m = 0)) (h : signed s n * e = signed t m * d) : s = t := by
  have hn : (0 : Int) ≤ n * e := by positivity
  have hm : (0 : Int) ≤ m * d := by positivity
  have hzero (hz : (n : Int) * e = 0 ∧ (m : Int) * d = 0) : False := by
    obtain ⟨hn0, hm0⟩ := hz
    exact h0 ⟨by simpa [he.ne'] using hn0, by simpa [hd.ne'] using hm0⟩
  cases s <;> cases t <;> simp only [signed, if_true, Bool.false_eq_true, if_false, neg_mul] at h ⊢
  · exact (hzero ⟨by omega, by omega⟩).elim
  · exact (hzero ⟨by omega, by omega⟩).elim

end

section
variable {u v : FV} (hu : Proper u) (hv : Proper v)
include hu hv

/-- R291: the comparison of two values is that of their numbers. -/
theorem lt_false_iff : FV.lt false u v = true ↔ numberOf u < numberOf v := by
  cases u with
  | nan => exact hu.elim
  | inf s =>
    cases v with
    | nan => exact hv.elim
    | inf t => cases s <;> cases t <;> simp [FV.lt]
    | rat t m e => rw [numberOf_rat]; cases s <;> simp [FV.lt]
  | rat s n d =>
    cases v with
    | nan => exact hv.elim
    | inf t => rw [numberOf_rat]; cases t <;> simp [FV.lt]
    | rat t m e =>
      by_cases h0 : n = 0 ∧ m = 0
      · obtain ⟨rfl, rfl⟩ := h0
        simp [FV.lt, numberOf_rat, signed_zero]
      · rw [lt_rat false h0, decide_eq_true_iff, numberOf_rat_lt hu hv]

/-- R170: the comparison of minimum and maximum is that of the ranks. -/
theorem lt_true_iff : FV.lt true u v = true ↔ rankOf u < rankOf v := by
  cases u with
  | nan => exact hu.elim
  | inf s =>
    cases v with
    | nan => exact hv.elim
    | inf t => cases s <;> cases t <;> simp [FV.lt, rankOf_inf, Prod.Lex.toLex_lt_toLex]
    | rat t m e => rw [rankOf_inf, rankOf_rat, Prod.Lex.toLex_lt_toLex, numberOf_rat]; cases s <;> simp [FV.lt, (point_lt_top _).ne']
  | rat s n d =>
    cases v with
    | nan => exact hv.elim
    | inf t => rw [rankOf_rat, rankOf_inf, Prod.Lex.toLex_lt_toLex, numberOf_rat]; cases t <;> simp [FV.lt, (bot_lt_point _).ne']
    | rat t m e =>
      rw [rankOf_rat, rankOf_rat, Prod.Lex.toLex_lt_toLex]
      by_cases h0 : n = 0 ∧ m = 0
      · obtain ⟨rfl, rfl⟩ := h0
        cases s <;> cases t <;> simp [FV.lt, numberOf_rat, signed_zero]
      · rw [lt_rat true h0, decide_eq_true_iff, numberOf_rat_lt hu hv, numberOf_rat_eq hu hv]
        refine ⟨.inl, fun h => h.elim id fun ⟨hnum, hsign⟩ => ?_⟩
        rw [sign_eq_of_number_eq hu hv h0 hnum] at hsign
        exact absurd hsign (lt_irrefl _)

end

end Sys2Proof.Proofs
end

section
/-! SUPPORT. The conditions of VCMP over the numbers of a type (R291). -/

namespace Sys2Proof.Proofs

open Sys2Proof.Machine Sys2Proof.Safety

/-- R291: a condition on two members of a linear order, none of them a NaN. -/
def CondOn {α : Type} [LinearOrder α] (c : Cond) (u v : α) : Prop := match c with
  | .eq => u = v
  | .ne => u ≠ v
  | .lt => u < v
  | .le => u ≤ v
  | .gt => v < u
  | .ge => v ≤ u
  | .ord => True
  | .unord => False

/-- Below and equal decide every condition. -/
theorem condHolds_iff {α : Type} [LinearOrder α] {u v : α} {lt eq : Bool} (hlt : lt = true ↔ u < v) (heq : eq = true ↔ u = v) (c : Cond) :
    condHolds c lt eq false = true ↔ CondOn c u v := by
  have hlt' : lt = false ↔ v ≤ u := by rw [← not_lt, ← hlt, Bool.not_eq_true]
  have heq' : eq = false ↔ u ≠ v := by rw [ne_eq, ← heq, Bool.not_eq_true]
  cases c with
  | eq => exact heq
  | ne => simp [condHolds, CondOn, heq']
  | lt => exact hlt
  | le => simp [condHolds, CondOn, hlt, heq, le_iff_lt_or_eq]
  | gt => simp [condHolds, CondOn, hlt', heq', lt_iff_le_and_ne, ne_comm]
  | ge => simp [condHolds, CondOn, hlt']
  | ord => simp [condHolds, CondOn]
  | unord => simp [condHolds, CondOn]

/-- R291: on a NaN only the conditions "not equal" and "unordered" hold. -/
theorem condHolds_nan (c : Cond) : condHolds c false false true = (c == .ne || c == .unord) := by cases c <;> rfl

/-- R291: whether a condition holds of two elements of a type. -/
def cmpHolds (ty : Ty) (c : Cond) (ftz : Bool) (p q : Nat) : Bool :=
  condHolds c (cmpElems ty ftz p q).1 (cmpElems ty ftz p q).2.1 (cmpElems ty ftz p q).2.2

theorem cmpHolds_int {ty : Ty} (ht : ty.isI = true ∨ ty.isW = true) (c : Cond) (ftz : Bool) (p q : Nat) :
    cmpHolds ty c ftz p q = true ↔ CondOn c (elemInt ty p) (elemInt ty q) := by
  have he : cmpElems ty ftz p q = (decide (intOf ty p < intOf ty q), intOf ty p == intOf ty q, false) := by
    rw [cmpElems, isF_eq_false ht, if_neg Bool.false_ne_true]
  rw [cmpHolds, he, intOf_eq, intOf_eq]
  exact condHolds_iff decide_eq_true_iff beq_iff_eq c

section
variable {ty : Ty} (ht : ty.isF = true) (c : Cond) {ftz : Bool} {p q : Nat}
include ht

theorem cmpElems_float : cmpElems ty ftz p q =
    (((fmtOf ty).value ((fmtOf ty).flush ftz p)).lt false ((fmtOf ty).value ((fmtOf ty).flush ftz q)),
      !((fmtOf ty).isNan ((fmtOf ty).flush ftz p) || (fmtOf ty).isNan ((fmtOf ty).flush ftz q))
        && !((fmtOf ty).value ((fmtOf ty).flush ftz p)).lt false ((fmtOf ty).value ((fmtOf ty).flush ftz q))
        && !((fmtOf ty).value ((fmtOf ty).flush ftz q)).lt false ((fmtOf ty).value ((fmtOf ty).flush ftz p)),
      (fmtOf ty).isNan ((fmtOf ty).flush ftz p) || (fmtOf ty).isNan ((fmtOf ty).flush ftz q)) := if_pos ht

theorem cmpHolds_nan (hn : (fmtOf ty).isNan ((fmtOf ty).flush ftz p) = true ∨ (fmtOf ty).isNan ((fmtOf ty).flush ftz q) = true) :
    cmpHolds ty c ftz p q = (c == .ne || c == .unord) := by
  have hlt : ((fmtOf ty).value ((fmtOf ty).flush ftz p)).lt false ((fmtOf ty).value ((fmtOf ty).flush ftz q)) = false := by
    rcases hn with h | h
    · rw [value_of_isNan h, lt_nan_left]
    · rw [value_of_isNan h, lt_nan_right]
  have hun : ((fmtOf ty).isNan ((fmtOf ty).flush ftz p) || (fmtOf ty).isNan ((fmtOf ty).flush ftz q)) = true := by simpa using hn
  rw [cmpHolds, cmpElems_float ht, hlt, hun]
  exact condHolds_nan c

theorem cmpHolds_number (hp : (fmtOf ty).isNan ((fmtOf ty).flush ftz p) = false) (hq : (fmtOf ty).isNan ((fmtOf ty).flush ftz q) = false) :
    cmpHolds ty c ftz p q = true ↔
      CondOn c (numberOf ((fmtOf ty).value ((fmtOf ty).flush ftz p))) (numberOf ((fmtOf ty).value ((fmtOf ty).flush ftz q))) := by
  have hpq := lt_false_iff (proper_value hp) (proper_value hq)
  have hqp := lt_false_iff (proper_value hq) (proper_value hp)
  rw [cmpHolds, cmpElems_float ht, hp, hq]
  refine condHolds_iff hpq ?_ c
  rw [Bool.or_false, Bool.not_false, Bool.true_and, Bool.and_eq_true, Bool.not_eq_true', Bool.not_eq_true', ← Bool.not_eq_true,
    ← Bool.not_eq_true, hpq, hqp, not_lt, not_lt]
  exact ⟨fun h => le_antisymm h.2 h.1, fun h => ⟨h.ge, h.le⟩⟩

end

end Sys2Proof.Proofs
end

section
/-! SUPPORT. The limits of VCLAMP (R170, R291). -/

namespace Sys2Proof.Proofs

open Sys2Proof.Machine Sys2Proof.Safety

/-- A word's bits below an element's width are the element's. -/
theorem ofNat_toNat_mod (w : Nat) (v : Word) : BitVec.ofNat w (v.toNat % 2 ^ w) = v.setWidth w := by
  rw [← BitVec.ofNat_toNat]
  exact BitVec.eq_of_toNat_eq (by simp)

section
variable {ty : Ty} (ftz : Bool)

theorem elemInt_max (ht : ty.isI = true ∨ ty.isW = true) (p q : Nat) : elemInt ty (vMinMax ty ftz true p q) = Max.max (elemInt ty p) (elemInt ty q) := by
  rw [vMinMax_max_int ht]
  split <;> omega

theorem elemInt_min (ht : ty.isI = true ∨ ty.isW = true) (p q : Nat) : elemInt ty (vMinMax ty ftz false p q) = Min.min (elemInt ty p) (elemInt ty q) := by
  rw [vMinMax_min_int ht]
  split <;> omega

theorem elemInt_signed (h : ty.isI = true) (v : Nat) : elemInt ty v = (BitVec.ofNat (8 * ty.bytes) v).toInt := if_pos h

theorem elemInt_unsigned (h : ty.isW = true) {v : Nat} (hv : v < 2 ^ (8 * ty.bytes)) : elemInt ty v = v := by
  rw [elemInt, isI_eq_false_of_isW h, if_neg Bool.false_ne_true, BitVec.toNat_ofNat, Nat.mod_eq_of_lt hv]

/-- The greater or the lesser of two elements is one of them. -/
theorem vMinMax_lt (ht : ty.isI = true ∨ ty.isW = true) (mx : Bool) {n p q : Nat} (hp : p < n) (hq : q < n) : vMinMax ty ftz mx p q < n := by
  cases mx
  · rw [vMinMax_min_int ht]; split <;> assumption
  · rw [vMinMax_max_int ht]; split <;> assumption

/-- R291: an unsigned element limited to its bounds. -/
theorem clamp_unsigned (h : ty.isW = true) {p lo hi : Nat} (hp : p < 2 ^ (8 * ty.bytes)) (hlo : lo < 2 ^ (8 * ty.bytes)) (hhi : hi < 2 ^ (8 * ty.bytes)) :
    vMinMax ty ftz false (vMinMax ty ftz true p lo) hi = Min.min (Max.max p lo) hi := by
  have hmax := vMinMax_lt ftz (.inr h) true hp hlo
  have hval := elemInt_min ftz (.inr h) (vMinMax ty ftz true p lo) hi
  rw [elemInt_max ftz (.inr h), elemInt_unsigned h (vMinMax_lt ftz (.inr h) false hmax hhi), elemInt_unsigned h hp, elemInt_unsigned h hlo,
    elemInt_unsigned h hhi] at hval
  exact_mod_cast hval

end

/-! Floating-point limits. -/

/-- A format with infinities and NaNs of several patterns. -/
def Ieee (f : Fmt) : Prop := f.e4m3 = false ∧ 0 < f.eb ∧ 0 < f.mb

theorem ieee_fmtOf {ty : Ty} : ty.isF = true → Ieee (fmtOf ty) := by cases ty <;> simp [Ieee, fmtOf, Ty.isF, fp32, fp16, bf16F]

section
variable {f : Fmt} (hf : Ieee f)
include hf

theorem isNan_iff (v : Nat) : f.isNan v = true ↔ f.expo v = f.expAll ∧ f.mant v ≠ 0 := by
  simp [Fmt.isNan, hf.1]

theorem expAll_pos : 0 < f.expAll := Nat.sub_pos_of_lt (Nat.one_lt_two_pow hf.2.1.ne')

/-- R171: FTZ leaves a NaN as it is. -/
theorem flush_of_isNan {v : Nat} (h : f.isNan v = true) (ftz : Bool) : f.flush ftz v = v := by
  obtain ⟨hexp, -⟩ := (isNan_iff hf v).mp h
  have hsub : f.isSub v = false := by
    rw [Fmt.isSub, hexp, beq_false_of_ne (expAll_pos hf).ne', Bool.false_and]
  exact if_neg (by simp [hsub])

theorem quiet_eq (v : Nat) : f.quiet v = v ||| 2 ^ (f.mb - 1) := by
  rw [Fmt.quiet, hf.1, if_neg Bool.false_ne_true]

theorem expo_quiet (v : Nat) : f.expo (f.quiet v) = f.expo v := by
  have hlow : 2 ^ (f.mb - 1) >>> f.mb = 0 := by
    rw [Nat.shiftRight_eq_div_pow, Nat.div_eq_of_lt (Nat.pow_lt_pow_right (by decide) (Nat.sub_lt hf.2.2 Nat.one_pos))]
  rw [Fmt.expo, Fmt.expo, quiet_eq hf, ← Nat.shiftRight_eq_div_pow, Nat.shiftRight_or_distrib, hlow, Nat.or_zero, Nat.shiftRight_eq_div_pow]

theorem mant_quiet_ne_zero (v : Nat) : f.mant (f.quiet v) ≠ 0 := by
  have hlt : f.mb - 1 < f.mb := Nat.sub_lt hf.2.2 Nat.one_pos
  have hbit : (f.mant (f.quiet v)).testBit (f.mb - 1) = true := by
    rw [Fmt.mant, quiet_eq hf, Nat.testBit_mod_two_pow, Nat.testBit_or, Nat.testBit_two_pow_self]
    simp [hlt]
  intro h0
  rw [h0, Nat.zero_testBit] at hbit
  exact Bool.false_ne_true hbit

/-- R169: a quieted NaN is a NaN. -/
theorem isNan_quiet {v : Nat} (h : f.isNan v = true) : f.isNan (f.quiet v) = true := by
  rw [isNan_iff hf, expo_quiet hf]
  exact ⟨((isNan_iff hf v).mp h).1, mant_quiet_ne_zero hf v⟩

theorem quiet_quiet (v : Nat) : f.quiet (f.quiet v) = f.quiet v := by
  rw [quiet_eq hf, quiet_eq hf, Nat.or_assoc, Nat.or_self]

end

section
variable {f : Fmt} {ftz : Bool} {a b : Nat}

theorem minmax_nan_left (mx : Bool) (ha : f.isNan (f.flush ftz a) = true) : f.minmax ftz mx a b = f.quiet (f.flush ftz a) := if_pos ha

theorem minmax_nan_right (mx : Bool) (ha : f.isNan (f.flush ftz a) = false) (hb : f.isNan (f.flush ftz b) = true) :
    f.minmax ftz mx a b = f.quiet (f.flush ftz b) := by
  rw [Fmt.minmax, if_neg (by simp [ha]), if_pos hb]

/-- R169: a NaN among the first two operands stands, quieted, whatever follows. -/
theorem minmax_quiet (hf : Ieee f) (mx : Bool) {n : Nat} (hn : f.isNan n = true) : f.minmax ftz mx (f.quiet n) b = f.quiet n := by
  have hq := isNan_quiet hf hn
  have hfl := flush_of_isNan hf hq ftz
  rw [minmax_nan_left mx (by rwa [hfl]), hfl, quiet_quiet hf]

variable (ha : f.isNan (f.flush ftz a) = false) (hb : f.isNan (f.flush ftz b) = false)
include ha hb

/-- R170: the maximum of two patterns that are no NaN. -/
theorem minmax_max : f.minmax ftz true a b =
    if rankOf (f.value (f.flush ftz a)) < rankOf (f.value (f.flush ftz b)) then f.flush ftz b else f.flush ftz a := by
  rw [Fmt.minmax, if_neg (by simp [ha]), if_neg (by simp [hb]), if_pos rfl]
  simp only [lt_true_iff (proper_value ha) (proper_value hb)]

/-- R170: the minimum of two patterns that are no NaN. -/
theorem minmax_min : f.minmax ftz false a b =
    if rankOf (f.value (f.flush ftz b)) < rankOf (f.value (f.flush ftz a)) then f.flush ftz b else f.flush ftz a := by
  rw [Fmt.minmax, if_neg (by simp [ha]), if_neg (by simp [hb]), if_neg Bool.false_ne_true]
  simp only [lt_true_iff (proper_value hb) (proper_value ha)]

theorem minmax_mem (mx : Bool) : f.minmax ftz mx a b = f.flush ftz a ∨ f.minmax ftz mx a b = f.flush ftz b := by
  cases mx
  · rw [minmax_min ha hb]; exact (ite_eq_or_eq ..).symm
  · rw [minmax_max ha hb]; exact (ite_eq_or_eq ..).symm

theorem rankOf_max : rankOf (f.value (f.minmax ftz true a b)) =
    Max.max (rankOf (f.value (f.flush ftz a))) (rankOf (f.value (f.flush ftz b))) := by
  rw [minmax_max ha hb]
  split
  · next h => exact (max_eq_right h.le).symm
  · next h => exact (max_eq_left (not_lt.mp h)).symm

theorem rankOf_min : rankOf (f.value (f.minmax ftz false a b)) =
    Min.min (rankOf (f.value (f.flush ftz a))) (rankOf (f.value (f.flush ftz b))) := by
  rw [minmax_min ha hb]
  split
  · next h => exact (min_eq_right h.le).symm
  · next h => exact (min_eq_left (not_lt.mp h)).symm

end

section
variable {f : Fmt} {ftz : Bool} {p lo hi : Nat}

/-- R291, R169: the first NaN of element, low and high bound is the result, quieted. -/
theorem clamp_nan (hf : Ieee f) {n : Nat} (hn : [f.flush ftz p, f.flush ftz lo, f.flush ftz hi].find? f.isNan = some n) :
    f.minmax ftz false (f.minmax ftz true p lo) hi = f.quiet n := by
  have hnan : f.isNan n = true := List.find?_some hn
  cases hp : f.isNan (f.flush ftz p) with
  | true =>
    rw [List.find?_cons_of_pos hp, Option.some.injEq] at hn
    rw [minmax_nan_left true hp, hn, minmax_quiet hf false hnan]
  | false =>
    rw [List.find?_cons_of_neg (by simp [hp])] at hn
    cases hl : f.isNan (f.flush ftz lo) with
    | true =>
      rw [List.find?_cons_of_pos hl, Option.some.injEq] at hn
      rw [minmax_nan_right true hp hl, hn, minmax_quiet hf false hnan]
    | false =>
      rw [List.find?_cons_of_neg (by simp [hl]), List.find?_singleton] at hn
      have hhi : f.isNan (f.flush ftz hi) = true ∧ f.flush ftz hi = n := by simpa using hn
      obtain ⟨hh, rfl⟩ := hhi
      refine minmax_nan_right false ?_ hh
      rcases minmax_mem hp hl true with h | h <;> rw [h, flush_flush] <;> assumption

/-- R291, R170: without a NaN the result is one of element and bounds, of the rank that the limits leave. -/
theorem clamp_number (hn : [f.flush ftz p, f.flush ftz lo, f.flush ftz hi].find? f.isNan = none) :
    f.minmax ftz false (f.minmax ftz true p lo) hi ∈ [f.flush ftz p, f.flush ftz lo, f.flush ftz hi]
      ∧ rankOf (f.value (f.minmax ftz false (f.minmax ftz true p lo) hi)) =
        Min.min (Max.max (rankOf (f.value (f.flush ftz p))) (rankOf (f.value (f.flush ftz lo)))) (rankOf (f.value (f.flush ftz hi))) := by
  obtain ⟨hp, hl, hh⟩ : f.isNan (f.flush ftz p) = false ∧ f.isNan (f.flush ftz lo) = false ∧ f.isNan (f.flush ftz hi) = false := by
    simpa using hn
  have hmax := minmax_mem hp hl true
  have hflush : f.flush ftz (f.minmax ftz true p lo) = f.minmax ftz true p lo := by
    rcases hmax with h | h <;> rw [h, flush_flush]
  have hm : f.isNan (f.flush ftz (f.minmax ftz true p lo)) = false := by
    rw [hflush]
    rcases hmax with h | h <;> rw [h] <;> assumption
  constructor
  · have hmin := minmax_mem hm hh false
    rw [hflush] at hmin
    simp only [List.mem_cons, List.not_mem_nil, or_false]
    rcases hmin with h | h
    · rw [h]
      exact hmax.imp_right .inl
    · exact .inr (.inr h)
  · rw [rankOf_min hm hh, hflush, rankOf_max hp hl]

end

end Sys2Proof.Proofs
end

section
/-! SUPPORT. Conversions, scaling and quantisation of elements (R173, R174, R179, R288 to R290). -/

namespace Sys2Proof.Proofs

open Sys2Proof.Machine Sys2Proof.Safety

section
variable {s s' : State} {h : Head} {v : VSpec} {p : SlotVal} {x y z : List Nat} {locs : List ELoc} {touched : Bool}

/-- R278: a vector instruction reads its elements only when its records pass their checks. -/
theorem checkRecords_of_read (hr : s.vecRead h v p = .ok x y z locs s' touched) : (s.task s.cur.task).checkRecords v = none := by
  cases hc : (s.task s.cur.task).checkRecords v with
  | none => rfl
  | some r =>
    simp only [State.vecRead, hc] at hr
    exact VRead.noConfusion hr

/-- R278 cause 6: among the record checks that have passed is that of the slot operand. -/
theorem slotBad_of_checkRecords {k : Task} (hc : k.checkRecords v = none) : v.slotBad = false := by
  cases hs : v.slotBad with
  | false => rfl
  | true =>
    simp only [Task.checkRecords, hs, if_true] at hc
    repeat' split at hc
    all_goals exact absurd hc (Option.some_ne_none _)

theorem slotBad_of_read (hr : s.vecRead h v p = .ok x y z locs s' touched) : v.slotBad = false := slotBad_of_checkRecords (checkRecords_of_read hr)

end

/-! Conversions (R173, R288). -/

section
variable {s s' : State} {h : Head} {d a : BitVec 3} {ty sty : Ty} {rm : Rm} {o : Opnds} {x y z : List Nat} {locs : List ELoc} {touched : Bool}

/-- R288: a conversion of types without a block exponent converts each element. -/
theorem execVcvt_plain (hd : ty ≠ .bx128) (hs : sty ≠ .bx128) (ho : s.operandsVec h false false = some o)
    (hr : s.vecRead h { a := opd a sty, d := opd d ty, counts := countsAll false false } o.p = .ok x y z locs s' touched) :
    execVcvt h d a ty sty rm s = .next (s'.writeVec h (opd d ty) locs ((x.map (convElem ty sty rm s.ftzHere o.a.v.toInt)).map some)
      (BitVec.ofNat 64 (shCount ((s.task s.cur.task).shape d.toNat))) touched o.p) := by
  have hbx : (ty == .bx128 || sty == .bx128) = false := by simp [hd, hs]
  simp only [execVcvt, hbx, ho, Bool.false_and, vector_of_read (q := ⟨d.toNat, [ty.bytes]⟩) rfl hr, giving]
  rfl

/-- R288: a conversion to or from BX128 takes its block exponent, which is in range, from slot a. -/
theorem execVcvt_block (hbx : (ty == .bx128 || sty == .bx128) = true) (ho : s.operandsVec h true false = some o) (hlo : -126 ≤ o.a.v.toInt)
    (hhi : o.a.v.toInt ≤ 127) {bad : Bool}
    (hr : s.vecRead h { a := opd a sty, d := opd d ty, counts := countsAll false false, slotBad := bad } o.p = .ok x y z locs s' touched) :
    execVcvt h d a ty sty rm s = .next (s'.writeVec h (opd d ty) locs ((x.map (convElem ty sty rm s.ftzHere o.a.v.toInt)).map some)
      (BitVec.ofNat 64 (shCount ((s.task s.cur.task).shape d.toNat))) touched o.p) := by
  obtain rfl : bad = false := slotBad_of_read hr
  have hin : (!(decide (-126 ≤ o.a.v.toInt) && decide (o.a.v.toInt ≤ 127))) = false := by simp [hlo, hhi]
  simp only [execVcvt, hbx, ho, hin, Bool.and_false, vector_of_read (q := ⟨d.toNat, [ty.bytes]⟩) rfl hr, giving]
  rfl

/-- R173: the conversion of an element, by the kinds of the two types. -/
theorem convElem_plain (hd : ty ≠ .bx128) (hs : sty ≠ .bx128) (h8 : sty ≠ .ds8) (ftz : Bool) (e : Int) (v : Nat) :
    convElem ty sty rm ftz e v =
      if isFloat sty then (if isFloat ty then (fmtOf sty).conv (fmtOf ty) rm ftz v else (fmtOf sty).toIntTy rm ftz ty v)
      else if isFloat ty then (fmtOf ty).round rm ftz (FV.ofInt (intOf sty v)) else patOf (8 * ty.bytes) (saturate ty (intOf sty v)) := by
  rw [convElem, if_neg h8, if_neg hd, if_neg hs]
  cases isFloat sty <;> cases isFloat ty <;> rfl

end

/-! Scaling and quantisation (R289, R290). -/

/-- R169, R171: an operation of one operand. -/
theorem op_one (f : Fmt) (rm : Rm) (ftz : Bool) (v : Nat) (g : List FV → FV) :
    f.op rm ftz [v] g = if f.isNan (f.flush ftz v) then f.quiet (f.flush ftz v) else f.round rm ftz (g [f.value (f.flush ftz v)]) := by
  simp only [Fmt.op, List.map_cons, List.map_nil, List.find?_cons, List.find?_nil]
  cases f.isNan (f.flush ftz v) <;> rfl

/-- The elements of a list that is made of elements and their places. -/
theorem getElem?_map_zipIdx {α β : Type} {x : List α} {j : Nat} {e : α} (hj : x[j]? = some e) (f : α × Nat → β) :
    (x.zipIdx.map f)[j]? = some (f (e, j)) := by
  rw [List.getElem?_map, List.getElem?_zipIdx, hj, Nat.zero_add, Option.map_some, Option.map_some]

theorem blocks32_cons {α : Type} (n : Nat) (a : α) (r : List α) :
    blocks32 (n + 1) (a :: r) = (a :: r).take 32 :: blocks32 n ((a :: r).drop 32) := by
  rw [blocks32]
  exact fun h => List.cons_ne_nil _ _ h

theorem length_blocks32 {α : Type} (n : Nat) (x : List α) (hn : x.length ≤ n) : (blocks32 n x).length = (x.length + 31) / 32 := by
  induction n generalizing x with
  | zero =>
    rw [List.length_eq_zero_iff.mp (Nat.le_zero.mp hn)]
    simp [blocks32]
  | succ n ih =>
    cases x with
    | nil => simp [blocks32]
    | cons a r =>
      rw [List.length_cons] at hn
      rw [blocks32_cons, List.length_cons, ih _ (by rw [List.length_drop, List.length_cons]; omega), List.length_drop, List.length_cons]
      omega

/-- R290: the blocks of a list are its elements, 32 by 32. -/
theorem getElem?_blocks32 {α : Type} (n : Nat) (x : List α) (hn : x.length ≤ n) {j : Nat} (hj : j < (x.length + 31) / 32) :
    (blocks32 n x)[j]? = some ((x.drop (32 * j)).take 32) := by
  induction n generalizing x j with
  | zero => omega
  | succ n ih =>
    cases x with
    | nil => exact absurd hj (by simp)
    | cons a r =>
      rw [blocks32_cons]
      cases j with
      | zero => rfl
      | succ j =>
        rw [List.length_cons] at hn hj
        rw [List.getElem?_cons_succ, ih _ (by rw [List.length_drop, List.length_cons]; omega) (by rw [List.length_drop, List.length_cons]; omega),
          List.drop_drop, Nat.mul_succ, Nat.add_comm]

end Sys2Proof.Proofs
end

section
/-! SUPPORT. What comparisons, choices, conversions, scaling and quantisation write (R288 to R291). -/

namespace Sys2Proof.Proofs

open Sys2Proof.Machine Sys2Proof.Safety

section
variable {s s' : State} {h : Head} {d a b : BitVec 3} {ty : Ty} {rm : Rm} {o : Opnds} {x y z : List Nat} {locs : List ELoc} {touched : Bool}

/-- R291: a comparison writes all ones of the destination's element size, or 0. -/
theorem execVcmp_of_read (ho : s.operandsVec h false false = some o)
    (hr : s.vecRead h { a := opd a ty, b := opd b ty, d := opdAny d, counts := countsAll true false } o.p = .ok x y z locs s' touched) (c : Cond) :
    execVcmp h d a b ty c s = .next (s'.writeVec h (opdAny d) locs ((List.zipWith (fun p q => if cmpHolds ty c s.ftzHere p q then
      2 ^ (8 * shEsz ((s.task s.cur.task).shape d.toNat)) - 1 else 0) x y).map some)
      (BitVec.ofNat 64 (shCount ((s.task s.cur.task).shape d.toNat))) touched o.p) := by
  simp only [execVcmp, ho, vector_of_read (q := ⟨d.toNat, [1, 2, 4, 8]⟩) rfl hr, giving]
  rfl

/-- R291: a choice writes a's element where the mask's is not 0, else b's. -/
theorem execVselm_of_read {m : BitVec 3} (ho : s.operandsVec h false false = some o)
    (hr : s.vecRead h { a := opd a ty, b := opd b ty, c := opdAny m, d := opd d ty, counts := countsAll true true } o.p = .ok x y z locs s' touched) :
    execVselm h d a b m ty s = .next (s'.writeVec h (opd d ty) locs
      ((List.zipWith (fun pq r => if r = 0 then pq.2 else pq.1) (x.zip y) z).map some)
      (BitVec.ofNat 64 (shCount ((s.task s.cur.task).shape d.toNat))) touched o.p) :=
  vec3_of_read ho rfl hr fun _ _ => ite_not ..

/-- R291: VCLAMP limits each element from below, then from above. -/
theorem execVclamp_of_read (ho : s.operandsVec h true true = some o)
    (hr : s.vecRead h { a := opd a ty, d := opd d ty, counts := countsAll false false } o.p = .ok x y z locs s' touched) :
    execVclamp h d a ty s = .next (s'.writeVec h (opd d ty) locs ((x.map fun e => vMinMax ty s.ftzHere false
        (vMinMax ty s.ftzHere true e (o.a.v.toNat % 2 ^ (8 * ty.bytes))) (o.b.v.toNat % 2 ^ (8 * ty.bytes))).map some)
      (BitVec.ofNat 64 (shCount ((s.task s.cur.task).shape d.toNat))) touched o.p) := by
  simp only [execVclamp, ho, vector_of_read (q := ⟨d.toNat, [ty.bytes]⟩) rfl hr, giving]
  rfl

/-- R289: VSCALE by slot a. -/
theorem execVscale_slot_of_read (ho : s.operandsVec h true false = some o)
    (hr : s.vecRead h { a := opd a ty, d := opd d ty, counts := countsAll false false } o.p = .ok x y z locs s' touched) :
    execVscale h d a .slot ty rm s = .next (s'.writeVec h (opd d ty) locs ((x.map (scaleElem (fmtOf ty) rm s.ftzHere o.a.v.toInt)).map some)
      (BitVec.ofNat 64 (shCount ((s.task s.cur.task).shape d.toNat))) touched o.p) := by
  simp only [execVscale, ho, vector_of_read (q := ⟨d.toNat, [ty.bytes]⟩) rfl hr, giving]
  rfl

/-- R289: VSCALE by a scale for each block of 32. -/
theorem execVscale_shape_of_read (ho : s.operandsVec h false false = some o)
    (hr : s.vecRead h { a := opd a ty, b := some ⟨b.toNat, [1]⟩, d := opd d ty, counts := fun na nb _ nd =>
      if na ≠ nd then some 0 else if nb ≠ (na + 31) / 32 then some 1 else none } o.p = .ok x y z locs s' touched) :
    execVscale h d a (.shape b) ty rm s = .next (s'.writeVec h (opd d ty) locs
      ((x.zipIdx.map fun v => scaleBy (fmtOf ty) rm s.ftzHere (y.getD (v.2 / 32) 0) v.1).map some)
      (BitVec.ofNat 64 (shCount ((s.task s.cur.task).shape d.toNat))) touched o.p) := by
  simp only [execVscale, ho, vector_of_read (q := ⟨d.toNat, [ty.bytes]⟩) rfl hr, giving]
  rfl

/-- R290: the scale pass of VQNT. -/
theorem execVqnt_scales_of_read {q : QntSrc} (ho : s.operandsVec h false false = some o)
    (hr : s.vecRead h { a := opd a (qntTy q), d := some ⟨d.toNat, [1]⟩, counts := fun na _ _ nd =>
      if nd ≠ (na + 31) / 32 then some 3 else none } o.p = .ok x y z locs s' touched) :
    execVqnt h d a .scales ty q rm s = .next (s'.writeVec h (some ⟨d.toNat, [1]⟩) locs
      (((blocks32 x.length x).map (scalePass (fmtOf (qntTy q)) s.ftzHere ty)).map some)
      (BitVec.ofNat 64 (shCount ((s.task s.cur.task).shape d.toNat))) touched o.p) := by
  simp only [execVqnt, ho, vector_of_read (q := ⟨d.toNat, [1]⟩) rfl hr, giving]

/-- R290: the element pass of VQNT. -/
theorem execVqnt_elements_of_read {q : QntSrc} (ho : s.operandsVec h false false = some o)
    (hr : s.vecRead h { a := opd a (qntTy q), b := some ⟨b.toNat, [1]⟩, d := some ⟨d.toNat, [1]⟩, counts := fun na nb _ nd =>
      if na ≠ nd then some 0 else if nb ≠ (na + 31) / 32 then some 1 else none } o.p = .ok x y z locs s' touched) :
    execVqnt h d a (.elements b) ty q rm s = .next (s'.writeVec h (some ⟨d.toNat, [1]⟩) locs
      ((x.zipIdx.map fun v => elementPass (fmtOf (qntTy q)) s.ftzHere ty rm (y.getD (v.2 / 32) 0) v.1).map some)
      (BitVec.ofNat 64 (shCount ((s.task s.cur.task).shape d.toNat))) touched o.p) := by
  simp only [execVqnt, ho, vector_of_read (q := ⟨d.toNat, [1]⟩) rfl hr, giving]

end

/-- Settles O33: each element's result is the condition on, the choice of, the limit of or the conversion of its operands. -/
theorem vectorChoicesAndConversions : Obligations.VectorChoicesAndConversions := by
  unfold Obligations.VectorChoicesAndConversions
  constructor
  · intro h d a b m ty c s f x y z locs s' touched hh
    rw [← ftzHere_eq hh]
    intro ftz r n ones gives
    refine ⟨fun o ho hr => ⟨cmpHolds ty c ftz, execVcmp_of_read ho hr c, fun ht p q => ?_, fun ht p q hp hq => ?_, fun ht p q => ?_⟩,
      fun o ho hr => execVselm_of_read ho hr, fun o ho hr => ⟨_, execVclamp_of_read ho hr, ?_, ?_, ?_, ?_⟩⟩
    · rw [Bool.eq_iff_iff, cmpHolds_int (.inl ht), elemInt_signed ht, elemInt_signed ht]
      cases c <;> simp [CondOn]
    · rw [Bool.eq_iff_iff, cmpHolds_int (.inr ht), elemInt_unsigned ht hp, elemInt_unsigned ht hq]
      cases c <;> simp [CondOn]
    · intro g u v
      split
      · next hn => exact cmpHolds_nan ht c hn
      · next hn =>
        obtain ⟨hp, hq⟩ := not_or.mp hn
        rw [Bool.eq_iff_iff, cmpHolds_number ht c (Bool.eq_false_of_not_eq_true hp) (Bool.eq_false_of_not_eq_true hq)]
        cases c <;> simp [CondOn, u, v, g]
    · exact List.length_map ..
    · intro ht j p e hj he
      rw [List.getElem?_map, hj, Option.map_some, Option.some.injEq] at he
      rw [← elemInt_signed ht, ← he, elemInt_min _ (.inl ht), elemInt_max _ (.inl ht), elemInt_signed ht, elemInt_signed ht, elemInt_signed ht,
        ofNat_toNat_mod, ofNat_toNat_mod]
    · intro ht j p hj hp
      rw [List.getElem?_map, hj, Option.map_some, clamp_unsigned _ ht hp (Nat.mod_lt _ (Nat.two_pow_pos _)) (Nat.mod_lt _ (Nat.two_pow_pos _))]
    · intro ht j p e hj hp he g u lo hi
      rw [List.getElem?_map, hj, Option.map_some, Option.some.injEq, vMinMax_float ht, vMinMax_float ht] at he
      rw [← he]
      split
      · next n hn => exact clamp_nan (ieee_fmtOf ht) hn
      · next hn => exact clamp_number hn
  · intro h d a b ty sty q rm s f x y z locs s' touched hh
    rw [← ftzHere_eq hh]
    intro ftz n gives byte
    refine ⟨fun o ho hd hs h8 hr => ?_, fun o ho hd hr => execVcvt_plain hd (by decide) ho hr,
      fun o ho hlo hhi => ⟨fun v hr => execVcvt_block rfl ho hlo hhi hr, fun v hr => execVcvt_block rfl ho hlo hhi hr⟩, fun o ho hr => ?_,
      fun o ho hr => ⟨_, execVscale_shape_of_read ho hr, by simp, fun j e hj => getElem?_map_zipIdx hj _⟩,
      fun o ho hr => ⟨_, execVqnt_scales_of_read (rm := rm) ho hr, ?_, fun j hj => ?_⟩,
      fun o ho hr => ⟨_, execVqnt_elements_of_read ho hr, by simp, fun j e hj => getElem?_map_zipIdx hj _⟩⟩
    · have hwrites := execVcvt_plain (rm := rm) hd hs ho hr
      rwa [show convElem ty sty rm s.ftzHere o.a.v.toInt = _ from funext fun e => convElem_plain hd hs h8 ..] at hwrites
    · have hwrites := execVscale_slot_of_read (rm := rm) ho hr
      rwa [show scaleElem (fmtOf ty) rm s.ftzHere o.a.v.toInt = _ from funext fun e => op_one ..] at hwrites
    · rw [List.length_map, length_blocks32 _ _ le_rfl]
    · rw [List.getElem?_map, getElem?_blocks32 _ _ le_rfl hj, Option.map_some]

end Sys2Proof.Proofs
end

section
/-! SUPPORT. What a vector instruction has read once its elements pass their checks: the places of its elements and their values (R274, R282, R283,
R294). -/

namespace Sys2Proof.Proofs

open Sys2Proof.Machine

/-! Checks of which none has failed. -/

/-- Every check of a list has passed. -/
def AllPass (l : List ECheck) : Prop := l = (placesOf l).map .ok

theorem AllPass.nil : AllPass [] := rfl

theorem AllPass.cons {l : List ECheck} (h : AllPass l) (p : ELoc) : AllPass (.ok p :: l) := congrArg (ECheck.ok p :: ·) h

theorem AllPass.length {l : List ECheck} (h : AllPass l) : (placesOf l).length = l.length := by
  conv_rhs => rw [show l = _ from h]
  exact (List.length_map ..).symm

/-- A check of a list that has passed is a place of it. -/
theorem AllPass.getElem? {l : List ECheck} (h : AllPass l) {j : Nat} {e : ECheck} (hj : l[j]? = some e) :
    ∃ p, e = .ok p ∧ (placesOf l)[j]? = some p := by
  rw [show l = _ from h, List.getElem?_map, Option.map_eq_some_iff] at hj
  obtain ⟨p, hp, rfl⟩ := hj
  exact ⟨p, rfl, hp⟩

/-- The failure that a list of checks begins with. -/
def headFailure : List ECheck → Option ECheck
  | .miss va u :: _ => some (.miss va u)
  | .bad r :: _ => some (.bad r)
  | _ => none

theorem firstBad_succ (l : List (List ECheck)) (n : Nat) :
    firstBad l (n + 1) = match l.findSome? headFailure with | some e => some e | none => firstBad (l.map List.tail) n := rfl

/-- R283: where no failure is the first one, all checks have passed. -/
theorem allPass_of_firstBad {n : Nat} {order : List (List ECheck)} (hn : ∀ l ∈ order, l.length ≤ n) (hbad : ∀ r, firstBad order n ≠ some (.bad r))
    (hmiss : ∀ va u, firstBad order n ≠ some (.miss va u)) : ∀ l ∈ order, AllPass l := by
  induction n generalizing order with
  | zero =>
    intro l hl
    rw [List.length_eq_zero_iff.mp (Nat.le_zero.mp (hn l hl))]
    exact .nil
  | succ n ih =>
    rw [firstBad_succ] at hbad hmiss
    cases hf : order.findSome? headFailure with
    | some e =>
      obtain ⟨l, -, hl⟩ := List.exists_of_findSome?_eq_some hf
      simp only [hf] at hbad hmiss
      rcases l with _ | ⟨_ | ⟨va, u⟩ | r, t⟩
      · cases hl
      · cases hl
      · exact absurd hl.symm (hmiss va u)
      · exact absurd hl.symm (hbad r)
    | none =>
      simp only [hf] at hbad hmiss
      have htails := ih (order := order.map List.tail) (fun l hl => by
        obtain ⟨m, hm, rfl⟩ := List.mem_map.mp hl
        have := hn m hm
        rw [List.length_tail]
        omega) hbad hmiss
      intro l hl
      have hhead : headFailure l = none := List.findSome?_eq_none_iff.mp hf l hl
      have htail : AllPass l.tail := htails _ (List.mem_map_of_mem hl)
      rcases l with _ | ⟨p | ⟨va, u⟩ | r, t⟩
      · exact .nil
      · exact htail.cons p
      · cases hhead
      · cases hhead

theorem init_le_foldl_max (l : List Nat) (m : Nat) : m ≤ l.foldl max m := by
  induction l generalizing m with
  | nil => exact le_rfl
  | cons a r ih => exact (Nat.le_max_left m a).trans (ih _)

theorem le_foldl_max {l : List Nat} {n : Nat} (h : n ∈ l) (m : Nat) : n ≤ l.foldl max m := by
  induction l generalizing m with
  | nil => cases h
  | cons a r ih =>
    rcases List.mem_cons.mp h with rfl | h
    · exact (Nat.le_max_right m n).trans (init_le_foldl_max r _)
    · exact ih h _

/-! The inversion of a read. -/

/-- The count of an operand, 0 where the form has none. -/
def opdCount (k : Task) (o : Option VOpd) : Nat := if o.isSome then shCount (k.opdRow o) else 0

theorem opdOf_eq (k : Task) (o : Option VOpd) : k.opdOf o = (k.opdRow o, shEsz (k.opdRow o), opdCount k o) := rfl

section
variable (s : State) (v : VSpec) (w : VWork) (idx : List Nat)

/-- R294: the checks of a's elements, which VGATH reaches through indices. -/
def checksA : List ECheck :=
  if v.kind = .gather then s.indexChecks w.a ((s.task s.cur.task).opdRow v.a) .read idx
  else s.elemChecks w.a ((s.task s.cur.task).opdRow v.a) (opdCount (s.task s.cur.task) v.a) .read

/-- The checks of b's elements. -/
def checksB : List ECheck := s.elemChecks w.b ((s.task s.cur.task).opdRow v.b) (opdCount (s.task s.cur.task) v.b) .read

/-- The checks of c's elements. -/
def checksC : List ECheck := s.elemChecks w.c ((s.task s.cur.task).opdRow v.c) (opdCount (s.task s.cur.task) v.c) .read

/-- R294: the checks of the destination's elements, which VSCAT reaches through indices. -/
def checksD : List ECheck :=
  if v.kind = .scatter then s.indexChecks w.d ((s.task s.cur.task).opdRow v.d) .write idx
  else s.elemChecks w.d ((s.task s.cur.task).opdRow v.d) (opdCount (s.task s.cur.task) v.d) .write

/-- R283, R294: the operands in the order in which their elements are checked. -/
def checkOrder : List (List ECheck) :=
  if v.kind = .gather then [checksB s v w, checksA s v w idx, checksC s v w, checksD s v w idx]
  else [checksA s v w idx, checksB s v w, checksC s v w, checksD s v w idx]

theorem mem_checkOrder {s : State} {v : VSpec} {w : VWork} {idx : List Nat} (l : List ECheck) : l ∈ checkOrder s v w idx ↔
    l = checksA s v w idx ∨ l = checksB s v w ∨ l = checksC s v w ∨ l = checksD s v w idx := by
  rw [checkOrder]
  split <;> simp only [List.mem_cons, List.not_mem_nil, or_false]
  exact or_left_comm

/-- What the instruction has done once every element has been checked. -/
def checkedWork : VWork :=
  { index := idx, a := placesOf (checksA s v w idx), b := placesOf (checksB s v w), c := placesOf (checksC s v w), d := placesOf (checksD s v w idx) }

end

/-- R282: reads that have come give each operand's elements the values at their places. -/
theorem vecReadAll_values {s : State} {h : Head} {p : SlotVal} {ops : List (Nat × List ELoc)} {l : List (List Nat)}
    (hr : s.vecReadAll h p ops = .values l) : ∃ got, l = ops.map fun o => o.2.map (s.elemValue got o.1) := by
  unfold State.vecReadAll at hr
  extract_lets keys chan sent left bad at hr
  repeat' split at hr
  all_goals cases hr
  exact ⟨_, rfl⟩

section
variable {s s' : State} {h : Head} {v : VSpec} {p : SlotVal} {x y z : List Nat} {locs : List ELoc} {touched : Bool}

/-- R282, R283, R294: with the work w done before and the indices idx, every check has passed, the destination's places are those of its checks, and the
operands' values are those at their places, in the state that keeps what is done. -/
structure Elements (s : State) (v : VSpec) (w : VWork) (idx : List Nat) (x y z : List Nat) (locs : List ELoc) : Prop where
  pass : ∀ l ∈ checkOrder s v w idx, AllPass l
  places : locs = placesOf (checksD s v w idx)
  values : ∃ got : List (Nat × Byte),
    let value (o : Option VOpd) : ELoc → Nat := (s.keepVwork (checkedWork s v w idx)).elemValue got (shEsz ((s.task s.cur.task).opdRow o))
    x = (placesOf (checksA s v w idx)).map (value v.a)
    ∧ (if v.kind = .plain then y = (placesOf (checksB s v w)).map (value v.b) else y = idx)
    ∧ z = (placesOf (checksC s v w)).map (value v.c)

theorem elements_of_vecElems {w : VWork} {idx : List Nat}
    (hr : s.vecElems h v p w (checksB s v w) idx = .ok x y z locs s' touched) : Elements s v w idx x y z locs := by
  have hA : (if v.kind = .gather then s.indexChecks w.a ((s.task s.cur.task).opdRow v.a) .read idx
    else s.elemChecks w.a ((s.task s.cur.task).opdRow v.a) (opdCount (s.task s.cur.task) v.a) .read) = checksA s v w idx := rfl
  have hC : s.elemChecks w.c ((s.task s.cur.task).opdRow v.c) (opdCount (s.task s.cur.task) v.c) .read = checksC s v w := rfl
  have hD : (if v.kind = .scatter then s.indexChecks w.d ((s.task s.cur.task).opdRow v.d) .write idx
    else s.elemChecks w.d ((s.task s.cur.task).opdRow v.d) (opdCount (s.task s.cur.task) v.d) .write) = checksD s v w idx := rfl
  have hO : (if v.kind = .gather then [checksB s v w, checksA s v w idx, checksC s v w, checksD s v w idx]
    else [checksA s v w idx, checksB s v w, checksC s v w, checksD s v w idx]) = checkOrder s v w idx := rfl
  simp only [State.vecElems, opdOf_eq, hA, hC, hD, hO] at hr
  split at hr
  · cases hr
  · cases hr
  · next hbad hmiss =>
    have hpass := allPass_of_firstBad (fun l hl => le_foldl_max (List.mem_map_of_mem hl) 0) hbad hmiss
    split at hr
    · cases hr
    · cases hr
    · next l hl =>
      obtain ⟨got, rfl⟩ := vecReadAll_values hl
      split at hr
      · next hk =>
        cases hr
        exact ⟨hpass, rfl, got, by simp [hk, checkedWork]⟩
      · next hk =>
        cases hr
        exact ⟨hpass, rfl, got, by simp [hk, checkedWork]⟩

/-- R282, R283, R294: a read that succeeds has the indices of its elements, and the elements. -/
theorem elements_of_read (hr : s.vecRead h v p = .ok x y z locs s' touched) :
    ∃ l, s.vecIndex h v p s.vwork (placesOf (checksB s v s.vwork)) = .values l ∧ Elements s v s.vwork (l.headD []) x y z locs := by
  have hc := checkRecords_of_read hr
  have hB : s.elemChecks s.vwork.b ((s.task s.cur.task).opdRow v.b) (opdCount (s.task s.cur.task) v.b) .read = checksB s v s.vwork := rfl
  simp only [State.vecRead, hc, opdOf_eq, hB] at hr
  split at hr
  · cases hr
  · cases hr
  · next l hl => exact ⟨l, hl, elements_of_vecElems hr⟩

end

/-! The elements of a first try. -/

section
variable {s : State}

theorem getElem?_elemChecks {r : Row} {n j : Nat} (u : Use) (hj : j < n) : (s.elemChecks [] r n u)[j]? = some (s.elemCheck r (shAddr r j) u) := by
  simp [State.elemChecks, hj]

theorem length_elemChecks (known : List ELoc) (r : Row) (n : Nat) (u : Use) : (s.elemChecks known r n u).length = n := by
  simp [State.elemChecks]

/-- R294: an index at or beyond the extent reaches no place. -/
theorem getElem?_indexChecks {r : Row} {idx : List Nat} {j i : Nat} (u : Use) (hj : idx[j]? = some i) :
    (s.indexChecks [] r u idx)[j]? =
      some (if shExt r 0 ≤ i then .ok .nowhere else s.elemCheck r (((shBase r : Int) + i * shStr r 0) % 2 ^ 64).toNat u) := by
  rw [State.indexChecks, getElem?_map_zipIdx hj]
  rfl

end

/-! Local storage (R6, R9). -/

theorem dsKey_le_localKey {sp : Space} (hg : sp ≠ .gl) (hc : sp ≠ .ch) (tile elem off : Nat) : dsKey ≤ localKey sp tile elem off := by
  cases sp with
  | gl => exact absurd rfl hg
  | ch => exact absurd rfl hc
  | ds | bs | ts | ls => simp only [localKey, dsKey, bsKey, tsKey, lsKey]; omega

/-- R33: a translated access has a line. -/
theorem checkGl_ne_none (s : State) (die ctx : Nat) (addr : Word) (align : Nat) (u : Use) (k : Nat) : s.checkGl die ctx addr align u ≠ .ok k none := by
  simp only [State.checkGl, State.checkLeaf]
  repeat' split
  all_goals simp

theorem checkLocal_place {sp : Space} {tile elem size align k : Nat} {addr : Word} {u : Use} {l : Option LineUse}
    (hc : checkLocal sp tile elem addr size align u = .ok k l) : k = localKey sp tile elem addr.toNat := by
  simp only [checkLocal] at hc
  repeat' split at hc
  all_goals cases hc
  all_goals rfl

/-- R6: an access whose checks name no line is one of local storage. -/
theorem local_of_check {s : State} {t : TaskRef} {sp : Space} {addr : Word} {size align k : Nat} {u : Use} (hs : sp ≠ .ch)
    (hc : s.check t sp addr size align u = .ok k none) : dsKey ≤ k := by
  by_cases hg : sp = .gl
  · subst hg
    simp only [State.check] at hc
    split at hc
    · next k' l hgl =>
      split at hc <;> cases hc
      exact (checkGl_ne_none _ _ _ _ _ _ _ hgl).elim
    · exact (checkGl_ne_none _ _ _ _ _ _ _ hc).elim
  · rw [check_local hg hs] at hc
    rw [checkLocal_place hc]
    exact dsKey_le_localKey hg hs ..

theorem local_of_elemCheck {s : State} {r : Row} {addr k : Nat} {u : Use} (hc : s.elemCheck r addr u = .ok (.mem k none)) : dsKey ≤ k := by
  simp only [State.elemCheck] at hc
  split at hc
  · split at hc <;> cases hc
  · split at hc
    · cases hc
    · cases hc
    · next hk =>
      split at hc
      · cases hc
      · next hs =>
        cases hc
        exact local_of_check hs hk

/-! A task's reads while its instruction keeps what it has done. -/

/-- The cursor stands, and its instruction reads the same bytes. -/
def SameReads (s t : State) : Prop :=
  t.cur = s.cur ∧ ∀ k, t.readByte t.cur.task t.cur.which t.cur.idx k = s.readByte s.cur.task s.cur.which s.cur.idx k

theorem SameReads.refl (s : State) : SameReads s s := ⟨rfl, fun _ => rfl⟩

theorem SameReads.trans {s t u : State} (h : SameReads s t) (k : SameReads t u) : SameReads s u := ⟨k.1.trans h.1, fun a => (k.2 a).trans (h.2 a)⟩

/-- R132: a change of the block at the cursor that leaves its stores. -/
theorem sameReads_modFlight (s : State) {g : Firing → Firing} (hg : ∀ f, (g f).stores = f.stores) :
    SameReads s (s.modFlight s.cur.task s.cur.which g) := by
  refine ⟨rfl, fun k => ?_⟩
  have hfwd : (s.modFlight s.cur.task s.cur.which g).forwarded s.cur.task s.cur.which s.cur.idx k =
      s.forwarded s.cur.task s.cur.which s.cur.idx k := by
    simp only [State.forwarded, task_modFlight, Task.flight, listMod_getElem?, if_true]
    cases (s.task s.cur.task).flights[s.cur.which]? with
    | none => rfl
    | some f => simp only [Option.map_some, hg]
  show (Option.getD ((s.modFlight s.cur.task s.cur.which g).forwarded s.cur.task s.cur.which s.cur.idx k) _) = _
  rw [hfwd]
  rfl

theorem sameReads_usePage (s : State) (va : Nat) : SameReads s (s.usePage va) := sameReads_modFlight s fun _ => rfl

theorem sameReads_usePages (l : List LineUse) (s : State) : SameReads s (l.foldl (fun s u => s.usePage u.va) s) := by
  induction l generalizing s with
  | nil => exact .refl s
  | cons u r ih => exact (sameReads_usePage s u.va).trans (ih _)

theorem sameReads_keepVwork (s : State) (w : VWork) : SameReads s (s.keepVwork w) :=
  (sameReads_usePages (useLines (w.a ++ w.b ++ w.c ++ w.d)) s).trans (sameReads_modFlight _ fun _ => rfl)

/-- R132, R282: an element of local storage is the bytes that the task reads at its place. -/
theorem elemValue_local {s : State} {k : Nat} (hk : dsKey ≤ k) (w : VWork) (got : List (Nat × Byte)) (n : Nat) :
    (s.keepVwork w).elemValue got n (.mem k none) = natOfBytes ((keysOf k n).map (s.readByte s.cur.task s.cur.which s.cur.idx)) := by
  rw [State.elemValue]
  refine congrArg natOfBytes (List.map_congr_left fun a ha => ?_)
  obtain ⟨i, -, rfl⟩ := List.mem_map.mp ha
  have hlocal : isGl (k + i) = false := decide_eq_false (by omega)
  rw [State.vecByte, hlocal, if_neg Bool.false_ne_true]
  exact (sameReads_keepVwork s w).2 _

end Sys2Proof.Proofs
end

section
/-! SUPPORT. What a vector instruction reads at its first try, and what it leaves in its destination (R282). -/

namespace Sys2Proof.Proofs

open Sys2Proof.Machine Sys2Proof.Safety

/-! Reads. -/

section
variable {s s' : State} {h : Head} {v : VSpec} {p : SlotVal} {x y z : List Nat} {locs : List ELoc} {touched : Bool}

theorem opdRow_some (k : Task) (q : VOpd) : k.opdRow (some q) = k.shape q.reg := rfl

/-- R282: the values of an operand at its first try, when all its checks pass. -/
theorem firstRead_spec {r : Row} {w : VWork} {got : List (Nat × Byte)} (hpass : AllPass (s.elemChecks [] r (shCount r) .read)) {l : List Nat}
    (hl : l = (placesOf (s.elemChecks [] r (shCount r) .read)).map ((s.keepVwork w).elemValue got (shEsz r))) :
    l.length = shCount r ∧ ∀ j k, j < shCount r → s.elemCheck r (shAddr r j) .read = .ok (.mem k none) →
      l[j]? = some (natOfBytes ((keysOf k (shEsz r)).map (s.readByte s.cur.task s.cur.which s.cur.idx))) := by
  subst hl
  refine ⟨by rw [List.length_map, hpass.length, length_elemChecks], fun j k hj hc => ?_⟩
  obtain ⟨q, hq, hplace⟩ := hpass.getElem? (getElem?_elemChecks .read hj)
  obtain rfl : ELoc.mem k none = q := ECheck.ok.inj (hc.symm.trans hq)
  rw [List.getElem?_map, hplace, Option.map_some, elemValue_local (local_of_elemCheck hc)]

/-- R282: the elements that an instruction without indices reads at its first try. -/
theorem plainRead_spec (hk : v.kind = .plain) (hw : s.vwork = {}) (hr : s.vecRead h v p = .ok x y z locs s' touched) {q : VOpd} {l : List Nat}
    (hq : (some q, l) ∈ [(v.a, x), (v.b, y), (v.c, z)]) :
    l.length = shCount ((s.task s.cur.task).shape q.reg)
      ∧ ∀ j k, j < shCount ((s.task s.cur.task).shape q.reg) →
        s.elemCheck ((s.task s.cur.task).shape q.reg) (shAddr ((s.task s.cur.task).shape q.reg) j) .read = .ok (.mem k none) →
        l[j]? = some (natOfBytes ((keysOf k (shEsz ((s.task s.cur.task).shape q.reg))).map (s.readByte s.cur.task s.cur.which s.cur.idx))) := by
  obtain ⟨i, -, hpass, -, got, hx, hy, hz⟩ := elements_of_read hr
  rw [if_pos hk] at hy
  have hnot : v.kind ≠ .gather := by rw [hk]; decide
  simp only [mem_checkOrder, forall_eq_or_imp, forall_eq] at hpass
  obtain ⟨hpA, hpB, hpC, -⟩ := hpass
  simp only [checksA, checksB, checksC, hw, if_neg hnot] at hx hy hz hpA hpB hpC
  simp only [List.mem_cons, Prod.mk.injEq, List.not_mem_nil, or_false] at hq
  rcases hq with ⟨hq, rfl⟩ | ⟨hq, rfl⟩ | ⟨hq, rfl⟩
  · rw [← hq] at hx hpA
    exact firstRead_spec hpA hx
  · rw [← hq] at hy hpB
    exact firstRead_spec hpB hy
  · rw [← hq] at hz hpC
    exact firstRead_spec hpC hz

end

/-! Writes. -/

theorem bytesOfNat_eq (n v : Nat) : bytesOfNat n v = (List.range n).map fun i => BitVec.ofNat 8 (v / 256 ^ i) := by
  induction n generalizing v with
  | zero => rfl
  | succ n ih =>
    rw [bytesOfNat, ih, List.range_succ_eq_map, List.map_cons, List.map_map]
    refine congrArg₂ List.cons ?_ (List.map_congr_left fun i _ => ?_)
    · exact BitVec.eq_of_toNat_eq (by simp)
    · show _ = BitVec.ofNat 8 (v / 256 ^ (i + 1))
      rw [Nat.div_div_eq_div_mul, Nat.pow_succ']

theorem placeBytes_map_range (n k : Nat) (b : Nat → Byte) : placeBytes k ((List.range n).map b) = (List.range n).map fun i => (k + i, b i) := by
  induction n generalizing k b with
  | zero => rfl
  | succ n ih =>
    rw [List.range_succ_eq_map, List.map_cons, List.map_map, placeBytes, ih, List.map_cons, List.map_map]
    refine congrArg₂ List.cons rfl (List.map_congr_left fun i _ => ?_)
    show (k + 1 + i, _) = (k + (i + 1), _)
    rw [Nat.add_right_comm, Nat.add_assoc]
    rfl

/-- R164: a number's bytes placed from a key up. -/
theorem placeBytes_bytesOfNat (n k v : Nat) : placeBytes k (bytesOfNat n v) = (List.range n).map fun i => (k + i, BitVec.ofNat 8 (v / 256 ^ i)) := by
  rw [bytesOfNat_eq, placeBytes_map_range]

/-- R282: the bytes of an element in the working copy of a temporary. -/
def vtBytes (idx n : Nat) (x : ELoc × Nat) : List VtWrite := match x.1 with
  | .vt w off => (List.range n).map fun i => ⟨idx, w, off + i, BitVec.ofNat 8 (x.2 / 256 ^ i), n⟩
  | _ => []

theorem vtPut_eq (f : Firing) (idx w off n v : Nat) : f.vtPut idx w off (bytesOfNat n v) = { f with vt := f.vt ++ vtBytes idx n (.vt w off, v) } := by
  rw [Firing.vtPut, bytesOfNat_length]
  refine congrArg (fun l => { f with vt := f.vt ++ l }) ?_
  rw [bytesOfNat_eq, vtBytes]
  refine List.ext_getElem (by simp) fun i h1 h2 => ?_
  simp

/-- R282: an element goes to the working copy of its temporary. -/
def putElem (idx n : Nat) (f : Firing) : ELoc × Option Nat → Firing
  | (.vt w off, some e) => f.vtPut idx w off (bytesOfNat n e)
  | _ => f

theorem foldl_putElem (idx n : Nat) (locs : List ELoc) (res : List Nat) (hl : ∀ l ∈ locs, ∃ w off, l = .vt w off) (f : Firing) :
    (locs.zip (res.map some)).foldl (putElem idx n) f = { f with vt := f.vt ++ (locs.zip res).flatMap (vtBytes idx n) } := by
  induction locs generalizing res f with
  | nil => simp
  | cons l locs ih =>
    cases res with
    | nil => simp
    | cons e res =>
      obtain ⟨w, off, rfl⟩ := hl _ List.mem_cons_self
      rw [List.map_cons, List.zip_cons_cons, List.foldl_cons, ih _ (fun l h => hl l (List.mem_cons_of_mem _ h)), putElem, vtPut_eq,
        List.zip_cons_cons, List.flatMap_cons, List.append_assoc]

/-- R282: the bytes of an element in the store of a destination in storage. -/
def storeBytes (n : Nat) (x : ELoc × Nat) : List (Nat × Byte) := match x.1 with
  | .mem k _ => (List.range n).map fun i => (k + i, BitVec.ofNat 8 (x.2 / 256 ^ i))
  | _ => []

/-- R282: the bytes of an element that is written. -/
def placedElem (n : Nat) : ELoc × Option Nat → List (Nat × Byte)
  | (.mem k _, some e) => placeBytes k (bytesOfNat n e)
  | _ => []

theorem flatMap_placedElem (n : Nat) (locs : List ELoc) (res : List Nat) :
    (locs.zip (res.map some)).flatMap (placedElem n) = (locs.zip res).flatMap (storeBytes n) := by
  rw [List.zip_map_right, List.flatMap_map]
  refine List.flatMap_congr fun x _ => ?_
  obtain ⟨l, e⟩ := x
  cases l with
  | mem k u => exact placeBytes_bytesOfNat n k e
  | _ => rfl

section
variable {s : State} {h : Head} {f : Firing} (hh : s.here = some f) (h0 : h.t0 = none) (h1 : h.t1 = none)
include hh h0 h1

/-- An instruction without targets fires after a change of its block. -/
theorem modFlight_fire_without_targets {g : Firing → Firing} (hg : (g f).fault = none) (v0 v1 : SlotVal) :
    (s.modFlight s.cur.task s.cur.which g).fire h v0 v1 = firedWith s g := by
  have hhere : (s.modFlight s.cur.task s.cur.which g).here = some (g f) := by rw [here_modFlight, hh]; rfl
  rw [fire_eq hhere h v0 v1 (by simpa [Firing.deliver, h0, h1] using hg)]
  simp [Firing.deliver, h0, h1, firedWith]

/-- R217, R236, R282: the product of a store identifier of the SMASK that has none yet. -/
theorem produceVec_fires (hf : f.fault = none) {r : StoreRec} (hm : f.hdr.smask.getLsbD r.sid = true) (hs : ∀ x ∈ f.stores, x.sid ≠ r.sid)
    (hn : r.sid ∉ f.nulls) (v : SlotVal) : s.produceVec h r v = firedWith s fun f => { f with stores := f.stores ++ [r] } := by
  have hany : (f.stores.any (fun x => x.sid == r.sid) || decide (r.sid ∈ f.nulls)) = false := by simpa [hn] using hs
  simp only [State.produceVec, hh, hm, hany, Bool.not_true, Bool.false_eq_true, if_false]
  exact modFlight_fire_without_targets hh h0 h1 hf v v

end

theorem firedWith_firesOnly (s : State) (g : Firing → Firing) : FiresOnly s (firedWith s g) := firesOnly_of s _

section
variable (s : State) (h : Head) (d : VOpd) (locs : List ELoc) (res : List (Option Nat)) (v : Word) (touched : Bool) (p : SlotVal)

/-- R282: results go to the working copy of a temporary, and the instruction fires. -/
theorem writeVec_vt (ht : shVt ((s.task s.cur.task).shape d.reg) = true) : ∃ x : SlotVal, s.writeVec h (some d) locs res v touched p =
    (s.modFlight s.cur.task s.cur.which fun f =>
      (locs.zip res).foldl (putElem s.cur.idx (shEsz ((s.task s.cur.task).shape d.reg))) f).fire h x x := by
  simp only [State.writeVec, ht, if_true]
  exact ⟨_, rfl⟩

/-- R282: results for storage become one store of the destination's identifier. -/
theorem writeVec_store (ht : shVt ((s.task s.cur.task).shape d.reg) = false) : ∃ (r : StoreRec) (x : SlotVal),
    s.writeVec h (some d) locs res v touched p = s.produceVec h r x ∧ r.sid = 24 + d.reg ∧ r.idx = s.cur.idx
      ∧ r.bytes = (locs.zip res).flatMap (placedElem (shEsz ((s.task s.cur.task).shape d.reg))) := by
  simp only [State.writeVec, ht, Bool.false_eq_true, if_false]
  exact ⟨_, _, rfl, rfl, rfl, rfl⟩

end

/-- Settles O30: a first try reads what stands at the elements' places, and the results go to the working copy or to one store. -/
theorem vectorResultsAreWritten : Obligations.VectorResultsAreWritten := by
  unfold Obligations.VectorResultsAreWritten
  constructor
  · rintro h v p s s' x y z locs touched hk hw hr q l hq opd rfl
    exact plainRead_spec hk hw hr hq
  · intro h d locs res v touched p s f hh hf h0 h1 hlen r n t
    refine ⟨fun ht hl => ?_, fun ht hm hs hn hl => ?_⟩
    · obtain ⟨x, hx⟩ := writeVec_vt s h d locs (res.map some) v touched p ht
      have hfired := hx.trans (modFlight_fire_without_targets hh h0 h1 (by rw [foldl_putElem _ _ _ _ hl]; exact hf) x x)
      have hhere := here_firedWith hh fun f => (locs.zip (res.map some)).foldl (putElem s.cur.idx n) f
      rw [foldl_putElem _ _ _ _ hl] at hhere
      refine ⟨_, (congrArg State.here hfired).trans hhere, rfl, rfl, ?_, rfl⟩
      rw [show t = _ from hfired]
      exact firedWith_firesOnly ..
    · obtain ⟨x, w, hx, hsid, hidx, hbytes⟩ := writeVec_store s h d locs (res.map some) v touched p ht
      rw [← hsid] at hm hs hn
      have hfired := hx.trans (produceVec_fires hh h0 h1 hf hm hs hn w)
      refine ⟨_, x, (congrArg State.here hfired).trans (here_firedWith hh _), rfl, rfl, ?_, rfl, hsid, hidx, ?_⟩
      · rw [show t = _ from hfired]
        exact firedWith_firesOnly ..
      · rw [hbytes, flatMap_placedElem]
        rfl

end Sys2Proof.Proofs
end

section
/-! SUPPORT. Sums: exact ones of integers, and the FP32 total of 16 lanes folded by the tree (R181, R292). -/

namespace Sys2Proof.Proofs

open Sys2Proof.Machine Sys2Proof.Safety

section
variable {s s' : State} {h : Head} {a b : BitVec 3} {ty : Ty} {o : Opnds} {x y z : List Nat} {locs : List ELoc} {touched : Bool}
  (ho : s.operandsVec h false false = some o)
include ho

/-- R292: a reduction of one operand delivers its value. -/
theorem vecReduce_one_of_read (hr : s.vecRead h { a := opd a ty, counts := fun _ _ _ _ => none } o.p = .ok x y z locs s' touched)
    {f : List Nat → List Nat → Word} {v : Word} (hv : f x y = v) : s.vecReduce h a none ty f =
      .next (s'.fire h ⟨v, if touched then s'.refHere false else none, none⟩ ⟨v, if touched then s'.refHere false else none, none⟩) := by
  subst hv
  simp only [State.vecReduce, ho]
  exact congrArg Host.Outcome.next (vector_of_read_reduce rfl hr _)

/-- R292: a reduction of two operands delivers its value. -/
theorem vecReduce_two_of_read
    (hr : s.vecRead h { a := opd a ty, b := opd b ty, counts := fun na nb _ _ => if nb != na then some 1 else none } o.p = .ok x y z locs s' touched)
    {f : List Nat → List Nat → Word} {v : Word} (hv : f x y = v) : s.vecReduce h a (some b) ty f =
      .next (s'.fire h ⟨v, if touched then s'.refHere false else none, none⟩ ⟨v, if touched then s'.refHere false else none, none⟩) := by
  subst hv
  simp only [State.vecReduce, ho]
  exact congrArg Host.Outcome.next (vector_of_read_reduce rfl hr _)

end

/-! Sums of integers. -/

/-- R292: the 64 bits of a sum as an integer of the type's sign. -/
def sumWord (ty : Ty) (v : Int) : Int := if ty.isI then (BitVec.ofInt 64 v).toInt else (BitVec.ofInt 64 v).toNat

theorem intDelivered_wraps (ty : Ty) (v : Int) : intDelivered ty false v = BitVec.ofInt 64 v := by
  rw [intDelivered, ← toNat_ofInt_cast]
  simp only [Bool.false_eq_true, if_false]
  split
  · exact BitVec.ofInt_toInt
  · rw [BitVec.ofInt_natCast, BitVec.ofNat_toNat, BitVec.setWidth_eq]

theorem intDelivered_limits {ty : Ty} (ht : ty.isI = true ∨ ty.isW = true) (v : Int) :
    intDelivered ty true v = BitVec.ofInt 64 (Max.max (elemLow ty) (Min.min (elemHigh ty) (sumWord ty v))) := by
  rw [intDelivered, ← toNat_ofInt_cast, saturate, intRange_eq ht, if_pos rfl]
  rfl

/-! Sums of floating-point numbers. -/

section
variable {α : Type}

/-- R181: the elements of a lane when one more element comes. -/
theorem laneOf_snoc (x : List α) (a : α) (j : Nat) : laneOf (x ++ [a]) j = laneOf x j ++ if x.length % 16 = j then [a] else [] := by
  rw [laneOf, List.length_append, List.length_singleton, List.range_succ, List.filterMap_append]
  congr 1
  · refine List.filterMap_congr fun i hi => ?_
    rw [List.getElem?_append_left (List.mem_range.mp hi)]
  · by_cases h : x.length % 16 = j <;> simp [h]

theorem laneOf_eq (x : List α) (j : Nat) : (x.zipIdx.filter fun e => e.2 % 16 == j).map (·.1) = laneOf x j := by
  induction x using List.reverseRecOn with
  | nil => rfl
  | append_singleton x a ih =>
    rw [laneOf_snoc, ← ih, List.zipIdx_append, List.filter_append, List.map_append]
    by_cases h : x.length % 16 = j <;> simp [h]

/-- A total that is kept once it has begun. -/
def addTo (first : α → Nat) (next : Nat → α → Nat) (acc : Option Nat) (e : α) : Option Nat := match acc with
  | none => some (first e)
  | some t => some (next t e)

theorem foldl_addTo_some (first : α → Nat) (next : Nat → α → Nat) (l : List α) (t : Nat) :
    l.foldl (addTo first next) (some t) = some (l.foldl next t) := by
  induction l generalizing t with
  | nil => rfl
  | cons a r ih => exact ih _

theorem laneTotal_eq (first : α → Nat) (next : Nat → α → Nat) (l : List α) : l.foldl (addTo first next) none = laneTotal first next l := by
  cases l with
  | nil => rfl
  | cons a r => exact foldl_addTo_some ..

theorem laneSums_eq (first : α → Nat) (next : Nat → α → Nat) (x : List α) :
    laneSums first next x = (List.range 16).map fun j => laneTotal first next (laneOf x j) := by
  simp only [← laneTotal_eq, ← laneOf_eq]
  rfl

theorem foldLane_eq (ftz : Bool) (u v : Option Nat) : foldLane (fp32.add .rne ftz) u v = foldTwo ftz u v := by cases u <;> cases v <;> rfl

/-- R181: the tree over the lanes. -/
theorem foldLanes_eq (ftz : Bool) (lane : Nat → Option Nat) :
    (foldLanes (fp32.add .rne ftz) ((List.range 16).map lane) [8, 4, 2, 1]).getD 0 none = treeTotal ftz lane := by
  have hfold : foldLane (fp32.add .rne ftz) = foldTwo ftz := funext₂ (foldLane_eq ftz)
  simp only [foldLanes, hfold]
  rfl

theorem foldTwo_some (ftz : Bool) (t : Nat) (v : Option Nat) : ∃ u, foldTwo ftz (some t) v = some u := by cases v <;> exact ⟨_, rfl⟩

/-- R181: with an element in lane 0 there is a total. -/
theorem treeTotal_some (ftz : Bool) {lane : Nat → Option Nat} {t : Nat} (h : lane 0 = some t) : ∃ u, treeTotal ftz lane = some u := by
  obtain ⟨u8, h8⟩ := foldTwo_some ftz t (lane (0 + 8))
  obtain ⟨u4, h4⟩ := foldTwo_some ftz u8 (foldTwo ftz (lane (0 + 4)) (lane (0 + 4 + 8)))
  simp only [treeTotal, h, h8, h4]
  obtain ⟨u2, h2⟩ := foldTwo_some ftz u4 (foldTwo ftz (foldTwo ftz (lane (0 + 2)) (lane (0 + 2 + 8))) (foldTwo ftz (lane (0 + 2 + 4)) (lane (0 + 2 + 4 + 8))))
  rw [h2]
  exact foldTwo_some ..

/-- R181, R292: the total of a list with an element is the tree's. -/
theorem fpTotal_eq (ftz : Bool) (first : α → Nat) (next : Nat → α → Nat) {x : List α} (hx : x ≠ []) :
    treeTotal ftz (fun j => laneTotal first next (laneOf x j)) = some (fpTotal ftz first next x) := by
  obtain ⟨a, r, rfl⟩ := List.exists_cons_of_ne_nil hx
  have hlane : laneOf (a :: r) 0 = a :: (laneOf (a :: r) 0).tail := by
    rw [laneOf, List.length_cons, List.range_succ_eq_map, List.filterMap_cons]
    rfl
  obtain ⟨u, hu⟩ := treeTotal_some ftz (lane := fun j => laneTotal first next (laneOf (a :: r) j)) (by rw [hlane]; rfl)
  rw [fpTotal, laneSums_eq, foldLanes_eq, hu, Option.getD_some]

end

end Sys2Proof.Proofs
end

section
/-! SUPPORT. The extreme element of a list and the first place at which it stands (R170, R181, R292). -/

namespace Sys2Proof.Proofs

open Sys2Proof.Machine Sys2Proof.Safety

section
variable {κ : Type} [LinearOrder κ] {key : Nat → κ} {xs : List Nat}

/-- An element and its place lead the first n of a list: none of them has a greater key, and none before it an equal one. -/
structure Leads (key : Nat → κ) (xs : List Nat) (n : Nat) (b : Nat × Nat) : Prop where
  stands : xs[b.2]? = some b.1
  greatest : ∀ i p, i < n → xs[i]? = some p → key p ≤ key b.1
  first : ∀ i p, i < b.2 → xs[i]? = some p → key p < key b.1

theorem Leads.mem {n : Nat} {b : Nat × Nat} (h : Leads key xs n b) : b.1 ∈ xs := List.mem_of_getElem? h.stands

theorem Leads.greatest_of_mem {b : Nat × Nat} (h : Leads key xs xs.length b) {p : Nat} (hp : p ∈ xs) : key p ≤ key b.1 := by
  obtain ⟨i, hi⟩ := List.mem_iff_getElem?.mp hp
  exact h.greatest i p (List.getElem?_eq_some_iff.mp hi).1 hi

/-- The leader of one more element: it stays, unless the new one's key is greater. -/
theorem Leads.step {n x : Nat} {b c : Nat × Nat} (h : Leads key xs n b) (hx : xs[n]? = some x)
    (hc : c = if key b.1 < key x then (x, n) else b) : Leads key xs (n + 1) c := by
  have hlast {i p : Nat} (hi : i < n + 1) (hp : xs[i]? = some p) : i < n ∨ p = x := by
    rcases Nat.lt_succ_iff_lt_or_eq.mp hi with h | rfl
    · exact .inl h
    · exact .inr (Option.some.inj (hp.symm.trans hx))
  subst hc
  split
  · next hlt =>
    refine ⟨hx, fun i p hi hp => ?_, fun i p hi hp => (h.greatest i p hi hp).trans_lt hlt⟩
    rcases hlast hi hp with hi | rfl
    · exact (h.greatest i p hi hp).trans hlt.le
    · exact le_rfl
  · next hge =>
    refine ⟨h.stands, fun i p hi hp => ?_, h.first⟩
    rcases hlast hi hp with hi | rfl
    · exact h.greatest i p hi hp
    · exact not_lt.mp hge

/-- The leader after a list has been gone through from a place on. -/
theorem leads_foldl {pick : Nat × Nat → Nat × Nat → Nat × Nat}
    (hpick : ∀ b x, b.1 ∈ xs → x.1 ∈ xs → pick b x = if key b.1 < key x.1 then x else b) (l : List Nat) (n : Nat) (hl : xs.drop n = l) {b : Nat × Nat}
    (hb : Leads key xs n b) : Leads key xs (n + l.length) ((l.zipIdx n).foldl pick b) := by
  induction l generalizing n b with
  | nil => exact hb
  | cons x r ih =>
    have hx : xs[n]? = some x := by rw [← List.head?_drop, hl]; rfl
    have hstep := hb.step hx (hpick b (x, n) hb.mem (List.mem_of_getElem? hx))
    have hrest := ih (n + 1) (by rw [← List.tail_drop, hl, List.tail_cons]) hstep
    rwa [Nat.add_right_comm] at hrest

theorem leads_head (hx : xs ≠ []) : Leads key xs 0 (xs.headD 0, 0) := by
  obtain ⟨a, r, rfl⟩ := List.exists_cons_of_ne_nil hx
  exact ⟨rfl, fun i p hi => absurd hi (Nat.not_lt_zero i), fun i p hi => absurd hi (Nat.not_lt_zero i)⟩

end

/-- R181: of the leader so far and a further element, the one that stands. -/
def pickExtreme (ty : Ty) (mx : Bool) (b x : Nat × Nat) : Nat × Nat := if vMinMax ty false mx b.1 x.1 = b.1 then b else x

/-- A choice of two that keeps the first unless the second's key is greater. -/
theorem pickExtreme_eq {κ : Type} [LinearOrder κ] (key : Nat → κ) {ty : Ty} {mx : Bool} {b x : Nat × Nat}
    (h : vMinMax ty false mx b.1 x.1 = if key b.1 < key x.1 then x.1 else b.1) : pickExtreme ty mx b x = if key b.1 < key x.1 then x else b := by
  rw [pickExtreme, h]
  split
  · next hlt => exact if_neg fun he => lt_irrefl _ (he ▸ hlt)
  · exact if_pos rfl

/-- The extreme element of a list without a NaN leads it, by the key that its choices follow. -/
theorem leads_extreme {κ : Type} [LinearOrder κ] (key : Nat → κ) {ty : Ty} {mx : Bool} {xs : List Nat} (hx : xs ≠ [])
    (hkey : ∀ p ∈ xs, ∀ q ∈ xs, vMinMax ty false mx p q = if key p < key q then q else p) :
    Leads key xs xs.length (xs.zipIdx.foldl (pickExtreme ty mx) (xs.headD 0, 0)) := by
  have hleads := leads_foldl (fun b x hb hx => pickExtreme_eq key (hkey b.1 hb x.1 hx)) xs 0 rfl (leads_head hx)
  rwa [Nat.zero_add] at hleads

section
variable {ty : Ty} (ftz mx : Bool) {xs : List Nat}

theorem extreme_int (ht : ty.isI = true ∨ ty.isW = true) : extreme ty ftz mx xs = xs.zipIdx.foldl (pickExtreme ty mx) (xs.headD 0, 0) := by
  simp only [extreme, isF_eq_false ht, Bool.false_eq_true, if_false]
  rfl

/-- R181: the extreme element of integers: the greatest, the first of equal ones. -/
theorem leads_extreme_max (ht : ty.isI = true ∨ ty.isW = true) (hx : xs ≠ []) : Leads (elemInt ty) xs xs.length (extreme ty ftz true xs) := by
  rw [extreme_int ftz true ht]
  exact leads_extreme _ hx fun p _ q _ => vMinMax_max_int ht false p q

theorem leads_extreme_min (ht : ty.isI = true ∨ ty.isW = true) (hx : xs ≠ []) :
    Leads (fun v => OrderDual.toDual (elemInt ty v)) xs xs.length (extreme ty ftz false xs) := by
  rw [extreme_int ftz false ht]
  exact leads_extreme _ hx fun p _ q _ => vMinMax_min_int ht false p q

section
variable (ht : ty.isF = true)
include ht

/-- R169, R181: the first NaN of a list is its extreme element, quieted. -/
theorem extreme_nan {j e : Nat} (hj : (xs.map ((fmtOf ty).flush ftz))[j]? = some e) (he : (fmtOf ty).isNan e = true)
    (hfirst : ∀ i p, i < j → (xs.map ((fmtOf ty).flush ftz))[i]? = some p → (fmtOf ty).isNan p = false) :
    extreme ty ftz mx xs = ((fmtOf ty).quiet e, j) := by
  obtain ⟨hlen, hget⟩ := List.getElem?_eq_some_iff.mp hj
  have hfind : (xs.map ((fmtOf ty).flush ftz)).zipIdx.find? (fun x => (fmtOf ty).isNan x.1) = some (e, j) := by
    refine List.find?_eq_some_iff_getElem.mpr ⟨he, j, by simpa using hlen, by simp [← hget], fun i hi => ?_⟩
    have hno := hfirst i _ hi (List.getElem?_eq_getElem (hi.trans hlen))
    simp only [List.getElem_zipIdx, hno, Bool.not_false]
  simp only [extreme, ht, if_true, hfind]

theorem extreme_float (hno : ∀ p ∈ xs.map ((fmtOf ty).flush ftz), (fmtOf ty).isNan p = false) :
    extreme ty ftz mx xs = (xs.map ((fmtOf ty).flush ftz)).zipIdx.foldl (pickExtreme ty mx) ((xs.map ((fmtOf ty).flush ftz)).headD 0, 0) := by
  have hfind : (xs.map ((fmtOf ty).flush ftz)).zipIdx.find? (fun x => (fmtOf ty).isNan x.1) = none := by
    refine List.find?_eq_none.mpr fun x hx => ?_
    rw [hno x.1 (List.fst_mem_of_mem_zipIdx hx)]
    exact Bool.false_ne_true
  simp only [extreme, ht, if_true, hfind]
  rfl

/-- R170, R181: the extreme element of numbers: of the greatest rank, the first of equal ones. -/
theorem leads_extreme_max_float (hno : ∀ p ∈ xs.map ((fmtOf ty).flush ftz), (fmtOf ty).isNan p = false) (hx : xs ≠ []) :
    Leads (fun v => rankOf ((fmtOf ty).value v)) (xs.map ((fmtOf ty).flush ftz)) (xs.map ((fmtOf ty).flush ftz)).length (extreme ty ftz true xs) := by
  rw [extreme_float ftz true ht hno]
  refine leads_extreme _ (by simpa using hx) fun p hp q hq => ?_
  rw [vMinMax_float ht, minmax_max (by rw [flush_false]; exact hno p hp) (by rw [flush_false]; exact hno q hq), flush_false, flush_false]

theorem leads_extreme_min_float (hno : ∀ p ∈ xs.map ((fmtOf ty).flush ftz), (fmtOf ty).isNan p = false) (hx : xs ≠ []) :
    Leads (fun v => OrderDual.toDual (rankOf ((fmtOf ty).value v))) (xs.map ((fmtOf ty).flush ftz)) (xs.map ((fmtOf ty).flush ftz)).length
      (extreme ty ftz false xs) := by
  rw [extreme_float ftz false ht hno]
  refine leads_extreme _ (by simpa using hx) fun p hp q hq => ?_
  rw [vMinMax_float ht, minmax_min (by rw [flush_false]; exact hno p hp) (by rw [flush_false]; exact hno q hq), flush_false, flush_false]
  rfl

end

end

/-- R292: the delivered form of an integer element. -/
theorem extendElem_int {ty : Ty} (v : Nat) : extendElem ty v = if ty.isI then BitVec.ofInt 64 (elemInt ty v) else BitVec.ofNat 64 v := by
  rw [extendElem, intOf_eq]

theorem extendElem_float {ty : Ty} (ht : ty.isF = true) (v : Nat) : extendElem ty v = BitVec.ofNat 64 v := by
  rw [extendElem, isI_eq_false_of_isF ht, if_neg Bool.false_ne_true]

end Sys2Proof.Proofs
end

section
/-! SUPPORT. Elements reached through indices, and the merge of two streams (R294, R295). -/

namespace Sys2Proof.Proofs

open Sys2Proof.Machine Sys2Proof.Safety

/-- R294: the address that an index names in a shape of one dimension. -/
def indexAddr (r : Row) (i : Nat) : Nat := (((shBase r : Int) + i * shStr r 0) % 2 ^ 64).toNat

section
variable {s s' : State} {h : Head} {v : VSpec} {p : SlotVal} {x y z : List Nat} {locs : List ELoc} {touched : Bool} {q : VOpd} {j i : Nat}

/-- R294: the check of the element that an index within the extent names, and of one that names none. -/
theorem indexCheck_spec {r : Row} {u : Use} {idx : List Nat} (hpass : AllPass (s.indexChecks [] r u idx)) (hj : idx[j]? = some i) :
    ∃ l, (placesOf (s.indexChecks [] r u idx))[j]? = some l ∧ (shExt r 0 ≤ i → l = .nowhere)
      ∧ (i < shExt r 0 → s.elemCheck r (indexAddr r i) u = .ok l) := by
  obtain ⟨l, hl, hplace⟩ := hpass.getElem? (getElem?_indexChecks u hj)
  refine ⟨l, hplace, fun hi => ?_, fun hi => ?_⟩
  · rw [if_pos hi] at hl
    exact (ECheck.ok.inj hl).symm
  · rwa [if_neg (Nat.not_le.mpr hi)] at hl

/-- R294: VGATH's elements are those that its indices name, and 0 where they name none. -/
theorem gatherRead_spec (hk : v.kind = .gather) (ha : v.a = some q) (hr : s.vecRead h v p = .ok x y z locs s' touched) (hw : s.vwork = {})
    (hj : y[j]? = some i) :
    (shExt ((s.task s.cur.task).shape q.reg) 0 ≤ i → x[j]? = some 0)
    ∧ (i < shExt ((s.task s.cur.task).shape q.reg) 0 →
      ∃ l, s.elemCheck ((s.task s.cur.task).shape q.reg) (indexAddr ((s.task s.cur.task).shape q.reg) i) .read = .ok l
        ∧ ∀ k, l = .mem k none → x[j]? = some (natOfBytes ((keysOf k (shEsz ((s.task s.cur.task).shape q.reg))).map
            (s.readByte s.cur.task s.cur.which s.cur.idx)))) := by
  obtain ⟨idx, -, hpass, -, got, hx, hy, -⟩ := elements_of_read hr
  rw [if_neg (by rw [hk]; decide)] at hy
  have hpA := hpass _ ((mem_checkOrder _).mpr (.inl rfl))
  simp only [checksA, if_pos hk, hw, ha, opdRow_some, ← hy] at hpA hx
  obtain ⟨l, hplace, hnone, hsome⟩ := indexCheck_spec hpA hj
  rw [hx, List.getElem?_map, hplace, Option.map_some]
  refine ⟨fun hi => ?_, fun hi => ⟨l, hsome hi, ?_⟩⟩
  · rw [hnone hi]
    rfl
  · rintro k rfl
    rw [elemValue_local (local_of_elemCheck (hsome hi))]

/-- R294: VSCAT writes at the places that its indices name, and nowhere for an index that names none. -/
theorem scatterRead_spec (hk : v.kind = .scatter) (hd : v.d = some q) (hr : s.vecRead h v p = .ok x y z locs s' touched) (hw : s.vwork = {})
    (hj : y[j]? = some i) :
    (shExt ((s.task s.cur.task).shape q.reg) 0 ≤ i → locs[j]? = some .nowhere)
    ∧ (i < shExt ((s.task s.cur.task).shape q.reg) 0 →
      ∃ l, locs[j]? = some l ∧ s.elemCheck ((s.task s.cur.task).shape q.reg) (indexAddr ((s.task s.cur.task).shape q.reg) i) .write = .ok l) := by
  obtain ⟨idx, -, hpass, hlocs, got, -, hy, -⟩ := elements_of_read hr
  rw [if_neg (by rw [hk]; decide)] at hy
  have hpD := hpass _ ((mem_checkOrder _).mpr (.inr (.inr (.inr rfl))))
  simp only [checksD, if_pos hk, hw, hd, opdRow_some, ← hy] at hpD hlocs
  obtain ⟨l, hplace, hnone, hsome⟩ := indexCheck_spec hpD hj
  rw [← hlocs] at hplace
  exact ⟨fun hi => by rw [hplace, hnone hi], fun hi => ⟨l, hplace, hsome hi⟩⟩

end

/-! The merge of VJOIN. -/

/-- A merge's result when it may write a number of outputs: those of its outputs, and whether one found no place. -/
def within (l : List Nat) (room : Nat) : List Nat × Bool := (l.take room, decide (room < l.length))

/-- R295: an output takes a place, or stops the merge when none is left. -/
theorem within_cons (e : Nat) (l : List Nat) (room : Nat) :
    within (e :: l) room = if room = 0 then ([], true) else (e :: (within l (room - 1)).1, (within l (room - 1)).2) := by
  cases room <;> simp [within]

theorem within_nil (room : Nat) : within [] room = ([], false) := by simp [within]

/-- R295: the merge in steps gives the outputs of the two streams, as many as the destination takes. -/
theorem joinLoop_joins (outer : Bool) (k : Nat) (x y : List Nat) (hk : x.length + y.length < k) :
    ∃ l, Joins outer x y l ∧ ∀ room, joinLoop outer k room x y = within l room := by
  induction k generalizing x y with
  | zero => omega
  | succ k ih =>
    rcases x with _ | ⟨a, xs⟩ <;> rcases y with _ | ⟨b, ys⟩ <;> simp only [List.length_cons, List.length_nil] at hk
    · exact ⟨[], .done, fun room => by rw [joinLoop, within_nil]⟩
    · cases outer with
      | false => exact ⟨[], .innerEndA b ys rfl, fun room => by simp [joinLoop, within_nil]⟩
      | true =>
        obtain ⟨l, hl, hloop⟩ := ih [] ys (by simp only [List.length_nil]; omega)
        exact ⟨_, .restB b ys l rfl hl, fun room => by simp only [joinLoop, hloop, within_cons]; rfl⟩
    · cases outer with
      | false => exact ⟨[], .innerEndB a xs rfl, fun room => by simp [joinLoop, within_nil]⟩
      | true =>
        obtain ⟨l, hl, hloop⟩ := ih xs [] (by simp only [List.length_nil]; omega)
        exact ⟨_, .restA a xs l rfl hl, fun room => by simp only [joinLoop, hloop, within_cons]; rfl⟩
    · rcases Nat.lt_trichotomy (a % 2 ^ 32) (b % 2 ^ 32) with hlt | heq | hgt
      · obtain ⟨l, hl, hloop⟩ := ih xs (b :: ys) (by simp only [List.length_cons]; omega)
        refine ⟨_, .less a b xs ys l hlt hl, fun room => ?_⟩
        rw [joinLoop, if_neg hlt.ne, if_pos hlt]
        cases outer with
        | false => exact hloop room
        | true =>
          simp only [hloop, within_cons, if_true]
          rfl
      · obtain ⟨l, hl, hloop⟩ := ih xs ys (by omega)
        refine ⟨_, .equal a b xs ys l heq hl, fun room => ?_⟩
        rw [joinLoop, if_pos heq, within_cons, hloop]
        rfl
      · obtain ⟨l, hl, hloop⟩ := ih (a :: xs) ys (by simp only [List.length_cons]; omega)
        refine ⟨_, .more a b xs ys l hgt hl, fun room => ?_⟩
        rw [joinLoop, if_neg hgt.ne', if_neg hgt.le.not_gt]
        cases outer with
        | false => exact hloop room
        | true =>
          simp only [hloop, within_cons, if_true]
          rfl

end Sys2Proof.Proofs
end

section
/-! SUPPORT. What the reductions deliver, and what permutations, gathers, scatters and joins write (R292 to R295). -/

namespace Sys2Proof.Proofs

open Sys2Proof.Machine Sys2Proof.Safety

/-! Sums. -/

section
variable (h : Head) (a b : BitVec 3) {ty : Ty} (opt : Bool) (s : State)

theorem execVsum_int (ht : ty.isI = true ∨ ty.isW = true) :
    execVsum h a ty opt s = s.vecReduce h a none ty fun x _ => intDelivered ty opt (x.map (elemInt ty)).sum := by
  simp only [execVsum, isF_eq_false ht, Bool.false_eq_true, if_false, List.sum_eq_foldl, funext (intOf_eq ty)]

theorem execVsum_float (ht : ty.isF = true) : execVsum h a ty opt s = s.vecReduce h a none ty fun x _ =>
    fpDelivered ty s.ftzHere opt (fpTotal s.ftzHere ((fmtOf ty).conv fp32 .rne s.ftzHere)
      (fun t v => fp32.add .rne s.ftzHere t ((fmtOf ty).conv fp32 .rne s.ftzHere v)) x) := by
  simp only [execVsum, ht, if_true]

theorem execVdot_int (ht : ty.isI = true ∨ ty.isW = true) : execVdot h a b ty opt s = s.vecReduce h a (some b) ty fun x y =>
    intDelivered ty opt (List.zipWith (fun p q => elemInt ty p * elemInt ty q) x y).sum := by
  simp only [execVdot, isF_eq_false ht, Bool.false_eq_true, if_false, List.sum_eq_foldl, funext (intOf_eq ty)]

theorem execVdot_float (ht : ty.isF = true) : execVdot h a b ty opt s = s.vecReduce h a (some b) ty fun x y =>
    fpDelivered ty s.ftzHere opt (fpTotal s.ftzHere
      (fun c => fp32.mul .rne s.ftzHere ((fmtOf ty).conv fp32 .rne s.ftzHere c.1) ((fmtOf ty).conv fp32 .rne s.ftzHere c.2))
      (fun t c => dotStep s.ftzHere t ((fmtOf ty).conv fp32 .rne s.ftzHere c.1) ((fmtOf ty).conv fp32 .rne s.ftzHere c.2)) (x.zip y)) := by
  simp only [execVdot, ht, if_true]

end

/-! The order of numbers as VRMAX and VRMIN compare them. -/

section
variable {f : Fmt} {p q : Nat} (hp : f.isNan p = false) (hq : f.isNan q = false)
include hp hq

theorem below_of_rank_lt (h : rankOf (f.value p) < rankOf (f.value q)) : (f.value p).lt true (f.value q) = true :=
  (lt_true_iff (proper_value hp) (proper_value hq)).mpr h

theorem not_below_of_rank_le (h : rankOf (f.value q) ≤ rankOf (f.value p)) : (f.value p).lt true (f.value q) = false :=
  Bool.eq_false_of_not_eq_true fun hb => not_lt.mpr h ((lt_true_iff (proper_value hp) (proper_value hq)).mp hb)

end

/-! Moves. -/

section
variable {s s' : State} {h : Head} {d a b : BitVec 3} {ty : Ty} {o : Opnds} {x y z : List Nat} {locs : List ELoc} {touched : Bool}
  (ho : s.operandsVec h false false = some o)
include ho

/-- R293: VPERM takes the elements of a that the indices name, and 0 for one that names none. -/
theorem execVperm_of_read (hr : s.vecRead h
      { a := opd a ty, b := opdAny b, d := opd d ty, counts := fun _ nb _ nd => if nb ≠ nd then some 1 else none
        limit := fun ra _ => if 64 < shCount ra * shEsz ra then some 0 else none } o.p = .ok x y z locs s' touched) :
    execVperm h d a b ty s = .next (s'.writeVec h (opd d ty) locs ((y.map fun i => if i < x.length then x.getD i 0 else 0).map some)
      (BitVec.ofNat 64 (shCount ((s.task s.cur.task).shape d.toNat))) touched o.p) := by
  have hget (i : Nat) : x.getD i 0 = if i < x.length then x.getD i 0 else 0 := by
    split
    · rfl
    · next hi => exact List.getD_eq_default _ _ (Nat.not_lt.mp hi)
  simp only [execVperm, ho, vector_of_read (q := ⟨d.toNat, [ty.bytes]⟩) rfl hr, giving, ← hget]
  rfl

/-- R294: VGATH writes the elements it has gathered. -/
theorem execVgath_of_read (hr : s.vecRead h
      { kind := .gather, a := opd a ty, b := opdAny b, d := opd d ty, counts := fun _ nb _ nd => if nb ≠ nd then some 1 else none
        limit := fun ra _ => if shDims ra ≠ 1 then some 0 else none } o.p = .ok x y z locs s' touched) :
    execVgath h d a b ty s = .next (s'.writeVec h (opd d ty) locs (x.map some)
      (BitVec.ofNat 64 (shCount ((s.task s.cur.task).shape d.toNat))) touched o.p) := by
  simp only [execVgath, ho, vector_of_read (q := ⟨d.toNat, [ty.bytes]⟩) rfl hr, giving]
  rfl

/-- R294: VSCAT writes a's elements and delivers their count. -/
theorem execVscat_of_read (hr : s.vecRead h
      { kind := .scatter, a := opd a ty, b := opdAny b, d := opd d ty, counts := fun na nb _ _ => if na ≠ nb then some 1 else none
        limit := fun _ rd => if shDims rd ≠ 1 then some 3 else none } o.p = .ok x y z locs s' touched) :
    execVscat h d a b ty s = .next (s'.writeVec h (opd d ty) locs (x.map some) (BitVec.ofNat 64 x.length) touched o.p) := by
  simp only [execVscat, ho, vector_of_read (q := ⟨d.toNat, [ty.bytes]⟩) rfl hr]
  rfl

/-- R295: VJOIN writes the merge's outputs as far as the destination goes, and delivers their number, with bit 63 where one found no place. -/
theorem execVjoin_of_read (hr : s.vecRead h { a := some ⟨a.toNat, [8]⟩, b := some ⟨b.toNat, [8]⟩, d := some ⟨d.toNat, [16]⟩ } o.p
      = .ok x y z locs s' touched) (outer : Bool) :
    ∃ l, Joins outer x y l ∧ execVjoin h d a b outer s = .next (s'.writeVec h (some ⟨d.toNat, [16]⟩) locs
      ((l.take (shCount ((s.task s.cur.task).shape d.toNat))).map some)
      (BitVec.ofNat 64 (Min.min l.length (shCount ((s.task s.cur.task).shape d.toNat))
        + if shCount ((s.task s.cur.task).shape d.toNat) < l.length then 2 ^ 63 else 0)) touched o.p) := by
  obtain ⟨l, hl, hloop⟩ := joinLoop_joins outer (x.length + y.length + 1) x y (Nat.lt_succ_self _)
  refine ⟨l, hl, ?_⟩
  simp only [execVjoin, ho, vector_of_read (q := ⟨d.toNat, [16]⟩) rfl hr, hloop, within, List.length_take, decide_eq_true_eq, Nat.min_comm]

end

/-- Settles O34: a reduction delivers its sum or the leader of its elements; moves write what their indices name, and joins what the merge gives. -/
theorem vectorReductionsAndMoves : Obligations.VectorReductionsAndMoves := by
  unfold Obligations.VectorReductionsAndMoves
  constructor
  · intro h a b ty s o f x y z locs s' touched ho hh
    rw [← ftzHere_eq hh]
    intro g ftz up w val lo hi ref gives word sum fl below
    refine ⟨fun hr hx => ⟨fun ht => ?_, fun ht => ⟨⟨_, fpTotal_eq ftz _ _ hx, ?_, ?_⟩, fun j e hj he hfirst => ?_, fun hno => ?_⟩⟩,
      fun hr hx hy => ⟨fun ht => ?_, fun ht => ?_⟩⟩
    · have hmax := leads_extreme_max ftz ht hx
      have hmin := leads_extreme_min ftz ht hx
      refine ⟨?_, ?_, ⟨_, hmax.mem, fun p hp => hmax.greatest_of_mem hp, ?_⟩, ⟨_, hmin.mem, fun p hp => hmin.greatest_of_mem hp, ?_⟩,
        ⟨_, _, hmax.stands, fun p hp => hmax.greatest_of_mem hp, hmax.first, ?_⟩⟩
      · exact (execVsum_int h a false s ht).trans (vecReduce_one_of_read ho hr (intDelivered_wraps ..))
      · exact (execVsum_int h a true s ht).trans (vecReduce_one_of_read ho hr (intDelivered_limits ht _))
      · exact vecReduce_one_of_read ho hr (extendElem_int _)
      · exact vecReduce_one_of_read ho hr (extendElem_int _)
      · exact vecReduce_one_of_read ho hr rfl
    · exact (execVsum_float h a false s ht).trans (vecReduce_one_of_read ho hr rfl)
    · exact (execVsum_float h a true s ht).trans (vecReduce_one_of_read ho hr rfl)
    · have hext (mx : Bool) : extreme ty s.ftzHere mx x = (g.quiet e, j) := extreme_nan ftz mx ht hj he hfirst
      refine ⟨vecReduce_one_of_read ho hr ?_, vecReduce_one_of_read ho hr ?_, vecReduce_one_of_read ho hr ?_⟩
      · rw [hext, extendElem_float ht]
      · rw [hext, extendElem_float ht]
      · rw [hext]
    · have hmax := leads_extreme_max_float ftz ht hno hx
      have hmin := leads_extreme_min_float ftz ht hno hx
      refine ⟨⟨_, _, hmax.stands, fun p hp => ?_, fun i p hi hp => ?_, ?_, ?_⟩, _, hmin.mem, fun p hp => ?_, ?_⟩
      · exact not_below_of_rank_le (hno _ hmax.mem) (hno _ hp) (hmax.greatest_of_mem hp)
      · exact below_of_rank_lt (hno _ (List.mem_of_getElem? hp)) (hno _ hmax.mem) (hmax.first i p hi hp)
      · exact vecReduce_one_of_read ho hr (extendElem_float ht _)
      · exact vecReduce_one_of_read ho hr rfl
      · exact not_below_of_rank_le (hno _ hp) (hno _ hmin.mem) (hmin.greatest_of_mem hp)
      · exact vecReduce_one_of_read ho hr (extendElem_float ht _)
    · exact ⟨(execVdot_int h a b false s ht).trans (vecReduce_two_of_read ho hr (intDelivered_wraps ..)),
        (execVdot_int h a b true s ht).trans (vecReduce_two_of_read ho hr (intDelivered_limits ht _))⟩
    · intro fma
      have hpairs : x.zip y ≠ [] := by
        rw [← List.length_pos_iff, List.length_zip, hy, Nat.min_self]
        exact List.length_pos_iff.mpr hx
      have hfma : fma = dotStep s.ftzHere := rfl
      rw [hfma]
      exact ⟨_, fpTotal_eq ftz _ _ hpairs, (execVdot_float h a b false s ht).trans (vecReduce_two_of_read ho hr rfl),
        (execVdot_float h a b true s ht).trans (vecReduce_two_of_read ho hr rfl)⟩
  · intro h d a b ty s o x y z locs s' touched ho ra rd n named
    refine ⟨fun hr => execVperm_of_read ho hr, fun hr => ⟨execVgath_of_read ho hr, fun hw j i hj => ?_⟩,
      fun hr => ⟨execVscat_of_read ho hr, fun hw j i hj => ?_⟩, fun hr outer => execVjoin_of_read ho hr outer⟩
    · have hspec := gatherRead_spec (q := ⟨a.toNat, [ty.bytes]⟩) rfl rfl hr hw hj
      exact hspec
    · have hspec := scatterRead_spec (q := ⟨d.toNat, [ty.bytes]⟩) rfl rfl hr hw hj
      exact hspec

end Sys2Proof.Proofs
end

section
/-! SUPPORT. Why the record checks of O29 fail as stated (R278, R283). A vector instruction that faults has no more use for the reads of global memory that
an earlier try has sent: they are dropped, so that its task may park. The statement gives the fault to the state as it was, where such a read still keeps
the block from parking (R35). At a first try there is no such read, and the two agree. -/

namespace Sys2Proof.Proofs.SentRead

open Sys2Proof.Machine

/-- R278: a vector instruction whose records fail their checks drops what it has sent and faults. -/
theorem vector_of_bad_records {s : State} {h : Head} {v : VSpec} {p : SlotVal} {r : Record} (hc : (s.task s.cur.task).checkRecords v = some r) (f : VFun) :
    s.vector h v f p = s.dropVloads.fireFault r := by
  simp only [State.vector, State.vecRead, hc]

/-- R272, R278: a VADD whose first operand's record is of zeros. -/
theorem exec_vadd_of_zero_record {s : State} {h : Head} {d a b : BitVec 3} {ty : Ty} {rm : Rm} {sat : Bool} {o : Opnds}
    (ho : s.operandsVec h false false = some o) (hz : (s.task s.cur.task).shape a.toNat = 0) :
    exec (.vadd h d a b ty rm sat) s = .next (s.dropVloads.fireFault { code := .illegalOp, cause := 2, detail := a.toNat }) := by
  have hopd : (s.task s.cur.task).checkOpd (opd a ty) = some { code := .illegalOp, cause := 2, detail := a.toNat } := by
    simp only [Task.checkOpd, opd, hz, if_true, shapeFault]
  show execVadd h d a b ty rm sat s = _
  simp only [execVadd, State.vec2, ho]
  rw [vector_of_bad_records]
  simp only [Task.checkRecords, List.findSome?_cons, hopd]

/-- The task at the start of tile 0. -/
def task : TaskRef := ⟨0, 0, 0⟩

/-- A block of one word, which has not fired. -/
def trying : Firing := { serial := 0, addr := 0, hdr := decodeHeader 0, words := [0] }

/-- The read of global memory that an earlier try of the word has sent, still on its way. -/
def sent : Req := { id := 1, op := .vload [0], task := some task }

/-- The block is at the cursor, its read is pending, and the task's shape registers hold records of zeros. -/
def tried : State := { State.reset with tasks := [(task, { phase := .active, flights := [trying] })], reqs := [sent], nextId := 2 }

/-- The instruction's operands: it takes none from slots. -/
def head : Head := ⟨none, none, none, none, 0, 0⟩

/-- The fault of a record of zeros in shape register 0. -/
def zeroRecord : Record := { code := .illegalOp, cause := 2, detail := 0 }

theorem tried_operands : tried.operandsVec head false false = some {} := by decide

/-- The instruction's read is dropped, and the task parks. -/
theorem parks_dropped : ((tried.dropVloads.fireFault zeroRecord).task task).phase = .parked := by decide

/-- With its read still pending the task would not park. -/
theorem stays_pending : ((tried.fireFault zeroRecord).task task).phase = .active := by decide

/-- Refutes O29: where an earlier try of a VADD has sent a read, the fault of a record of zeros drops it and parks the task, and is not the fault of the
state as it stands. -/
theorem not_shapes : ¬ Obligations.Shapes := by
  unfold Obligations.Shapes
  intro h
  have hstops := (h.2 head 0 0 0 .f32 .rne false tried {} tried_operands).1 rfl
  have hdrops := exec_vadd_of_zero_record (d := 0) (a := 0) (b := 0) (ty := .f32) (rm := .rne) (sat := false) tried_operands rfl
  have hsame : tried.dropVloads.fireFault zeroRecord = tried.fireFault zeroRecord := Host.Outcome.next.inj (hdrops.symm.trans hstops)
  have hphase := parks_dropped
  rw [hsame, stays_pending] at hphase
  exact absurd hphase (by decide)

end Sys2Proof.Proofs.SentRead
end
